-- ==== Sys2Proof/Word.lean ====
section
/-! DEFINITION. The word types of the CH64 model and the names of its units: the plainest vocabulary, with no behaviour. -/

namespace Sys2Proof

/-- One byte of a store (R3: the device is little-endian and byte addressed). -/
abbrev Byte := BitVec 8

/-- A 32-bit element of a V register or of an accumulator tile (R34). -/
abbrev W32 := BitVec 32

/-- A 64-bit register or instruction word (R1, R54). -/
abbrev W64 := BitVec 64

/-- The two safety islands (R14). -/
inductive Isl where
  | A | B
deriving DecidableEq, Repr

/-- A resident context slot, named by the site that holds it (R11), the stable and the slot (R30). -/
structure CtxRef where
  site   : Fin 72
  stable : Fin 4
  slot   : Fin 2
deriving DecidableEq, Repr

/-- A stable, named by its site (R9, R11). -/
structure StbRef where
  site   : Fin 72
  stable : Fin 4
deriving DecidableEq, Repr

/-- What executes an instruction: a resident context, or an island's Eflia-S processor (R67). -/
inductive Exr where
  | ctx (r : CtxRef)
  | isl (i : Isl)
deriving DecidableEq, Repr

/-- What the lock-step scalar units find for a scalar instruction outside a block in CHECKED mode (R48, R266): agreement,
    a disagreement that stalls 2 and 3 settle against one stall of the first pair, or one they do not settle. A hardware
    fact that comes with the command. -/
inductive Lock where
  | agree
  | settled (stall : Fin 2)
  | unsettled
deriving DecidableEq, Repr

/-- How many SUB values the opcode map gives an OPC, from 0 upwards; none where the OPC is unallocated (R55, Opcode map). -/
def subsOf (opc : Nat) : Nat := match opc with
  | 0x01 | 0x04 | 0x0E | 0x22 | 0x23 | 0x44 | 0x47 | 0x51 | 0x6C | 0x74 | 0x75 => 1
  | 0x0A | 0x0B | 0x10 | 0x25 | 0x27 | 0x28 | 0x45 | 0x62 | 0x6A | 0x6B | 0x70 | 0x71 | 0x73 => 2
  | 0x13 | 0x26 | 0x40 | 0x43 | 0x46 | 0x50 | 0x61 | 0x63 => 3
  | 0x06 | 0x09 | 0x11 | 0x12 | 0x20 | 0x21 | 0x24 | 0x48 | 0x52 | 0x60 | 0x69 | 0x72 => 4
  | 0x0C | 0x68 => 5
  | 0x07 | 0x08 => 6
  | 0x05 => 7
  | 0x41 | 0x42 => 8
  | 0x02 | 0x03 => 19
  | _ => 0

/-- OPC and SUB of a base word (OPC * 256 + SUB) that the opcode map does not allocate (R55). -/
abbrev BadOp := { w : BitVec 16 // subsOf (w.toNat / 256) ≤ w.toNat % 256 }

/-- The operand part of an instruction's words: everything but OPC and SUB, which name the row. `rsv` is bit 48, `body` is
    bits [39:0], `x0` and `x1` are the extension words (R54, R55). Where the base word as fetched has an OPC or a SUB that no
    row has, `alt` is those 16 bits, and the word is no instruction of the row that carries it. -/
structure Enc where
  next : BitVec 2  := 0
  pred : BitVec 4  := 0
  pneg : Bool      := false
  rsv  : Bool      := false
  body : BitVec 40 := 0
  x0   : W64       := 0
  x1   : W64       := 0
  lock : Lock      := .agree
  alt  : Option BadOp := none
deriving DecidableEq, Repr

/-- What became of two sums of REDUCE.ADD that differ at a CHECKED destination (R149): the arbiter's sum settles them and names the
    faulty stall, or the shared units (4), or it agrees with neither. -/
inductive SumCmp where
  | settled (unit : Fin 5)
  | unsettled
deriving DecidableEq, Repr

/-- The end of a collective at a stable, with what became of REDUCE.ADD sums that differed at CHECKED destinations (R149). -/
structure CollEnd where
  at'  : StbRef
  cmps : List (StbRef × SumCmp) := []
deriving DecidableEq, Repr

/-- The words of an SUQ instruction, with the upset in the word of the queue that it meets (R222). -/
structure SuqEnc where
  enc   : Enc
  upset : BitVec 288 := 0
deriving DecidableEq, Repr

/-- What a site's preparation found: the barred units by stable, and the bad lanes of its links' ports by die, port and lane
    (R282, R346). -/
structure SiteTests where
  bars : List (Fin 4 × Fin 129)
  bad  : List (Nat × Nat × Nat) := []
deriving DecidableEq, Repr

/-- The owners of a regulated requester: a hall's site (masters 0-5) or an I/O die (masters 0-3) (R286). -/
inductive RqOwner where
  | hall (site : Fin 72)
  | iod (i : Fin 2)
deriving DecidableEq, Repr

/-- The dies that a power manager runs and that take budget messages (R387-R389). -/
inductive PwrDie where
  | hall (site : Fin 72)
  | mb (m : Fin 6)
  | iod (i : Fin 2)
deriving DecidableEq, Repr

/-- The senders of a register access that has no row of its own: the DCU's firmware, a PCIe function (R420, R421),
    or an island's own processor, which reaches only its own address space. -/
inductive Master where
  | dcu
  | fn (f : Fin 16)
  | isl (i : Isl)
deriving DecidableEq, Repr

/-- What comparing the two evaluations of a Loop Engine's law finds besides what their own arithmetic differs in (R319): no
    fault of the hardware, one that the third evaluation settles, or one that it does not settle. -/
inductive LeEval where
  | clean
  | settled
  | unsettled
deriving DecidableEq, Repr

/-- What the comparison of a self-test pattern's signature found (R335): it passed, it passed on its second run, or it failed
    both runs. -/
inductive StRes where
  | passed
  | passedAgain
  | failed
deriving DecidableEq, Repr

/-- A pattern of a self-test slot and its outcome: package ID (0 for built-in patterns) and pattern ID. -/
structure StRun where
  pkg : BitVec 32
  pat : BitVec 32
  res : StRes
deriving DecidableEq, Repr

/-- A CAN controller: four on each I/O die, two on each island (R434, R323). -/
inductive CanRef where
  | iod (i : Fin 2) (n : Fin 4)
  | isl (i : Isl) (n : Fin 2)
deriving DecidableEq, Repr

/-- A CAN frame as a controller receives it (R431, R434). `err` tells of a stuff or CRC error. -/
structure CanFrame where
  id   : BitVec 29
  ide  : Bool := false
  fdf  : Bool := false
  xlf  : Bool := false
  brs  : Bool := false
  esi  : Bool := false
  rtr  : Bool := false
  sdt  : Byte := 0
  vcid : Byte := 0
  sec  : Byte := 0
  af   : BitVec 32 := 0
  data : List Byte := []
  err  : Bool := false
deriving DecidableEq, Repr

/-- What a CSI-2 input receives on a virtual channel (R433): a frame's start with its number, its end, or a line of a data type
    with whether its CRC is good. -/
inductive CsiPkt where
  | frameStart (n : BitVec 16)
  | frameEnd
  | line (dt : Byte) (data : List Byte) (good : Bool)
deriving DecidableEq, Repr

/-- An Ethernet MAC: six on each I/O die, one on each island (R323, R433). -/
inductive EthRef where
  | iod (i : Fin 2) (n : Fin 6)
  | isl (i : Isl)
deriving DecidableEq, Repr

/-- A SENT message (R437): the two fast values, an enhanced serial message that it completes (ID and value), whether its CRC and
    timing are good, and its bytes as a record carries them. -/
structure SentMsg where
  fast1  : BitVec 12
  fast2  : BitVec 12
  serial : Option (Byte × BitVec 12) := none
  good   : Bool := true
  raw    : List Byte := []
deriving DecidableEq, Repr

/-- The units that hold staged values of the DCU's controller (R359). -/
inductive CfgUnit where
  | dcu
  | hall (site : Fin 72)
  | mb (m : Fin 6)
  | iod (i : Fin 2)
deriving DecidableEq, Repr

/-- A staging controller: the DCU's, or an island's (R354). -/
inductive Ctl where
  | dcu
  | isl (i : Isl)
deriving DecidableEq, Repr

/-- Where REQUEST_ISSUE takes its request: a new one of a master, on behalf of `by'` (the partition of a save, an ingest channel or a
    PCIe function, as the master has it), or the oldest one to a stack that the master holds back, after `waited` cycles (R291). -/
inductive ReqIssue where
  | fresh (m : Fin 6) (by' : Nat) (addr : BitVec 48) (wr : Bool) (bytes : Nat)
  | held (m stack : Fin 6) (waited : Nat)
deriving DecidableEq, Repr

/-- What waits in WAITT: a context by partition and index, resident or saved (R142, R276), or an island's processor (R152). -/
inductive Waiter where
  | ctx (p : Fin 32) (i : Nat)
  | isl (i : Isl)
deriving DecidableEq, Repr

/-- A die whose temperature sensors are read (R393, R395). -/
inductive HeatDie where
  | die (d : PwrDie)
  | isl (i : Isl)
deriving DecidableEq, Repr

/-- A part of a die's activity report (R283): what one master of the die has done, on behalf of `by'` (as in REQUEST_ISSUE) or as device
    work (R284): stable cycles and energy in µJ. `waits` are the cycles in which requests waited at the hall's banks, as (bank, class,
    cycles) (R154, R155). -/
structure Activity where
  m   : Fin 6
  by' : Nat
  dev : Bool
  stb : Nat
  uj  : Nat
  waits : List (Fin 21 × Fin 8 × Nat) := []
deriving DecidableEq, Repr

end Sys2Proof
end

