-- ==== Sys2Proof/Syntax.lean ====
section
/-! DEFINITION. The commands: one constructor per row of `spec/opcode_table.json`, with the row's operands. Operands named `t` are the DEVTIME, in ns, at which a time-driven command happens; what a unit measures or finds comes as an operand (log 51). -/

namespace Sys2Proof

/-- The commands of the block. An instruction row is a command with its executor and the words of the instruction but for OPC, and for SUB where the row has one value. -/
inductive Instr where
  | registerWrite (m : Master) (a : BitVec 48) (wide : Bool) (v : W64)
  | badRegisterAccess (m : Master) (a : BitVec 48) (n : Nat)
  | landingStart
  | kvReclaimSplice (r : StbRef)
  | contextLandingMove (r : CtxRef)
  | commitDeadline (n : Nat)
  | nop (x : Exr) (e : Enc)
  | alu (x : Exr) (sub : BitVec 8) (e : Enc)
  | alui (x : Exr) (sub : BitVec 8) (e : Enc)
  | li (x : Exr) (e : Enc)
  | ld (x : Exr) (sub : BitVec 8) (e : Enc)
  | st (x : Exr) (sub : BitVec 8) (e : Enc)
  | cmp (x : Exr) (sub : BitVec 8) (e : Enc)
  | cmpi (x : Exr) (sub : BitVec 8) (e : Enc)
  | plog (x : Exr) (sub : BitVec 8) (e : Enc)
  | br (x : Exr) (e : Enc)
  | call (x : Exr) (e : Enc)
  | jr (x : Exr) (e : Enc)
  | jrl (x : Exr) (e : Enc)
  | mfsCsw (x : Exr) (e : Enc)
  | mfsLfc (x : Exr) (e : Enc)
  | mfsDevtime (x : Exr) (e : Enc)
  | mfsIaddr (x : Exr) (e : Enc)
  | mfsPlace (x : Exr) (e : Enc)
  | endContext (x : Exr) (e : Enc)
  | movCopy (x : Exr) (e : Enc)
  | movFill (x : Exr) (e : Enc)
  | reshard (x : Exr) (e : Enc)
  | broadcast (x : Exr) (e : Enc)
  | allgather (x : Exr) (e : Enc)
  | reduceAdd (x : Exr) (e : Enc)
  | collectiveComplete (inst : Nat) (r : CollEnd)
  | atomSet64 (x : Exr) (e : Enc)
  | atomClr64 (x : Exr) (e : Enc)
  | atomSet32 (x : Exr) (e : Enc)
  | atomClr32 (x : Exr) (e : Enc)
  | tdld (x : Exr) (e : Enc)
  | tdst (x : Exr) (e : Enc)
  | tdbase (x : Exr) (e : Enc)
  | mm (x : Exr) (e : Enc)
  | mma (x : Exr) (e : Enc)
  | mmSp (x : Exr) (e : Enc)
  | mmaSp (x : Exr) (e : Enc)
  | conv2d (x : Exr) (e : Enc)
  | conv2dAcc (x : Exr) (e : Enc)
  | dwconv (x : Exr) (e : Enc)
  | conv2dSp (x : Exr) (e : Enc)
  | accst (x : Exr) (e : Enc)
  | accld (x : Exr) (e : Enc)
  | reduceSum (x : Exr) (e : Enc)
  | reduceMax (x : Exr) (e : Enc)
  | reduceMin (x : Exr) (e : Enc)
  | reduceArgmax (x : Exr) (e : Enc)
  | softmax (x : Exr) (e : Enc)
  | logsoftmax (x : Exr) (e : Enc)
  | gather (x : Exr) (e : Enc)
  | scatter (x : Exr) (e : Enc)
  | scatterAdd (x : Exr) (e : Enc)
  | reshapeTranspose (x : Exr) (e : Enc)
  | reshapeConvert (x : Exr) (e : Enc)
  | layernorm (x : Exr) (e : Enc)
  | rmsnorm (x : Exr) (e : Enc)
  | ewAdd (x : Exr) (e : Enc)
  | ewMul (x : Exr) (e : Enc)
  | ewMax (x : Exr) (e : Enc)
  | ewAct (x : Exr) (e : Enc)
  | vld (x : Exr) (e : Enc)
  | vst (x : Exr) (e : Enc)
  | vldBc (x : Exr) (e : Enc)
  | varithAdd (x : Exr) (e : Enc)
  | varithSub (x : Exr) (e : Enc)
  | varithMul (x : Exr) (e : Enc)
  | varithFma (x : Exr) (e : Enc)
  | varithMin (x : Exr) (e : Enc)
  | varithMax (x : Exr) (e : Enc)
  | varithAbs (x : Exr) (e : Enc)
  | varithNeg (x : Exr) (e : Enc)
  | vactRelu (x : Exr) (e : Enc)
  | vactGelu (x : Exr) (e : Enc)
  | vactSilu (x : Exr) (e : Enc)
  | vactSigmoid (x : Exr) (e : Enc)
  | vactTanh (x : Exr) (e : Enc)
  | vactExp (x : Exr) (e : Enc)
  | vactRecip (x : Exr) (e : Enc)
  | vactRsqrt (x : Exr) (e : Enc)
  | vcmpEq (x : Exr) (e : Enc)
  | vcmpLt (x : Exr) (e : Enc)
  | vcmpLe (x : Exr) (e : Enc)
  | vsel (x : Exr) (e : Enc)
  | vcvtF32I32 (x : Exr) (e : Enc)
  | vcvtI32F32 (x : Exr) (e : Enc)
  | vredSum (x : Exr) (e : Enc)
  | vredMax (x : Exr) (e : Enc)
  | vredMin (x : Exr) (e : Enc)
  | vbcast (x : Exr) (e : Enc)
  | attn (x : Exr) (e : Enc)
  | attnRing (x : Exr) (e : Enc)
  | attnSparse (x : Exr) (e : Enc)
  | kvapp (x : Exr) (e : Enc)
  | kvpageAlloc (x : Exr) (e : Enc)
  | kvpageRef (x : Exr) (e : Enc)
  | kvpageUnref (x : Exr) (e : Enc)
  | kvpageCow (x : Exr) (e : Enc)
  | gtestSphObb (x : Exr) (e : Enc)
  | gtestSphAabb (x : Exr) (e : Enc)
  | gtestSphSph (x : Exr) (e : Enc)
  | gtestSphTri (x : Exr) (e : Enc)
  | gtravAny (x : Exr) (e : Enc)
  | gtravCount (x : Exr) (e : Enc)
  | gtravNearest (x : Exr) (e : Enc)
  | gsweepEdge (x : Exr) (e : Enc)
  | gsweepArtic (x : Exr) (e : Enc)
  | gsweepReval (x : Exr) (sub : BitVec 8) (e : Enc)
  | gbuildBuild (x : Exr) (e : Enc)
  | gbuildRefit (x : Exr) (e : Enc)
  | gbuildDyn (x : Exr) (e : Enc)
  | suqInsert (x : Exr) (e : SuqEnc)
  | suqExtract (x : Exr) (e : SuqEnc)
  | suqPeek (x : Exr) (e : SuqEnc)
  | suqCount (x : Exr) (e : Enc)
  | suqClear (x : Exr) (e : Enc)
  | sunodeNew (x : Exr) (e : Enc)
  | sunodeRd (x : Exr) (e : Enc)
  | sunodeWr (x : Exr) (e : Enc)
  | sunodeNearest (x : Exr) (e : Enc)
  | supathSmooth (x : Exr) (e : Enc)
  | supathTscale (x : Exr) (e : Enc)
  | suplanCommit (x : Exr) (misread : Bool) (e : Enc)
  | suplanStopArm (x : Exr) (misread : Bool) (e : Enc)
  | suplanStopNoPath (x : Exr) (misread : Bool) (e : Enc)
  | planAckReceive (site : Fin 72) (isl : Isl) (seq : Nat)
  | planAckTimeout (site : Fin 72) (seq : Nat) (t : Nat)
  | susync (x : Exr) (e : Enc)
  | planningDeadline (site : Fin 72) (f : Nat) (t : Nat)
  | frameScheduleDelivery (site : Fin 72)
  | suOwnerWrite (site : Fin 72) (v : W64)
  | suQcfgWrite (site : Fin 72) (v : W64)
  | chkb (x : Exr) (e : Enc)
  | chke (x : Exr) (e : Enc)
  | blockCommit (r : CtxRef) (misread : Bool)
  | arbiterPassStart (r : CtxRef)
  | arbiterPassEnd (r : CtxRef)
  | heartbeatDue (r : StbRef) (t : Nat)
  | heartbeatRun (r : StbRef)
  | heartbeatEnd (r : StbRef) (flagged : Bool)
  | evtSet (x : Exr) (e : Enc)
  | evtClr (x : Exr) (e : Enc)
  | evtWait (x : Exr) (e : Enc)
  | evtPost (x : Exr) (e : Enc)
  | evtWake (p : Fin 32) (f : Fin 256)
  | barArrive (x : Exr) (e : Enc)
  | barWait (x : Exr) (e : Enc)
  | barWaitResume (p : Fin 32) (b : Fin 32)
  | fence (x : Exr) (e : Enc)
  | waitt (x : Exr) (e : Enc)
  | waittResume (w : Waiter) (t : Nat)
  | landWait (x : Exr) (e : Enc)
  | landSignal (x : Exr) (e : Enc)
  | hallEvtsWrite (site : Fin 72) (p : Fin 32) (k : Fin 4) (v : W64)
  | hallEvtcWrite (site : Fin 72) (p : Fin 32) (k : Fin 4) (v : W64)
  | sceneStage (site : Fin 72) (p : Fin 32) (slot : Fin 8) (v : W64)
  | sceneWithdraw (site : Fin 72) (p : Fin 32) (slot : Fin 8) (v : W64)
  | sceneRetired (p : Fin 32) (slot : Fin 8)
  | stbKvptWrite (r : StbRef) (v : W64)
  | correctedWordWriteback (w : Nat)
  | patrolScrub (who : Fin 78) (upset : BitVec 288)
  | partitionCreate (p : Fin 32)
  | partitionRestart (p : Fin 32)
  | partitionStop (p : Fin 32)
  | partitionReset (p : Fin 32)
  | sectionReloadDone (p : Fin 32)
  | contextSaveDone (r : CtxRef) (dur : Nat)
  | contextRestoreDone (r : CtxRef)
  | budgetExceeded (r : CtxRef) (n : Nat)
  | sparePrepare (site : Fin 72)
  | sparePreparationEnd (ok : Bool) (bars : SiteTests)
  | accountingUpdate (t : Nat) (uj : Nat)
  | baseDieRequest (id : Nat) (t : Nat)
  | queueService (m : Fin 6) (t : Nat)
  | requestCompletion (id : Nat) (t : Nat)
  | requestIssue (o : RqOwner) (q : ReqIssue) (t : Nat)
  | levelMessageSend (m : Fin 6) (t : Nat)
  | levelMessageReceive (o : RqOwner) (m : Fin 6) (t : Nat)
  | regFbLost (o : RqOwner) (m : Fin 6) (t : Nat)
  | regFbRestored (o : RqOwner) (m : Fin 6)
  | tdmSlot (o : RqOwner) (t : Nat)
  | ch16WindowEnd (o : RqOwner) (m : Fin 6) (t : Nat)
  | controlSample (isl : Isl) (t : Nat)
  | compareMessageReceive (isl : Isl) (crcOk : Bool)
  | comparePoint (isl : Isl) (t : Nat)
  | planDoorbell (isl : Isl) (site : Fin 72) (buf : Fin 4)
  | acceptanceMessageReceive (isl : Isl)
  | frameOutcome (isl : Isl) (f : Nat) (t : Nat)
  | dtholdEnter (isl : Isl) (t : Nat)
  | dtholdClear (isl : Isl) (t : Nat)
  | devtimeDistribution (die : Fin 82) (off : Fin 41)
  | siResume (isl : Isl)
  | stopreqSet (isl : Isl) (m : Master) (b : Fin 3)
  | watchdogKey (isl : Isl) (v : Byte)
  | watchdogExpiry (isl : Isl) (t : Nat)
  | clockMonitorTrap (isl : Isl)
  | islandRecordCopy (isl : Isl)
  | channelSample (isl : Isl) (n : Fin 32) (t : Nat) (ev : LeEval) (late : Bool)
  | leStart (isl : Isl) (n : Fin 32)
  | leStop (isl : Isl) (n : Fin 32)
  | leHold (isl : Isl) (n : Fin 32)
  | leRelease (isl : Isl) (n : Fin 32)
  | coefficientWrite (isl : Isl) (m : Master) (n : Fin 32) (bank : Fin 2) (w : Fin 128) (wide : Bool) (v : W64)
  | leCtlDisable (isl : Isl)
  | cfgLockClaim (x : Ctl) (m : Master) (owner : BitVec 5)
  | cfgLockRelease (x : Ctl) (m : Master)
  | wsRegisterWrite (m : Master) (a : BitVec 48) (wide : Bool) (v : W64)
  | cfgDiscard (x : Ctl) (m : Master)
  | cfgCheck (x : Ctl) (m : Master)
  | cfgCheckDone (x : Ctl)
  | cfgApplyTick (x : Ctl) (m : Master)
  | cfgApplyLanding (x : Ctl) (m : Master)
  | cfgApplyCancel (x : Ctl) (m : Master)
  | cfgPrepareAck (u : CfgUnit)
  | cfgReevaluation (x : Ctl) (t : Nat)
  | cfgCommitSend (x : Ctl) (t : Nat)
  | cfgTickApply (x : Ctl) (t : Nat)
  | prepareDiscard (u : CfgUnit)
  | nresetAssert (dur : Nat)
  | nresetRelease
  | islandResetAssert (isl : Isl) (dur : Nat)
  | islandResetRelease (isl : Isl) (silent : Bool) (a : List Byte) (b : List Byte)
  | islandTimeFirst (isl : Isl)
  | firmwareVerifyDone (t : Nat) (rom : Bool) (flash : Bool)
  | linkTrainingDone (t : Nat) (bad : List (Nat × Nat × Nat))
  | stairRowTestDone (g : Fin 8) (codes : List Nat)
  | stairDone (t : Nat)
  | memoryTrainingDone (t : Nat) (failed : List (Fin 6))
  | comparatorInjectionDone (t : Nat) (bad : List (StbRef × Fin 129))
  | marginPlanDone (t : Nat) (meas : List (Nat × List Nat × List Nat)) (ok : Bool)
  | bootImageVerifyDone (t : Nat)
  | fensanStart (t : Nat)
  | frameZeroSchedule (t : Nat)
  | restartNotice (isl : Isl)
  | stateMessageSend (t : Nat)
  | stateMessageReceive
  | dcuFailover (t : Nat) (report : Bool) (die0 : Bool)
  | standbyFail (t : Nat)
  | keyRevoke (v : BitVec 4)
  | budgetPeriod (t : Nat) (p : Nat)
  | hallDemand (d : PwrDie) (idle : Nat) (want : List Nat) (drew : List Nat) (rep : List Activity) (t : Nat)
  | budgetMessage (d : PwrDie) (t : Nat)
  | pwrBudgetLost (d : PwrDie) (t : Nat)
  | zoneSettled (zone : Fin 8)
  | energyCheck (site : Fin 72) (uj : Nat) (t : Nat)
  | coefficientRefit (d : PwrDie) (coefs : List Nat)
  | temperatureSample (d : HeatDie) (rs : List (Int × Bool)) (t : Nat)
  | sensorSuspect (d : HeatDie) (n : Fin 8) (t : Nat)
  | thmSensor (site : Fin 72) (t : Nat)
  | flowEstimate (flow : Nat) (power : Nat) (rise : Int) (t : Nat)
  | coolingDegraded (t : Nat)
  | coolingRestored (t : Nat)
  | coolantResume
  | ageingMeasurement (site : Fin 72) (slack : List Nat) (ro : List Nat) (t : Nat)
  | marginPlanWriteDone (ok : Bool)
  | efficiencyRun (t : Nat)
  | efficiencyRunEnd (fs : List Nat) (t : Nat)
  | errorRecordIntake
  | errorPeriodRelease
  | packageLoad
  | packageRemove (id : BitVec 32)
  | packageCheckDone (flash : Bool)
  | selftestSlotStart (r : Fin 33) (t : Nat)
  | selftestSlotEnd (r : Fin 33) (t : Nat) (runs : List StRun) (whole : Bool)
  | linkAck (die : Fin 82) (p : Fin 9) (seq : BitVec 16)
  | idleFlit (die : Fin 82) (p : Fin 9) (t : Nat)
  | packetReceive (die : Fin 82) (p : Fin 9) (grp : Nat) (hdr : BitVec 256) (data : List (BitVec 256)) (errs : List (BitVec 288)) (t : Nat)
  | nakReceive (die : Fin 82) (p : Fin 9) (seq : BitVec 16) (t : Nat)
  | portFence (die : Fin 82) (p : Fin 9) (t : Nat)
  | laneFailing (die : Fin 82) (p : Fin 9) (lane : Nat) (t : Nat)
  | retrainDone (die : Fin 82) (p : Fin 9) (bad : List Nat) (t : Nat)
  | hallProbeResult (site : Fin 72) (answers : Bool)
  | routeTableSwitch (t : Nat)
  | bar2Read (f : Fin 16) (x : BitVec 36) (n : Nat)
  | bar2Write (f : Fin 16) (x : BitVec 36) (bs : List Byte)
  | registerWindowAccess (f : Fin 16) (w : Fin 3) (x : BitVec 24) (n : Nat) (wr : Option W64)
  | functionLevelReset (f : Fin 16)
  | pcieLinkDown
  | sqTailWrite (f : Fin 16) (q : Fin 4) (v : BitVec 16)
  | commandFetch (f : Fin 16) (q : Fin 4) (entry : List Byte)
  | hostNop (f : Fin 16) (q : Fin 4) (cid : BitVec 16)
  | copyH2d (f : Fin 16) (q : Fin 4) (cid : BitVec 16) (data : List Byte)
  | copyD2h (f : Fin 16) (q : Fin 4) (cid : BitVec 16)
  | hostFill (f : Fin 16) (q : Fin 4) (cid : BitVec 16)
  | regWr (f : Fin 16) (q : Fin 4) (cid : BitVec 16)
  | regRd (f : Fin 16) (q : Fin 4) (cid : BitVec 16)
  | hostEvtSet (f : Fin 16) (q : Fin 4) (cid : BitVec 16)
  | cmdDone (f : Fin 16) (q : Fin 4) (cid : BitVec 16)
  | eventRecordWrite (q : Fin 64)
  | evqCidxWrite (m : Master) (q : Fin 64) (v : BitVec 32)
  | evqTimer (q : Fin 64) (t : Nat)
  | evqEnable (m : Master) (q : Fin 64) (v : W64)
  | csi2PacketReceive (isl : Fin 2) (p : Fin 8) (v : Fin 4) (t : Nat) (k : CsiPkt)
  | ethernetFrameReceive (r : EthRef) (t : Nat) (frame : List Byte) (good : Bool)
  | canFrameReceive (r : CanRef) (t : Nat) (f : CanFrame)
  | gnssUartReceive (t : Nat) (bs : List Byte)
  | sentMessageReceive (t : Nat) (msg : SentMsg)
  | ingestCidxPoll (isl : Fin 2) (ch : Fin 64)
  | ingestChannelEnable (isl : Fin 2) (ch : Fin 64) (v : W64)
  | canPeriodicTx (r : CanRef) (slot : Fin 16)
  | canTxdataWrite (r : CanRef) (slot : Fin 16) (v : W64)
  | ppsEdge (t : Nat) (off : Int) (corr : Int)
  | ptpMessage (port : Fin 12) (t : Nat) (off : Int) (corr : Int)
  | timeLost (t : Nat)
  | flashRead
  | flashErase
  | flashProgram
  | flashCommandDone (ok : Bool)
  | smbusRead (a : BitVec 48)
  | pmbusPoll (k : Fin 14) (t : Nat) (mv : Option (BitVec 16))
  | pmbusLost (k : Fin 14) (t : Nat)
  | hallZoneUndervoltage (zone : Fin 8)
  | hallZoneCollapse (zone : Fin 8)
  | memoryRailFault
  | ioRailFault
  | islandRailFault (isl : Isl)
  | encoderPulse (isl : Isl) (q : Fin 8) (up : Bool) (period : BitVec 32)
  | adcConversionDone (isl : Isl) (a : Fin 16) (v : BitVec 16)
  | pcieLinkUp (gen : Nat) (width : Nat)
  | standbyFirmwareVerifyDone (ok : Bool)
  | supplyRecovery (zone : Option (Fin 8)) (t : Nat)
  | ethernetLinkChange (r : EthRef) (up : Bool) (speed : BitVec 3)
deriving DecidableEq, Repr

end Sys2Proof
end

