-- ==== Sys2Proof/Machine/Bits.lean ====
section
/-! DEFINITION. Bit fields, byte order, sign extension, saturating counters and the finite maps that every part of the model uses. -/

namespace Sys2Proof.Machine

/-- Bits [hi:lo] of a natural number. -/
def bits (w : Nat) (hi lo : Nat) : Nat := (w >>> lo) % 2 ^ (hi + 1 - lo)

/-- One bit of a natural number. -/
def bit (w : Nat) (i : Nat) : Bool := (w >>> i) % 2 == 1

/-- Bits [hi:lo] of a word, as a number. -/
def fld {n : Nat} (w : BitVec n) (hi lo : Nat) : Nat := bits w.toNat hi lo

/-- One bit of a word. -/
def flag {n : Nat} (w : BitVec n) (i : Nat) : Bool := bit w.toNat i

/-- A Boolean as a number. -/
def b2n (b : Bool) : Nat := if b then 1 else 0

/-- Replace bits [hi:lo] of a natural number by the low bits of `v`. -/
def setBits (w : Nat) (hi lo v : Nat) : Nat :=
  w - (bits w hi lo <<< lo) + ((v % 2 ^ (hi + 1 - lo)) <<< lo)

/-- Replace bits [hi:lo] of a word. -/
def setFld {n : Nat} (w : BitVec n) (hi lo v : Nat) : BitVec n := BitVec.ofNat n (setBits w.toNat hi lo v)

/-- The value of an n-bit two's complement field. -/
def sgn (n v : Nat) : Int := if v % 2 ^ n < 2 ^ (n - 1) then (v % 2 ^ n : Nat) else (v % 2 ^ n : Nat) - (2 ^ n : Nat)

/-- The n-bit two's complement pattern of an integer. -/
def toBits (n : Nat) (i : Int) : Nat := (i % (2 ^ n : Nat)).toNat

/-- A field whose low `k` bits are sign-extended to 64 bits (R60). -/
def sext64 (k v : Nat) : W64 := BitVec.ofInt 64 (sgn k v)

/-- Round a number up to a multiple of `k`. -/
def alignUp (a k : Nat) : Nat := (a + k - 1) / k * k

/-- Quotient rounded up. -/
def ceilDiv (a b : Nat) : Nat := (a + b - 1) / b

/-- A 64-bit counter that saturates at 0xFFFF_FFFF_FFFF_FFFF. -/
def sat64 (a k : Nat) : Nat := min (a + k) (2 ^ 64 - 1)

/-- The low `n` bytes of a number, least significant first (R3). -/
def leBytes : (n : Nat) → (v : Nat) → List Byte
  | 0, _ => []
  | n + 1, v => BitVec.ofNat 8 v :: leBytes n (v / 256)

/-- The number that bytes spell, least significant first (R3). -/
def leNat : List Byte → Nat
  | [] => 0
  | b :: bs => b.toNat + 256 * leNat bs

/-- The integer part of the base-2 logarithm, by a fuel of at most `fuel` bits. -/
def log2Fuel : Nat → Nat → Nat
  | 0, _ => 0
  | f + 1, n => if n ≤ 1 then 0 else 1 + log2Fuel f (n / 2)

/-- The number of bits of `n` that are 1. -/
def popCount : (width : Nat) → Nat → Nat
  | 0, _ => 0
  | w + 1, n => n % 2 + popCount w (n / 2)

/-- The lowest index at least `i` below `i + fuel` at which `p` holds. -/
def firstFrom (p : Nat → Bool) : (fuel i : Nat) → Option Nat
  | 0, _ => none
  | f + 1, i => if p i then some i else firstFrom p f (i + 1)

/-- The lowest index below `n` at which `p` holds. -/
def firstBelow (n : Nat) (p : Nat → Bool) : Option Nat := firstFrom p n 0

/-- Insert into a sorted list, after equal elements. -/
def insertBy {α : Type} (key : α → Nat) (x : α) : List α → List α
  | [] => [x]
  | y :: ys => if key x < key y then x :: y :: ys else y :: insertBy key x ys

/-- Stable sort by a key. -/
def sortBy {α : Type} (key : α → Nat) (l : List α) : List α := l.foldl (fun s x => insertBy key x s) []

end Sys2Proof.Machine
end

