-- ==== Sys2Proof/Machine/Crc.lean ====
section
/-! DEFINITION. The cyclic codes of the device: CRC-32C of tags and pages (R165), the two CRC-64 of block signatures (R250). -/

namespace Sys2Proof.Machine

/-- One bit of a reflected 32-bit CRC. -/
def crc32cBit (c : BitVec 32) : BitVec 32 := if c.getLsbD 0 then (c >>> 1) ^^^ 0x82F63B78#32 else c >>> 1

/-- One byte of the CRC-32C (Castagnoli, reflected). -/
def crc32cByte (c : BitVec 32) (b : Byte) : BitVec 32 :=
  let c := c ^^^ b.setWidth 32
  crc32cBit (crc32cBit (crc32cBit (crc32cBit (crc32cBit (crc32cBit (crc32cBit (crc32cBit c)))))))

/-- Continue a CRC-32C register over bytes. -/
def crc32cRun (c : BitVec 32) (bs : List Byte) : BitVec 32 := bs.foldl crc32cByte c

/-- CRC-32C with initial value and final XOR 0xFFFF_FFFF (R165). -/
def crc32c (bs : List Byte) : Nat := (crc32cRun 0xFFFFFFFF#32 bs ^^^ 0xFFFFFFFF#32).toNat

/-- One bit of a non-reflected 64-bit CRC. -/
def crc64Bit (poly c : BitVec 64) : BitVec 64 := if c.getLsbD 63 then (c <<< 1) ^^^ poly else c <<< 1

/-- One byte of a non-reflected 64-bit CRC. -/
def crc64Byte (poly c : BitVec 64) (b : Byte) : BitVec 64 :=
  let c := c ^^^ (b.setWidth 64 <<< 56)
  let f := crc64Bit poly
  f (f (f (f (f (f (f (f c)))))))

/-- Continue a CRC-64 register over bytes. -/
def crc64Run (poly : BitVec 64) (c : Nat) (bs : List Byte) : Nat := (bs.foldl (crc64Byte poly) (BitVec.ofNat 64 c)).toNat

/-- Polynomial of signature bits [63:0] (R250). -/
def sigPolyLo : BitVec 64 := 0x42F0E1EBA9EA3693#64

/-- Polynomial of signature bits [127:64] (R250). -/
def sigPolyHi : BitVec 64 := 0xAD93D23594C935A9#64

end Sys2Proof.Machine
end

