-- ==== Sys2Proof/Config.lean ====
section
/-! DEFINITION. What the manual leaves open: constants without a body, so that no proof and no evaluation sees a value. -/

namespace Sys2Proof.Config

/-- Which sensor of its die is fixed nearest to a unit outside the halls, by unit path (R407 names no assignment; log 10). -/
opaque nearestSensor : Nat → Nat

/-- Whether ACCST without RAW reads the untyped tile words as INT32, by the format code of its destination: it has no
    operand pair, and the manual types a tile by the pair of the instruction (R83; log 13). -/
opaque accstInt : Nat → Bool

/-- How long the save of a slot takes in a migration, in ns (R279, R282): no row reports it (log 76). -/
opaque saveNs : (time slot : Nat) → Nat

/-- The DT field of a dynamic set whose slice length in ns does not fit the field's four bytes (GBUILD.DYN accepts up to
    65,535 units of 100 µs, R214, and R207 gives DT 4 bytes; log 21), by the number of units. -/
opaque dynDt : Nat → BitVec 32

/-- Position of a quintic at u, as an FP32 pattern: R226 gives the coefficients and the format, not the order in which the
    polynomial is summed (log 23). Arguments: the six coefficients and u. -/
opaque quinticAt : List (BitVec 32) → BitVec 32 → BitVec 32

/-- First derivative of a quintic at u (log 23). -/
opaque quinticD : List (BitVec 32) → BitVec 32 → BitVec 32

/-- Signed curvature of a segment at u, from the coefficients of x and y (log 23). -/
opaque curvAt : List (BitVec 32) → List (BitVec 32) → BitVec 32 → BitVec 32

/-- What R228 interpolates within a station interval without an order of operations (log 24): item 0 is u, 1 the speed, 2
    the implement heading, from the interval's values and the sample number. -/
opaque sampleIn : (item : Nat) → List (BitVec 32) → Nat → BitVec 32

/-- The rigid transform of R311 in FP32, whose order of operations it does not give (log 25): item 0 is X, 1 Y, 2 HEAD, from
    the sample's pose, the pose of STOP sample 0 and the pose interpolated from MAIN. -/
opaque reanchor : (item : Nat) → List (BitVec 32) → BitVec 32

/-- The FP32 rate that a Loop Engine forms from an encoder's last pulse period in 100 ns (log 26). -/
opaque encoderRate : (period : Nat) → BitVec 32

/-- The level of an island's GPIO input pins at a DEVTIME: an input that no command carries (log 26). -/
opaque gpioPins : (island time : Nat) → BitVec 16

/-- The duty in 1/65,536 that a Loop Engine output of clamp(u, 0, 1) writes (log 26). -/
opaque pwmDuty : BitVec 32 → BitVec 16

/-- Device address of the start of a partition's memory share, to which LOAD_OFF counts (log 31). -/
opaque shareBase : (part : Nat) → Nat

/-- Fuse contents: verifying public keys by slot, whether a slot is provisioned and whether it was revoked before (R367),
    of the DCUs (die 0) and the islands (1, 2) (log 32). -/
opaque fuseKey : (die slot : Nat) → Nat × Nat
/-- A key slot is provisioned. -/
opaque keyProvisioned : (die slot : Nat) → Bool
/-- A key slot was revoked before this power-up. -/
opaque keyRevoked : (die slot : Nat) → Bool

/-- Factory margins in fuses (R400, R401): mV of a hall's point and bin, factory slack in ps of a monitor, factory frequency in
    kHz of a ring oscillator, sensitivity k_h in µV/ps, and the fuses' version (log 32). -/
opaque vFactory : (site point bin : Nat) → Nat
/-- Factory slack of a path-delay monitor. -/
opaque slackFactory : (site monitor : Nat) → Nat
/-- Factory frequency of a ring oscillator. -/
opaque roFactory : (site osc : Nat) → Nat
/-- Sensitivity of a hall. -/
opaque sensitivity : (site : Nat) → Nat
/-- Version of the fused factory margins. -/
opaque fuseVersion : Nat

/-- The ceiling point that a grant in mW allows a hall (R391 names it and gives no rule for it; log 34). -/
opaque ceilPoint : (site grant : Nat) → BitVec 4

/-- The words of an accumulator tile that a restore does not bring back (R277 restores the live tiles; log 38), by the DEVTIME of
    the restore and the word's place. -/
opaque deadTile : (time key : Nat) → BitVec 32

/-- The flow estimate in mL/min where no valid flow reading is held and the outlet is not warmer than the inlet, for which R396
    states no value (log 41), by the mean power in mW. -/
opaque flowNoDelta : (power : Nat) → BitVec 16

/-- What a byte of an erased flash sector reads as (R436 names ERASE and gives no value; log 49), by flash address. -/
opaque erasedByte : (addr : Nat) → BitVec 8

/-- The Gallery has room for the packet of a record (R438 names no size; log 66), by DEVTIME, queue, PIDX and records lost. -/
opaque galleryRoom : (time queue pidx lost : Nat) → Bool

/-- The two CRCs of a draft whose two reads differed (R236 step 6, R408 write them to SYND; what a faulty read gave is not in the
    manual; log 53), by site, DEVTIME and read. -/
opaque misreadCrc : (site time read : Nat) → BitVec 32

end Sys2Proof.Config
end

