-- ==== Sys2Proof/Machine/Maps.lean ====
section
/-! DEFINITION. Finite maps as association lists with at most one entry for a key; reading a key that has no entry gives the caller's default. -/

namespace Sys2Proof.Machine

/-- A finite map, held as plain data. -/
abbrev AMap (κ ν : Type) := List (κ × ν)

namespace AMap

/-- The value held for a key, if any. -/
def look {κ ν : Type} [DecidableEq κ] : AMap κ ν → κ → Option ν
  | [], _ => none
  | (k, v) :: m, q => if k = q then some v else look m q

/-- The value held for a key, or the default. -/
def get {κ ν : Type} [DecidableEq κ] (m : AMap κ ν) (k : κ) (d : ν) : ν := (m.look k).getD d

/-- Hold a value for a key, in place of any earlier one. -/
def set {κ ν : Type} [DecidableEq κ] : AMap κ ν → κ → ν → AMap κ ν
  | [], k, v => [(k, v)]
  | (a, b) :: m, k, v => if a = k then (k, v) :: m else (a, b) :: set m k v

/-- Hold nothing for a key. -/
def del {κ ν : Type} [DecidableEq κ] (m : AMap κ ν) (k : κ) : AMap κ ν := m.filter fun e => ¬ e.1 = k

/-- Change the value held for a key, starting from the default. -/
def upd {κ ν : Type} [DecidableEq κ] (m : AMap κ ν) (k : κ) (d : ν) (f : ν → ν) : AMap κ ν := m.set k (f (m.get k d))

/-- The keys that hold a value. -/
def keys {κ ν : Type} (m : AMap κ ν) : List κ := m.map Prod.fst

/-- Hold a list of values. -/
def setAll {κ ν : Type} [DecidableEq κ] (m : AMap κ ν) (es : List (κ × ν)) : AMap κ ν := es.foldl (fun m e => m.set e.1 e.2) m

end AMap

end Sys2Proof.Machine
end

