-- ==== Sys2Proof/Machine/Memory.lean ====
section
/-! DEFINITION. The stores as one list of (address, byte) pairs in canonical form: addresses strictly rising, no entry equal to 0, which is what an unlisted byte reads as. -/

namespace Sys2Proof.Machine

/-- The bytes of every addressable store, keyed by a physical key (see `Store.lean`). -/
abbrev Memory := List Host.Cell

namespace Memory

/-- What a byte that is not listed reads as (DESIGN CHOICE, log 3; the hall SRAM and DRAM are cleared at start-up). -/
def unlisted : Byte := 0

/-- The byte at a key. -/
def read : Memory → Nat → Byte
  | [], _ => unlisted
  | (k, b) :: m, a => if a < k then unlisted else if a = k then b else read m a

/-- Store a byte at a key; storing what an unlisted byte reads as removes the entry. -/
def write : Memory → Nat → Byte → Memory
  | [], a, v => if v = unlisted then [] else [(a, v)]
  | (k, b) :: m, a, v =>
    if a < k then (if v = unlisted then (k, b) :: m else (a, v) :: (k, b) :: m)
    else if a = k then (if v = unlisted then m else (a, v) :: m)
    else (k, b) :: write m a v

/-- Every key is above `lo` and the keys rise; no entry holds the unlisted value. -/
def wfFrom : Nat → Memory → Bool
  | _, [] => true
  | lo, (k, b) :: m => decide (lo ≤ k) && decide (b ≠ unlisted) && wfFrom (k + 1) m

/-- The canonical form. -/
def wf (m : Memory) : Bool := wfFrom 0 m

/-- Store bytes at rising keys. -/
def writeBytes : Memory → Nat → List Byte → Memory
  | m, _, [] => m
  | m, a, b :: bs => writeBytes (write m a b) (a + 1) bs

/-- The `n` bytes from a key upwards. -/
def readBytes (m : Memory) (a : Nat) : Nat → List Byte
  | 0 => []
  | n + 1 => m.read a :: readBytes m (a + 1) n

/-- Store bytes each at a key of its own. -/
def writeCells : Memory → List (Nat × Byte) → Memory
  | m, [] => m
  | m, (a, b) :: cs => writeCells (write m a b) cs

/-- The little-endian number in `n` bytes from a key. -/
def readLE (m : Memory) (a n : Nat) : Nat := leNat (m.readBytes a n)

/-- Store the low `n` bytes of a number, little-endian. -/
def writeLE (m : Memory) (a n v : Nat) : Memory := m.writeBytes a (leBytes n v)

end Memory

end Sys2Proof.Machine
end

