-- ==== Sys2Proof/Machine/Chip.lean ====
section
/-! DEFINITION. The block's state, part by part, without the queue of waiting commands (`State.lean` adds it). Keys: a site is 0-71 (R11), a stable is 4 * site + stable, a slot is 2 * stable key + slot, a stall is 4 * stable key + stall. -/

namespace Sys2Proof.Machine

/-! ## Registers without a mechanism of their own -/

/-- The register spaces of the device (R172) and the islands' own (R306): an offset in one of these names a register. -/
inductive Blk where
  | dcu                    -- 0x0053_0000_0000
  | hall (site : Nat)      -- hall window of the hall at this site, offsets 0xE00_0000 to 0xEFF_FFFF
  | iod (i : Nat)          -- 0x0050_0000_0000 + i * 0x1000_0000
  | mb (m : Nat)           -- 0x0051_0000_0000 + m * 0x100_0000
  | isl (i : Isl)          -- island address 0x100_0000 upwards, by offset
deriving DecidableEq, Repr

/-- A register: its space and its offset there. -/
structure RegKey where
  blk : Blk
  off : Nat
deriving DecidableEq, Repr

/-! ## Stores, tags and word errors -/

/-- A tag slot: CRC, PRODUCER, SEQ and TIME (R165). -/
structure Tag where
  crc  : Nat := 0
  prod : Nat := 0xFFFF
  seq  : Nat := 0
  time : Nat := 0
deriving DecidableEq, Repr

/-- The stores: bytes, tags of 4 KiB blocks (by key / 4096; R168 poison where none is listed) and the symbol errors
    of stored words (by key / 32, 36 symbols in a number, symbol j in bits [8j+7:8j]; R161, R162). -/
structure MemSt where
  cells    : Memory       := []
  tags     : AMap Nat Tag := []
  errs     : AMap Nat Nat := []
  /-- Corrected words waiting for their write-back (R162), by key / 32, with the located error. -/
  wb       : AMap Nat Nat := []
  /-- Sequence counters of the tag producers (R166): a stable's by 0x10000 + its key, any other by unit ID. -/
  prodSeq  : AMap Nat Nat := []
  /-- DEVTIME at which initialisation wrote the poison tag into the slots of a store that list none (R168): hall site s is s, stack m
      is 72 + m. -/
  poisonAt : AMap Nat Nat := []
  /-- Patrol scrub position of each scrubber, in words (R164): hall site s is s, memory base die m is 72 + m. -/
  scrubPos : AMap Nat Nat := []
deriving DecidableEq, Repr

/-! ## Error and event records -/

/-- An error record, without its SEQ (R406). -/
structure ErrRec where
  unit   : Nat := 0
  hall   : Nat := 0xFF
  cls    : Nat := 0
  flags  : Nat := 0
  opc    : Nat := 0
  time   : Nat := 0
  cbid   : Nat := 0
  temp   : Nat := 0x8000
  volt   : Nat := 0
  part   : Nat := 0xFF
  bin    : Nat := 0xFF
  count  : Nat := 1
  synd   : Nat := 0
  addr   : Nat := 0
  blkseq : Nat := 0
deriving DecidableEq, Repr

/-- An event record before it is written: TYPE and SEV, source unit, DEVTIME, and the body as (offset, bytes, value)
    fields (R425, R426). `err` is the 64-byte error record that an ERROR record carries in its second slot. -/
structure EvtRec where
  typ  : Nat
  unit : Nat
  time : Nat
  body : List (Nat × Nat × Nat) := []
  err  : List Byte := []
deriving DecidableEq, Repr

/-- The DCU's error log and event queues (R409-R411, R427-R429). -/
structure LogSt where
  /-- Records sent by the units and not yet taken in, oldest first. -/
  inbox   : List ErrRec := []
  /-- Records that wait for the next period (R410), oldest first. -/
  waiting : List ErrRec := []
  /-- Coalesced records of this period (R409 step 1). -/
  merging : List ErrRec := []
  /-- Records taken in this 1 ms period. -/
  taken   : Nat := 0
  seq     : Nat := 0
  /-- The log: slot to the 64 bytes of its record. -/
  slots   : AMap Nat (List Byte) := []
  logged  : Nat := 0
  /-- Event counts by (logical hall, group, point, bin) with the operating hour of each count (R411). -/
  groups  : List ((Nat × Nat × Nat × Nat) × Nat × Nat) := []
  /-- Event records on their way to a queue, oldest first. -/
  outbox  : List (Nat × EvtRec) := []
  /-- MSI-X vectors raised: (function, vector) in order, oldest first. -/
  msix    : List (Nat × Nat) := []
  /-- Queues whose interrupt has been raised and not re-armed by a CIDX write (R429). -/
  raised  : List Nat := []
  /-- DEVTIMEs at which the unconsumed slots of a queue were written, oldest first. -/
  times   : AMap Nat (List Nat) := []
  /-- Records refused since the last EVQ_OVERFLOW, by queue (R428). -/
  lost    : AMap Nat Nat := []
  /-- The queue that DCU_ERRCFG.QUEUE names belonged to a partition that stopped, and QUEUE has not been rewritten (R410). -/
  noQueue : Bool := false
  /-- Producer, consumer and refused-record registers by queue (R427, R428). -/
  pidx    : AMap Nat Nat := []
  cidx    : AMap Nat Nat := []
deriving DecidableEq, Repr

/-! ## Contexts and check blocks -/

/-- What a blocked context waits for (R143). -/
inductive Wait where
  | none
  | evt (f : Nat) (woken : Bool)
  | bar (b gen : Nat)
  | time (t d : Nat)
  | land (frame d : Nat)
  /-- An incomplete collective, by its instance number. -/
  | coll (inst : Nat)
  /-- A SUPLAN or SUSYNC whose plan port exchange is open (R233, R236). -/
  | plan (d : Nat)
  /-- After CHKE, until the block commits (R149). -/
  | commit
  /-- A CHKB that waits for a heartbeat, with its check-block ID (R268). -/
  | chkb (cbid : Nat)
  /-- An ALLOC (0) or COW (3) that waits for the splice of a reclaim batch, with its destination and operand (R183). -/
  | kv (sub d a : Nat)
deriving DecidableEq, Repr

/-- The registers that a pass starts from and ends with. -/
structure RegImg where
  s  : AMap Nat W64 := []
  p  : BitVec 16 := 1
  td : AMap Nat (BitVec 256) := []
deriving DecidableEq, Repr

/-- A held operation of a checked block: opcode, SUB and operands as they would be applied at commit (R249). -/
structure Held where
  opc : Nat
  sub : Nat
  ops : List W64
deriving DecidableEq, Repr

/-- A pending page: the destination block (key / 4096), its page index in the set and its CRC-32C (R247). -/
structure Page where
  dest : Nat
  idx  : Nat
  crc  : Nat
  /-- Of a block of an ASYNC window, the offsets and lengths written: only these are published, as such a window holds no tags and changes
      under the block (R257, R258, R431). -/
  spans : Option (List (Nat × Nat)) := none
deriving DecidableEq, Repr

/-- A write that a pass has made since its last instruction ended: work unit, 32-byte word number, and the bytes written
    in that word (R249). -/
structure SigEnt where
  u    : Nat
  word : Nat
  data : List (Option Byte)
deriving DecidableEq, Repr

/-- One pass of a block: its page map, held operations, signatures, and registers at its CHKE (R247-R251). -/
structure Pass where
  pages : List Page := []
  held  : List Held := []
  ents  : List SigEnt := []
  sigLo : Nat := 2 ^ 64 - 1
  sigHi : Nat := 2 ^ 64 - 1
  cls   : List Nat := [0xFFFFFFFF, 0xFFFFFFFF, 0xFFFFFFFF, 0xFFFFFFFF]
  insns : Nat := 0
  fin   : RegImg := {}
deriving DecidableEq, Repr

/-- A delay buffer record: its size in bytes and its value (R255). -/
structure DlyRec where
  bytes : Nat
  val   : Nat
  /-- A stored record with an uncorrectable or a corrected error (R259), and the syndrome of its CE_WORD record. -/
  bad   : Bool := false
  fixed : Bool := false
  synd  : Nat := 0
deriving DecidableEq, Repr

/-- A check block from its CHKB until it reaches NONE (R147, R241, R252). -/
structure Block where
  cbid    : Nat
  /-- The mode captured at the CHKB. -/
  checked : Bool
  b       : Nat := 0
  k       : Nat := 0
  /-- 1 PRIMARY, 2 SHADOW, 3 COMPARE, 4 ARB_WAIT, 5 ARBITRATING, 6 COMMITTING (R252). -/
  state   : Nat := 1
  chkbIa  : Nat := 0
  /-- Address after the CHKE, at which the context goes on. -/
  nextIa  : Nat := 0
  start   : RegImg := {}
  prim    : Pass := {}
  shad    : Pass := {}
  arb     : Pass := {}
  recs    : List DlyRec := []
  recPos  : Nat := 0
  /-- Scene slots captured at the CHKB: header address, epoch and VALID (R49, R201). -/
  scenes  : List (Nat × Nat × Bool) := []
  /-- Search Unit limits captured at the CHKB (R49). -/
  limits  : List W64 := []
  /-- KV pages that the block holds RESERVED: (walker stable key, page). -/
  reserved : List (Nat × Nat) := []
  /-- Blocks (key / 4096) that the running pass has written in frames of those pages (R194). -/
  resBlks : List Nat := []
  /-- The frame that had last started at the CHKB (R182, R183). -/
  frame   : Nat := 0
  arbiter : Option Nat := none
  /-- The arbiter pass has issued its CHKE. -/
  arbDone : Bool := false
  /-- The set that COMMITTING publishes: 0 P, 1 S, 2 A. -/
  set     : Nat := 0
deriving DecidableEq, Repr

/-- A collective as a context issues it (R130): its triple's LFC and ID, its form, and its descriptors and maps as read at issue. -/
structure CollReq where
  lfc  : Nat
  id   : Nat
  sub  : Nat
  tdd  : BitVec 256
  tds  : BitVec 256
  smap : List Byte
  dmap : List Byte
  /-- The earlier instance of the triple that has to complete at this stable first. -/
  after : Nat := 0
  /-- The plan port exchanges of the context that were open at its issue and still are: it is a release behind them (R221). -/
  plan  : List Nat := []
deriving DecidableEq, Repr

/-- A context that is resident or saved: its architectural state (R30, the table of Architectural state). -/
structure Ctx where
  part    : Nat := 0
  idx     : Nat := 0
  state   : Nat := 0
  fault   : Nat := 0
  multi   : Bool := false
  overrun : Bool := false
  ia      : Nat := 0
  lfc     : Nat := 0
  s       : AMap Nat W64 := []
  p       : BitVec 16 := 1
  td      : AMap Nat (BitVec 256) := []
  /-- V registers: element e of register r at 256 r + e. -/
  v       : AMap Nat W32 := []
  /-- Accumulator tiles: element (row, column) of tile t of stall q at ((t * 4 + q) * 32 + row) * 32 + column. -/
  acc     : AMap Nat W32 := []
  /-- Tile words that a shadow or arbiter pass holds negated, with whether as INT32 (R102). -/
  accNeg  : AMap Nat Bool := []
  /-- Physical tiles that hold ACC0 upwards (R34). -/
  tiles   : List Nat := []
  wait    : Wait := .none
  blk     : Option Block := none
  /-- The frame for which LAND.SIGNAL has been issued (R146). -/
  signal  : Option Nat := none
  /-- Status of the context's last SUPLAN, all ones where it has issued none (R233). -/
  suplan  : W64 := BitVec.allOnes 64
  /-- The open exchange of that SUPLAN, which has yet to give the status. -/
  planOf  : Option Nat := none
  /-- The frame to which a landing map move is owed at the next boundary (R50). -/
  moveTo  : Option Nat := none
  /-- A frame abandon is owed when the block has finished COMMITTING (R254). -/
  abandon : Bool := false
  /-- Running cycles counted against CYCLES (R274). -/
  budget  : Nat := 0
  /-- DEVTIME at which the context became runnable or blocked (R276). -/
  since   : Nat := 0
  /-- The save completes later (R278): requested at this DEVTIME. -/
  saving  : Option Nat := none
  restoring : Option Nat := none
  /-- Instances of collectives issued and not complete at this context (R130). -/
  colls   : List Nat := []
  /-- Collectives issued that wait for an earlier instance of their triple, oldest first (R130). -/
  joins   : List CollReq := []
  /-- While its save area holds it: the local pages saved there, in order (R277, R278; log 33). -/
  image   : Option (List Nat) := none
  /-- Tiles that the last save did not take, with the time of the restore: their words are free (R277; log 38). -/
  lost    : List (Nat × Nat) := []
deriving DecidableEq, Repr

/-- A collective instance (R130): matched on partition, LFC and ID, with its descriptors and maps as read at issue. -/
structure Coll where
  inst   : Nat
  part   : Nat
  lfc    : Nat
  id     : Nat
  sub    : Nat
  tdd    : BitVec 256
  tds    : BitVec 256
  smap   : List Byte
  dmap   : List Byte
  /-- Participants (logical hall * 4 + stable), in map order. -/
  members : List Nat
  /-- Participants that have issued, and those at which it has completed. -/
  issued : List Nat
  done   : List Nat
deriving DecidableEq, Repr

/-- Comparator, attribution and heartbeat state of a stable's check engine (R241, R263, R267, R268). -/
structure ChkEng where
  seq     : Nat := 0
  barred  : Bool := false
  quar    : Bool := false
  retire  : Bool := false
  retired : Nat := 0
  hbPos   : Nat := 0
  /-- 0 IDLE, 1 DUE, 2 RUN, 3 FAILED. -/
  hb      : Nat := 0
  hbLast  : Nat := 0
  /-- The arbitration this stable serves: the requesting slot key. -/
  serving : Option Nat := none
  /-- Attributions by unit 0-4: older first, (time in ms, b). -/
  attr    : AMap Nat (List (Nat × Nat)) := []
  hwm     : Nat := 0
deriving DecidableEq, Repr

/-- The stables of the device: personalities, slots, engines (R30, R31). -/
structure CoreSt where
  /-- Resident contexts by slot key. -/
  slots   : AMap Nat Ctx := []
  /-- Contexts that are not resident, by (partition, index). -/
  saved   : AMap (Nat × Nat) Ctx := []
  /-- DUAL stables by stable key (R31). -/
  dual    : List Nat := []
  /-- The active slot of a CHK stable (R31), by stable key. -/
  active  : AMap Nat Nat := []
  eng     : AMap Nat ChkEng := []
  colls   : List Coll := []
  nextInst : Nat := 0
  /-- Stables whose power domain is on (R386), by stable key. -/
  on      : List Nat := []
  /-- Stables in a self-test slot (R334). -/
  testing : List Nat := []
  /-- Accumulator words that the host or the DCU has written in tiles that no resident context holds (R160), by 2^18 * site + word. -/
  idleAcc : AMap Nat W32 := []
  /-- Physical tiles, by stable key and number, that the clearing of their domain has zeroed and no context has held since (R386). -/
  accClear : List (Nat × Nat) := []
  /-- CTX_PINNED_WAIT already written for these contexts (R276). -/
  pinWait : List (Nat × Nat) := []
deriving DecidableEq, Repr

/-! ## Partitions -/

/-- A scene slot (R200-R203): active header, epoch and status; staged header with V; retiring header with its epoch. -/
structure Scene where
  addr   : Nat  := 0
  epoch  : Nat  := 0
  valid  : Bool := false
  rej    : Nat  := 0
  staged : Nat  := 0
  v      : Bool := false
  ret    : Bool := false
  retAddr : Nat := 0
  retEpoch : Nat := 0
deriving DecidableEq, Repr

/-- A memory window (R271). -/
structure Win where
  base  : Nat
  pages : Nat
  r     : Bool
  w     : Bool
  x     : Bool
  async : Bool
deriving DecidableEq, Repr

/-- A job descriptor. -/
structure Job where
  job : Nat
  prio : Nat
  kind : Nat
  first : Nat
  count : Nat
  deadline : Nat
  chkreq : Bool
deriving DecidableEq, Repr

/-- A context descriptor with its live map and WCET entry (R272). -/
structure CtxDesc where
  job : Nat
  hall : Nat
  stable : Nat
  pinned : Bool
  nopre : Bool
  nacc : Nat
  entry : Nat
  fentry : Nat
  arg : Nat
  pendBase : Nat
  pendPages : Nat
  saveBase : Nat
  savePages : Nat
  /-- (first page, pages, INBOUND). -/
  ranges : List (Nat × Nat × Bool)
  acclive : Nat
  cycles : Nat
  umax : Nat
  fclk : Nat
  mode : Nat
  pers : Nat
deriving DecidableEq, Repr

/-- A partition (R271, R281, R285). -/
structure Part where
  /-- 0 FREE, 1 CREATING, 2 RUNNING, 3 RESETTING, 4 STOPPING, 5 FAILED. -/
  state   : Nat := 0
  rej     : Nat := 0
  resets  : Nat := 0
  lastCls : Nat := 0
  /-- Bit 4h + s. -/
  stables : Nat := 0
  landmap : Nat := 0
  wins    : List Win := []
  jobs    : List Job := []
  ctxs    : List CtxDesc := []
  func    : Nat := 0xFF
  evq     : Nat := 0
  chkreq  : Bool := false
  suhalls : Nat := 0
  shard   : Nat := 0
  dataBytes : Nat := 0
  /-- The logical hall that holds the synchronisation home (R138). -/
  home    : Nat := 0
  descAddr : Nat := 0
  /-- The contexts start at the next landing start (R271, R281). -/
  starting : Bool := false
  /-- The reset awaits its section reload (R281 step 4). -/
  reloading : Bool := false
  /-- Stables whose domain switched on during this restart (R281 step 4, R386). -/
  fresh   : List Nat := []
  /-- A fault has stopped the contexts and the reset sequence has not begun: its class (R281 step 1). -/
  resetDue : Option Nat := none
  /-- Frames at which the partition reset (R281). -/
  resetFrames : List Nat := []
  /-- Class, stable and time of the last fault (DCU_PFAULTp). -/
  pfault  : Nat := 0
  /-- Event flags, and barriers as (GEN, ARRIVED, COUNT), at the home (R138). -/
  flags   : Nat := 0
  bars    : AMap Nat (Nat × Nat × Nat) := []
  /-- Scene slots 0-7, at the home (R201). -/
  scenes  : AMap Nat Scene := []
  /-- Frames for which FRAME_DONE has been written (R146). -/
  doneFrames : List Nat := []
  /-- Jobs refused at the last restart (R281 step 5). -/
  refused : List Nat := []
  /-- The partition was created at start-up. -/
  atBoot  : Bool := false
deriving DecidableEq, Repr

/-! ## Time, frames and sites -/

/-- DEVTIME and frames (R21-R25). -/
structure TimeSt where
  now     : Nat := 0
  /-- Copies of the dies as signed offsets from the acting DCU: by die code (16). -/
  offs    : AMap Nat Int := []
  /-- A copy that is brought back waits at the value it has shown (R22): by die code. -/
  floors  : AMap Nat Nat := []
  /-- start(0) is fixed (R383), and frames run: the landing start of frame 0 has been. -/
  fixed   : Bool := false
  running : Bool := false
  start0  : Nat := 0
  /-- The latest frame whose landing start has been processed. -/
  frame   : Nat := 0
deriving DecidableEq, Repr

/-- Sites and logical halls (R11, R15, R28). -/
structure SiteSt where
  /-- Site of a logical hall, where assigned. -/
  hallmap : AMap Nat Nat := []
  /-- 0 active, 1 spare, 2 failed, 3 fenced. -/
  state   : AMap Nat Nat := []
  /-- DCU_CAPS_BASE: the manual gives no value (DESIGN CHOICE, log 45). -/
  capsBase : Nat := 0x5300100000
deriving DecidableEq, Repr

/-! ## Power, as far as every unit reads it -/

/-- The temperature sensors of a die (R393). -/
structure Sens where
  /-- Last valid readings, and the suspect bits. -/
  temps  : AMap Nat Int := []
  sus    : Nat := 0
  /-- Times of the last valid reading, by sensor. -/
  seen   : AMap Nat Nat := []
  /-- Sensors whose readings have all been discarded for 10 ms, and since when such a one reads validly. -/
  long   : Nat := 0
  goodAt : AMap Nat Nat := []
deriving DecidableEq, Repr

/-- Power and thermal state of a hall, by site (R387-R395). Temperatures are in 1/16 degree. -/
structure HallPwr extends Sens where
  point  : Nat := 15
  ceil   : Nat := 15
  idle   : Bool := false
  /-- Zone voltage, mV (R391). -/
  vzone  : Nat := 800
  /-- The validated hot spot (R394). -/
  hot    : Int := 0
  hotOk  : Bool := false
  warn   : Bool := false
  trip   : Bool := false
  pair   : Bool := false
  pairT  : Nat := 0
  /-- The grant of the period `period`, the one before it, and the one that the DCU has formed. -/
  grant  : Nat := 0
  prev   : Nat := 0
  granted : Nat := 0
  demand : Nat := 0
  /-- Energy since reset, and within the budget period, in µJ. -/
  energy : Nat := 0
  spent  : Nat := 0
  /-- PWR_BUDGET_LOST: the hall has taken its floor until messages return (R389). -/
  lost   : Bool := false
  /-- Ceiling of the thermal thresholds, and when it last changed (R395). -/
  tceil  : Nat := 15
  tceilAt : Nat := 0
  /-- The pair differs now, since `pairT` (R394). -/
  pairD  : Bool := false
  /-- Power of each stable in the first period of the last landing, mW (R387). -/
  landUse : AMap Nat Nat := []
  /-- The period to which `spent` belongs. -/
  spentIn : Nat := 0
  /-- VDD_HALL is low (R443): the ceiling is point 0 until 1 ms after it returns. -/
  low    : Bool := false
  lowEnd : Option Nat := none
  /-- The zone's regulator is silent: the ceiling that the hall keeps (R438). -/
  frozen : Option Nat := none
  /-- H at the end of the last period, where there was one (R398). -/
  hotWas : Option Int := none
  /-- Last path-delay slacks and ring oscillator frequencies (R400). -/
  slack  : AMap Nat Nat := []
  ro     : AMap Nat Nat := []
  /-- DEVTIME of the period of the last grant, in ms. -/
  period : Nat := 0
  /-- Fitted activity coefficients (R392), by unit. -/
  coef   : AMap Nat Nat := []
deriving DecidableEq, Repr

/-- A reclaim batch awaiting its splice (R182): its first and last page, its length, and the frame that began at its
    tick. -/
structure KvBatch where
  head  : Nat
  tail  : Nat
  count : Nat
  frame : Nat
deriving DecidableEq, Repr

/-! ## The margin plan (R401-R403) -/

/-- A site record of the margin plan. Tables are indexed by 16 * bin + point. -/
structure SiteRec where
  valid   : Bool := false
  retired : Nat := 0
  quar    : Nat := 0
  barred  : Nat := 0
  age     : Nat := 0
  shift   : Nat := 0
  measured : Nat := 0
  /-- [9:0] mV, [10] USE, [11] CHKOK. -/
  vtab    : AMap Nat Nat := []
  /-- bin_h(i, b) in 5 mV units. -/
  binadd  : AMap Nat Nat := []
deriving DecidableEq, Repr

/-- A margin plan. -/
structure Margin where
  gen     : Nat := 0
  minutes : Nat := 0
  fuse    : Nat := 0
  sites   : AMap Nat SiteRec := []
deriving DecidableEq, Repr

/-! ## The DCU's power manager and coolant (R388-R399) -/

/-- The power manager's state. -/
structure PwrSt where
  /-- D in µJ, the run count, B in mW and the power of the last period in mW. -/
  debt   : Nat := 0
  run    : Nat := 0
  budget : Nat := 0
  power  : Nat := 0
  /-- Demands in mW of memory base dies and I/O dies. -/
  mbDem  : AMap Nat Nat := []
  iodDem : AMap Nat Nat := []
  /-- Voltages that PMBus has been told to set, by zone. -/
  zone   : AMap Nat Nat := []
  /-- 0 NORMAL, 1 DEGRADED, 2 STOPPED. -/
  cool   : Nat := 0
  flowOk : Bool := false
  inlet  : Int := 0
  outlet : Int := 0
  flow   : Nat := 0
  /-- The last valid flow reading in mL/min, and the DEVTIME of the last valid coolant datum. -/
  reading : Nat := 0
  coolAt : Nat := 0
  /-- DEVTIME of the last valid flow reading (R437). -/
  flowAt : Nat := 0
  /-- Since when the estimate stands at or above RESFLOW, and the last COOLING_DEGRADED record. -/
  okFrom : Option Nat := none
  degAt  : Nat := 0
  plan   : Margin := {}
  /-- A re-plan that takes effect at the next landing start (R401), and one that is to be written to flash. -/
  planNext : Option Margin := none
  planWrite : Bool := false
  /-- End of a running reference run (R404), and the factors with their time in ms. -/
  effEnd : Option Nat := none
  eff    : AMap Nat (Nat × Nat) := []
  /-- Sensors of memory base dies (m), I/O dies (8 + i) and islands (10 + x). -/
  heat   : AMap Nat Sens := []
  /-- Dies (memory base die m, I/O die 8 + i) above a threshold of R395: 1 at 95 degrees, 2 at 105 degrees. -/
  dieHot : AMap Nat Nat := []
  /-- Grants to base dies (m) and I/O dies (8 + i) as sent and as held, the period of the last message, and those that have
      taken their floor (R389). -/
  dieSent : AMap Nat Nat := []
  dieGrant : AMap Nat Nat := []
  dieAt  : AMap Nat Nat := []
  dieLost : List Nat := []
  /-- Fitted coefficients of base dies and I/O dies, by 64 * die + unit (R392). -/
  dieCoef : AMap Nat Nat := []
deriving DecidableEq, Repr

/-! ## Start-up (R363-R384) -/

/-- Start-up, the images and the two DCUs. -/
structure BootSt where
  /-- nRESET is low. -/
  held    : Bool := false
  step    : Nat := 0
  done    : Bool := false
  err     : Nat := 0
  errstep : Nat := 0
  /-- Start-up has stopped with ERR. -/
  halted  : Bool := false
  fwslot  : Nat := 0
  imgslot : Nat := 0
  times   : AMap Nat Nat := []
  /-- The running DCU firmware's key slot, and the accepted boot image as its copy in DRAM holds it (R382). -/
  fwkey   : Nat := 0
  image   : List Byte := []
  /-- Fensan RT has refused the image (R52): it loads nothing of it and starts no context of it. -/
  refused : Bool := false
  /-- DEVTIME at nRESET release. -/
  base    : Nat := 0
  /-- Key slots revoked by DCU_KEYREV since the fuses were read (R367). -/
  rev     : Nat := 0
  /-- DCU_DCUSTAT. -/
  acting  : Nat := 0
  standby : Bool := false
  cause   : Nat := 0
  tookAt  : Nat := 0
  /-- State messages (R370): when the last was sent, and acknowledged; the producer indices and error SEQ in it; the same of the
      last one received. -/
  msgAt   : Nat := 0
  ackAt   : Nat := 0
  msg     : AMap Nat Nat := []
  msgSeq  : Nat := 0
  gotAt   : Nat := 0
  got     : AMap Nat Nat := []
  gotSeq  : Nat := 0
  /-- I/O die 0 is lost as a whole (R372). -/
  die0    : Bool := false
  /-- An I/O rail fault holds the package in its internal reset (R443). -/
  rail    : Bool := false
  /-- Flash copies that verified the running DCU firmware and the boot image in use, as (offset, length) (R436). -/
  prot    : List (Nat × Nat) := []
  /-- Site test codes, by site. -/
  tests   : AMap Nat Nat := []
  /-- Rows of the stair walk tested. -/
  rows    : Nat := 0
deriving DecidableEq, Repr

/-- A spare's preparation (R282). -/
structure SpareSt where
  site  : Nat := 0
  /-- 0 idle, 1 preparing, 2 READY, 3 FAILED. -/
  state : Nat := 0
  /-- Sites READY for assignment. -/
  ready : List Nat := []
deriving DecidableEq, Repr

/-- A staging controller's set (R354-R361). -/
structure CfgSt where
  owner   : Option Nat := none
  /-- Staged values in the order of their first staging. -/
  staged  : AMap RegKey Nat := []
  /-- Registers whose staged value was lost with a fence or a reset of their unit (R355, rule 0x0A). -/
  lost    : List RegKey := []
  /-- 0 IDLE, 1 STAGED, 2 CHECKING, 3 PASSED, 4 FAILED, 5 ARMED. -/
  state   : Nat := 0
  last    : Nat := 0
  rule    : Nat := 0
  nfail   : Nat := 0
  unit    : Nat := 0
  /-- CFG_TICK, CFG_APPLIED, CFG_GEN and CFG_PEEK_ADDR. -/
  tick    : Nat := 0
  applied : Nat := 0
  gen     : Nat := 0
  peek    : Nat := 0
  /-- MODE of the armed apply and the DEVTIME of its write. -/
  mode    : Nat := 0
  armAt   : Nat := 0
  /-- CFG_TICK as it stood when a MODE 1 apply was accepted. -/
  armTo   : Nat := 0
  /-- Units that hold a prepare message, and those that have acknowledged it. -/
  prepared : List Blk := []
  acks    : List Blk := []
  /-- Failing rules of the re-evaluation, with the unit of the lowest. -/
  again   : Option (List Nat × Nat) := none
  /-- The commit has been sent. -/
  sent    : Bool := false
deriving DecidableEq, Repr

/-- Activity that waits for the next accounting update (R283): row, stable cycles, memory bytes, link bytes, energy in µJ and saves. -/
structure Charge where
  row : Nat
  stb : Nat := 0
  mem : Nat := 0
  lnk : Nat := 0
  uj  : Nat := 0
  sav : Nat := 0
deriving DecidableEq, Repr

/-! ## Search Units -/

/-- An armed stop (R237): its frame, the slot and epoch of its draft, and the draft. -/
structure Arm where
  frame : Nat
  slot  : Nat
  epoch : Nat
  draft : List Byte
deriving DecidableEq, Repr

/-- A record that has been sent and waits for its acknowledgements (R236 step 7): the context that issued it. -/
structure Exch where
  seq  : Nat
  ackA : Bool := false
  ackB : Bool := false
  part : Nat
  idx  : Nat
  /-- The exchange ends 20 µs after this DEVTIME. -/
  sent : Nat
  /-- A stop sent at the planning deadline has no issuing context. -/
  own  : Bool := true
deriving DecidableEq, Repr

/-- A frame schedule as the DCU distributes it (R24, R238): start(FB), FB, T and L. -/
structure Sched where
  base : Nat
  fb   : Nat
  t    : Nat
  l    : Nat
deriving DecidableEq, Repr

/-- A release that waits for the exchanges of its context that were open when it took its turn (R221): the context, its slot, LFC
    and the operation, as one that a block holds. -/
structure Owed where
  after : List Nat
  part  : Nat
  idx   : Nat
  slot  : Nat
  lfc   : Nat
  op    : Held
deriving DecidableEq, Repr

/-- A Search Unit (R220-R240), by site. -/
structure SuSt where
  /-- Entries (key, payload) of queues 0-3, oldest first. -/
  queues : AMap Nat (List (Nat × Nat)) := []
  nalloc : Nat := 0
  sched  : Option Sched := none
  /-- SU_PLANCTL.GUARD as held at start(F), by frame (R238). -/
  guards : AMap Nat Nat := []
  /-- DEVTIME at which SU_PLANCTL.EN was last set (R239). -/
  enAt   : Nat := 0
  /-- Frame of the last record sent, its count and the status of the last SUPLAN executed. -/
  sent   : Option Nat := none
  /-- The frames for which a record has been sent, newest first, as far as deadlines still ask. -/
  sentF  : List Nat := []
  seq    : Nat := 0
  stat   : Nat := 0
  /-- The open exchange of the last SUPLAN executed, which has yet to give its status. -/
  statOf : Option Nat := none
  arm    : Option Arm := none
  exch   : List Exch := []
  /-- Releases behind open exchanges, oldest first (R221). -/
  owed   : List Owed := []
  /-- The last frame whose planning deadline has passed. -/
  passed : Option Nat := none
deriving DecidableEq, Repr

/-! ## Safety islands and Loop Engines -/

/-- A compare message (R314), by its fields; outputs of XCMP channels as (channel, u). -/
structure CmpMsg where
  time  : Nat
  pmode : Nat
  cause : Nat
  frame : Nat
  seq   : Nat
  badrun : Nat
  bad100 : Nat
  sp    : List Nat
  outs  : List (Nat × Nat)
  dthold : Bool
deriving DecidableEq, Repr

/-- The re-anchored stop (R311): the takeover sample, the pose (X, Y, HEAD) and speed of MAIN there, and the buffer of the
    record whose STOP is executed. -/
structure Anchor where
  ts   : Nat
  x    : Nat
  y    : Nat
  head : Nat
  v    : Nat
  /-- The record whose stop is executed, as it stood at the takeover; with REASON 1 or 2 its MAIN goes on. -/
  plan : List Byte
deriving DecidableEq, Repr

/-- What a channel's sample has computed, applied at t_k + 10 µs (R317, R318 step 7). -/
structure LeDue where
  at'   : Nat
  /-- The sample was not finished by then: the previous output is held (R319). -/
  late  : Bool
  st    : Nat
  y     : Nat
  r     : Nat
  u     : Nat
  i     : Nat
  d     : Nat
  x     : List Nat
deriving DecidableEq, Repr

/-- A Loop Engine channel (R317-R322). FP32 values are patterns. -/
structure LeCh where
  /-- 0 OFF, 1 RAMP, 2 RUN, 3 HOLD, 4 TRIPPED. -/
  st      : Nat := 0
  bankact : Nat := 0
  cause   : Nat := 0
  late    : Nat := 0
  samples : Nat := 0
  u       : Nat := 0
  r       : Nat := 0
  e       : Nat := 0
  fet     : Nat := 0
  i       : Nat := 0
  d       : Nat := 0
  x       : List Nat := [0, 0, 0, 0, 0, 0, 0, 0]
  yprev   : Nat := 0
  /-- The command register, until the next snapshot (R320). -/
  cmd     : Option Nat := none
  /-- The state to which RELEASE returns. -/
  held    : Nat := 0
  /-- Bank banks' words: bank 0 at 0-127, bank 1 at 128-255. -/
  words   : AMap Nat Nat := []
  /-- DEVTIME of the last sample, and its result until it is applied. -/
  last    : Option Nat := none
  due     : Option LeDue := none
deriving DecidableEq, Repr

/-- One pass of an island's check block (R302): pending writes as (island address, bytes) in order, held operations, signature,
    and its final registers. -/
structure IPass where
  writes : List (Nat × List Byte) := []
  held   : List Held := []
  sigLo  : Nat := 2 ^ 64 - 1
  sigHi  : Nat := 2 ^ 64 - 1
  insns  : Nat := 0
  fin    : RegImg := {}
deriving DecidableEq, Repr

/-- An open check block of an island (R302): 1 primary pass, 2 shadow pass, 3 third pass. -/
structure IBlock where
  state  : Nat := 1
  cbid   : Nat := 0
  ia     : Nat := 0
  nextIa : Nat := 0
  start  : RegImg := {}
  passes : List IPass := [{}]
  recs   : List DlyRec := []
  recPos : Nat := 0
deriving DecidableEq, Repr

/-- A record in an island's event ring (R303, R406). -/
inductive RingRec where
  | evt (r : EvtRec)
  | err (r : ErrRec)
deriving DecidableEq, Repr

/-- A safety island (R297-R323). -/
structure IslSt where
  /-- Out of reset, with its firmware started (R373). -/
  up      : Bool := false
  /-- Held in reset. -/
  held    : Bool := true
  /-- SI_BOOT: SLOT, ERR and RESTARTS (R373, R375). -/
  bslot   : Nat := 0
  berr    : Nat := 0
  restarts : Nat := 0
  /-- A restart notice is on its way (R375). -/
  notice  : Bool := false
  /-- The trap that put the island in FAULT (R301). -/
  trap    : Nat := 0
  ia      : Nat := 0
  file    : RegImg := {}
  blk     : Option IBlock := none
  wait    : Wait := .none
  /-- The processor has executed END. -/
  ended   : Bool := false
  flags   : Nat := 0
  /-- Event ring: records written, and those not yet copied by the DCU, oldest first (R303). -/
  ringIdx : Nat := 0
  ring    : List RingRec := []
  /-- Plan reception (R306). -/
  wbuf    : Nat := 0
  active  : Option Nat := none
  pend    : List Nat := []
  lastAcc : Option (Nat × Nat) := none
  mine    : AMap Nat (Nat × Nat) := []
  peers   : AMap Nat (Nat × Nat) := []
  /-- Acceptance messages (FRAME, SEQ, CRC) on the private link to the other island. -/
  accOut  : List (Nat × Nat × Nat) := []
  /-- Acknowledgements (site, SEQ) on their way to a plan port. -/
  ackOut  : List (Nat × Nat) := []
  /-- Outcomes of the last 100 frame deadlines, newest first; true is good. -/
  outs    : List Bool := []
  decided : Option Nat := none
  badrun  : Nat := 0
  /-- 0 IDLE, 1 PLAN, 2 HOLD, 3 STOP. -/
  pmode   : Nat := 0
  cause   : Nat := 0
  /-- Triggers decided and not yet acted on (R310), oldest first. -/
  trig    : List Nat := []
  anchor  : Option Anchor := none
  resumed : Bool := false
  sp      : List Nat := [0, 0, 0, 0, 0, 0, 0, 0]
  /-- DEVTIME of the last control sample. -/
  sampled : Option Nat := none
  /-- Outputs stand at their safe values (R305). -/
  safe    : Bool := false
  /-- The compare message of the last sample, the one on the link, and the one received. -/
  sent    : Option CmpMsg := none
  link    : Option CmpMsg := none
  got     : Option CmpMsg := none
  peer    : Bool := false
  missRun : Nat := 0
  goodRun : Nat := 0
  xrun    : AMap Nat Nat := []
  dthold  : Bool := false
  /-- DEVTIME at which distributed time last arrived, and at which it returned in DTHOLD (R298). -/
  timeAt  : Nat := 0
  timeBack : Option Nat := none
  timed   : Bool := false
  /-- Watchdog: 0x5A has been written; DEVTIME of the last complete pair (R304). -/
  wdtKey  : Bool := false
  wdtAt   : Nat := 0
  fs      : Option Sched := none
  le      : AMap Nat LeCh := []
  /-- Plan records that wait in the replay buffer of the I/O die while the link retrains, oldest first (R347): the hall and the bytes. -/
  mail    : List (Nat × List Byte) := []
  /-- Duties that the PWM outputs and levels that the GPIO outputs now drive. -/
  pwmOut  : AMap Nat Nat := []
  gpioOut : Nat := 0
  /-- Encoder counts, periods in 100 ns and times of the last pulse. -/
  enc     : AMap Nat (Int × Nat × Nat) := []
  /-- Conversions and the low 32 bits of their DEVTIME in µs. -/
  adc     : AMap Nat (Nat × Nat) := []
deriving DecidableEq, Repr

/-! ## Bandwidth regulation (R286-R295) -/

/-- A request to a base die. Its owner is a die code: a site, or 0x4E and 0x4F for the I/O dies. -/
structure Req where
  id     : Nat
  owner  : Nat
  master : Nat
  stack  : Nat
  /-- Partition, or 32 for device work. -/
  row    : Nat
  pri    : Nat := 0
  dl     : Nat := 0
  /-- Line number within the stack. -/
  line   : Nat
  wr     : Bool
  bytes  : Nat
  issued : Nat := 0
  arrived : Nat := 0
  /-- Entry taken: 0 kept for save engines, 1 reserved, 2 shared. -/
  entry  : Nat := 2
  /-- LEVEL as the response carries it. -/
  level  : Nat := 0
deriving DecidableEq, Repr

/-- A master of a requester. -/
structure RqM where
  /-- Outstanding requests by stack. -/
  out   : AMap Nat Nat := []
  /-- Latencies of the last 16 completed requests, newest first. -/
  lats  : List Nat := []
  /-- Requests held back, oldest first. -/
  held  : List Req := []
  bytes : Nat := 0
  excess : Bool := false
  /-- DEVTIME at which the CH16 window began (R295). -/
  winAt : Nat := 0
  /-- The wheel slot that the counts below belong to, and the requests issued in it, by stack. -/
  slot  : Nat := 0
  inSlot : AMap Nat Nat := []
deriving DecidableEq, Repr

/-- A requester's feedback state, by stack. -/
structure RqO where
  level : AMap Nat Nat := []
  /-- DEVTIME of the last level message. -/
  at'   : AMap Nat Nat := []
  /-- Messages of the base die that have been received, by their count. -/
  seen  : AMap Nat Nat := []
  run   : AMap Nat Nat := []
  cur   : Nat := 0x3F
  tdm   : Nat := 0
deriving DecidableEq, Repr

/-- A base die's queue and system cache. -/
structure BaseQ where
  /-- Entries, oldest first. -/
  q     : List Req := []
  high  : Nat := 0
  /-- Level messages sent, and the LEVEL of the last. -/
  msgs  : Nat := 0
  lvl   : Nat := 0
  /-- Cache lines: 16 * set + way to the line and its last use. -/
  lines : AMap Nat (Nat × Nat) := []
  /-- Line slots whose line has been written and not written back (R171). -/
  dirty : List Nat := []
  uses  : Nat := 0
deriving DecidableEq, Repr

/-- Requests between requesters and base dies. -/
structure RegSt where
  next    : Nat := 0
  /-- On their way to a base die. -/
  flying  : List Req := []
  /-- Refused, in the requester's outbound buffer. -/
  refused : List Req := []
  /-- Responses on their way back. -/
  back    : List Req := []
  /-- By 8 * owner + master. -/
  masters : AMap Nat RqM := []
  owners  : AMap Nat RqO := []
  dies    : AMap Nat BaseQ := []
deriving DecidableEq, Repr

/-! ## The yard (R340-R353) -/

/-- A packet: its header flit's data bits and the data flits (R342). -/
structure Packet where
  hdr  : Nat
  data : List Nat := []
deriving DecidableEq, Repr

/-- A link port. -/
structure Port where
  /-- 0 DOWN, 1 TRAINING, 2 UP, 3 RETRAIN, 4 FENCED. -/
  state  : Nat := 0
  txw    : Nat := 0
  /-- Receive lanes of each flit group, after steering. -/
  groups : List (List Nat) := []
  /-- Role nibbles by lane. -/
  roles  : AMap Nat Nat := []
  /-- Spare lanes in order, and the data lane that each replaces. -/
  spares : List Nat := []
  steer  : AMap Nat Nat := []
  /-- Failing lanes that run unreplaced (R347). -/
  failed : List Nat := []
  /-- Corrected symbols by lane since reset, and in the window of 1 ms that `winAt` counts. -/
  lanes  : AMap Nat Nat := []
  win    : AMap Nat Nat := []
  winAt  : Nat := 0
  /-- Packets sent and not acknowledged, oldest first, and those that wait for room. -/
  replay : List Packet := []
  wait   : List Packet := []
  txSeq  : Nat := 0
  rxSeq  : Nat := 0
  /-- Acknowledgements and NAKs to the peer, oldest first: (is a NAK, LSEQ). -/
  acks   : List (Bool × Nat) := []
  /-- The LSEQ last NAKed and how often in succession. -/
  nak    : Nat := 0
  nakRun : Nat := 0
  /-- DEVTIME of the last flit received and sent, and of the start of a retrain. -/
  rxAt   : Nat := 0
  txAt   : Nat := 0
  reAt   : Nat := 0
  /-- The peer has announced a retrain or steering. -/
  told   : Bool := false
deriving DecidableEq, Repr

/-- The yard. -/
structure YardSt where
  /-- By 16 * die code + port. -/
  ports  : AMap Nat Port := []
  /-- Route tables as loaded: the sites that routes may cross and the ports that were UP. -/
  sites  : List Nat := []
  up     : List Nat := []
  gen    : Nat := 0
  tick   : Nat := 0
  /-- DEVTIME of the first fence since the last table switch (R351). -/
  due    : Option Nat := none
  /-- Packets delivered at a die and not taken, oldest first. -/
  inbox  : AMap Nat (List Packet) := []
  /-- Requests on the yard by their source die, without a response, oldest first (R352). -/
  out    : AMap Nat (List Packet) := []
  /-- The last atomics of each source at a target: (target, source) to TAGs, newest first (R352). -/
  atomics : AMap (Nat × Nat) (List Nat) := []
  /-- Stacks that are lost. -/
  lost   : List Nat := []
deriving DecidableEq, Repr

/-! ## Fleet packages and self-test (R332-R337, R412-R417) -/

/-- An installed package. -/
structure Pkg where
  id    : Nat
  ver   : Nat
  img   : List Byte
  /-- On probation (R416): the rotation rows that have run it whole, and the stables at which a pattern has failed. -/
  prob  : Bool := true
  rows  : List Nat := []
  fails : List (Nat × Nat) := []
deriving DecidableEq, Repr

/-- The package store and the last operation on it. -/
structure FleetSt where
  pkgs  : List Pkg := []
  /-- DCU_PKGSTAT: 0 idle, 1 busy, 2 DONE, 3 REJECTED; REJ and the PKG_ID of the last operation. -/
  state : Nat := 0
  rej   : Nat := 0
  last  : Nat := 0
  /-- The address that LOAD took. -/
  addr  : Nat := 0
deriving DecidableEq, Repr

/-- A self-test slot of a landing: its stable, its number j and the landing's count m (R332, R333). -/
structure StSlot where
  stable : Nat
  j      : Nat
  m      : Nat
deriving DecidableEq, Repr

/-- A rotation (R332): partition 0-31, or 32 for the device row. -/
structure StRot where
  pos   : Nat := 0
  n     : Nat := 0
  /-- Slots assigned and not started, in order. -/
  queue : List StSlot := []
  /-- The stable of the running slot, and the DEVTIME at which it ends. -/
  run   : Option (Nat × Nat) := none
  /-- Packages that joined at the rotation's start. -/
  pkgs  : List Nat := []
  /-- DEVTIME of the last completed rotation. -/
  done  : Nat := 0
deriving DecidableEq, Repr

/-! ## Host and external interfaces (R418-R443) -/

/-- An open camera slot (R433): the lines received, with their start times. -/
structure CamSlot where
  t      : Nat
  frame  : Nat
  line0  : Nat
  dt     : Nat
  stride : Nat
  lines  : List (Nat × List Byte) := []
  err    : Bool := false
deriving DecidableEq, Repr

/-- An ingest channel (R430-R433). -/
structure Chan where
  pidx  : Nat := 0
  cidx  : Nat := 0
  nslot : Nat := 0
  slotb : Nat := 0
  /-- Records lost in all, and since the last record delivered. -/
  gap   : Nat := 0
  run   : Nat := 0
  rseq  : Nat := 0
  /-- INGEST_OVERRUN has been written for this full episode; the high-water mark is crossed; PAUSE is sent. -/
  full  : Bool := false
  above : Bool := false
  pause : Bool := false
  slot  : Option CamSlot := none
  /-- CSI-2: the frame number and the lines of the frame received so far. -/
  frame : Nat := 0
  line  : Nat := 0
deriving DecidableEq, Repr

/-- A host command from its fetch until CMD_DONE (R423, R424). -/
structure HostCmd where
  opc   : Nat
  flags : Nat
  cid   : Nat
  len   : Nat
  haddr : Nat
  daddr : Nat
  value : Nat
  /-- Status and the values of CMD_DONE, once the command has run. -/
  done  : Option Nat := none
  val   : Nat := 0
  bytes : Nat := 0
  /-- Finishes without CMD_DONE (R422); its partition has stopped (R424). -/
  quiet : Bool := false
  gone  : Bool := false
deriving DecidableEq, Repr

/-- The host port, the ingest channels, time references, flash and PMBus. -/
structure IoSt where
  /-- By 64 * die + channel. -/
  chans  : AMap Nat Chan := []
  /-- PCIe rate and width, and RATELOW (R418). -/
  rate   : Nat := 0
  width  : Nat := 0
  low    : Bool := false
  /-- Next entries to fetch and fetched commands in ring order, by 4 * function + queue. -/
  heads  : AMap Nat Nat := []
  cmds   : AMap Nat (List HostCmd) := []
  /-- DEVTIME of the last accepted time reference, LOCK, rate correction in 0.01 ppm and offset in ns (R435). -/
  refAt  : Nat := 0
  lock   : Bool := false
  corr   : Int := 0
  off    : Int := 0
  /-- Flash: STATE, code, the command in progress (1 READ, 2 ERASE, 3 PROGRAM) with its sector, and the 4 KiB buffer. -/
  fstate : Nat := 0
  fcode  : Nat := 0
  fcmd   : Option (Nat × Nat) := none
  buf    : AMap Nat Byte := []
  /-- DEVTIME of each rail's last telemetry, and rails whose regulator is silent. -/
  pmbAt  : AMap Nat Nat := []
  silent : List Nat := []
deriving DecidableEq, Repr

/-- The block's state. -/
structure Chip where
  time  : TimeSt := {}
  mem   : MemSt := {}
  /-- Stored values of registers; one that has no entry holds its reset value. -/
  regs  : AMap RegKey Nat := []
  log   : LogSt := {}
  core  : CoreSt := {}
  parts : AMap Nat Part := []
  site  : SiteSt := {}
  pwr   : AMap Nat HallPwr := []
  /-- Last telemetry of each rail, mV (R407, R438), by rail. -/
  rails : AMap Nat Nat := []
  /-- Reclaim batches by stable key. -/
  batch : AMap Nat KvBatch := []
  /-- Reclaim batches that stand behind the one in `batch`, by stable, oldest first (R182). -/
  nextBatch : List (Nat × KvBatch) := []
  /-- Search Units by site. -/
  su    : AMap Nat SuSt := []
  islA  : IslSt := {}
  islB  : IslSt := {}
  pm    : PwrSt := {}
  boot  : BootSt := {}
  spare : SpareSt := {}
  /-- Activity not yet accounted (R283). -/
  acct  : List Charge := []
  rq    : RegSt := {}
  yard  : YardSt := {}
  /-- The staging controllers of the DCU and of the islands. -/
  cfg   : AMap Ctl CfgSt := []
  io    : IoSt := {}
  fleet : FleetSt := {}
  /-- Self-test rotations, by row. -/
  rots  : AMap Nat StRot := []
deriving DecidableEq, Repr

end Sys2Proof.Machine
end

