-- ==== Sys2Proof/Machine/RegSpec.lean ====
section
/-! DEFINITION. The register tables of every chapter: for each register its offset, access code (R4), reset value, writable bits (R5) and reserved encodings (R6). -/

namespace Sys2Proof.Machine

/-- Access codes (R4). -/
inductive Acc where
  | rw | ro | wo | w1c | w1s | ws
deriving DecidableEq, Repr

/-- A row of a register table; `count` registers lie `stride` bytes apart from `off`. `mask` holds the bits a write can
    change; `ok` is false for a written value that places a reserved encoding in the register (R6). -/
structure RegRow where
  off    : Nat
  acc    : Acc
  rst    : Nat := 0
  mask   : Nat := 2 ^ 64 - 1
  stride : Nat := 8
  count  : Nat := 1
  ok     : Nat → Bool := fun _ => true

/-- A saturating event counter: RW, reset 0, every bit writable. -/
def RegRow.cnt (off : Nat) : RegRow := { off := off, acc := .rw }

/-- A read-only register whose value the owning mechanism computes. -/
def RegRow.rd (off : Nat) (rst : Nat := 0) : RegRow := { off := off, acc := .ro, rst := rst }

/-- Bits [hi:lo] as a mask. -/
def maskOf (hi lo : Nat) : Nat := 2 ^ (hi + 1) - 2 ^ lo

/-- A value within bounds. -/
def within (lo hi v : Nat) : Bool := decide (lo ≤ v) && decide (v ≤ hi)

/-- Whether an FP32 pattern is finite. -/
def f32Finite (v : Nat) : Bool := bits v 30 23 != 255

/-- Registers of one stable's block (0xE40_0000 + s * 0x1_0000). -/
def stbRows : List RegRow :=
  [ .rd 0x0000, .rd 0x0008, .rd 0x0010, .rd 0x0018, .rd 0x0020, .rd 0x0028, .rd 0x0030, .rd 0x0038,
    .cnt 0x0040, .cnt 0x0048, .cnt 0x0050, .cnt 0x0058,
    { off := 0x0060, acc := .rw, mask := maskOf 47 5 + 1 },
    .rd 0x0068, .cnt 0x0070, .cnt 0x0078, .cnt 0x0080,
    .cnt 0x0088, .cnt 0x0090, .cnt 0x0098,
    { off := 0x00A0, acc := .ws, mask := 1 },
    { off := 0x00A8, acc := .rw, rst := 0x64, mask := maskOf 15 0, ok := fun v => within 1 60000 (bits v 15 0) },
    .rd 0x00B0, .rd 0x00B8, .cnt 0x00C0, .cnt 0x00C8, .cnt 0x00D0, .cnt 0x00D8, .cnt 0x00E0,
    .rd 0x00E8, .cnt 0x00F0, .cnt 0x00F8,
    { off := 0x0100, acc := .ro, count := 5 }, { off := 0x0128, acc := .ro, count := 5 }, .rd 0x0150,
    .rd 0x0158, .rd 0x0160, .cnt 0x0168, .cnt 0x0170, .rd 0x0178,
    .rd 0x0180, .cnt 0x0188, .cnt 0x0190, .cnt 0x0198 ]

/-- Registers of the synchronisation block of one partition (0xE60_0000 + p * 0x1000). -/
def syncRows : List RegRow :=
  [ { off := 0x000, acc := .w1s, count := 4 }, { off := 0x020, acc := .w1c, count := 4 },
    { off := 0x040, acc := .rw, mask := maskOf 9 0, count := 32, ok := fun v => within 0 512 (bits v 9 0) },
    .rd 0x140, .rd 0x148,
    { off := 0x200, acc := .ro, count := 8 },
    { off := 0x240, acc := .rw, mask := maskOf 47 8 + 1, count := 8 },
    { off := 0x280, acc := .ro, count := 8 }, { off := 0x2C0, acc := .ro, count := 8 } ]

/-- Hall memory registers (0xE20_0000). -/
def hallMemRows : List RegRow :=
  [ .cnt 0x0000, .cnt 0x0008, .rd 0x0010,
    { off := 0x0018, acc := .rw, rst := 0x003C0001, mask := maskOf 31 16 + 1, ok := fun v => bits v 31 16 != 0 },
    { off := 0x0020, acc := .rw, mask := maskOf 47 12 }, .rd 0x0028, .cnt 0x0030,
    { off := 0x1000, acc := .rw, count := 168 } ]

/-- Search Unit registers (0xE80_0000). -/
def suRows : List RegRow :=
  [ { off := 0x0000, acc := .rw, mask := maskOf 4 0 + maskOf 8 8 },
    { off := 0x0008, acc := .rw, rst := 0x100, mask := maskOf 8 0 + maskOf 24 16 + maskOf 40 32 + maskOf 56 48,
      ok := fun v => [0, 16, 32, 48].all fun b => within 0 256 (bits v (b + 8) b) },
    { off := 0x0010, acc := .ro, count := 4 }, .rd 0x0030, { off := 0x0038, acc := .rw },
    .cnt 0x0040, .cnt 0x0048, .rd 0x0050,
    { off := 0x0100, acc := .ws, rst := 0x3FC0000040A00000 }, { off := 0x0108, acc := .ws, rst := 0x400000003F800000 },
    { off := 0x0110, acc := .ws, rst := 0x3FC0000040000000 }, { off := 0x0118, acc := .ws, rst := 0x3DCCCCCD40C00000 },
    { off := 0x0120, acc := .ws, rst := 0x400000003E19999A }, { off := 0x0128, acc := .ws },
    { off := 0x0130, acc := .ws, rst := 0x3F490FDB, mask := maskOf 31 0 },
    { off := 0x0200, acc := .rw, rst := 0x00C80000, mask := maskOf 31 16 + 1, ok := fun v => bits v 31 16 != 0 },
    .rd 0x0208, .rd 0x0210, .rd 0x0218, .cnt 0x0220, .cnt 0x0228, .cnt 0x0230 ]

/-- Requester registers (0xEA0_0000, and 0x0A0_0000 in an I/O die's registers); `n` masters. -/
def rqRows (n : Nat) (hall : Bool) : List RegRow :=
  let cfg : Nat := maskOf 47 32 + maskOf 27 16 + maskOf 15 4 + maskOf 3 0
  (if hall then [{ off := 0x20, acc := .ro, rst := 0x47 }] else []) ++
  [ { off := 0x0000, acc := .ws, rst := 3, mask := cfg, count := n },
    { off := 0x0030, acc := .ws, rst := 0x0810203040608080 },
    { off := 0x0038, acc := .ws, rst := 0xA, mask := maskOf 15 0 },
    { off := 0x0040, acc := .ro, count := n }, .rd 0x0070 0x3F, .cnt 0x0078, .cnt 0x0080, .cnt 0x0088, .rd 0x0090 ]

/-- Registers of one Decner port; `wmax` is the reset of WMAX, 0 where WMAX is reserved. -/
def lnkRows (wmax : Nat) (io : Bool) : List RegRow :=
  [ { off := 0x00, acc := .rw, rst := 0x40000 + wmax, mask := maskOf 23 8 + (if wmax = 0 then 0 else 7),
      ok := fun v => bits v 23 8 != 0 && (wmax == 0 || (within 1 4 (bits v 2 0) && !(io && bits v 2 0 == 3))) },
    .rd 0x08, { off := 0x10, acc := .ro, count := 9 }, .rd 0x58 (2 ^ 64 - 1),
    .cnt 0x60, .cnt 0x68, .cnt 0x70, .cnt 0x78, .cnt 0x80,
    { off := 0x88, acc := .rw, mask := maskOf 7 0, ok := fun v => within 0 143 (bits v 7 0) }, .rd 0x90, .rd 0x98 ]

/-- Hall power and thermal registers (0xEE0_0000). -/
def pwrRows : List RegRow :=
  [ .rd 0x0000, .rd 0x0008, .rd 0x0010, .rd 0x0018, .rd 0x0020, .cnt 0x0028,
    { off := 0x0030, acc := .rw, mask := maskOf 4 0, ok := fun v => within 0 23 (bits v 4 0) },
    .rd 0x0038, .rd 0x0040, { off := 0x0100, acc := .ro, count := 16 }, { off := 0x0180, acc := .ro, count := 8 } ]

/-- Shift a table to its base. -/
def shiftRows (b : Nat) (rs : List RegRow) : List RegRow := rs.map fun r => { r with off := r.off + b }

/-- The staging controller's block (0x5000 in the DCU, 0x0200 in an island). -/
def cfgRows : List RegRow :=
  [ { off := 0x00, acc := .rw, mask := maskOf 4 0 + maskOf 8 8 },
    { off := 0x08, acc := .wo, mask := 1 },
    { off := 0x10, acc := .wo, mask := 3, ok := fun v => bits v 1 0 != 0 },
    { off := 0x18, acc := .rw }, .rd 0x20, .rd 0x28, .rd 0x30,
    { off := 0x38, acc := .rw, mask := maskOf 47 0 + maskOf 63 63 }, .rd 0x40, .rd 0x48,
    { off := 0x50, acc := .wo, mask := 1 }, .rd 0x58 ]

/-- A PCIe function's block (0xA000 + f * 0x100). -/
def fnRows : List RegRow :=
  [ { off := 0x00, acc := .rw, mask := maskOf 46 32 },
    { off := 0x08, acc := .rw, mask := maskOf 46 24, count := 3 },
    .rd 0x20 0x3F, .rd 0x28,
    { off := 0x30, acc := .rw, mask := maskOf 5 0 }, .rd 0x38,
    { off := 0x40, acc := .rw, mask := maskOf 63 12, stride := 32, count := 4 },
    { off := 0x48, acc := .rw, mask := maskOf 4 0 + maskOf 8 8, stride := 32, count := 4 },
    { off := 0x50, acc := .rw, mask := maskOf 15 0, stride := 32, count := 4 },
    { off := 0x58, acc := .ro, stride := 32, count := 4 } ]

/-- An event queue's block (0x9000 + q * 0x40); FUNC is writable for queue 0 only. -/
def evqRows (q0 : Bool) : List RegRow :=
  [ { off := 0x00, acc := .rw, mask := maskOf 63 12 },
    { off := 0x08, acc := .rw, mask := maskOf 4 0 + maskOf 8 8 + (if q0 then maskOf 15 12 else 0) + maskOf 55 16 },
    { off := 0x10, acc := .rw, mask := maskOf 63 3 }, .rd 0x18,
    { off := 0x20, acc := .rw, mask := maskOf 31 0 }, .cnt 0x28, .rd 0x30 ]

/-- Accepted values of THM_CFG: SUST, PEAK and PKPER. -/
def thmOk (v : Nat) : Bool := within 1000 6000 (bits v 15 0) && within (bits v 15 0) 6600 (bits v 31 16) && within 1 10 (bits v 39 32)

/-- DCU registers outside the per-partition, per-queue, per-function and staging blocks. -/
def dcuRows : List RegRow :=
  [ .rd 0x0000 0x00C40064B000, .rd 0x0008, .rd 0x0010, .rd 0x0018,
    { off := 0x0020, acc := .ro, count := 8 }, { off := 0x0060, acc := .ro, count := 3 },
    { off := 0x1000, acc := .rw, mask := maskOf 47 9, stride := 0x20, count := 32 },
    { off := 0x1008, acc := .wo, mask := 7, stride := 0x20, count := 32, ok := fun v => within 1 3 (bits v 2 0) },
    { off := 0x1010, acc := .ro, stride := 0x20, count := 32 },
    { off := 0x1018, acc := .ro, stride := 0x20, count := 32 },
    { off := 0x1400, acc := .ws, count := 128 },
    { off := 0x1800, acc := .rw, mask := maskOf 6 0 + maskOf 8 8 }, .rd 0x1808,
    { off := 0x1810, acc := .ws, mask := maskOf 14 0 + maskOf 18 16, ok := fun v => bits v 17 16 != 3 },
    { off := 0x2000, acc := .ro, stride := 0x40, count := 33 }, { off := 0x2008, acc := .ro, stride := 0x40, count := 33 },
    { off := 0x2010, acc := .ro, stride := 0x40, count := 33 }, { off := 0x2018, acc := .ro, stride := 0x40, count := 33 },
    { off := 0x2020, acc := .ro, stride := 0x40, count := 33 }, .rd 0x2840,
    { off := 0x3000, acc := .ws, mask := 0xBFBFBFBFBFBFBFBF, count := 8,
      ok := fun v => (List.range 8).all fun j => within 0 32 (bits v (8 * j + 5) (8 * j)) },
    { off := 0x3800, acc := .ws, rst := 1, mask := 1 }, .cnt 0x3808, { off := 0x3840, acc := .ro, count := 33 },
    { off := 0x4000, acc := .ro, count := 72 }, .rd 0x4240, .rd 0x4248,
    .rd 0x6000, { off := 0x6008, acc := .ro, count := 10 }, .rd 0x6058,
    { off := 0x6060, acc := .w1s, mask := 15 }, { off := 0x6068, acc := .ro, count := 5 },
    { off := 0x6090, acc := .rw, rst := 0x00B204EA01FCA055 }, .rd 0x6098,
    .rd 0x7000, { off := 0x7008, acc := .rw, rst := 0x0000000A19C81770, mask := maskOf 39 0, ok := thmOk }, .rd 0x7010,
    { off := 0x7018, acc := .wo, mask := 1 },
    { off := 0x7020, acc := .rw, rst := 0x00000D480C800FA0, mask := maskOf 47 0,
      ok := fun v => decide (bits v 31 16 < bits v 47 32) && decide (bits v 47 32 ≤ bits v 15 0) },
    .cnt 0x7028, .cnt 0x7030, { off := 0x7040, acc := .ro, count := 4 }, { off := 0x7060, acc := .ro, count := 6 },
    .rd 0x70A0, { off := 0x70A8, acc := .wo, mask := 1 }, { off := 0x70B0, acc := .ro, count := 4 }, .rd 0x70D0,
    { off := 0x7100, acc := .ro, count := 8 },
    { off := 0x8000, acc := .rw, rst := 0x10000, mask := maskOf 5 0 + maskOf 7 7 + maskOf 23 8, ok := fun v => bits v 23 8 != 0 },
    .rd 0x8008, .cnt 0x8010, .rd 0x8018, { off := 0x8020, acc := .rw, mask := maskOf 11 0 },
    { off := 0x8028, acc := .ro, count := 8 }, { off := 0x8068, acc := .rw, mask := maskOf 5 0 + maskOf 9 8 },
    { off := 0x8080, acc := .ro, count := 16 },
    { off := 0x8100, acc := .rw, mask := maskOf 47 12 },
    { off := 0x8108, acc := .wo, mask := maskOf 63 32 + 3, ok := fun v => within 1 2 (bits v 1 0) },
    .rd 0x8110, .rd 0x8118,
    { off := 0xB000, acc := .rw, mask := maskOf 7 4 + 3, ok := fun v => bits v 1 0 != 3 }, .rd 0xB008, .rd 0xB010, .cnt 0xB018 ]

/-- Memory base die registers. -/
def mbRows : List RegRow :=
  [ .cnt 0x0400, .cnt 0x0408,
    { off := 0x0410, acc := .rw, rst := 0xFFFF0001, mask := maskOf 31 16 + 1, ok := fun v => bits v 31 16 != 0 },
    { off := 0x0418, acc := .rw, mask := maskOf 47 12 }, .rd 0x0420, .rd 0x0428, .cnt 0x0430, .rd 0x0438,
    { off := 0x0800, acc := .ws, rst := 0x0000010003200321, mask := maskOf 41 32 + maskOf 31 4 + 1 }, .rd 0x0808,
    { off := 0x0810, acc := .ws, count := 4 }, { off := 0x0830, acc := .ws, rst := 4, mask := 0xFF },
    { off := 0x0838, acc := .ws, rst := 2 ^ 64 - 1, count := 8 }, { off := 0x0878, acc := .ws, rst := 0xFFFF, mask := 0xFFFF },
    .cnt 0x0880, .cnt 0x0888, .cnt 0x0890, .cnt 0x0898, .cnt 0x08A0 ]

/-- A CAN controller's block. -/
def canRows : List RegRow :=
  [ { off := 0x000, acc := .rw, mask := maskOf 2 0 + maskOf 47 16, ok := fun v => bits v 1 0 != 3 }, .rd 0x008,
    { off := 0x010, acc := .rw, mask := maskOf 47 6 },
    { off := 0x100, acc := .rw, mask := maskOf 29 0 + maskOf 31 31 + maskOf 60 32, stride := 32, count := 16 },
    { off := 0x108, acc := .ro, stride := 32, count := 16 }, { off := 0x110, acc := .ro, stride := 32, count := 16 },
    { off := 0x300, acc := .rw, mask := maskOf 39 0, stride := 32, count := 16, ok := fun v => within 0 8 (bits v 39 32) },
    { off := 0x308, acc := .rw, stride := 32, count := 16 },
    { off := 0x310, acc := .rw, mask := maskOf 31 0, stride := 32, count := 16 },
    { off := 0x318, acc := .ro, stride := 32, count := 16 } ]

/-- An Ethernet MAC's block. -/
def ethRows : List RegRow :=
  [ { off := 0x000, acc := .rw, mask := maskOf 3 0 + maskOf 47 6 }, .rd 0x008,
    { off := 0x010, acc := .ws }, { off := 0x018, acc := .ws },
    { off := 0x800, acc := .ws, mask := maskOf 39 0, count := 256 } ]

/-- An ingest channel's block (0x010_0000 + c * 0x100). -/
def ichRows : List RegRow :=
  [ { off := 0x00, acc := .rw, mask := maskOf 1 0 + maskOf 28 8 + maskOf 47 32 },
    { off := 0x08, acc := .rw, mask := maskOf 47 6 }, { off := 0x10, acc := .rw, mask := maskOf 47 12 }, .rd 0x18, .cnt 0x20 ]

/-- I/O die registers outside the repeated blocks. -/
def iodRows : List RegRow :=
  [ .rd 0x0000008,
    { off := 0x0310000, acc := .rw, stride := 16, count := 16 },
    { off := 0x0310008, acc := .rw, mask := maskOf 21 0, stride := 16, count := 16 }, .cnt 0x0310100,
    { off := 0x0600000, acc := .rw, rst := 0x12C, mask := maskOf 9 0 + maskOf 24 16 },
    { off := 0x0600008, acc := .rw, count := 3 }, .cnt 0x0600020,
    { off := 0x0700000, acc := .rw, mask := maskOf 3 0 + maskOf 11 8 }, .cnt 0x0700008,
    { off := 0x0800000, acc := .wo, mask := 3, ok := fun v => bits v 1 0 != 0 },
    { off := 0x0800008, acc := .rw, mask := maskOf 31 12 }, .rd 0x0800010,
    { off := 0x0900000, acc := .rw, mask := maskOf 6 0, count := 14 } ]

/-- Island registers, by offset from island address 0x100_0000 (SI block 0, staging 0x200, LE 0x10_0000, I/O 0x20_0000). -/
def islRows : List RegRow :=
  [ .rd 0x0000 0xB000,
    { off := 0x0008, acc := .rw, rst := 0x0200000A, mask := maskOf 4 0 + maskOf 9 8 + maskOf 16 16 + maskOf 27 24,
      ok := fun v => within 5 20 (bits v 4 0) && bits v 27 24 != 0 },
    .rd 0x0010 1, { off := 0x0018, acc := .w1s, mask := 7 },
    { off := 0x0020, acc := .ws, mask := maskOf 12 0 + maskOf 16 16 },
    .rd 0x0028, .rd 0x0030, .rd 0x0038, .rd 0x0040, .rd 0x0048,
    { off := 0x0050, acc := .wo, mask := 3 }, .cnt 0x0058, .cnt 0x0060, .cnt 0x0068, .cnt 0x0070, .rd 0x0078,
    { off := 0x0080, acc := .ro, count := 4 },
    { off := 0x00A0, acc := .wo, mask := 0xFF },
    { off := 0x00A8, acc := .rw, rst := 0x32, mask := maskOf 15 0, ok := fun v => within 10 100 (bits v 15 0) },
    { off := 0x00B0, acc := .rw, mask := maskOf 31 0 }, .cnt 0x00B8, .rd 0x00C0, .rd 0x00C8, .rd 0x00D0,
    { off := 0x100000, acc := .rw, mask := 1 }, .rd 0x100008, .rd 0x100010 0x07080000, .cnt 0x100018, .cnt 0x100020, .rd 0x100028,
    { off := 0x200000, acc := .rw, mask := 0xFFFF }, { off := 0x200008, acc := .rw, mask := 0xFFFF }, .rd 0x200010,
    { off := 0x200100, acc := .rw, mask := maskOf 47 0, count := 8 }, { off := 0x200200, acc := .ro, count := 8 },
    { off := 0x200300, acc := .rw, mask := maskOf 16 0, ok := fun v => within 0 16 (bits v 7 0) },
    { off := 0x200308, acc := .ro, count := 16 } ]

/-- A Loop Engine channel's block (LE base + 0x1000 + n * 0x1000). -/
def leRows : List RegRow :=
  [ { off := 0x000, acc := .ws, rst := 0x000003E800000000, mask := maskOf 2 0 + maskOf 45 32 + maskOf 61 48,
      ok := fun v => within 50 10000 (bits v 45 32) && 10000 % bits v 45 32 == 0 },
    { off := 0x008, acc := .ws, mask := maskOf 35 0, ok := fun v => decide (bits v 3 0 ≤ 4) && decide (bits v 15 12 ≤ 2) && decide (bits v 27 24 ≤ 3) },
    { off := 0x010, acc := .ws, mask := 1 },
    { off := 0x018, acc := .wo, mask := 7, ok := fun v => within 1 4 (bits v 2 0) },
    .rd 0x020, { off := 0x028, acc := .rw }, { off := 0x030, acc := .rw, mask := maskOf 31 0 },
    .rd 0x038, .rd 0x040, .rd 0x048, { off := 0x050, acc := .ro, count := 4 },
    { off := 0x400, acc := .rw, count := 64 }, { off := 0x800, acc := .rw, count := 64 } ]

/-- The row of a table that names an offset. -/
def findRow (rs : List RegRow) (off : Nat) : Option RegRow :=
  rs.find? fun r => decide (r.off ≤ off) && (off - r.off) % r.stride == 0 && decide ((off - r.off) / r.stride < r.count)

/-- The register that a hall register offset (from the hall window) names. -/
def hallRow (off : Nat) : Option RegRow :=
  if within 0xE200000 0xE3FFFFF off then findRow hallMemRows (off - 0xE200000)
  else if within 0xE400000 0xE43FFFF off then findRow stbRows ((off - 0xE400000) % 0x10000)
  else if within 0xE600000 0xE61FFFF off then findRow syncRows ((off - 0xE600000) % 0x1000)
  else if within 0xE800000 0xE9FFFFF off then findRow suRows (off - 0xE800000)
  else if within 0xEA00000 0xEBFFFFF off then findRow (rqRows 6 true) (off - 0xEA00000)
  else if within 0xEC00000 0xEC003FF off then findRow (lnkRows 4 false) ((off - 0xEC00000) % 0x100)
  else if within 0xEE00000 0xEFFFFFF off then findRow pwrRows (off - 0xEE00000)
  else none

/-- The register that a DCU offset names. -/
def dcuRow (off : Nat) : Option RegRow :=
  if within 0x5000 0x505F off then findRow cfgRows (off - 0x5000)
  else if within 0x9000 0x9FFF off then findRow (evqRows (off < 0x9040)) ((off - 0x9000) % 0x40)
  else if within 0xA000 0xAFFF off then findRow fnRows ((off - 0xA000) % 0x100)
  else findRow dcuRows off

/-- The register that a memory base die offset names. -/
def mbRow (off : Nat) : Option RegRow :=
  if within 0x1000 0x12FF off then findRow (lnkRows 4 false) ((off - 0x1000) % 0x100) else findRow mbRows off

/-- The register that an I/O die offset names: 64 ingest channels, 4 CAN controllers and 6 MACs on each die. -/
def iodRow (off : Nat) : Option RegRow :=
  if within 0x0100000 0x0103FFF off then findRow ichRows ((off - 0x0100000) % 0x100)
  else if within 0x0200000 0x0203FFF off then findRow canRows ((off - 0x0200000) % 0x1000)
  else if within 0x0300000 0x0305FFF off then findRow ethRows ((off - 0x0300000) % 0x1000)
  else if within 0x0A00000 0x0A000FF off then findRow (rqRows 4 false) (off - 0x0A00000)
  else if within 0x0C00000 0x0C007FF off then findRow (lnkRows 2 true) ((off - 0x0C00000) % 0x100)
  else if within 0x0C00800 0x0C008FF off then findRow (lnkRows 0 true) (off - 0x0C00800)
  else findRow iodRows off

/-- The register that an island offset names. -/
def islRow (off : Nat) : Option RegRow :=
  if within 0x0200 0x025F off then findRow cfgRows (off - 0x0200)
  else if within 0x101000 0x120FFF off then findRow leRows ((off - 0x101000) % 0x1000)
  else if within 0x201000 0x202FFF off then findRow canRows ((off - 0x201000) % 0x1000)
  else if within 0x203000 0x203FFF off then findRow ethRows (off - 0x203000)
  else findRow islRows off

/-- SENT, flash and PMBus are on I/O die 0, the Gallery on I/O die 1 (the table of external interfaces). -/
def iodHas (i off : Nat) : Bool :=
  if i = 0 then !within 0x0700000 0x07FFFFF off else !(within 0x0600000 0x06FFFFF off || within 0x0800000 0x09FFFFF off)

/-- The table row of a register. -/
def regRow (k : RegKey) : Option RegRow :=
  match k.blk with
  | .dcu => dcuRow k.off
  | .hall _ => hallRow k.off
  | .iod i => if iodHas i k.off then iodRow k.off else none
  | .mb _ => mbRow k.off
  | .isl _ => islRow k.off

/-- The reset value of a register. -/
def resetOf (k : RegKey) : Nat := match regRow k with
  | some r => if k = ⟨.isl .B, 0⟩ then 0xB001 else if k.blk = .iod 0 ∧ within 0x0900000 0x0900068 k.off = true then 0x40 + (k.off - 0x0900000) / 8 else r.rst
  | none => 0

end Sys2Proof.Machine
end

