-- ==== Sys2Proof/Machine/Ops.lean ====
section
/-! DEFINITION. Named operations over the block's state: registers and their counters, units and their paths, contexts and partitions, and the sending of event and error records. -/

namespace Sys2Proof.Machine

/-! ## Registers and counters -/

/-- The stored value of a register. -/
def Chip.reg (c : Chip) (k : RegKey) : Nat := c.regs.get k (resetOf k)

/-- Store a register's value. -/
def Chip.setReg (c : Chip) (k : RegKey) (v : Nat) : Chip := { c with regs := c.regs.set k (v % 2 ^ 64) }

/-- Add to a saturating counter register. -/
def Chip.bump (c : Chip) (k : RegKey) (n : Nat := 1) : Chip := c.setReg k (sat64 (c.reg k) n)

/-- DCU register. -/
def dcuK (off : Nat) : RegKey := ⟨.dcu, off⟩

/-- Register of the stable with this key (R9). -/
def stbK (key off : Nat) : RegKey := ⟨.hall (key / 4), 0xE400000 + key % 4 * 0x10000 + off⟩

/-- Hall memory register. -/
def hallMemK (site off : Nat) : RegKey := ⟨.hall site, 0xE200000 + off⟩

/-- Register of the synchronisation block of partition `p` in a hall. -/
def syncK (site p off : Nat) : RegKey := ⟨.hall site, 0xE600000 + p * 0x1000 + off⟩

/-- Search Unit register. -/
def suK (site off : Nat) : RegKey := ⟨.hall site, 0xE800000 + off⟩

/-- Hall power register. -/
def pwrK (site off : Nat) : RegKey := ⟨.hall site, 0xEE00000 + off⟩

/-- Memory base die register. -/
def mbK (m off : Nat) : RegKey := ⟨.mb m, off⟩

/-- I/O die register. -/
def iodK (i off : Nat) : RegKey := ⟨.iod i, off⟩

/-- Island register, by offset from island address 0x100_0000. -/
def siK (i : Isl) (off : Nat) : RegKey := ⟨.isl i, off⟩

/-- Island register of the Loop Engine block. -/
def leK (i : Isl) (off : Nat) : RegKey := ⟨.isl i, 0x100000 + off⟩

/-- Island register of the I/O block. -/
def sioK (i : Isl) (off : Nat) : RegKey := ⟨.isl i, 0x200000 + off⟩

/-- The DCU's access-error counter. -/
def dcuErr : RegKey := dcuK 0x18

/-- The access-error counter of the unit that owns an offset (R6, R7). -/
def errKey (k : RegKey) : RegKey :=
  match k.blk with
  | .dcu =>
    if within 0x5000 0x5FFF k.off then dcuK 0x5058
    else if within 0x7000 0x7FFF k.off then dcuK 0x70D0
    else if within 0xA000 0xAFFF k.off then dcuK (0xA038 + (k.off - 0xA000) / 0x100 * 0x100)
    else dcuErr
  | .hall s =>
    if within 0xE400000 0xE43FFFF k.off then ⟨.hall s, (k.off / 0x10000) * 0x10000 + 0x38⟩
    else if within 0xE600000 0xE61FFFF k.off then ⟨.hall s, (k.off / 0x1000) * 0x1000 + 0x148⟩
    else if within 0xE800000 0xE9FFFFF k.off then suK s 0x50
    else if within 0xEA00000 0xEBFFFFF k.off then ⟨.hall s, 0xEA00090⟩
    else if within 0xEC00000 0xEC003FF k.off then ⟨.hall s, (k.off / 0x100) * 0x100 + 0x98⟩
    else if within 0xEE00000 0xEFFFFFF k.off then pwrK s 0x40
    else hallMemK s 0x10
  | .iod i =>
    if within 0x0A00000 0x0AFFFFF k.off then iodK i 0x0A00090
    else if within 0x0C00000 0x0C008FF k.off then iodK i ((k.off / 0x100) * 0x100 + 0x98)
    else iodK i 8
  | .mb m => if within 0x1000 0x12FF k.off then mbK m ((k.off / 0x100) * 0x100 + 0x98) else mbK m 0x438
  | .isl i =>
    if within 0x200 0x25F k.off then siK i 0x258
    else if within 0x100000 0x1FFFFF k.off then leK i 0x28
    else siK i 0xC0

/-- Count an access error at a register's owner. -/
def Chip.countErr (c : Chip) (k : RegKey) : Chip := c.bump (errKey k)

/-! ## Units -/

/-- Key of a stable reference. -/
def stbKey (r : StbRef) : Nat := r.site.val * 4 + r.stable.val

/-- Key of a slot reference. -/
def slotKey (r : CtxRef) : Nat := (r.site.val * 4 + r.stable.val) * 2 + r.slot.val

/-- A unit path (R405). -/
def unitPath (kind site stable stall lane sub : Nat) : Nat :=
  kind * 2 ^ 28 + site * 2 ^ 20 + stable * 2 ^ 18 + stall * 2 ^ 16 + lane * 2 ^ 11 + sub

/-- The path of a stable's shared units (KIND 0x1). -/
def stbUnit (key : Nat) (sub : Nat := 0) : Nat := unitPath 1 (key / 4) (key % 4) 0 0 sub

/-- The path of a stall of a stable (KIND 0x0). -/
def stallUnit (key stall : Nat) (sub : Nat := 0) : Nat := unitPath 0 (key / 4) (key % 4) stall 0 sub

/-- The path of a hall's shared units (KIND 0x2). -/
def hallUnit (site sub : Nat) : Nat := unitPath 2 site 0 0 0 sub

/-- The path of a memory base die. -/
def mbUnit (m sub : Nat) : Nat := unitPath 4 (0x48 + m) 0 0 0 sub

/-- The path of an I/O die. -/
def iodUnit (i sub : Nat) : Nat := unitPath 5 (0x4E + i) 0 0 0 sub

/-- Die number of an island: 0 A, 1 B. -/
def islN : Isl → Nat
  | .A => 0
  | .B => 1

/-- The other island. -/
def otherIsl : Isl → Isl
  | .A => .B
  | .B => .A

/-- The path of an island. -/
def islUnit (i : Isl) (sub : Nat := 0) : Nat := unitPath 6 (0x50 + islN i) 0 0 0 sub

/-- The path of the acting DCU. -/
def dcuUnit (sub : Nat := 0) : Nat := unitPath 7 0x4E 0 0 0 sub

/-- The logical hall that a site holds, if any. -/
def Chip.hallOf (c : Chip) (site : Nat) : Option Nat := (List.find? (fun e => e.2 == site) c.site.hallmap).map Prod.fst

/-- The site of a logical hall, if assigned. -/
def Chip.siteOf (c : Chip) (h : Nat) : Option Nat := c.site.hallmap.look h

/-- Logical stable number 4h + s of a stable key, if its hall has an ID. -/
def Chip.logStb (c : Chip) (key : Nat) : Option Nat := (c.hallOf (key / 4)).map fun h => 4 * h + key % 4

/-- Stable key of a logical stable number. -/
def Chip.keyOf (c : Chip) (n : Nat) : Option Nat := (c.siteOf (n / 4)).map fun s => 4 * s + n % 4

/-- Power state of a hall's site. -/
def Chip.hallPwr (c : Chip) (site : Nat) : HallPwr := c.pwr.get site {}

/-- Temperature bin of a reading in 1/16 degree (R390). -/
def tempBin (t : Int) : Nat := if t < 0 then 0 else min 7 (t.toNat / 240 + 1)

/-! ## Partitions -/

/-- A partition's state. -/
def Chip.part (c : Chip) (p : Nat) : Part := c.parts.get p {}

/-- Change a partition's state. -/
def Chip.updPart (c : Chip) (p : Nat) (f : Part → Part) : Chip := { c with parts := c.parts.upd p {} f }

/-- A partition holds its stables, windows and queue: from CREATE until STOP (R449). -/
def Part.held (p : Part) : Bool := p.state == 2 || p.state == 3 || p.state == 4 || p.state == 5

/-- The partition that owns a logical stable number, if any (R10). -/
def Chip.ownerOf (c : Chip) (n : Nat) : Option Nat :=
  (List.find? (fun e => e.2.held && bit e.2.stables n) c.parts).map Prod.fst

/-- The partition that owns a stable key, if any. -/
def Chip.partOfStb (c : Chip) (key : Nat) : Option Nat := (c.logStb key).bind c.ownerOf

/-! ## Event records (R425-R429, R449) -/

/-- TYPE with SEV in [15:12]. -/
def evTyp (sev typ : Nat) : Nat := sev * 4096 + typ

/-- Event record types, in code order (R425). -/
inductive Ev where
  | USER | FRAME_DONE | CMD_DONE | CFG_APPLIED | SCENE_APPLIED | SCENE_RETIRED | SCENE_DEFER | PART_RESTARTED | PART_STOPPED
  | SPARE_READY | STAIR_DONE | HALL_REMOVED | COUNTS_CHANGED | MARGIN_UPDATED | REG_FB_RESTORED | COOLING_RESTORED | CHK_ARBITRATED
  | INGEST_BACKPRESSURE | INGEST_OVERRUN | REG_FB_LOST | LINK_DEGRADED | LINK_DOWN | PWR_BUDGET_LOST | THM_SENSOR | COOLING_DEGRADED
  | AGEING_SUSPECT | MARGIN_TOPCLK | MARGIN_RESET | MARGIN_WRITE_FAIL | STOP_DISARMED | CTX_PINNED_WAIT | SELFTEST_OFF | CONFIG_DEFAULT
  | STANDBY_FAIL | PKG_WITHDRAWN | EVQ_OVERFLOW | PMBUS_LOST | TIME_LOST | PPS_REJECT
  | ERROR | PART_FAULT | PART_REJECT | PART_FAILED | JOB_REFUSED | PERS_MISMATCH | CAPS_REFUSED | IMAGE_REJECT | CFG_ABORTED
  | SCENE_REJECT | PLAN_REFUSED | PLAN_TIMEOUT | PLAN_MISSING | PLAN_REJECTED | CHK_RETIRE | CHK_SERVICE_END | CHK_BARRED
  | SELFTEST_FAIL | PKG_REJECT | LINK_FENCED | HALL_FENCED | THERMAL_TRIP | LE_TRIP | ISLAND_BOOT_FAIL | DCU_FAILOVER
  | SAFE_STOP | COOLING_STOPPED | STACK_LOST
deriving DecidableEq, Repr

/-- SEV and TYPE of a record type: SEV 0 from 0x001, 1 from 0x040, 2 from 0x080, 3 from 0x0C0. -/
def Ev.code (e : Ev) : Nat :=
  let i := e.ctorIdx
  if i < 17 then evTyp 0 (i + 1) else if i < 39 then evTyp 1 (0x40 + (i - 17))
  else if i < 64 then evTyp 2 (0x80 + (i - 39)) else evTyp 3 (0xC0 + (i - 64))

/-- Put a record on its way to a queue. -/
def Chip.postTo (c : Chip) (q : Nat) (r : EvtRec) : Chip :=
  { c with log := { c.log with outbox := c.log.outbox ++ [(q, r)] } }

/-- A record of a type, written now by a unit, with its body. -/
def Chip.mkEv (c : Chip) (e : Ev) (unit : Nat) (body : List (Nat × Nat × Nat)) : EvtRec :=
  { typ := e.code, unit := unit, time := c.time.now, body := body }

/-- Send a record to the queues of R449: the partition's EVQ while it holds one, queue 0 for records of SEV 2 and 3 and
    for records that concern no partition. -/
def Chip.route (c : Chip) (r : EvtRec) (part : Option Nat) : Chip :=
  match part with
  | some p =>
    if (c.part p).held then
      let c := c.postTo (c.part p).evq r
      if r.typ / 4096 ≥ 2 then c.postTo 0 r else c
    else c.postTo 0 r
  | none => c.postTo 0 r

/-- Write an event record whose body is the partition at 0x10 and up to two values at 0x18 and 0x20 (R426). -/
def Chip.post (c : Chip) (e : Ev) (unit : Nat) (part : Option Nat) (v1 : Nat := 0) (v2 : Nat := 0) : Chip :=
  c.route (c.mkEv e unit [(0x10, 1, part.getD 0xFF), (0x18, 8, v1), (0x20, 8, v2)]) part

/-! ## Error records (R405-R408) -/

/-- Signed 1/16 degree as the 16-bit pattern of a record. -/
def tempPat (t : Int) : Nat := toBits 16 t

/-- A sensor's reading for a record: 0x8000 while it is suspect or absent (R406). -/
def Sens.pat (s : Sens) (n : Nat) : Nat :=
  if bit s.sus n then 0x8000 else match s.temps.look n with
    | some t => tempPat t
    | none => 0x8000

/-- A 16-bit sensor field of a register: 0x8000 while suspect, 0 before the first reading. -/
def Sens.fld (s : Sens) (n : Nat) : Nat := if bit s.sus n then 0x8000 else (s.temps.look n).elim 0 tempPat

/-- The sensors of a die by die code, and their number; the package as a whole has none. -/
def Chip.dieSens (c : Chip) (die : Nat) : Sens × Nat :=
  if die < 72 then ((c.pwr.get die {}).toSens, 4)
  else if die < 0x4E then (c.pm.heat.get (die - 0x48) {}, 4)
  else if die < 0x50 then (c.pm.heat.get (die - 0x46) {}, 8)
  else if die < 0x52 then (c.pm.heat.get (die - 0x46) {}, 2)
  else ({}, 1)

/-- A valid flow reading is held: one that a good message carried within 10 ms (R437). -/
def PwrSt.flowValid (m : PwrSt) (t : Nat) : Bool := m.flowOk && decide (t ≤ m.flowAt + 10000000)

/-- The PMBus rail of a die, by die code (R441): its hall zone, VDD_MEMB or VDD_IO; the islands' rails are not on the DCU's PMBus (R442). -/
def railOf (die : Nat) : Option Nat := if die < 72 then some (die / 9) else if die < 0x4E then some 8 else if die < 0x50 then some 11 else none

/-- Temperature, supply voltage and bin fields of a record for a unit path (R407). -/
def Chip.capture (c : Chip) (unit : Nat) : Nat × Nat × Nat :=
  let kind := bits unit 31 28
  let site := bits unit 27 20
  let sub := bits unit 10 0
  let h := c.hallPwr site
  let bin := h.point + 16 * tempBin h.hot
  let hp := if h.hotOk then tempPat h.hot else 0x8000
  if kind ≤ 1 then (hp, h.vzone, bin)
  else if kind = 2 then
    (if within 1 3 sub then h.pat 2 else if within 0x100 0x1FF sub then h.pat (sub - 0x100) else h.pat 3, h.vzone, bin)
  else let x := c.dieSens site
    (x.1.pat (Config.nearestSensor unit % x.2), (railOf site).elim 0 fun k => c.rails.get k 0, 0xFF)

/-- Send an error record to the DCU, filling HALL, DEVTIME and the capture fields (R406, R407). -/
def Chip.sendErr (c : Chip) (r : ErrRec) : Chip :=
  let cap := c.capture r.unit
  let hall := if bits r.unit 31 28 ≤ 2 then (c.hallOf (bits r.unit 27 20)).getD 0xFF else 0xFF
  let r := { r with hall := hall, time := c.time.now, temp := cap.1, volt := cap.2.1, bin := cap.2.2 }
  { c with log := { c.log with inbox := c.log.inbox ++ [r] } }

/-- Activity goes to an accounting row at the next update (R283). -/
def Chip.charged (c : Chip) (r : Charge) : Chip := { c with acct := c.acct ++ [r] }

/-- Drop the event groups of a hall whose ID is lost or moves (R411). -/
def Chip.errForget (c : Chip) (hall : Nat) : Chip := { c with log := { c.log with groups := c.log.groups.filter fun e => e.1.1 != hall } }

/-! ## Contexts -/

/-- The context in a slot, if any. -/
def Chip.ctx? (c : Chip) (k : Nat) : Option Ctx := c.core.slots.look k

/-- The context in a slot, or an empty one. -/
def Chip.ctx (c : Chip) (k : Nat) : Ctx := c.core.slots.get k {}

/-- Store a resident context. -/
def Chip.setCtx (c : Chip) (k : Nat) (x : Ctx) : Chip := { c with core := { c.core with slots := c.core.slots.set k x } }

/-- Change a resident context. -/
def Chip.updCtx (c : Chip) (k : Nat) (f : Ctx → Ctx) : Chip := c.setCtx k (f (c.ctx k))

/-- Change the context (partition, index) wherever it is. -/
def Chip.onCtx (c : Chip) (p i : Nat) (f : Ctx → Ctx) : Chip :=
  { c with core := { c.core with slots := c.core.slots.map fun e => if e.2.part = p ∧ e.2.idx = i ∧ e.2.state ≠ 0 then (e.1, f e.2) else e, saved := c.core.saved.map fun e => if e.1 = (p, i) then (e.1, f e.2) else e } }

/-- The Search Unit of a site. -/
def Chip.suSt (c : Chip) (site : Nat) : SuSt := c.su.get site {}

/-- Change the Search Unit of a site. -/
def Chip.updSu (c : Chip) (site : Nat) (f : SuSt → SuSt) : Chip := { c with su := c.su.upd site {} f }

/-- The plan port exchanges of a context that are open (R236). -/
def Chip.planOpen (c : Chip) (site p i : Nat) : List Nat := ((c.suSt site).exch.filter fun q => q.own && q.part == p && q.idx == i).map Exch.seq

/-- A release of the context in slot `k` takes effect now, or, behind open exchanges of the context, once they have ended (R221). -/
def Chip.owe (c : Chip) (k : Nat) (op : Held) (now : Chip → Chip) : Chip :=
  let x := c.ctx k
  match c.planOpen (k / 8) x.part x.idx with
  | [] => now c
  | l => c.updSu (k / 8) fun u => { u with owed := u.owed ++ [{ after := l, part := x.part, idx := x.idx, slot := k, lfc := x.lfc, op := op }] }

/-- A stable's check engine. -/
def Chip.eng (c : Chip) (key : Nat) : ChkEng := c.core.eng.get key {}

/-- Change a stable's check engine. -/
def Chip.updEng (c : Chip) (key : Nat) (f : ChkEng → ChkEng) : Chip :=
  { c with core := { c.core with eng := c.core.eng.upd key {} f } }

/-- The live mode of a stable (STB_MODE.CHECKED, R244). -/
def Chip.checkedMode (c : Chip) (key : Nat) : Bool := bit (c.reg (stbK key 0xA0)) 0

/-- A context's descriptor. -/
def Chip.desc? (c : Chip) (x : Ctx) : Option CtxDesc := (c.part x.part).ctxs[x.idx]?

/-- The job that a context belongs to. -/
def Chip.jobOf (c : Chip) (x : Ctx) : Option Job := (c.desc? x).bind fun d => (c.part x.part).jobs.find? fun j => j.job == d.job

/-- The running-cycle count of a context whose LFC advances (R274): it restarts, but not in a ONESHOT job's context. -/
def Chip.lfcBudget (c : Chip) (x : Ctx) : Nat := if (c.jobOf x).map Job.kind = some 1 then x.budget else 0

/-- The frame period T in ns (DCU_FRAMECFG, R383). -/
def Chip.T (c : Chip) : Nat := bits (c.reg (dcuK 0x6090)) 31 0

/-- The landing length L in ns. -/
def Chip.L (c : Chip) : Nat := bits (c.reg (dcuK 0x6090)) 63 32

/-- start(N) (R23). -/
def Chip.start (c : Chip) (n : Nat) : Nat := c.time.start0 + n * c.T

/-- The frame that has last started at the acting DCU. -/
def Chip.curFrame (c : Chip) : Nat := c.time.frame

/-- The local DEVTIME copy of a die (R21), by die code. -/
def Chip.localTime (c : Chip) (die : Nat) : Nat := max ((c.time.now : Int) + c.time.offs.get die 0).toNat (c.time.floors.get die 0)

/-- The instant at a multiple of `per` ns that the local DEVTIME of a die has reached; copies stand within 20 ns of one another (R21). -/
def Chip.instant (c : Chip) (die per : Nat) : Option Nat :=
  let l := c.localTime die
  let t := (l + 20) / per * per
  if l ≤ t + 20 then some t else none

/-- Give a die's copy an offset from the acting DCU's counter. A copy that is ahead waits; it never steps backwards (R21,
    R22). -/
def Chip.setOffset (c : Chip) (die : Nat) (off : Int) : Chip :=
  { c with time := { c.time with offs := c.time.offs.set die off, floors := c.time.floors.set die (c.localTime die) } }

/-- Bring DEVTIME to the time a command carries; it never steps backwards (R22). -/
def Chip.at (c : Chip) (t : Nat) : Chip := { c with time := { c.time with now := max c.time.now t } }

/-- A tile word as the tile holds it: a tile that a restore did not bring back holds free values until it is written or cleared
    (R277). -/
def Ctx.accRaw (x : Ctx) (key : Nat) : W32 := match x.acc.look key with
  | some v => v
  | none => match x.lost.find? fun t => t.1 == key / 4096 with
    | some t => Config.deadTile t.2 key
    | none => 0

/-- The context status word (CSW). `slot` is the resident slot. In an idle hall and in a self-test slot, STATE reads 0x3 (R398, R334). -/
def Chip.csw (c : Chip) (slot : Nat) (x : Ctx) : Nat :=
  let pinned := ((c.desc? x).map CtxDesc.pinned).getD false
  let blk := x.blk
  let insns := match blk with
    | some b => if b.state = 2 then b.shad.insns else if b.state = 5 then b.arb.insns else b.prim.insns
    | none => 0
  let pass := match blk with
    | some b => decide (b.state = 2)
    | none => false
  let inb := match blk with
    | some _ => true
    | none => false
  let chk := match blk with
    | some b => b.checked
    | none => c.checkedMode (slot / 2)
  insns * 2 ^ 24 + (slot % 2) * 2 ^ 18 + b2n pinned * 2 ^ 17 + b2n x.multi * 2 ^ 16 + x.fault * 2 ^ 8 + b2n x.overrun * 2 ^ 7
    + b2n pass * 2 ^ 6 + b2n inb * 2 ^ 5 + b2n chk * 2 ^ 4 + if ((c.hallPwr (slot / 8)).idle = true ∨ slot / 2 ∈ c.core.testing) ∧ (x.state = 1 ∨ x.state = 2) then 3 else x.state

/-! ## Landing signals (R146) -/

/-- The contexts of a partition that the synchronisation home counts (R146). -/
def Chip.counted (c : Chip) (p : Nat) : List Ctx :=
  ((c.core.slots.filter fun e => e.2.part == p && e.2.state != 0 && e.2.state != 4).map Prod.snd)
    ++ ((c.core.saved.filter fun e => e.1.1 == p && e.2.state == 5).map Prod.snd)

/-- The oldest live frame of a partition, MAPPED and SIGNALLED (R146); zeros where no context is counted. -/
def Chip.landStat (c : Chip) (p : Nat) : Nat × Nat × Nat :=
  let xs := c.counted p
  match xs with
  | [] => (0, 0, 0)
  | x :: ys =>
    let f := ys.foldl (fun m y => min m y.lfc) x.lfc
    let at' := xs.filter fun y => y.lfc == f
    (f, at'.length, (at'.filter fun y => y.signal == some f).length)

/-- Write FRAME_DONE the first time SIGNALLED equals MAPPED for the oldest live frame (R146). -/
def Chip.frameDone (c : Chip) (p : Nat) : Chip :=
  let (f, m, n) := c.landStat p
  if m ≥ 1 ∧ n = m ∧ !(c.part p).doneFrames.contains f then
    let c := c.updPart p fun q => { q with doneFrames := f :: q.doneFrames }
    let unit := hallUnit ((c.siteOf (c.part p).home).getD 0) 4
    c.route (c.mkEv .FRAME_DONE unit [(0x10, 8, f), (0x18, 8, p)]) (some p)
  else c

/-- Accepted frame parameters (R23, R24, R383). -/
def frameOk (t l : Nat) : Bool := within 10000000 100000000 t && decide (1 ≤ l) && decide (20 * l ≤ 7 * t)

/-- DCU_FRAMECFG takes a value pair; any pair that is not accepted is replaced by the reset values, with its record (R383; log 71
    for a write of the register). -/
def Chip.frameCfg (c : Chip) (v : Nat) : Chip :=
  if frameOk (bits v 31 0) (bits v 63 32) then c.setReg (dcuK 0x6090) v else (c.setReg (dcuK 0x6090) (resetOf (dcuK 0x6090))).post .CONFIG_DEFAULT (dcuUnit) none

end Sys2Proof.Machine
end

