-- ==== Sys2Proof/Machine/WordCode.lean ====
section
/-! DEFINITION. The word code RS(36,32) over GF(2^8) with 0x11D (R161, R162): check symbols, syndromes and the location of a single symbol in error. -/

namespace Sys2Proof.Machine

/-- Multiplication by α = 0x02 (R161). -/
def gfDouble (a : Nat) : Nat := if a ≥ 128 then Nat.xor (2 * a - 256) 0x1D else 2 * a

/-- α to a power. -/
def gfPow : Nat → Nat
  | 0 => 1
  | n + 1 => gfDouble (gfPow n)

/-- Product in GF(2^8), over the bits of `b` from the top. -/
def gfMulAux : Nat → Nat → Nat → Nat
  | 0, _, _ => 0
  | n + 1, a, b => Nat.xor (gfDouble (gfMulAux n a (b / 2))) (if b % 2 == 1 then a else 0)

/-- Product in GF(2^8). -/
def gfMul (a b : Nat) : Nat := gfMulAux 8 a b

/-- Value of a polynomial given by its symbols from w_0 upwards at a point. -/
def gfEval (x : Nat) : List Nat → Nat
  | [] => 0
  | w :: ws => Nat.xor w (gfMul x (gfEval x ws))

/-- The 36 symbols of an error pattern or codeword held as a number. -/
def symbols (e : Nat) : List Nat := (List.range 36).map fun j => bits e (8 * j + 7) (8 * j)

/-- The syndromes S_j = w(α^j), j = 0-3; those of a stored word are those of its error pattern. -/
def syndromes (e : Nat) : List Nat := [0, 1, 2, 3].map fun j => gfEval (gfPow j) (symbols e)

/-- One division step of the remainder modulo g(x): shift in the next data symbol from the top (R161). -/
def rsStep (r : Nat × Nat × Nat × Nat) (d : Nat) : Nat × Nat × Nat × Nat :=
  let (r0, r1, r2, r3) := r
  let f := Nat.xor r3 d
  (gfMul 0x40 f, Nat.xor r0 (gfMul 0x78 f), Nat.xor r1 (gfMul 0x36 f), Nat.xor r2 (gfMul 0x0F f))

/-- The check symbols c0-c3 of 32 data bytes (R161). -/
def checkSymbols (ds : List Byte) : Nat × Nat × Nat × Nat := ds.reverse.foldl (fun r d => rsStep r d.toNat) (0, 0, 0, 0)

/-- What a read of a stored word finds (R162). -/
inductive WordRead where
  | clean
  | corrected (sym val : Nat)
  | uncorrectable (synd : List Nat)
deriving DecidableEq, Repr

/-- Locate a single symbol by the syndromes, or report that none is located (R162). -/
def classify (e : Nat) : WordRead :=
  match syndromes e with
  | [s0, s1, s2, s3] =>
    if s0 == 0 && s1 == 0 && s2 == 0 && s3 == 0 then .clean
    else match firstBelow 36 (fun i => let x := gfPow i; s0 != 0 && gfMul s0 x == s1 && gfMul s1 x == s2 && gfMul s2 x == s3) with
      | some i => .corrected i s0
      | none => .uncorrectable [s0, s1, s2, s3]
  | _ => .clean

/-- The error that a reader's data still carries after the decoder: none once the located symbol is removed. -/
def residue (e : Nat) : Nat := match classify e with
  | .corrected i v => Nat.xor e (v <<< (8 * i))
  | _ => e

end Sys2Proof.Machine
end

