-- ==== Sys2Proof/Machine/Store.lean ====
section
/-! DEFINITION. The physical stores: where device addresses lead (R170, R172, R173), reads and merged writes under the word code (R153, R161-R163), the aliases (R156-R158) and the tag slots of blocks (R165-R168). -/

namespace Sys2Proof.Machine

/-! ## Physical keys -/

/-- Key of an offset in the hall window of a site. -/
def sramKey (site off : Nat) : Nat := 0x4000000000 + site * 0x10000000 + off

/-- Key of an island's own memory (4 MiB) by offset. -/
def islKey (i : Isl) (off : Nat) : Nat := 0x5200000000 + islN i * 0x10000000 + off

/-- Key of a flash byte (R366). -/
def flashKey (off : Nat) : Nat := 0x1000000000000 + off

/-- Key of a byte of host memory as the device has posted it (R427). -/
def hostKey (a : Nat) : Nat := 0x1000000000000000 + a

/-- Where a device address leads (R172, R173). -/
inductive Target where
  | store (key : Nat)
  | accum (site off : Nat)
  /-- A bit-set (0), bit-clear (1) or rotate (2) view of a hall window offset. -/
  | aliased (kind site off : Nat)
  | reg (k : RegKey)
  | caps (off : Nat)
  | mailbox (i : Isl) (off : Nat)
  /-- Unmapped in the device map: counted in DCU_ACC_ERR. -/
  | unmapped
  /-- Unmapped in a hall window: counted in that hall's HALL_MEM_ERR. -/
  | hallHole (site : Nat)
deriving DecidableEq, Repr

/-- A mapped store offset of a hall window (R173). -/
def hallStore (off : Nat) : Bool := off < 0x800000 || within 0x1000000 0x17FFFFF off || within 0x1800000 0x19FFFFF off

/-- Where a hall window offset leads (R173). -/
def hallTarget (site off : Nat) : Target :=
  if hallStore off then .store (sramKey site off)
  else if within 0x800000 0x8FFFFF off then .accum site off
  else if off < 0x4000000 then .hallHole site
  else if off < 0x8000000 then .aliased 0 site (off - 0x4000000)
  else if off < 0xC000000 then .aliased 1 site (off - 0x8000000)
  else if off < 0xE000000 then .aliased 2 site (off - 0xC000000)
  else if off < 0xF000000 then .reg ⟨.hall site, off⟩
  else .hallHole site

/-- Where a device address leads (R172). -/
def Chip.target (c : Chip) (a : Nat) : Target :=
  if a < 0x3600000000 then .store a
  else if within 0x4000000000 0x43FFFFFFFF a then
    match c.siteOf ((a - 0x4000000000) / 0x10000000) with
    | some s => hallTarget s (a % 0x10000000)
    | none => .unmapped
  else if within 0x5000000000 0x501FFFFFFF a then .reg ⟨.iod ((a - 0x5000000000) / 0x10000000), a % 0x10000000⟩
  else if within 0x5100000000 0x5105FFFFFF a then .reg ⟨.mb ((a - 0x5100000000) / 0x1000000), a % 0x1000000⟩
  else if within 0x5200000000 0x520FFFFFFF a then .mailbox .A (a - 0x5200000000)
  else if within 0x5210000000 0x521FFFFFFF a then .mailbox .B (a - 0x5210000000)
  else if within 0x5300000000 0x530FFFFFFF a then
    if c.site.capsBase ≤ a ∧ a < c.site.capsBase + 4096 then .caps (a - c.site.capsBase)
    else .reg ⟨.dcu, a - 0x5300000000⟩
  else .unmapped

/-- The memory base die that holds a DRAM address (R170). -/
def stackOf (a : Nat) : Nat := a / 4096 % 6

/-- The device physical address of a store key: hall windows by logical ID, 0 where the site has none. -/
def Chip.devAddr (c : Chip) (key : Nat) : Nat :=
  if key < 0x4000000000 then key
  else if key < 0x5200000000 then
    match c.hallOf ((key - 0x4000000000) / 0x10000000) with
    | some h => 0x4000000000 + h * 0x10000000 + (key - 0x4000000000) % 0x10000000
    | none => 0
  else key

/-- Key of a word of a stable's sample delay buffer (R255): it lies outside the address map, and is kept at an offset of the hall window
    that no address reaches. -/
def dlyKey (stb slot off : Nat) : Nat := sramKey (stb / 4) (0x900000 + stb % 4 * 0x10000 + slot % 2 * 0x8000 + off)

/-- The line of a DRAM word within its stack (R171). -/
def lineOf (key : Nat) : Nat := (key / 4096 / 6 * 4096 + key % 4096) / 256

/-- The system cache of a stack holds the line of a DRAM word: every access meets that copy (R171). -/
def Chip.cached (c : Chip) (key : Nat) : Bool :=
  let b := c.rq.dies.get (stackOf key) {}
  (List.range 16).any fun w => (b.lines.look (16 * (lineOf key % 8192) + w)).map Prod.fst == some (lineOf key)

/-- The unit that holds a word: the unit path of its error records (R162, R405). -/
def Chip.holdUnit (c : Chip) (key : Nat) : Nat :=
  if key < 0x4000000000 then mbUnit (stackOf key) (if c.cached key then 2 else 3)
  else if key < 0x5200000000 then
    let site := (key - 0x4000000000) / 0x10000000
    let off := key % 0x10000000
    if off < 0x800000 then unitPath 0 site (off / 0x80000 / 4) (off / 0x80000 % 4) 0 5
    else if off < 0x900000 then unitPath 0 site ((off - 0x800000) / 0x40000) ((off - 0x800000) / 0x10000 % 4) 0 6
    else if off < 0x940000 then unitPath 1 site ((off - 0x900000) / 0x10000) 0 0 4
    else if off < 0x1800000 then unitPath 1 site ((off - 0x1000000) / 0x200000) 0 0 2
    else hallUnit site 2
  else islUnit (if key < 0x5210000000 then .A else .B)

/-- The counters of corrected and uncorrectable words, and of discarded accesses, of the unit that holds a word. -/
def ceKey (key : Nat) : RegKey := if key < 0x4000000000 then mbK (stackOf key) 0x400 else hallMemK ((key - 0x4000000000) / 0x10000000) 0
/-- Counter of uncorrectable words of the unit that holds a word (R162). -/
def ueKey (key : Nat) : RegKey := if key < 0x4000000000 then mbK (stackOf key) 0x408 else hallMemK ((key - 0x4000000000) / 0x10000000) 8
/-- Access-error counter of the unit that holds a word (R163). -/
def memErrKey (key : Nat) : RegKey := if key < 0x4000000000 then mbK (stackOf key) 0x438 else hallMemK ((key - 0x4000000000) / 0x10000000) 0x10

/-! ## Reads and writes of the stores -/

/-- Words in a key range whose stored code has an error. -/
def Chip.badWords (c : Chip) (key n : Nat) : List (Nat × Nat) :=
  c.mem.errs.filter fun e => decide (key / 32 ≤ e.1) && decide (e.1 * 32 < key + n) && e.2 != 0

/-- Count at the hall or base die that holds a word; the islands' stores have no such counter. -/
def Chip.bumpStore (c : Chip) (key : Nat) (ctr : Nat → RegKey) : Chip := if key < 0x5200000000 then c.bump (ctr key) else c

/-- What sensing one faulty word does: count it, write the record, and owe the write-back of a corrected word (R162).
    A scrub read writes no record for a word it corrects (R164). -/
def Chip.senseWord (c : Chip) (scrub : Bool) (w e : Nat) : Chip :=
  match classify e with
  | .clean => c
  | .corrected i v =>
    let c := c.bumpStore (w * 32) ceKey
    let c := { c with mem := { c.mem with wb := c.mem.wb.set w (v <<< (8 * i)) } }
    if scrub then c else c.sendErr { unit := c.holdUnit (w * 32), cls := 0x10, synd := i + v * 256, addr := c.devAddr (w * 32) }
  | .uncorrectable s =>
    (c.bumpStore (w * 32) ueKey).sendErr { unit := c.holdUnit (w * 32), cls := 0x11, synd := leNat (s.map (BitVec.ofNat 8)), addr := c.devAddr (w * 32) }

/-- Whether a word's error cannot be corrected. -/
def isUE (e : Nat) : Bool := match classify e with
  | .uncorrectable _ => true
  | _ => false

/-- Sense every word of a key range; the flag tells of an uncorrectable one. -/
def Chip.sense (c : Chip) (key n : Nat) : Chip × Bool :=
  let ws := c.badWords key n
  (ws.foldl (fun c w => c.senseWord false w.1 w.2) c, ws.any fun w => isUE w.2)

/-- What is left of a word's error in one byte after the decoder: none where the word is correctable. -/
def Chip.errByte (c : Chip) (key : Nat) : Byte :=
  let e := c.mem.errs.get (key / 32) 0
  if e = 0 then 0 else BitVec.ofNat 8 (residue e >>> (32 + 8 * (key % 32)))

/-- A stored byte as a reader gets it: corrected where the word is correctable, as stored where it is not. -/
def Chip.byteAt (c : Chip) (key : Nat) : Byte := c.mem.cells.read key ^^^ c.errByte key

/-- Stored bytes from a key upwards. -/
def Chip.bytesAt (c : Chip) (key n : Nat) : List Byte :=
  if c.mem.errs.isEmpty then c.mem.cells.readBytes key n else (List.range n).map fun i => c.byteAt (key + i)

/-- A little-endian number from a key. -/
def Chip.numAt (c : Chip) (key n : Nat) : Nat := leNat (c.bytesAt key n)

/-- Drop the stored error of a word: its bytes are rewritten as a reader gets them. -/
def Chip.settleWord (c : Chip) (w : Nat) : Chip :=
  let bs := c.bytesAt (w * 32) 32
  { c with mem := { c.mem with cells := c.mem.cells.writeBytes (w * 32) bs, errs := c.mem.errs.del w, wb := c.mem.wb.del w } }

/-- Store bytes at rising keys with no regard to the word code's state: every touched word is rewritten with its code. -/
def Chip.putRaw (c : Chip) (key : Nat) (bs : List Byte) : Chip :=
  let c := (c.badWords key bs.length).foldl (fun c w => c.settleWord w.1) c
  { c with mem := { c.mem with cells := c.mem.cells.writeBytes key bs } }

/-- The words at the ends of a key range that a write covers only in part (R153). -/
def partWords (key n : Nat) : List Nat :=
  if n = 0 then [] else
    ((if key % 32 ≠ 0 ∨ n < 32 then [key / 32] else []) ++ (if (key + n) % 32 ≠ 0 then [(key + n - 1) / 32] else [])).eraseDups

/-- Sense the words that a write of a key range merges with; answers those that are uncorrectable (R153, R163). -/
def Chip.senseParts (c : Chip) (key n : Nat) : Chip × List Nat :=
  let ps := (partWords key n).filterMap fun w => match c.mem.errs.get w 0 with
    | 0 => none
    | e => some (w, e)
  (ps.foldl (fun c w => c.senseWord false w.1 w.2) c, (ps.filter fun w => isUE w.2).map Prod.fst)

/-- A context's merged write (R153, R163): an uncorrectable word refuses it. -/
def Chip.put (c : Chip) (key : Nat) (bs : List Byte) : Chip × Bool :=
  let (c, ue) := c.senseParts key bs.length
  if ue = [] then (c.putRaw key bs, true) else (c, false)

/-- A write of any other master (R163): what it would merge into an uncorrectable word is discarded and counted where the word lies;
    the other words are written. -/
def Chip.putBus (c : Chip) (key : Nat) (bs : List Byte) : Chip × Bool :=
  let (c, ue) := c.senseParts key bs.length
  if ue = [] then (c.putRaw key bs, true)
  else
    let lo := if ue.contains (key / 32) then (key / 32 + 1) * 32 else key
    let hi := if ue.contains ((key + bs.length - 1) / 32) then (key + bs.length - 1) / 32 * 32 else key + bs.length
    let c := ue.foldl (fun c w => c.bumpStore (w * 32) memErrKey) c
    (if lo < hi then c.putRaw lo ((bs.drop (lo - key)).take (hi - lo)) else c, false)

/-- Words of a key range are rewritten: their errors are gone. -/
def Chip.dropErrs (c : Chip) (key n : Nat) : Chip :=
  let out := fun (e : Nat × Nat) => !(decide (key / 32 ≤ e.1) && decide (e.1 * 32 < key + n))
  { c with mem := { c.mem with errs := c.mem.errs.filter out, wb := c.mem.wb.filter out } }

/-! ## Aliases (R156-R158) -/

/-- An access through an address-mapped view that R156 and R157 treat as a bad width or a crossing. -/
def aliasBad (kind off n : Nat) : Bool :=
  if kind = 2 then !(n == 1 || n == 2 || n == 4 || n == 8) else !(n == 4 || n == 8) || decide (off % 32 + n > 32)

/-- The keys that an access through a view reaches: the plain bytes, or the rotated ones of R157. -/
def aliasKeys (kind site off n : Nat) : List Nat :=
  if kind = 2 then (List.range n).map fun i => sramKey site (off / 32 * 32 + (off % 32 + i) % 32)
  else (List.range n).map fun i => sramKey site (off + i)

/-- The byte that a write through a view leaves: set, clear or plain (R156, R157). -/
def aliasByte (kind : Nat) (old d : Byte) : Byte := if kind = 0 then old ||| d else if kind = 1 then old &&& ~~~ d else d

/-- A read through an address-mapped view by a master that raises nothing: zero and a count for a bad access. -/
def Chip.aliasRead (c : Chip) (kind site off n : Nat) : Chip × List Byte × Bool :=
  if aliasBad kind off n || !hallStore off then (c.bump (hallMemK site 0x10), List.replicate n 0, false)
  else
    let (c, ue) := c.sense (sramKey site (off / 32 * 32)) 32
    (c, (aliasKeys kind site off n).map c.byteAt, ue)

/-- A write or atomic through an address-mapped view; answers the old bytes. A bad access is discarded and counted (R156). -/
def Chip.aliasWrite (c : Chip) (kind site off : Nat) (bs : List Byte) : Chip × List Byte × Bool :=
  let n := bs.length
  if aliasBad kind off n || !hallStore off then (c.bump (hallMemK site 0x10), List.replicate n 0, false)
  else
    let ks := aliasKeys kind site off n
    let (c, ue) := c.sense (sramKey site (off / 32 * 32)) 32
    let old := ks.map c.byteAt
    if ue then (c, old, true)
    else
      let c := c.settleWord (sramKey site off / 32)
      let cells := (ks.zip (old.zip bs)).map fun e => (e.1, aliasByte kind e.2.1 e.2.2)
      ({ c with mem := { c.mem with cells := c.mem.cells.writeCells cells } }, old, false)

/-! ## Tags (R165-R168) -/

/-- Bytes 4-7 of a tag slot. -/
def Tag.tail (t : Tag) : List Byte := leBytes 2 t.prod ++ leBytes 2 t.seq

/-- The poison tag, written now (R168). -/
def Chip.poisonTag (c : Chip) : Tag := { crc := 0, prod := 0xFFFF, seq := 0, time := c.time.now }

/-- The store that a key lies in, as the scrubbers are numbered: hall site s is s, stack m is 72 + m. -/
def storeOf (key : Nat) : Nat := if key < 0x4000000000 then 72 + stackOf key else (key - 0x4000000000) / 0x10000000

/-- The tag slot of a block (key / 4096): where none is listed, the poison tag that initialisation wrote (R168). -/
def Chip.tagOf (c : Chip) (blk : Nat) : Tag := c.mem.tags.get blk { time := c.mem.poisonAt.get (storeOf (blk * 4096)) 0 }

/-- Hold a tag slot. -/
def Chip.setTag (c : Chip) (blk : Nat) (t : Tag) : Chip := { c with mem := { c.mem with tags := c.mem.tags.set blk t } }

/-- Write the poison tag to a block. -/
def Chip.poison (c : Chip) (blk : Nat) : Chip := c.setTag blk c.poisonTag

/-- The CRC a block should carry: its 4,096 bytes followed by bytes 4-7 of its slot (R165). -/
def Chip.blockCrc (c : Chip) (blk : Nat) (t : Tag) : Nat := crc32c (c.bytesAt (blk * 4096) 4096 ++ t.tail)

/-- A block passes verification (R167). -/
def Chip.tagGood (c : Chip) (blk : Nat) : Bool :=
  let t := c.tagOf blk
  decide (t.prod / 8192 ≤ 3) && t.crc == c.blockCrc blk t

/-- The sequence counter of a producer (R166): a stable's is its own, whatever logical ID its hall has; every other producer's is
    found by its unit ID. -/
def Chip.seqKey (c : Chip) (prod : Nat) : Nat := if prod < 0x2000 then (c.keyOf prod).elim prod (0x10000 + ·) else prod

/-- Tag a block with a producer: its next sequence number, the time, and the CRC over the data (R165, R166). The memory that holds the
    block reads it (R169). -/
def Chip.tagBlock (c : Chip) (blk prod : Nat) : Chip :=
  let c := (c.sense (blk * 4096) 4096).1
  let seq := c.mem.prodSeq.get (c.seqKey prod) 0
  let t : Tag := { crc := 0, prod := prod, seq := seq, time := c.time.now }
  let c := { c with mem := { c.mem with prodSeq := c.mem.prodSeq.set (c.seqKey prod) ((seq + 1) % 65536) } }
  c.setTag blk { t with crc := c.blockCrc blk t }

/-- The producer unit ID of a stable (R165). -/
def Chip.stbProducer (c : Chip) (key : Nat) : Nat := ((c.hallOf (key / 4)).getD 0) * 4 + key % 4

/-- Count a failed verification at a consumer and write its record (R167). -/
def Chip.tagFail (c : Chip) (blk unit : Nat) (ctr : RegKey) : Chip :=
  let t := c.tagOf blk
  (c.bump ctr).sendErr { unit := unit, cls := 0x12, addr := c.devAddr (blk * 4096), synd := t.crc + c.blockCrc blk t * 2 ^ 32 + t.prod * 2 ^ 64 + t.seq * 2 ^ 80 }

/-- Count a failed verification by a stable: its hall's HALL_TAG_FAIL and a record of its shared units (R167). -/
def Chip.stbTagFail (c : Chip) (blk key : Nat) : Chip := c.tagFail blk (stbUnit key) (hallMemK (key / 4) 0x30)

/-- The blocks that a key range touches. -/
def blocksOf (key n : Nat) : List Nat := if n = 0 then [] else (List.range ((key + n - 1) / 4096 - key / 4096 + 1)).map (· + key / 4096)

end Sys2Proof.Machine
end

