-- ==== Sys2Proof/Machine/KvTable.lean ====
section
/-! DEFINITION. The page table of a stable in its local memory: entries, the header and the two lists (R176, R179, R182). -/

namespace Sys2Proof.Machine

/-- Key of a local offset below 0x60_0000 at a stable (R36): scratchpad banks, loft, Search Unit store. -/
def localKey (stb x : Nat) : Nat :=
  if x < 0x200000 then sramKey (stb / 4) (stb % 4 * 0x200000 + x)
  else if x < 0x400000 then sramKey (stb / 4) (0x1000000 + stb % 4 * 0x200000 + (x - 0x200000))
  else sramKey (stb / 4) (0x1800000 + (x - 0x400000))

/-- STB_KVPT.EN. -/
def Chip.kvOn (c : Chip) (stb : Nat) : Bool := bit (c.reg (stbK stb 0x60)) 0

/-- Local offset of the registered table. -/
def Chip.kvBase (c : Chip) (stb : Nat) : Nat := (c.reg (stbK stb 0x60)) / 32 * 32 % 0x800000000000

/-- Key of an entry's word 0. -/
def Chip.kvKey (c : Chip) (stb i : Nat) : Nat := localKey stb (c.kvBase stb + 16 * i)

/-- A word of an entry. -/
def Chip.kvWord (c : Chip) (stb i w : Nat) : Nat := c.numAt (c.kvKey stb i + 8 * w) 8

/-- Store a word of an entry. -/
def Chip.kvPut (c : Chip) (stb i w v : Nat) : Chip := (c.put (c.kvKey stb i + 8 * w) (leBytes 8 v)).1

/-- Change a field of an entry's word. -/
def Chip.kvFld (c : Chip) (stb i w hi lo v : Nat) : Chip := c.kvPut stb i w (setBits (c.kvWord stb i w) hi lo v)

/-- FREE_HEAD, FREE_COUNT, PEND_HEAD, PEND_TAIL, PEND_COUNT and ENTRIES of the header. -/
def Chip.kvFreeHead (c : Chip) (stb : Nat) : Nat := bits (c.kvWord stb 0 0) 15 0
/-- FREE_COUNT. -/
def Chip.kvFreeCount (c : Chip) (stb : Nat) : Nat := bits (c.kvWord stb 0 0) 31 16
/-- PEND_HEAD. -/
def Chip.kvPendHead (c : Chip) (stb : Nat) : Nat := bits (c.kvWord stb 0 0) 47 32
/-- PEND_TAIL. -/
def Chip.kvPendTail (c : Chip) (stb : Nat) : Nat := bits (c.kvWord stb 0 0) 63 48
/-- PEND_COUNT. -/
def Chip.kvPendCount (c : Chip) (stb : Nat) : Nat := bits (c.kvWord stb 0 1) 15 0
/-- ENTRIES. -/
def Chip.kvEntries (c : Chip) (stb : Nat) : Nat := bits (c.kvWord stb 0 1) 31 16

/-- Return a RESERVED page to FREE at the free-list head (R179). -/
def Chip.kvPushFree (c : Chip) (stb p : Nat) : Chip :=
  let head := c.kvFreeHead stb
  let cnt := c.kvFreeCount stb
  let c := c.kvFld stb p 0 1 0 0
  let c := c.kvPut stb p 1 (setBits (setBits (c.kvWord stb p 1) 24 0 0) 63 48 head)
  let c := c.kvFld stb 0 0 15 0 p
  c.kvFld stb 0 0 31 16 (cnt + 1)

/-- Append a page to the pending list: PENDING, REFCNT 0 (R179). -/
def Chip.kvPend (c : Chip) (stb p : Nat) : Chip :=
  let tail := c.kvPendTail stb
  let cnt := c.kvPendCount stb
  let c := c.kvFld stb p 0 1 0 3
  let c := c.kvPut stb p 1 (setBits (setBits (c.kvWord stb p 1) 15 0 0) 63 48 0xFFFF)
  let c := if tail = 0xFFFF then c.kvFld stb 0 0 47 32 p else c.kvFld stb tail 1 63 48 p
  let c := c.kvFld stb 0 0 63 48 p
  c.kvFld stb 0 1 15 0 (cnt + 1)

/-- Detach the pending list as the reclaim batch at a landing start (R182 step 1), behind any that still waits. -/
def Chip.kvDetach (c : Chip) (stb frame : Nat) : Chip :=
  if c.kvOn stb = false ∨ c.kvPendHead stb = 0xFFFF then c
  else
    let b : KvBatch := { head := c.kvPendHead stb, tail := c.kvPendTail stb, count := c.kvPendCount stb, frame := frame }
    let c := c.kvFld stb 0 0 63 32 0xFFFFFFFF
    let c := c.kvFld stb 0 1 15 0 0
    if (c.batch.look stb).isSome then { c with nextBatch := c.nextBatch ++ [(stb, b)] } else { c with batch := c.batch.set stb b }

/-- The reclaim batches of a stable that await their splice, oldest first. -/
def Chip.batches (c : Chip) (stb : Nat) : List KvBatch := (c.batch.look stb).toList ++ (c.nextBatch.filter fun e => e.1 == stb).map Prod.snd

/-- A batch holds up an instruction that needs a page: it was issued after the batch's tick, outside any block that was open then (R183). -/
def KvBatch.holds (b : KvBatch) (blk : Option Block) : Bool := match blk with
  | some q => decide (q.frame ≥ b.frame)
  | none => true

/-- Mark the pages of a chain FREE, following LINK. -/
def Chip.kvFreeChain : (fuel : Nat) → Chip → Nat → Nat → Chip
  | 0, c, _, _ => c
  | f + 1, c, stb, p =>
    if p = 0xFFFF then c
    else
      let nxt := bits (c.kvWord stb p 1) 63 48
      kvFreeChain f (c.kvFld stb p 0 1 0 0) stb nxt

/-- Link the batch ahead of FREE_HEAD (R182 step 3). -/
def Chip.kvSplice (c : Chip) (stb : Nat) : Chip :=
  match c.batch.look stb with
  | none => c
  | some b =>
    let head := c.kvFreeHead stb
    let cnt := c.kvFreeCount stb
    let c := c.kvFreeChain b.count stb b.head
    let c := c.kvFld stb b.tail 1 63 48 head
    let c := c.kvFld stb 0 0 15 0 b.head
    let c := c.kvFld stb 0 0 31 16 (cnt + b.count)
    let c := c.bump (stbK stb 0x78) b.count
    match c.nextBatch.find? fun e => e.1 = stb with
    | none => { c with batch := c.batch.del stb }
    | some e => { c with batch := c.batch.set stb e.2, nextBatch := c.nextBatch.erase e }

end Sys2Proof.Machine
end

