-- ==== Sys2Proof/Machine/Residency.lean ====
section
/-! DEFINITION. Which contexts are resident at a stable, and which are to be saved for others (R276). -/

namespace Sys2Proof.Machine

/-- The home stable of a context, by its key. -/
def Chip.homeKey (c : Chip) (d : CtxDesc) : Option Nat := c.keyOf (4 * d.hall + d.stable)

/-- Plain ranges of two contexts meet. -/
def CtxDesc.meets (a b : CtxDesc) : Bool :=
  (a.ranges.filter fun r => !r.2.2).any fun r => (b.ranges.filter fun s => !s.2.2).any fun s => decide (r.1 < s.1 + s.2.1) && decide (s.1 < r.1 + r.2.1)

/-- The descriptor of a context, or an empty one. -/
def Chip.descOf (c : Chip) (x : Ctx) : CtxDesc := (c.desc? x).getD { job := 0, hall := 0, stable := 0, pinned := false, nopre := false, nacc := 0, entry := 0, fentry := 0, arg := 0, pendBase := 0, pendPages := 0, saveBase := 0, savePages := 0, ranges := [], acclive := 0, cycles := 0, umax := 0, fclk := 0, mode := 0, pers := 0 }

/-- A context's PRIO. -/
def Chip.prio (c : Chip) (x : Ctx) : Nat := ((c.jobOf x).map Job.prio).getD 0

/-- A batch that an instruction blocked since x.since waits for: its tick came before (R183). -/
def Chip.kvHeldBy (c : Chip) (x : Ctx) (b : KvBatch) : Bool := b.holds x.blk && decide (c.start b.frame ≤ x.since)

/-- A context that is not resident is runnable: its wait has ended, or the splice it waits for has happened (R183, R276). -/
def Chip.runnable (c : Chip) (x : Ctx) (stb : Nat) : Bool := x.state == 5 && match x.wait with
  | .none => true
  | .kv _ _ _ => !(c.batches stb).any (c.kvHeldBy x)
  | _ => false

/-- Occupied slots of a stable. -/
def Chip.residents (c : Chip) (stb : Nat) : List Nat :=
  [2 * stb, 2 * stb + 1].filter fun k => match c.ctx? k with
    | some x => x.state != 0
    | none => false

/-- Runnable non-resident contexts of a stable: descending PRIO, then longest runnable first. -/
def Chip.candidates (c : Chip) (stb : Nat) : List ((Nat × Nat) × Ctx) :=
  sortBy (fun e => (255 - c.prio e.2) * 2 ^ 64 + e.2.since) (c.core.saved.filter fun e => c.runnable e.2 stb && c.homeKey (c.descOf e.2) == some stb)

/-- fits(c, R). -/
def Chip.fits (c : Chip) (stb : Nat) (x : Ctx) (r : List Nat) : Bool :=
  let stay := (c.residents stb).filter fun k => !r.contains k
  let d := c.descOf x
  decide (stay.length < 2) && stay.all (fun k => !d.meets (c.descOf (c.ctx k))) && decide (d.nacc + (stay.map fun k => (c.descOf (c.ctx k)).nacc).sum ≤ 16)

/-- eligible(x). -/
def Chip.saveable (c : Chip) (x : Ctx) : Bool := !(c.descOf x).pinned && match x.wait with
  | .coll _ => false
  | _ => true

/-- The sets R of R276 in their order. -/
def Chip.choices (c : Chip) (stb : Nat) (x : Ctx) : List (List Nat) :=
  let rs := c.residents stb
  let blocked := sortBy (fun k => (c.ctx k).since) (rs.filter fun k => (c.ctx k).state == 3 && c.saveable (c.ctx k))
  let lower := sortBy (fun k => c.prio (c.ctx k)) (rs.filter fun k => (c.ctx k).state == 2 && c.saveable (c.ctx k) && !(c.descOf (c.ctx k)).nopre && decide (c.prio (c.ctx k) < c.prio x))
  let one := fun (l : List Nat) i => (l[i]?).toList.map fun k => [k]
  let two := fun (a b : Option Nat) => match a, b with
    | some a, some b => [[a, b]]
    | _, _ => []
  [[]] ++ one blocked 0 ++ one blocked 1 ++ one lower 0 ++ one lower 1 ++ two blocked[0]? blocked[1]? ++ two blocked[0]? lower[0]? ++ two lower[0]? lower[1]?

/-- The context that is to be restored at a stable and the slots to be saved for it. -/
def Chip.chosen (c : Chip) (stb : Nat) : Option ((Nat × Nat) × Ctx × List Nat) :=
  (c.candidates stb).findSome? fun e => ((c.choices stb e.2).find? (c.fits stb e.2)).map fun r => (e.1, e.2, r)

/-- Write CTX_PINNED_WAIT once for each runnable context that is not resident at a stable whose two resident contexts are
    PINNED and blocked (R276). -/
def Chip.pinnedCheck (c : Chip) (stb : Nat) : Chip :=
  let stuck := [2 * stb, 2 * stb + 1].all fun k => match c.ctx? k with
    | some y => y.state == 3 && ((c.desc? y).map CtxDesc.pinned).getD false
    | none => false
  if stuck then
    ((c.core.saved.filter fun e => c.runnable e.2 stb && !c.core.pinWait.contains e.1
        && ((c.desc? e.2).bind fun d => c.keyOf (4 * d.hall + d.stable)) == some stb)).foldl (fun c e =>
      ({ c with core := { c.core with pinWait := e.1 :: c.core.pinWait } }).post .CTX_PINNED_WAIT (stbUnit stb) (some e.1.1) e.1.2) c
  else c

/-- A save is requested of a slot: the sequencer stops issuing for it (R278). -/
def Chip.requestSave (c : Chip) (k : Nat) : Chip := c.updCtx k fun x => { x with saving := some c.time.now }

/-- The scheduler reconsiders a stable (R276), once the saves it has requested there are done: saves are requested of the slots that make room
    for the context it takes. -/
def Chip.reconsider (c : Chip) (stb : Nat) : Chip :=
  let c := c.pinnedCheck stb
  if (c.residents stb).any fun k => (c.ctx k).saving.isSome then c
  else match c.chosen stb with
    | some (_, _, r) => r.foldl Chip.requestSave c
    | none => c

end Sys2Proof.Machine
end

