-- ==== Sys2Proof/Machine/Faults.lean ====
section
/-! DEFINITION. Faults (R44-R46): the discard of check blocks (R252), the stop of a partition's contexts (R281 step 1), the recording of a fault, and the frame abandon. -/

namespace Sys2Proof.Machine

/-- Classes whose class signatures differ between two passes (R251, R262). -/
def clsDiff (a b : Pass) : Nat :=
  ((List.range 4).filter fun j => decide (a.cls.getD j 0 ≠ b.cls.getD j 0)).foldl (fun n j => n + 2 ^ j) 0

/-- The 128-bit signature of a pass (R250). -/
def Pass.sig (p : Pass) : Nat := Nat.xor p.sigLo (2 ^ 64 - 1) + Nat.xor p.sigHi (2 ^ 64 - 1) * 2 ^ 64

/-- The record of a disagreement that has no winner (R262). -/
def Chip.unresolved (c : Chip) (k : Nat) (x : Ctx) (b : Block) : Chip :=
  c.sendErr { unit := stbUnit (k / 2), cls := 0x13, cbid := b.cbid, part := x.part, blkseq := b.b % 2 ^ 32, synd := clsDiff b.prim b.shad + 48 + b.prim.sig % 2 ^ 64 * 2 ^ 64 }

/-- Discard a slot's open block: sets, records and RESERVED pages are freed, V and ACC read zero after a checked block
    (R47, R252); a disagreement without an outcome leaves its UNRESOLVED record. -/
def Chip.discard (c : Chip) (k : Nat) : Chip :=
  let x := c.ctx k
  match x.blk with
  | none => c
  | some b =>
    let c := if b.checked && (b.state == 4 || b.state == 5) then c.unresolved k x b else c
    let c := b.reserved.foldl (fun c r => c.kvPushFree r.1 r.2) c
    let c := match b.arbiter with
      | some a => c.updEng a fun e => { e with serving := none }
      | none => c
    c.updCtx k fun x => if b.checked then { x with blk := none, v := [], acc := [], accNeg := [], lost := [] } else { x with blk := none }

/-- Stop one resident context by a fault of its partition (R281 step 1). -/
def Chip.stopSlot (c : Chip) (k : Nat) : Chip :=
  (c.discard k).updCtx k fun x => { x with state := 4, wait := .none, moveTo := none, abandon := false, saving := none, restoring := none, colls := [], joins := [] }

/-- Stop every context of a partition; its collectives and waiting requests are dropped (R44, R281 step 1, R296). -/
def Chip.stopPart (c : Chip) (p : Nat) : Chip :=
  let ks := (c.core.slots.filter fun e => e.2.part == p && e.2.state != 0).map Prod.fst
  let c := ks.foldl Chip.stopSlot c
  let sv := c.core.saved.map fun e => if e.1.1 == p && e.2.state != 0 then (e.1, { e.2 with state := 4, wait := .none, blk := none, colls := [], joins := [] }) else e
  let rq := { c.rq with masters := c.rq.masters.map fun e => (e.1, { e.2 with held := e.2.held.filter fun r => r.row != p }) }
  { c with rq := rq, core := { c.core with saved := sv, colls := c.core.colls.filter fun i => i.part != p } }

/-- Note a partition reset that is due: DCU_PFAULT, PART_FAULT and the pending reset (R281 step 1). A cause that meets a
    reset that is due or in progress joins it; the first cause names it, and every cause writes its event record (R45). `unit` and
    `log` name the stable. -/
def Chip.dueResetAt (c : Chip) (p cls unit log : Nat) : Chip :=
  let c := c.stopPart p
  let q := c.part p
  let c := c.updPart p fun q => { q with pfault := cls % 256 + log % 1024 * 256 + (c.time.now / 1000 % 2 ^ 32) * 2 ^ 32, resetDue := if q.state = 2 ∨ q.state = 3 then some (q.resetDue.getD cls) else q.resetDue }
  if q.state = 2 ∨ q.state = 3 then c.post .PART_FAULT unit (some p) else c

/-- A reset that a stable causes. -/
def Chip.dueReset (c : Chip) (p cls stb : Nat) : Chip := c.dueResetAt p cls (stbUnit stb) ((c.logStb stb).getD 0)

/-- A fault as an instruction or the hardware raises it. -/
structure FaultInfo where
  cls   : Nat
  multi : Bool := false
  /-- Sub-code of the syndrome (R408). -/
  sub   : Nat := 0
  opc   : Nat := 0
  addr  : Nat := 0
deriving DecidableEq, Repr

/-- Write a fault into CSW and send its error record (R45, R408). -/
def Chip.recordFault (c : Chip) (k : Nat) (f : FaultInfo) : Chip :=
  let x := c.ctx k
  let c := c.updCtx k fun x => { x with fault := f.cls, multi := f.multi }
  let cb := match x.blk with
    | some b => (b.cbid, b.b % 2 ^ 32)
    | none => (0, 0)
  c.sendErr { unit := stbUnit (k / 2), cls := f.cls, opc := f.opc, cbid := cb.1, part := x.part, blkseq := cb.2, addr := f.addr, synd := f.sub + b2n f.multi * 256 }

/-- Take a fault whose reaction is a partition reset (R44, R45). -/
def Chip.takeFault (c : Chip) (k : Nat) (f : FaultInfo) : Chip :=
  let p := (c.ctx k).part
  (c.recordFault k f).dueReset p f.cls (k / 2)

/-- The other slot of a stable. -/
def otherSlot (k : Nat) : Nat := if k % 2 = 0 then k + 1 else k - 1

/-- The state of a context that becomes runnable in a slot: running on a DUAL stable or where the other context does not
    run, else ready (R31). -/
def Chip.runState (c : Chip) (k : Nat) : Nat :=
  if c.core.dual.contains (k / 2) then 2 else match c.ctx? (otherSlot k) with
    | some y => if y.state = 2 then 1 else 2
    | none => 2

/-- End the wait of a resident context; the scheduler reconsiders its stable (R276). -/
def Chip.resume (c : Chip) (k : Nat) : Chip :=
  let s := c.runState k
  let c := c.updCtx k fun x => { x with wait := .none, state := s, since := c.time.now }
  (if s = 2 ∧ !c.core.dual.contains (k / 2) then { c with core := { c.core with active := c.core.active.set (k / 2) (k % 2) } } else c).reconsider (k / 2)

/-- Frame abandon of a resident context (R46): it resumes at its frame entry address for the frame now running. -/
def Chip.abandonNow (c : Chip) (k : Nat) : Chip :=
  let c := c.discard k
  let fentry := ((c.desc? (c.ctx k)).map CtxDesc.fentry).getD 0
  let c := if (c.ctx k).state = 3 then c.resume k else c
  (c.updCtx k fun x => { x with v := [], acc := [], accNeg := [], lost := [], p := x.p &&& 1, overrun := true, ia := fentry, lfc := c.curFrame, wait := .none, colls := [], joins := [], abandon := false, moveTo := none, budget := c.lfcBudget x }).frameDone (c.ctx k).part

/-- FRAME_OVERRUN at a resident context: its record, and the abandon at once or, for a block that is COMMITTING, after it
    (R46, R254). -/
def Chip.frameOverrun (c : Chip) (k : Nat) : Chip :=
  let p := (c.ctx k).part
  let c := (c.recordFault k { cls := 0x0C }).post .PART_FAULT (stbUnit (k / 2)) (some p)
  match (c.ctx k).blk with
  | some b => if b.state = 3 ∨ b.state = 6 then c.updCtx k fun x => { x with abandon := true } else c.abandonNow k
  | none => c.abandonNow k

end Sys2Proof.Machine
end

