-- ==== Sys2Proof/Machine/Attribution.lean ====
section
/-! DEFINITION. Attribution of disagreements to units, retirement and quarantine of stables (R262-R266). -/

namespace Sys2Proof.Machine

/-- Retire a unit of a stable: RETIRED and RETIRE, with a CHK_RETIRE record (R264). -/
def Chip.retireUnit (c : Chip) (stb n : Nat) : Chip :=
  let c := c.updEng stb fun e => { e with retired := e.retired ||| 2 ^ n, retire := true }
  c.post .CHK_RETIRE (stbUnit stb) (c.partOfStb stb)

/-- The third attribution of a unit falls within the window of the older of the two held (R263). -/
def thirdInWindow (held : List (Nat × Nat)) (tms b : Nat) : Bool :=
  match held with
  | [a, _] => decide ((2 ^ 32 + b % 2 ^ 32 - a.2) % 2 ^ 32 < 1000000) || decide ((2 ^ 32 + tms % 2 ^ 32 - a.1) % 2 ^ 32 < 86400000)
  | _ => false

/-- The attributions held after one more (R263): at most the two newest, as 32-bit time in ms and sequence. -/
def pushAttr (held : List (Nat × Nat)) (tms b : Nat) : List (Nat × Nat) :=
  match held with
  | [] => [(tms % 2 ^ 32, b % 2 ^ 32)]
  | [a] => [a, (tms % 2 ^ 32, b % 2 ^ 32)]
  | _ :: a :: _ => [a, (tms % 2 ^ 32, b % 2 ^ 32)]

/-- Attribute a disagreement to unit `n` of a stable in the block with sequence `b` (R263). -/
def Chip.attribute (c : Chip) (stb n b : Nat) : Chip :=
  let tms := c.time.now / 1000000
  let held := (c.eng stb).attr.get n []
  let c := if thirdInWindow held tms b then c.retireUnit stb n else c
  c.updEng stb fun e => { e with attr := e.attr.set n (pushAttr held tms b) }

/-- A stable may serve an arbiter pass (R260). -/
def Chip.eligible (c : Chip) (stb : Nat) : Bool := c.checkedMode stb && !(c.eng stb).barred && !(c.eng stb).quar

/-- Logical stable numbers below 256 in the partition, in order from just after `n`, wrapping (R260). -/
def Chip.stableOrder (c : Chip) (p n : Nat) : List Nat :=
  let own := (List.range 256).filter (bit (c.part p).stables)
  own.filter (· > n) ++ own.filter (· < n)

/-- The arbiter stable of a checked stable (R260). -/
def Chip.arbiterOf (c : Chip) (p stb : Nat) : Option Nat :=
  ((c.stableOrder p ((c.logStb stb).getD 0)).filterMap c.keyOf).find? c.eligible

/-- Quarantine a stable (R265). -/
def Chip.quarantine (c : Chip) (stb : Nat) : Chip := c.updEng stb fun e => { e with quar := true }

end Sys2Proof.Machine
end

