-- ==== Sys2Proof/Machine/Access.lean ====
section
/-! DEFINITION. What an instruction of a context can do to memory: traps, address translation and permission (R36), reads and writes through an open check block's pending pages (R246-R248), tags at consumption and production (R38, R125, R167), signatures (R249-R251) and the sample delay buffer (R255-R259). -/

namespace Sys2Proof.Machine

/-- How an instruction ends when it faults: its classes, and the block's state at that moment, from which the effects of
    sensing memory (counters and records) are kept. `keep` also keeps memory (R126). -/
structure Trap where
  cls  : Nat
  multi : Bool := false
  sub  : Nat := 0
  addr : Nat := 0
  chip : Chip
  keep : Bool := false
  /-- Blocks that the instruction has written when its writes stop. -/
  wrote : List Nat := []

/-- An instruction's effect: a next state of the block, or a trap. -/
abbrev Ex := StateT Chip (Except Trap)

/-- Raise a fault class. -/
def raise {α : Type} (cls : Nat) (sub : Nat := 0) (addr : Nat := 0) : Ex α := fun c => .error { cls := cls, sub := sub, addr := addr, chip := c }

/-- Raise a fault of which memory as it stands is kept (R126). -/
def raiseKeep {α : Type} (cls : Nat) (addr : Nat := 0) : Ex α := fun c => .error { cls := cls, addr := addr, chip := c, keep := true }

/-- Fault codes (the table of fault classes). -/
def ILLEGAL_INSTRUCTION : Nat := 1
/-- Class 0x02. -/
def ILLEGAL_OPERAND : Nat := 2
/-- Class 0x03. -/
def DESCRIPTOR : Nat := 3
/-- Class 0x04. -/
def ACCESS : Nat := 4
/-- Class 0x05. -/
def ALIGNMENT : Nat := 5
/-- Class 0x06. -/
def TAG : Nat := 6
/-- Class 0x07. -/
def DATA_UNCORRECTABLE : Nat := 7
/-- Class 0x08. -/
def CHECK_SCOPE : Nat := 8
/-- Class 0x09. -/
def CHECK_FAIL : Nat := 9
/-- Class 0x0A. -/
def BUDGET : Nat := 10
/-- Class 0x0B. -/
def HALL_LOST : Nat := 11
/-- Class 0x0C. -/
def FRAME_OVERRUN : Nat := 12

/-- The lowest class of a list, with whether other classes arose (R45). -/
def lowest : List Nat → Option (Nat × Bool)
  | [] => none
  | x :: xs => match lowest xs with
    | none => some (x, false)
    | some (y, m) => some (min x y, m || decide (x ≠ y))

/-- Raise the classes whose condition holds: the lowest is recorded (R45). -/
def checks (l : List (Bool × Nat)) : Ex Unit := fun c =>
  match lowest ((l.filter Prod.fst).map Prod.snd) with
  | none => .ok ((), c)
  | some (x, m) => .error { cls := x, multi := m, chip := c }

/-- Require a condition, else raise a class. -/
def need (b : Bool) (cls : Nat) : Ex Unit := checks [(!b, cls)]

/-- A class that has arisen joins those of what the instruction would go on to do: the lowest is recorded (R45). -/
def Trap.join {α : Type} (t : Trap) (r : Except Trap (α × Chip)) : Trap := match r with
  | .ok _ => t
  | .error u => if u.cls < t.cls then { u with multi := true, keep := false, chip := t.chip } else { t with multi := t.multi || u.multi || decide (u.cls ≠ t.cls) }

/-- Checks whose classes join those of the action that follows them (R45). -/
def joined {α : Type} (pre : Ex Unit) (act : Ex α) : Ex α := fun c => match pre c with
  | .ok ((), c) => act c
  | .error t => .error (t.join (act t.chip))

/-- The context in a slot. -/
def ctxOf (k : Nat) : Ex Ctx := fun c => .ok (c.ctx k, c)

/-- Change the context in a slot. -/
def updC (k : Nat) (f : Ctx → Ctx) : Ex Unit := modify fun c => c.updCtx k f

/-! ## Check blocks -/

/-- The pass that now runs: shadow in SHADOW, arbiter in ARBITRATING, else primary. -/
def Block.cur (b : Block) : Pass := if b.state = 2 then b.shad else if b.state = 5 then b.arb else b.prim

/-- Change the pass that now runs. -/
def Block.updCur (b : Block) (f : Pass → Pass) : Block :=
  if b.state = 2 then { b with shad := f b.shad } else if b.state = 5 then { b with arb := f b.arb } else { b with prim := f b.prim }

/-- Index of the set that the running pass writes: 0 P, 1 S, 2 A (R242). -/
def Block.setIdx (b : Block) : Nat := if b.state = 2 then 1 else if b.state = 5 then 2 else 0

/-- The context's open CHECKED block, if any. -/
def Ctx.chk (x : Ctx) : Option Block := x.blk.filter Block.checked

/-- The stable that executes: the arbiter stable in an arbiter pass (R167, R261). -/
def Ctx.execStb (x : Ctx) (k : Nat) : Nat := match x.chk with
  | some b => if b.state = 5 then b.arbiter.getD (k / 2) else k / 2
  | none => k / 2

/-- Change the open block. -/
def updB (k : Nat) (f : Block → Block) : Ex Unit := updC k fun x => { x with blk := x.blk.map f }

/-! ## Translation (R36) -/

/-- Offset of a local address in local space. -/
def localOff (a : Nat) : Nat := a - 0x800000000000

/-- Split an access into pieces that lie in one 4 KiB page each. -/
def pieces : (fuel a n : Nat) → List (Nat × Nat)
  | 0, _, _ => []
  | f + 1, a, n =>
    if n = 0 then [] else
      let m := min n (4096 - a % 4096)
      (a, m) :: pieces f (a + m) (n - m)

/-- A window covers a device address. -/
def Win.covers (w : Win) (a : Nat) : Bool := decide (w.base ≤ a) && decide (a < w.base + w.pages * 4096)

/-- An execute window covers a device address: its bytes are read-only to every context of the partition (R33). -/
def Part.execAt (p : Part) (a : Nat) : Bool := p.wins.any fun w => w.x && w.covers a

/-- Some window of the partition permits the access to a device address (R36); where windows overlap, one that permits it is
    enough, and none permits a write to an execute window (R33; log 70). -/
def Part.permits (p : Part) (a : Nat) (wr : Bool) : Bool := (p.wins.any fun w => w.covers a && if wr then w.w && !w.x else w.r) && !(wr && p.execAt a)

/-- Some window that covers a device address is an ASYNC window (R257; log 70). -/
def Part.asyncAt (p : Part) (a : Nat) : Bool := p.wins.any fun w => w.async && w.covers a

/-- A store key lies in an execute window of a context's partition (R33). -/
def Chip.execKey (c : Chip) (k key : Nat) : Bool := (c.part (c.ctx k).part).execAt (c.devAddr key)

/-- The physical key of one page piece, for a read or a write: a local store, or a device page of a window that permits
    the access and holds no accumulators. -/
def Chip.pieceKey (c : Chip) (k a : Nat) (wr : Bool) : Option Nat :=
  let x := c.ctx k
  if a < 0x800000000000 then
    if (c.part x.part).permits a wr then (match c.target a with
      | .store key => some key
      | _ => none) else none
  else if a < 0x800000600000 then
    let key := localKey (k / 2) (localOff a)
    if wr && c.execKey k key then none else some key
  else none

/-- An access to an unmapped range is counted (R172), one to a hole of a hall window at that hall (R173). -/
def Chip.countMiss (c : Chip) (a : Nat) : Chip :=
  if 0x800000000000 ≤ a then c
  else match c.target a with
  | .unmapped => c.countErr dcuErr
  | .hallHole site => c.bump (hallMemK site 0x10)
  | .aliased _ site off => if hallStore off then c else c.bump (hallMemK site 0x10)
  | _ => c

/-- The pieces of an access with their keys, or none where R36 denies it. -/
def Chip.xlate (c : Chip) (k a n : Nat) (wr : Bool) : Option (List (Nat × Nat)) :=
  (pieces (n / 4096 + 2) a n).mapM fun q => (c.pieceKey k q.1 wr).map fun key => (key, q.2)

/-- An access touches an ASYNC window (R257). -/
def Chip.asyncHit (c : Chip) (k a n : Nat) : Bool :=
  decide (a < 0x800000000000) && (pieces (n / 4096 + 2) a n).any fun q => (c.part (c.ctx k).part).asyncAt q.1

/-- The first piece of an access that R36 denies. -/
def Chip.denied (c : Chip) (k a n : Nat) (wr : Bool) : Option Nat :=
  ((pieces (n / 4096 + 2) a n).find? fun q => (c.pieceKey k q.1 wr).isNone).map Prod.fst

/-- Translate, raising ACCESS; where the access reaches nothing at all, it is counted (R172, R173). -/
def translate (k a n : Nat) (wr : Bool) : Ex (List (Nat × Nat)) := fun c =>
  match c.xlate k a n wr with
  | some l => .ok (l, c)
  | none => .error { cls := ACCESS, addr := a, chip := c.countMiss ((c.denied k a n wr).getD a) }

/-! ## Pending pages -/

/-- Sense a key range for a context's read: DATA_UNCORRECTABLE on an uncorrectable word (R163). -/
def senseEx (key n : Nat) : Ex Unit := fun c =>
  let (c, ue) := c.sense key n
  if ue then .error { cls := DATA_UNCORRECTABLE, addr := c.devAddr key, chip := c } else .ok ((), c)

/-- Verify the tag of a block at consumption by a stable (R167). -/
def verify (stb blk : Nat) : Ex Unit := fun c =>
  if c.tagGood blk then .ok ((), c) else .error { cls := TAG, addr := c.devAddr (blk * 4096), chip := c.stbTagFail blk stb }

/-- The key of a pending page of a set: the region permits reads and writes (R246). -/
def pageKey (k set idx : Nat) : Ex Nat := do
  let c ← get
  let x := c.ctx k
  let d := c.desc? x
  let base := (d.map CtxDesc.pendBase).getD 0
  let n := (d.map CtxDesc.pendPages).getD 0
  let a := base + (set * n + idx) * 4096
  match c.pieceKey k a true, c.pieceKey k a false with
  | some key, some _ => pure key
  | _, _ => raise ACCESS

/-- The page that serves a block in the running pass, if any. -/
def Block.pageOf (b : Block) (blk : Nat) : Option Page := b.cur.pages.find? fun p => p.dest == blk

/-- The key at which the running pass keeps a byte range of one block: its page, or the block itself. -/
def rdKey (k key : Nat) : Ex Nat := do
  let x ← ctxOf k
  match x.chk with
  | none => pure key
  | some b => match b.pageOf (key / 4096) with
    | none => pure key
    | some p => return (← pageKey k b.setIdx p.idx) + key % 4096

/-- The page of a block that the running pass is about to write, taken and filled when it is the first write (R247). -/
def wrPage (k blk : Nat) (whole : Bool) : Ex Nat := do
  let c ← get
  let x := c.ctx k
  match x.chk with
  | none => pure (blk * 4096)
  | some b => match b.pageOf blk with
    | some p => pageKey k b.setIdx p.idx
    | none => do
      let n := ((c.desc? x).map CtxDesc.pendPages).getD 0
      let idx := b.cur.pages.length
      if idx ≥ n then raise CHECK_SCOPE 1 else
        let pk ← pageKey k b.setIdx idx
        let async := (c.part x.part).asyncAt (c.devAddr (blk * 4096))
        if whole then pure () else do
          senseEx (blk * 4096) 4096
          if async then pure () else verify (x.execStb k) blk
          modify fun c => c.putRaw pk (c.bytesAt (blk * 4096) 4096)
        updB k fun b => b.updCur fun p => { p with pages := p.pages ++ [{ dest := blk, idx := idx, crc := 0, spans := if async then some [] else none }] }
        pure pk

/-- Note the bytes of a page that the running pass has written, where they alone are published (R258). -/
def noteSpan (k key n : Nat) : Ex Unit :=
  updB k fun b => b.updCur fun p => { p with pages := p.pages.map fun g => if g.dest = key / 4096 then { g with spans := g.spans.map (· ++ [(key % 4096, n)]) } else g }

/-! ## Signatures (R249-R251) -/

/-- Feed bytes to the 128-bit signature of the running pass. -/
def feedSig (k : Nat) (bs : List Byte) : Ex Unit :=
  updB k fun b => b.updCur fun p => { p with sigLo := crc64Run sigPolyLo p.sigLo bs, sigHi := crc64Run sigPolyHi p.sigHi bs }

/-- Feed bytes to a class signature too. -/
def feedCls (k u : Nat) (bs : List Byte) : Ex Unit :=
  updB k fun b => b.updCur fun p => { p with cls := p.cls.set (u % 4) (crc32cRun (BitVec.ofNat 32 (p.cls.getD (u % 4) 0)) bs).toNat }

/-- The 32-byte words of one write with the bytes it writes in each. -/
def sigWords (addr : Nat) (bs : List Byte) : List (Nat × List (Option Byte)) :=
  (List.range ((addr + bs.length - 1) / 32 - addr / 32 + 1)).map fun i =>
    let w := addr / 32 + i
    (w, (List.range 32).map fun j => let q := w * 32 + j; if addr ≤ q then bs[q - addr]? else none)

/-- The 44-byte entry of a word: its address, byte enables and data (R249). -/
def entryBytes (w : Nat) (cells : List (Option Byte)) : List Byte :=
  leBytes 8 (w * 32) ++ leBytes 4 ((cells.zipIdx.filter fun q => q.1.isSome).foldl (fun n q => n + 2 ^ q.2) 0) ++ cells.map fun o => o.getD 0

/-- The entries of one write in ascending address. -/
def sigEntries (addr : Nat) (bs : List Byte) : List Byte := ((sigWords addr bs).map fun q => entryBytes q.1 q.2).flatten

/-- Enter a word among those that the instruction has written: a second write of the same work unit to it joins its entry. -/
def addEnt : List SigEnt → SigEnt → List SigEnt
  | [], n => [n]
  | x :: xs, n =>
    if x.u = n.u ∧ x.word = n.word then { x with data := (n.data.zip x.data).map fun q => match q.1 with
      | some b => some b
      | none => q.2 } :: xs
    else x :: addEnt xs n

/-- Note a write of work unit `u` for the signatures of the running pass. -/
def signWrite (k u key : Nat) (bs : List Byte) : Ex Unit := do
  let c ← get
  updB k fun b => if b.checked then b.updCur fun p => { p with ents := (sigWords (c.devAddr key) bs).foldl (fun l q => addEnt l { u := u, word := q.1, data := q.2 }) p.ents } else b

/-- The instruction's entries go to the signatures, in ascending work unit and address (R249-R251). -/
def flushSig (k : Nat) : Ex Unit := do
  match (← ctxOf k).chk with
  | none => pure ()
  | some b => do
    (sortBy SigEnt.u (sortBy SigEnt.word b.cur.ents)).forM fun n => do
      feedSig k (entryBytes n.word n.data)
      feedCls k n.u (entryBytes n.word n.data)
    updB k fun b => b.updCur fun p => { p with ents := [] }

/-! ## Reads and writes of a context -/

/-- Write bytes that lie in one block, through the pending page in a CHECKED block (R153, R163, R247). -/
def wrPiece (k u key : Nat) (bs : List Byte) : Ex Unit := do
  if bs.isEmpty then pure () else
    let base ← wrPage k (key / 4096) (bs.length == 4096)
    noteSpan k key bs.length
    signWrite k u key bs
    let c ← get
    let (c, ok) := c.put (base + key % 4096) bs
    set c
    if ok then pure () else raise DATA_UNCORRECTABLE 0 (c.devAddr key)

/-- Cut bytes along pieces. -/
def cutBytes : List (Nat × Nat) → List Byte → List (Nat × List Byte)
  | [], _ => []
  | (key, n) :: ps, bs => (key, bs.take n) :: cutBytes ps (bs.drop n)

/-- Write bytes to an address, untagged: any tag is left stale (R63). -/
def wr (k u a : Nat) (bs : List Byte) : Ex Unit := do
  let ps ← translate k a bs.length true
  (cutBytes ps bs).forM fun q => wrPiece k u q.1 q.2

/-- Read one piece as the running pass sees it. -/
def rdPiece (k key n : Nat) : Ex (List Byte) := do
  let key ← rdKey k key
  senseEx key n
  return (← get).bytesAt key n

/-- Read single bytes as the running pass sees them, each word that holds one sensed once. -/
def rdBytes (k : Nat) (keys : List Nat) : Ex (List Byte) := do
  let ks ← keys.mapM (rdKey k)
  (ks.map (· / 32)).eraseDups.forM fun w => senseEx (w * 32) 32
  let c ← get
  return ks.map c.byteAt

/-- Change single bytes of one 32-byte word at the bank (R153, R156, R163), through the pending page in a CHECKED block:
    `f` gives each new byte from the old one and the written one. -/
def wordRmw (k : Nat) (keys : List Nat) (f : Byte → Byte → Byte) (bs : List Byte) : Ex Unit := do
  need (!(keys.any ((← get).execKey k))) ACCESS
  let base ← wrPage k (keys.headD 0 / 4096) false
  let at' := fun (key : Nat) => base + key % 4096
  senseEx (at' (keys.headD 0) / 32 * 32) 32
  let c ← get
  let cells := (keys.zip bs).map fun q => (q.1, f (c.byteAt (at' q.1)) q.2)
  cells.forM fun q => noteSpan k q.1 1
  cells.forM fun q => signWrite k 0 q.1 [q.2]
  modify fun c => cells.foldl (fun c q => c.putRaw (at' q.1) [q.2]) c

/-- Read bytes at an address, untagged (R63). In a CHECKED block an ASYNC window raises ACCESS (R257). -/
def rd (k a n : Nat) : Ex (List Byte) := do
  let ps ← translate k a n false
  let c ← get
  if (c.ctx k).chk.isSome && c.asyncHit k a n then raise ACCESS 0 a else
    return (← ps.mapM fun q => rdPiece k q.1 q.2).flatten

/-- Verify the tags of the blocks of an access, where the running pass has no page of its own for them (R125, R167). -/
def verifyRange (k a n : Nat) : Ex Unit := do
  let ps ← translate k a n false
  let x ← ctxOf k
  (ps.map fun q => q.1 / 4096).eraseDups.forM fun blk =>
    match x.chk.bind fun b => b.pageOf blk with
    | some _ => pure ()
    | none => do senseEx (blk * 4096) 4096; verify (x.execStb k) blk

/-- Tag blocks with the executing stable as producer, outside a CHECKED block (R38, R166). -/
def tagKeys (k : Nat) (blks : List Nat) : Ex Unit := do
  let c ← get
  let x := c.ctx k
  match x.chk with
  | some _ => pure ()
  | none => modify fun c => blks.foldl (fun c b => c.tagBlock b (c.stbProducer (k / 2))) c

/-- Blocks of an address range, in ascending key order. -/
def keyBlocks (k a n : Nat) : Ex (List Nat) := do
  return ((← translate k a n true).map fun q => q.1 / 4096).eraseDups

/-! ## The sample delay buffer (R255-R259) and held operations (R149) -/

/-- Bytes of records that a block holds. -/
def Block.recBytes (b : Block) : Nat := (b.recs.map DlyRec.bytes).sum

/-- Record an outcome in the primary pass, merged with the word that takes it (R153, R259); beyond 32 KiB the block fails with DELAY (R256). -/
def record (k bytes val : Nat) : Ex Unit := do
  let x ← ctxOf k
  match x.chk with
  | none => pure ()
  | some b =>
    if b.recBytes + bytes > 32768 then raise CHECK_SCOPE 2 else
      let key := dlyKey (k / 2) k b.recBytes
      senseEx key bytes
      modify fun c => c.dropErrs key bytes
      updB k fun b => { b with recs := b.recs ++ [{ bytes := bytes, val := val }] }
      modify fun c => c.updEng (k / 2) fun e => { e with hwm := max e.hwm ((b.recBytes + bytes) / 16) }

/-- Read the next record in a later pass (R255, R259). -/
def replay (k : Nat) : Ex Nat := do
  let x ← ctxOf k
  match x.chk with
  | none => pure 0
  | some b => do
    updB k fun b => { b with recPos := b.recPos + 1 }
    match b.recs[b.recPos]? with
    | none => pure 0
    | some r =>
      if r.bad then do
        modify fun c => (c.bump (hallMemK (k / 8) 8)).sendErr { unit := stbUnit (k / 2) 4, cls := 0x11, part := x.part, synd := r.synd }
        raise DATA_UNCORRECTABLE
      else do
        if r.fixed then modify fun c => ((c.bump (stbK (k / 2) 0xF0)).bump (hallMemK (k / 8) 0)).sendErr { unit := stbUnit (k / 2) 4, cls := 0x10, part := x.part, synd := r.synd } else pure ()
        pure r.val

/-- A value that the primary pass obtains and later passes replay; outside a CHECKED block, the value itself. -/
def recorded (k bytes : Nat) (act : Ex Nat) : Ex Nat := do
  let x ← ctxOf k
  match x.chk with
  | none => act
  | some b =>
    if b.state = 1 then
      let v ← act
      record k bytes v
      pure v
    else replay k

/-- The 48-byte stream entry of a held operation (R249). -/
def Held.bytes (h : Held) : List Byte :=
  (leBytes 1 h.opc ++ leBytes 1 h.sub ++ List.replicate 6 0 ++ (h.ops.map fun (w : W64) => leBytes 8 w.toNat).flatten ++ List.replicate 40 0).take 48

/-- Hold an operation until the block commits (R149); it enters the signature at the end of the pass (R249). -/
def hold (k opc sub : Nat) (ops : List W64) : Ex Unit :=
  updB k fun b => b.updCur fun p => { p with held := p.held ++ [{ opc := opc, sub := sub, ops := ops }] }

/-- Whether the context is inside a CHECKED block, and in its primary pass. -/
def inChk (k : Nat) : Ex (Option Block) := return (← ctxOf k).chk

end Sys2Proof.Machine
end

