-- ==== Sys2Proof/Machine/Operands.lean ====
section
/-! DEFINITION. Operand forms of Eflia instructions: the fields of formats R, I, L, B, M, T, V, A and G (R54-R60), register reads and writes with their hard-wired registers (S0, P0), and tensor descriptors (R37). -/

namespace Sys2Proof

open Machine

/-! ## Fields of bits [39:0] -/

/-- D of formats R, I and L; TDD of M, T and G; TDO of A. -/
def Enc.d (e : Enc) : Nat := fld e.body 39 35
/-- A of formats R and I; TDS, TDA, TDQ. -/
def Enc.a (e : Enc) : Nat := fld e.body 34 30
/-- B of format R; SA of M; TDB; TDP. -/
def Enc.b (e : Enc) : Nat := fld e.body 29 25
/-- C of format R; SB of M; TDC; TDL; SA of G. -/
def Enc.c (e : Enc) : Nat := fld e.body 24 20
/-- IMM30 (R60). -/
def Enc.imm30 (e : Enc) : W64 := sext64 30 (fld e.body 29 0)
/-- OFF40 (R60). -/
def Enc.off40 (e : Enc) : Int := sgn 40 e.body.toNat
/-- ACC of format T. -/
def Enc.acc (e : Enc) : Nat := fld e.body 19 16
/-- VM of format T. -/
def Enc.vmT (e : Enc) : Nat := fld e.body 15 12
/-- ME of format T. -/
def Enc.meT (e : Enc) : Bool := flag e.body 11
/-- CE of format T. -/
def Enc.ce (e : Enc) : Bool := flag e.body 10
/-- VD, VA, VB, VC and VM of format V. -/
def Enc.vd (e : Enc) : Nat := fld e.body 39 36
/-- VA. -/
def Enc.va (e : Enc) : Nat := fld e.body 35 32
/-- VB. -/
def Enc.vb (e : Enc) : Nat := fld e.body 31 28
/-- VC. -/
def Enc.vc (e : Enc) : Nat := fld e.body 27 24
/-- VM of format V. -/
def Enc.vmV (e : Enc) : Nat := fld e.body 23 20
/-- ME of format V. -/
def Enc.meV (e : Enc) : Bool := flag e.body 19
/-- SA of format V. -/
def Enc.saV (e : Enc) : Nat := fld e.body 18 14
/-- SA of format A. -/
def Enc.saA (e : Enc) : Nat := fld e.body 19 15
/-- EPI of TOW. -/
def Enc.epi (e : Enc) : Nat := fld e.x0 63 56
/-- RND of TOW. -/
def Enc.rnd (e : Enc) : Nat := fld e.x0 55 54
/-- PARAM of TOW. -/
def Enc.paramT (e : Enc) : Nat := fld e.x0 47 0

/-- SP of TOW.PARAM. -/
def Enc.sp (e : Enc) : Nat := fld e.x0 47 44
/-- SEED of TOW.PARAM. -/
def Enc.seed (e : Enc) : Nat := fld e.x0 43 32
/-- Stochastic rounding is selected. -/
def Enc.sr (e : Enc) : Bool := e.rnd == 1
/-- PARAM[31:0]. -/
def Enc.prm (e : Enc) : Nat := fld e.x0 31 0
/-- The OPC of the base word: the row's, or the unallocated one it has instead. -/
def Enc.opcOr (e : Enc) (opc : Nat) : Nat := e.alt.elim opc fun w => w.val.toNat / 256

/-- CMODE of EPI. -/
def Enc.cmode (e : Enc) : Nat := e.epi / 16

end Sys2Proof

namespace Sys2Proof.Machine

/-- The formats, with the extension words each fixes (R54). -/
inductive Fmt where
  | R | I | L | B | M | T | V | A | G
deriving DecidableEq, Repr

/-- NEXT of a format. -/
def Fmt.next : Fmt → Nat
  | .L | .T | .G => 1
  | .A => 2
  | _ => 0

/-- Bits of the body that the format itself reserves. -/
def Fmt.rsvBody : Fmt → Nat
  | .R | .M | .G => maskOf 19 0
  | .L => maskOf 34 0
  | .T => maskOf 9 0
  | .V => maskOf 13 0
  | .A => maskOf 14 0
  | .I | .B => 0

/-- Bits of extension word 0 that the format reserves. -/
def Fmt.rsvX0 : Fmt → Nat
  | .T => maskOf 53 48
  | _ => 0

/-- Bits of extension word 1 that the format reserves. -/
def Fmt.rsvX1 : Fmt → Nat
  | .A => maskOf 63 48
  | _ => 0

/-- Values that a format's own fields reserve: RND of TOW; NGLOB and KVFMT of AOW; VM without ME and TDC without CE. -/
def Fmt.ok (f : Fmt) (e : Enc) : Bool := match f with
  | .T => decide (e.rnd ≤ 1) && (e.meT || e.vmT == 0) && (e.ce || e.c == 0)
  | .V => e.meV || e.vmV == 0
  | .A => decide (fld e.x0 47 43 ≤ 16) && decide (fld e.x0 41 40 ≤ 1)
  | _ => true

/-- What decode knows of a row: opcode, SUB, format, further reserved bits of the words, further reserved values, and the
    group for R39 and CHECK_SCOPE: 0 scalar and control, 1 synchronisation, events, landing and check, 2 any other. -/
structure IDesc where
  opc   : Nat
  sub   : Nat
  fmt   : Fmt
  grp   : Nat := 2
  rsvB  : Nat := 0
  rsv0  : Nat := 0
  rsv1  : Nat := 0
  ok    : Enc → Bool := fun _ => true
  /-- The instruction must carry PRED = 0 and PNEG = 0 (R43). -/
  unpred : Bool := false

/-- Decode accepts the words (R54, R55). -/
def IDesc.decodes (d : IDesc) (e : Enc) : Bool :=
  e.alt.isNone && e.next.toNat == d.fmt.next && !e.rsv
    && Nat.land e.body.toNat (Nat.lor d.fmt.rsvBody d.rsvB) == 0
    && Nat.land e.x0.toNat (Nat.lor d.fmt.rsvX0 d.rsv0) == 0 && Nat.land e.x1.toNat (Nat.lor d.fmt.rsvX1 d.rsv1) == 0
    && d.fmt.ok e && d.ok e && (!d.unpred || (e.pred == 0 && !e.pneg))

/-- Mask of a field of format R or I that an instruction does not use. -/
def fD : Nat := maskOf 39 35
/-- The A field. -/
def fA : Nat := maskOf 34 30
/-- The B field. -/
def fB : Nat := maskOf 29 25
/-- The C field. -/
def fC : Nat := maskOf 24 20
/-- Bit 4 of D, A and B where they name P registers (R59). -/
def fDp : Nat := 2 ^ 39
/-- Bit 4 of A. -/
def fAp : Nat := 2 ^ 34
/-- Bit 4 of B. -/
def fBp : Nat := 2 ^ 29

/-! ## Registers of a context -/

/-- S0 reads as zero. -/
def Ctx.rs (x : Ctx) (i : Nat) : W64 := if i = 0 then 0 else x.s.get i 0

/-- Writes to S0 are discarded. -/
def Ctx.ws (x : Ctx) (i : Nat) (v : W64) : Ctx := if i = 0 then x else { x with s := x.s.set i v }

/-- P0 reads as 1. -/
def Ctx.rp (x : Ctx) (i : Nat) : Bool := i == 0 || x.p.getLsbD i

/-- Writes to P0 are discarded. -/
def setPred (p : BitVec 16) (i : Nat) (b : Bool) : BitVec 16 :=
  if i = 0 then p else if b then p ||| BitVec.ofNat 16 (2 ^ i) else p &&& ~~~ BitVec.ofNat 16 (2 ^ i)

/-- Write a P register of a context. -/
def Ctx.wp (x : Ctx) (i : Nat) (b : Bool) : Ctx := { x with p := setPred x.p i b }

/-- Read S[i] of the executing context. -/
def getS (k i : Nat) : Ex W64 := return (← ctxOf k).rs i

/-- Write S[i]. -/
def setS (k i : Nat) (v : W64) : Ex Unit := updC k fun x => x.ws i v

/-- Write P[i]. -/
def setP (k i : Nat) (b : Bool) : Ex Unit := updC k fun x => x.wp i b

/-! ## Tensor descriptors -/

/-- A tensor descriptor in its fields. `dims` are sizes, innermost first; `strides` are bytes, with dimension 0 at the
    element size added by the format. -/
structure Desc where
  base  : Nat
  fmt   : Nat
  rank  : Nat
  pol   : Nat
  smap  : Nat
  dims  : List Nat
  /-- Byte strides of dimensions 1 upwards. -/
  str   : List Nat
  /-- SSHIFT, which `str` has taken in. -/
  sshift : Nat
deriving DecidableEq, Repr

/-- Element bits of a format code: the descriptor's FMT (Number Formats and Numerics); 0 for a reserved code. -/
def fmtBits (f : Nat) : Nat := match f with
  | 0x01 => 4 | 0x02 => 8 | 0x03 => 16
  | 0x04 => 4 | 0x05 => 6 | 0x06 => 6 | 0x07 => 8 | 0x08 => 8
  | 0x09 => 16 | 0x0A => 16 | 0x0B => 32
  | 0x10 => 8 | 0x11 => 8 | 0x12 => 8 | 0x13 => 6 | 0x14 => 6 | 0x15 => 4
  | _ => 0

/-- The fields of a descriptor word (the tensor descriptor layout). -/
def descOf (w : BitVec 256) : Desc :=
  let n := w.toNat
  let rank := bits n 55 53
  let sh := bits n 253 250
  { base := bits n 47 0, fmt := bits n 52 48, rank := rank, pol := bits n 57 56, smap := bits n 63 58,
    dims := (List.range rank).map fun i => bits n (64 + 16 * i + 15) (64 + 16 * i) + 1,
    str := (List.range (rank - 1)).map fun i => bits n (160 + 18 * i + 17) (160 + 18 * i) * 2 ^ sh, sshift := sh }

end Sys2Proof.Machine
end

