-- ==== Sys2Proof/Machine/Issue.lean ====
section
/-! DEFINITION. The frame of every Eflia instruction of a context: when a slot issues (R30-R32), the fetch and decode checks (R33, R55, R56), predication (R41-R43), the check-block limit (R57, R147), the groups that CHECKED mode permits (R47, class 0x08), the lock-step of scalar instructions (R48, R266), and the end in a next instruction or a fault. -/

namespace Sys2Proof.Machine

/-- The slot may issue an instruction now: a ready or running context with no wait and no save in progress, on a stable
    that serves no arbiter pass, in a hall that is not idle (R398) and not in a self-test slot (R334); in a CHK stable only the active context issues, or another once the active one blocks
    (R31). A context whose block is ARBITRATING runs the arbiter pass's instructions. -/
def Chip.issues (c : Chip) (k : Nat) : Bool :=
  match c.ctx? k with
  | none => false
  | some x =>
    let other := c.ctx? (if k % 2 = 0 then k + 1 else k - 1)
    let free := !(c.hallPwr (k / 8)).idle && !c.core.testing.contains (k / 2) && (c.core.dual.contains (k / 2) || c.core.active.get (k / 2) (k % 2) == k % 2 || (match other with
      | some y => y.state != 2
      | none => true))
    match x.blk with
    | some b => if b.state = 5 then b.checked && !b.arbDone && !c.core.testing.contains (b.arbiter.getD 0) else
        (x.state == 1 || x.state == 2) && x.wait == .none && x.saving.isNone && (c.eng (k / 2)).serving.isNone && free && (b.state == 1 || b.state == 2)
    | none => (x.state == 1 || x.state == 2) && x.wait == .none && x.saving.isNone && (c.eng (k / 2)).serving.isNone && free

/-- Make the slot the running one (R31): the other context of a CHK stable stays as it is. -/
def Chip.activate (c : Chip) (k : Nat) : Chip :=
  let c := { c with core := { c.core with active := c.core.active.set (k / 2) (k % 2) } }
  c.updCtx k fun x => if x.state = 1 then { x with state := 2 } else x

/-- Apply a landing map move that is owed, at an instruction boundary outside a block (R50). -/
def Chip.applyMove (c : Chip) (k : Nat) : Chip :=
  match (c.ctx k).moveTo, (c.ctx k).blk with
  | some n, none => (c.updCtx k fun x => { x with lfc := n, moveTo := none, budget := c.lfcBudget x }).frameDone (c.ctx k).part
  | _, _ => c

/-- Every word of the instruction lies in one execute window (R33, R36, R56). -/
def Chip.fetchOk (c : Chip) (k next : Nat) : Bool :=
  let x := c.ctx k
  (c.part x.part).wins.any fun w => w.x && decide (w.base ≤ x.ia) && decide (x.ia + 8 * (1 + next) ≤ w.base + w.pages * 4096)

/-- The state after a trap: the instruction changes nothing but what sensing memory and the lock-step counted and recorded; a move keeps the
    blocks it has already written (R126), and a queue met with an uncorrectable word stays empty (R222). -/
def Trap.rollback (t : Trap) (pre : Chip) : Chip :=
  { pre with regs := t.chip.regs, core := { pre.core with eng := t.chip.core.eng }, log := { pre.log with inbox := t.chip.log.inbox, outbox := t.chip.log.outbox }, mem := if t.keep then t.chip.mem else { pre.mem with wb := t.chip.mem.wb }, su := if t.keep then t.chip.su else pre.su }

/-- Take the fault of a trap at a slot. -/
def Trap.take (t : Trap) (pre : Chip) (k opc : Nat) : Chip :=
  (t.rollback pre).takeFault k { cls := t.cls, multi := t.multi, sub := t.sub, opc := opc, addr := t.addr }

/-- Run an effect at a slot: its next state, or the fault it raises (R45). -/
def Chip.runEx (c : Chip) (k opc : Nat) (body : Ex Unit) : Chip :=
  match body c with
  | .ok ((), c') => c'
  | .error t => t.take c k opc

/-- Count an instruction of the open block; the 4,097th raises CHECK_SCOPE (R147), unless it does not execute (R41). What
    the instruction before it wrote now enters the signatures. -/
def countInsn (k : Nat) (executes : Bool) : Ex Unit := do
  flushSig k
  match (← ctxOf k).blk with
  | none => pure ()
  | some b =>
    need (!executes || b.cur.insns < 4096) CHECK_SCOPE
    updB k fun b => b.updCur fun p => { p with insns := p.insns + 1 }

/-- The lock-step scalar units disagree outside a block (R266): counted; either two of four agree and the other stall of
    the first pair is attributed, or the context raises CHECK_FAIL and the stable is quarantined. -/
def lockStep (k : Nat) (l : Lock) : Ex Unit := do
  match l with
  | .agree => pure ()
  | .settled s =>
    modify fun c =>
      let c := c.bump (stbK (k / 2) 0xF8)
      let c := c.sendErr { unit := stallUnit (k / 2) s.val, cls := 0x14, part := (c.ctx k).part, synd := s.val }
      c.attribute (k / 2) s.val (c.eng (k / 2)).seq
  | .unsettled => do
    modify fun c => (c.bump (stbK (k / 2) 0xF8)).sendErr { unit := stbUnit (k / 2), cls := 0x14, part := (c.ctx k).part, synd := 4 }
    raise CHECK_FAIL 2

/-- The checks and steps before an instruction's own effect; answers whether it executes (R41). The base word is fetched and
    decoded first; extension words outside its window stop only an instruction that executes (R41, R56; log 69). -/
def prologue (k : Nat) (d : IDesc) (e : Enc) : Ex Bool := do
  let x ← ctxOf k
  let c ← get
  checks [(x.ia % 8 != 0, ALIGNMENT), (!c.fetchOk k 0, ACCESS)]
  let go := x.rp e.pred.toNat != e.pneg
  checks [(!d.decodes e, ILLEGAL_INSTRUCTION), (go && e.alt.isNone && e.next.toNat == d.fmt.next && !c.fetchOk k d.fmt.next, ACCESS)]
  updC k fun x => { x with ia := (x.ia + 8 * (1 + d.fmt.next)) % 2 ^ 48 }
  countInsn k go
  if go && (← get).checkedMode (k / 2) && x.blk.isNone then
    need (d.grp != 2) CHECK_SCOPE
    if d.grp = 0 then lockStep k e.lock else pure ()
  else pure ()
  pure go

/-- A failed lock-step also quarantines the stable (R266). -/
def Chip.lockFail (c : Chip) (k : Nat) (t : Trap) : Chip := if t.cls = CHECK_FAIL ∧ t.sub = 2 then c.quarantine (k / 2) else c

/-- One instruction of a context: if its slot issues, the prologue, the effect when it executes, or the fault. -/
def Chip.instr (c : Chip) (r : CtxRef) (d : IDesc) (e : Enc) (body : Nat → Ex Unit) : Chip :=
  let k := slotKey r
  if c.issues k then
    let c := (c.activate k).applyMove k
    match prologue k d e c with
    | .ok (true, c1) => match body k c1 with
      | .ok ((), c') => c'
      | .error t => (t.take c k d.opc).lockFail k t
    | .ok (false, c1) => c1
    | .error t => ((if t.cls = CHECK_SCOPE then t.join (body k t.chip) else t).take c k (e.opcOr d.opc)).lockFail k t
  else c

end Sys2Proof.Machine
end

