-- ==== Sys2Proof/Machine/Numerics.lean ====
section
/-! DEFINITION. Number formats and their arithmetic (R105-R114, R84, R85, R100): exact values, one rounding to a format, and the correctly rounded functions, computed by fixed point well beyond the rounding position. -/

namespace Sys2Proof.Machine

/-! ## Exact values -/

/-- A value of a floating format: NaN, an infinity, or (-1)^neg * m * 2^e exactly; zero keeps its sign. -/
inductive FV where
  | nan
  | inf (neg : Bool)
  | fin (neg : Bool) (m : Nat) (e : Int)
deriving DecidableEq, Repr

/-- Plus zero. -/
def FV.zero : FV := .fin false 0 0

/-- An integer as an exact value. -/
def FV.ofInt (i : Int) : FV := .fin (decide (i < 0)) i.natAbs 0

/-- Sign bit; false for NaN. -/
def FV.neg? : FV → Bool
  | .nan => false
  | .inf s => s
  | .fin s _ _ => s

/-- Change of sign. -/
def FV.negate : FV → FV
  | .nan => .nan
  | .inf s => .inf (!s)
  | .fin s m e => .fin (!s) m e

/-- Magnitude. -/
def FV.abs : FV → FV
  | .nan => .nan
  | .inf _ => .inf false
  | .fin _ m e => .fin false m e

/-- Whether the value is a number that is neither NaN nor infinite. -/
def FV.finite : FV → Bool
  | .fin _ _ _ => true
  | _ => false

/-- m * 2^e scaled to the exponent `b`, for b ≤ e. -/
def scaleTo (m : Nat) (e b : Int) : Nat := m * 2 ^ (e - b).toNat

/-- Exact sum. A zero sum is +0 unless both terms are negative. -/
def FV.add : FV → FV → FV
  | .nan, _ => .nan
  | _, .nan => .nan
  | .inf s, .inf t => if s = t then .inf s else .nan
  | .inf s, .fin _ _ _ => .inf s
  | .fin _ _ _, .inf t => .inf t
  | .fin s m e, .fin t n f =>
    let b := min e f
    let a : Int := if s then -(scaleTo m e b : Nat) else (scaleTo m e b : Nat)
    let d : Int := if t then -(scaleTo n f b : Nat) else (scaleTo n f b : Nat)
    let r := a + d
    if r = 0 then .fin (s && t) 0 0 else .fin (decide (r < 0)) r.natAbs b

/-- Exact difference. -/
def FV.sub (a b : FV) : FV := a.add b.negate

/-- Exact product; zero times infinity is NaN (R85). -/
def FV.mul : FV → FV → FV
  | .nan, _ => .nan
  | _, .nan => .nan
  | .inf s, .inf t => .inf (s != t)
  | .inf s, .fin t n _ => if n = 0 then .nan else .inf (s != t)
  | .fin s m _, .inf t => if m = 0 then .nan else .inf (s != t)
  | .fin s m e, .fin t n f => .fin (s != t) (m * n) (e + f)

/-- Exact product with a power of two. -/
def FV.scale2 (k : Int) : FV → FV
  | .fin s m e => .fin s m (e + k)
  | v => v

/-- Strict order of numbers; false with NaN; the zeros are equal. -/
def FV.lt : FV → FV → Bool
  | .nan, _ => false
  | _, .nan => false
  | .inf s, .inf t => s && !t
  | .inf s, .fin _ _ _ => s
  | .fin _ _ _, .inf t => !t
  | .fin s m e, .fin t n f =>
    let b := min e f
    let a : Int := if s then -(scaleTo m e b : Nat) else (scaleTo m e b : Nat)
    let d : Int := if t then -(scaleTo n f b : Nat) else (scaleTo n f b : Nat)
    decide (a < d)

/-- Numeric equality; false with NaN. -/
def FV.eq (a b : FV) : Bool := match a, b with
  | .nan, _ => false
  | _, .nan => false
  | _, _ => !a.lt b && !b.lt a

/-- Less or equal; false with NaN. -/
def FV.le (a b : FV) : Bool := a.lt b || a.eq b

/-- Order below with -0 before +0 (R100). -/
def FV.below (a b : FV) : Bool := a.lt b || (a.eq b && a.neg? && !b.neg?)

/-- Maximum: NaN if either is, and +0 above -0 (R94, R100). -/
def FV.max (a b : FV) : FV := match a, b with
  | .nan, _ => .nan
  | _, .nan => .nan
  | _, _ => if a.below b then b else a

/-- Minimum: NaN if either is, and -0 below +0. -/
def FV.min (a b : FV) : FV := match a, b with
  | .nan, _ => .nan
  | _, .nan => .nan
  | _, _ => if b.below a then b else a

/-! ## Formats and one rounding -/

/-- A floating format: exponent and fraction widths, bias, code of the largest finite magnitude, codes of infinity and of
    the canonical NaN where it has them (R106). -/
structure FF where
  mb   : Nat
  bias : Nat
  maxc : Nat
  infc : Option Nat
  nanc : Option Nat
  width : Nat
deriving DecidableEq, Repr

/-- FP32. -/
def ffF32 : FF := { mb := 23, bias := 127, maxc := 0x7F7FFFFF, infc := some 0x7F800000, nanc := some 0x7FC00000, width := 32 }
/-- FP16. -/
def ffF16 : FF := { mb := 10, bias := 15, maxc := 0x7BFF, infc := some 0x7C00, nanc := some 0x7E00, width := 16 }
/-- BF16. -/
def ffBF16 : FF := { mb := 7, bias := 127, maxc := 0x7F7F, infc := some 0x7F80, nanc := some 0x7FC0, width := 16 }
/-- FP8 E5M2. -/
def ffE5M2 : FF := { mb := 2, bias := 15, maxc := 0x7B, infc := some 0x7C, nanc := some 0x7E, width := 8 }
/-- FP8 E4M3. -/
def ffE4M3 : FF := { mb := 3, bias := 7, maxc := 0x7E, infc := none, nanc := some 0x7F, width := 8 }
/-- FP6 E2M3. -/
def ffE2M3 : FF := { mb := 3, bias := 1, maxc := 0x1F, infc := none, nanc := none, width := 6 }
/-- FP6 E3M2. -/
def ffE3M2 : FF := { mb := 2, bias := 3, maxc := 0x1F, infc := none, nanc := none, width := 6 }
/-- FP4 E2M1. -/
def ffE2M1 : FF := { mb := 1, bias := 1, maxc := 0x7, infc := none, nanc := none, width := 4 }

/-- floor(log2(num / den)) for positive num and den. -/
def ilog (num den : Nat) : Int :=
  let a : Int := (Nat.log2 num : Int) - (Nat.log2 den : Int)
  let ok := if a ≥ 0 then decide (num ≥ den * 2 ^ a.toNat) else decide (num * 2 ^ (-a).toNat ≥ den)
  if ok then a else a - 1

/-- The magnitude num / den cut at the format's quantum: the code below (its magnitude order), and the rest as a fraction
    of the quantum. -/
def cutCode (ff : FF) (num den : Nat) : Nat × Nat × Nat :=
  if num = 0 then (0, 0, 1) else
    let e := Max.max (ilog num den) (1 - (ff.bias : Int))
    let q := e - (ff.mb : Int)
    let n' := if q ≥ 0 then num else num * 2 ^ (-q).toNat
    let d' := if q ≥ 0 then den * 2 ^ q.toNat else den
    ((e + ff.bias - 1).toNat * 2 ^ ff.mb + n' / d', n' % d', d')

/-- The code nearest to num / den, ties to even; beyond the largest finite code where it overflows (R112). -/
def rneCode (ff : FF) (num den : Nat) : Nat :=
  let (c, r, d) := cutCode ff num den
  if 2 * r > d ∨ (2 * r = d ∧ c % 2 = 1) then c + 1 else c

/-- A fixed-point magnitude m * 2^e as a fraction. -/
def fracOf (m : Nat) (e : Int) : Nat × Nat := if e ≥ 0 then (m * 2 ^ e.toNat, 1) else (m, 2 ^ (-e).toNat)

/-- Sign bit in place. -/
def FF.withSign (ff : FF) (neg : Bool) (c : Nat) : Nat := if neg then c + 2 ^ (ff.width - 1) else c

/-- Place a magnitude code with its sign, saturating or going to infinity beyond the largest finite one (R112); the flag
    tells of a saturation (R114). -/
def FF.place (ff : FF) (neg : Bool) (c : Nat) : Nat × Bool :=
  if c ≤ ff.maxc then (ff.withSign neg c, false)
  else match ff.infc with
    | some i => (ff.withSign neg i, true)
    | none => (ff.withSign neg ff.maxc, true)

/-- Round a signed fraction to a format. -/
def FF.rneFrac (ff : FF) (neg : Bool) (num den : Nat) : Nat × Bool := ff.place neg (rneCode ff num den)

/-- Convert a value into a floating format, nearest even (R112); the flag tells of a saturation (R114). -/
def FF.conv (ff : FF) : FV → Nat × Bool
  | .nan => match ff.nanc with
    | some n => (n, false)
    | none => (0, true)
  | .inf s => match ff.infc with
    | some i => (ff.withSign s i, false)
    | none => (ff.withSign s ff.maxc, true)
  | .fin s m e => let (n, d) := fracOf m e; ff.rneFrac s n d

/-- Decode a pattern of a floating format (R106). -/
def FF.dec (ff : FF) (v : Nat) : FV :=
  let neg := bit v (ff.width - 1)
  let c := v % 2 ^ (ff.width - 1)
  let E := c / 2 ^ ff.mb
  let M := c % 2 ^ ff.mb
  if ff.infc = some c then .inf neg
  else if ff.nanc.isSome ∧ c > ff.maxc then .nan
  else if E = 0 then .fin neg M (1 - (ff.bias : Int) - ff.mb)
  else .fin neg (2 ^ ff.mb + M) ((E : Int) - ff.bias - ff.mb)

/-- Decode FP32. -/
def f32 (v : Nat) : FV := ffF32.dec v

/-- Round to FP32, nearest even (R84). -/
def rne32 (v : FV) : Nat := (ffF32.conv v).1

/-- Round to an FP32 value. -/
def r32 (v : FV) : FV := f32 (rne32 v)

/-- The symmetric clamp of integer accumulators (R84). -/
def sat32 (i : Int) : Int := Max.max (-2147483647) (Min.min 2147483647 i)

/-- Round a magnitude fraction to the nearest integer, ties to even. -/
def rneNat (num den : Nat) : Nat :=
  let f := num / den
  let r := num % den
  if 2 * r > den ∨ (2 * r = den ∧ f % 2 = 1) then f + 1 else f

/-- Round to an integer, ties to even. -/
def rneInt (neg : Bool) (m : Nat) (e : Int) : Int :=
  let (n, d) := fracOf m e
  let r : Nat := rneNat n d
  if neg then -(r : Int) else r

/-- Convert into an integer format of `w` bits (R112): nearest even, limits saturate, NaN gives 0; the flag tells of a
    saturation (R114). -/
def convInt (w : Nat) : FV → Int × Bool
  | .nan => (0, true)
  | .inf s => (if s then -(2 ^ (w - 1) : Nat) else (2 ^ (w - 1) : Nat) - 1, true)
  | .fin s m e =>
    let r := rneInt s m e
    let hi : Int := (2 ^ (w - 1) : Nat) - 1
    let lo : Int := -(2 ^ (w - 1) : Nat)
    if r > hi then (hi, true) else if r < lo then (lo, true) else (r, false)

/-! ## Stochastic rounding (R113) -/

/-- Sixteen random bits of an element (R113). -/
def srBits (seed idx : Nat) : Nat :=
  let m := 2 ^ 64
  let z := Nat.xor (seed * 2 ^ 48 % m) (idx % m)
  let z := (z + 0x9E3779B97F4A7C15) % m
  let z := (Nat.xor z (z / 2 ^ 30) * 0xBF58476D1CE4E5B9) % m
  let z := (Nat.xor z (z / 2 ^ 27) * 0x94D049BB133111EB) % m
  Nat.xor z (z / 2 ^ 31) % 65536

/-- Stochastic rounding into a floating format. Values beyond its largest finite one convert to nearest even. -/
def FF.stoch (ff : FF) (v : FV) (seed idx : Nat) : Nat × Bool :=
  match v with
  | .fin s m e =>
    let (n, d) := fracOf m e
    let (c, r, q) := cutCode ff n d
    if c > ff.maxc ∨ (c = ff.maxc ∧ r ≠ 0) then ff.conv v
    else if r = 0 then (ff.withSign s c, false)
    else if 65536 * r / q > srBits seed idx then (ff.withSign s (c + 1), false) else (ff.withSign s c, false)
  | _ => ff.conv v

/-- Stochastic rounding into an integer format. -/
def stochInt (w : Nat) (v : FV) (seed idx : Nat) : Int × Bool :=
  match v with
  | .fin s m e =>
    let (n, d) := fracOf m e
    if n > (2 ^ (w - 1) - 1) * d then convInt w v
    else
      let k := if n % d = 0 then n / d else if 65536 * (n % d) / d > srBits seed idx then n / d + 1 else n / d
      (if s then -(k : Int) else k, false)
  | _ => convInt w v

/-! ## Format codes (R105) -/

/-- The floating format of a code; MX codes give their element format. -/
def ffOf (code : Nat) : Option FF := match code with
  | 0x04 => some ffE2M1 | 0x05 => some ffE2M3 | 0x06 => some ffE3M2 | 0x07 => some ffE4M3 | 0x08 => some ffE5M2
  | 0x09 => some ffF16 | 0x0A => some ffBF16 | 0x0B => some ffF32
  | 0x11 => some ffE4M3 | 0x12 => some ffE5M2 | 0x13 => some ffE2M3 | 0x14 => some ffE3M2 | 0x15 => some ffE2M1
  | _ => none

/-- Width of an integer format code, 0 for others; MXINT8 has 8-bit elements. -/
def intW (code : Nat) : Nat := match code with
  | 0x01 => 4 | 0x02 => 8 | 0x03 => 16 | 0x10 => 8 | _ => 0

/-- An MX code. -/
def isMX (code : Nat) : Bool := within' 0x10 0x15 code
where
  /-- A value within bounds. -/
  within' (lo hi v : Nat) : Bool := decide (lo ≤ v) && decide (v ≤ hi)

/-- Decode a non-MX element, or an MX element with scale 2^0. MXINT8 elements are integers / 64 (R109). -/
def decElem (code v : Nat) : FV :=
  match ffOf code with
  | some ff => ff.dec v
  | none => if code = 0x10 then (FV.ofInt (sgn 8 v)).scale2 (-6) else FV.ofInt (sgn (intW code) v)

/-- Encode a value in a non-MX format (R112, R113), with the saturation and NaN-output flags of R114. -/
def encElem (code : Nat) (v : FV) (sr : Bool) (seed idx : Nat) : Nat × Bool × Bool :=
  match ffOf code with
  | some ff =>
    let (p, s) := if sr then ff.stoch v seed idx else ff.conv v
    (p, s, v == .nan && ff.nanc.isSome)
  | none =>
    let w := intW code
    let (i, s) := if sr then stochInt w v seed idx else convInt w v
    (toBits w i, s, false)

/-! ## Quotients and roots -/

/-- Correctly rounded quotient (R94). -/
def div32 (a b : FV) : Nat :=
  match a, b with
  | .nan, _ => 0x7FC00000
  | _, .nan => 0x7FC00000
  | .inf _, .inf _ => 0x7FC00000
  | .inf s, .fin t _ _ => ffF32.withSign (s != t) 0x7F800000
  | .fin s _ _, .inf t => ffF32.withSign (s != t) 0
  | .fin s m e, .fin t n f =>
    if n = 0 then (if m = 0 then 0x7FC00000 else ffF32.withSign (s != t) 0x7F800000)
    else
      let (x, y) := fracOf m (e - f)
      (ffF32.rneFrac (s != t) x (y * n)).1

/-- Integer square root by bisection over `fuel` bits. -/
def isqrtAux : (fuel : Nat) → (n r : Nat) → Nat
  | 0, _, r => r
  | f + 1, n, r => let r' := r + 2 ^ f; isqrtAux f n (if r' * r' ≤ n then r' else r)

/-- floor(sqrt n). -/
def isqrt (n : Nat) : Nat := isqrtAux (Nat.log2 n / 2 + 1) n 0

/-- Correctly rounded square root of a value. -/
def sqrt32 (v : FV) : Nat :=
  match v with
  | .nan => 0x7FC00000
  | .inf s => if s then 0x7FC00000 else 0x7F800000
  | .fin s m e =>
    if m = 0 then ffF32.withSign s 0 else if s then 0x7FC00000 else
      let (m, e) := if e % 2 = 0 then (m, e) else (2 * m, e - 1)
      let n := m * 2 ^ 400
      let r := isqrt n
      let (x, y) := fracOf (2 * r + (if r * r = n then 0 else 1)) (e / 2 - 201)
      (ffF32.rneFrac false x y).1

/-- Correctly rounded reciprocal square root (R100). -/
def rsqrt32 (v : FV) : Nat :=
  match v with
  | .nan => 0x7FC00000
  | .inf s => if s then 0x7FC00000 else 0
  | .fin s m e =>
    if m = 0 then ffF32.withSign s 0x7F800000 else if s then 0x7FC00000 else
      let (m, e) := if e % 2 = 0 then (m, e) else (2 * m, e - 1)
      let r := isqrt (2 ^ 800 / m)
      let (x, y) := fracOf (2 * r + (if r * r * m = 2 ^ 800 then 0 else 1)) (-(e / 2) - 401)
      (ffF32.rneFrac false x y).1

/-! ## Functions by fixed point, 640 fraction bits (log 6) -/

/-- Fraction bits of the fixed-point work. -/
def FB : Nat := 640

/-- One in fixed point. -/
def one : Int := (2 ^ FB : Nat)

/-- Fixed-point product, rounded down. -/
def fmul (a b : Int) : Int := a * b / one

/-- A dyadic value in fixed point, rounded down. -/
def fixOf (neg : Bool) (m : Nat) (e : Int) : Int :=
  let s := e + FB
  let x : Int := if s ≥ 0 then (m * 2 ^ s.toNat : Nat) else (m / 2 ^ (-s).toNat : Nat)
  if neg then -x else x

/-- Σ of the series t, t*x*y/1.., where each term is the last times `x` over `k`, `k` rising. -/
def expSeries : (fuel : Nat) → (k : Nat) → (x term acc : Int) → Int
  | 0, _, _, _, acc => acc
  | f + 1, k, x, term, acc =>
    let t := fmul term x / (k : Int)
    expSeries f (k + 1) x t (acc + t)

/-- Σ z^(2k+1) / (2k+1), alternating when `alt`. -/
def atanSeries : (fuel : Nat) → (k : Nat) → (alt : Bool) → (z2 pow acc : Int) → Int
  | 0, _, _, _, _, acc => acc
  | f + 1, k, alt, z2, pow, acc =>
    let t := pow / ((2 * k + 1 : Nat) : Int)
    atanSeries f (k + 1) alt z2 (fmul pow z2) (if alt && k % 2 == 1 then acc - t else acc + t)

/-- ln 2. -/
def ln2 : Int := 2 * atanSeries 220 0 false (one / 9) (one / 3) 0

/-- π by 16 atan(1/5) - 4 atan(1/239). -/
def piFix : Int := 16 * atanSeries 160 0 true (one / 25) (one / 5) 0 - 4 * atanSeries 60 0 true (one / 57121) (one / 239) 0

/-- exp of a fixed-point argument as (f, k): the value is f * 2^(k - FB), f between one and two. -/
def expFix (x : Int) : Nat × Int :=
  let k := x / ln2
  let r := x - k * ln2
  ((expSeries 150 1 r one one).toNat, k)

/-- exp of a fixed-point argument as a fraction. -/
def expFrac (x : Int) : Nat × Nat := let (f, k) := expFix x; fracOf f (k - FB)

/-- Whether a finite value lies beyond ± `lim`. -/
def beyond (m : Nat) (e : Int) (lim : Nat) : Bool := let (n, d) := fracOf m e; decide (n > lim * d)

/-- Correctly rounded exponential. -/
def exp32 (v : FV) : Nat :=
  match v with
  | .nan => 0x7FC00000
  | .inf s => if s then 0 else 0x7F800000
  | .fin s m e =>
    if beyond m e 120 then (if s then 0 else 0x7F800000)
    else let (n, d) := expFrac (fixOf s m e); (ffF32.rneFrac false n d).1

/-- Natural logarithm of a positive dyadic in fixed point. -/
def lnFix (m : Nat) (e : Int) : Int :=
  let l := Nat.log2 m
  let y : Int := fixOf false m (-(l : Int))
  let z := (y - one) * one / (y + one)
  2 * atanSeries 220 0 false (fmul z z) z 0 + (e + l) * ln2

/-- Round a signed fixed-point number to FP32. -/
def roundFix (x : Int) : Nat := (ffF32.rneFrac (decide (x < 0)) x.natAbs (2 ^ FB)).1

/-- Correctly rounded natural logarithm. -/
def ln32 (v : FV) : Nat :=
  match v with
  | .nan => 0x7FC00000
  | .inf s => if s then 0x7FC00000 else 0x7F800000
  | .fin s m e => if m = 0 then 0xFF800000 else if s then 0x7FC00000 else roundFix (lnFix m e)

/-- 1 / (1 + exp(-x)) as a fraction, for |x| ≤ 200. -/
def sigmoidFrac (s : Bool) (m : Nat) (e : Int) : Nat × Nat :=
  let (n, d) := expFrac (fixOf true m e)
  if s then (n, d + n) else (d, d + n)

/-- Correctly rounded sigmoid. -/
def sigmoid32 (v : FV) : Nat :=
  match v with
  | .nan => 0x7FC00000
  | .inf s => if s then 0 else 0x3F800000
  | .fin s m e =>
    if beyond m e 200 then (if s then 0 else 0x3F800000)
    else let (n, d) := sigmoidFrac s m e; (ffF32.rneFrac false n d).1

/-- Correctly rounded hyperbolic tangent. -/
def tanh32 (v : FV) : Nat :=
  match v with
  | .nan => 0x7FC00000
  | .inf s => ffF32.withSign s 0x3F800000
  | .fin s m e =>
    if m = 0 then ffF32.withSign s 0 else if beyond m e 60 then ffF32.withSign s 0x3F800000
    else let (n, d) := expFrac (fixOf true m (e + 1)); (ffF32.rneFrac s (d - n) (d + n)).1

/-- x * sigmoid(x), correctly rounded as one function; its limit -0 at minus infinity. -/
def silu32 (v : FV) : Nat :=
  match v with
  | .nan => 0x7FC00000
  | .inf s => if s then 0x80000000 else 0x7F800000
  | .fin s m e =>
    if beyond m e 200 then (if s then 0x80000000 else rne32 v)
    else
      let (n, d) := sigmoidFrac s m e
      let (x, y) := fracOf m e
      (ffF32.rneFrac s (n * x) (d * y)).1

/-- Σ of (-1)^n x^(2n+1) / (2^n n! (2n+1)): terms t_n = x^(2n+1) / (2^n n!). -/
def phiSeries : (fuel : Nat) → (n : Nat) → (x2 term acc : Int) → Int
  | 0, _, _, _, acc => acc
  | f + 1, n, x2, term, acc =>
    let acc := if n % 2 = 0 then acc + term / ((2 * n + 1 : Nat) : Int) else acc - term / ((2 * n + 1 : Nat) : Int)
    phiSeries f (n + 1) x2 (fmul term x2 / ((2 * (n + 1) : Nat) : Int)) acc

/-- The standard normal distribution function in fixed point, for |x| ≤ 15. -/
def phiFix (x : Int) : Int :=
  let s := phiSeries 1000 0 (fmul x x) x 0
  let root : Int := (isqrt (2 * piFix * one).toNat : Nat)
  one / 2 + s * one / root

/-- x * Φ(x), correctly rounded as one function; its limit -0 at minus infinity. -/
def gelu32 (v : FV) : Nat :=
  match v with
  | .nan => 0x7FC00000
  | .inf s => if s then 0x80000000 else 0x7F800000
  | .fin s m e =>
    if m = 0 then ffF32.withSign s 0
    else if beyond m e 15 then (if s then 0x80000000 else rne32 v)
    else
      let p := (phiFix (fixOf s m e)).toNat
      let (x, y) := fracOf m e
      (ffF32.rneFrac s (p * x) (2 ^ FB * y)).1

/-- Sine and cosine series of a fixed-point angle: Σ of ± x^k / k! from a first term. -/
def trigSeries : (fuel : Nat) → (k : Nat) → (x2 term acc : Int) → Int
  | 0, _, _, _, acc => acc
  | f + 1, k, x2, term, acc =>
    let t := -(fmul term x2) / ((k * (k + 1) : Nat) : Int)
    trigSeries f (k + 2) x2 t (acc + t)

/-- Reduce an angle to a quarter turn: the quadrant and the rest in fixed point. Angles are reduced exactly as integers
    of 2^-FB after scaling π to `FB` bits; finite FP32 angles keep at least 480 bits. -/
def quadrant (x : Int) : Nat × Int :=
  let h := piFix / 2
  let k := (x + h / 2) / h
  ((k % 4).toNat, x - k * h)

/-- sin in fixed point. -/
def sinFix (x : Int) : Int :=
  let (q, r) := quadrant x
  let s := trigSeries 110 2 (fmul r r) r r
  let c := trigSeries 110 1 (fmul r r) one one
  match q with
  | 0 => s
  | 1 => c
  | 2 => -s
  | _ => -c

/-- cos in fixed point. -/
def cosFix (x : Int) : Int :=
  let (q, r) := quadrant x
  let s := trigSeries 110 2 (fmul r r) r r
  let c := trigSeries 110 1 (fmul r r) one one
  match q with
  | 0 => c
  | 1 => -s
  | 2 => -c
  | _ => s

/-- Correctly rounded sine of an FP32 angle. -/
def sin32 (v : FV) : Nat :=
  match v with
  | .fin s m e => if m = 0 then ffF32.withSign s 0 else roundFix (sinFix (fixOf s m e))
  | _ => 0x7FC00000

/-- Correctly rounded cosine of an FP32 angle. -/
def cos32 (v : FV) : Nat :=
  match v with
  | .fin s m e => roundFix (cosFix (fixOf s m e))
  | _ => 0x7FC00000

/-- atan of a fixed-point ratio in [0, 1], by two halvings of the angle and the series. -/
def atanUnit (z : Int) : Int :=
  let halve := fun (t : Int) => t * one / (one + (isqrt ((one * one + t * t).toNat) : Nat))
  let w := halve (halve z)
  4 * atanSeries 300 0 true (fmul w w) w 0

/-- atan2 of two finite fractions y and x, in fixed point. -/
def atan2Fix (y x : Int) : Int :=
  let ay : Int := y.natAbs
  let ax : Int := x.natAbs
  let a := if ax = 0 ∧ ay = 0 then 0 else if ay ≤ ax then atanUnit (ay * one / ax) else piFix / 2 - atanUnit (ax * one / ay)
  let a := if x < 0 then piFix - a else a
  if y < 0 then -a else a

/-- The angle of a vector of two FP32 values in fixed point, by the cases of IEEE 754's atan2; none with NaN. -/
def angleFix (y x : FV) : Option Int :=
  let sg := fun (s : Bool) (a : Int) => if s then -a else a
  match y, x with
  | .nan, _ => none
  | _, .nan => none
  | .inf s, .inf t => some (sg s ((if t then 3 * piFix else piFix) / 4))
  | .inf s, .fin _ _ _ => some (sg s (piFix / 2))
  | .fin s _ _, .inf t => some (if t then sg s piFix else 0)
  | .fin s m e, .fin t n f =>
    if m = 0 then some (if t then sg s piFix else 0)
    else
      let b := Min.min e f
      some (sg s (atan2Fix (scaleTo m e b : Nat) (if t then -(scaleTo n f b : Nat) else (scaleTo n f b : Nat))))

/-- Correctly rounded atan2 of two FP32 values, with IEEE 754 results at zeros and infinities. -/
def atan2_32 (y x : FV) : Nat :=
  match y, x with
  | .nan, _ => 0x7FC00000
  | _, .nan => 0x7FC00000
  | .inf s, .inf t => (ffF32.rneFrac s ((if t then 3 * piFix else piFix) / 4).toNat (2 ^ FB)).1
  | .inf s, .fin _ _ _ => (ffF32.rneFrac s (piFix / 2).toNat (2 ^ FB)).1
  | .fin s _ _, .inf t => if t then (ffF32.rneFrac s piFix.toNat (2 ^ FB)).1 else ffF32.withSign s 0
  | .fin s m e, .fin t n f =>
    if m = 0 then (if t then (ffF32.rneFrac s piFix.toNat (2 ^ FB)).1 else ffF32.withSign s 0)
    else if n = 0 then (ffF32.rneFrac s (piFix / 2).toNat (2 ^ FB)).1
    else
      let b := Min.min e f
      let a := atan2Fix (scaleTo m e b : Nat) (if t then -(scaleTo n f b : Nat) else (scaleTo n f b : Nat))
      (ffF32.rneFrac s a.natAbs (2 ^ FB)).1

end Sys2Proof.Machine
end

