-- ==== Sys2Proof/Machine/Flags.lean ====
section
/-! DEFINITION. Predicates and numeric status: comparisons and predicate logic of the scalar unit (R59, R60), and the status that tensor instructions write to P[SP] and to the stable's counters (R71, R72, R104). -/

namespace Sys2Proof.Machine

/-- CMP and CMPI by SUB: EQ, NE, LTS, LTU, GES, GEU. -/
def cmpOp (sub : Nat) (a b : W64) : Bool := match sub with
  | 0 => a == b
  | 1 => a != b
  | 2 => a.slt b
  | 3 => a.ult b
  | 4 => !a.slt b
  | _ => !a.ult b

/-- PLOG by SUB: AND, OR, XOR, ANDN. -/
def plogOp (sub : Nat) (a b : Bool) : Bool := match sub with
  | 0 => a && b
  | 1 => a || b
  | 2 => a != b
  | _ => a && !b

/-- Numeric events of one instruction (R71, R72). -/
structure NumFlags where
  sat  : Bool := false
  nan  : Bool := false
  idx  : Bool := false
  mask : Bool := false
deriving DecidableEq, Repr

/-- Either instruction part raised the event. -/
def NumFlags.or (a b : NumFlags) : NumFlags :=
  { sat := a.sat || b.sat, nan := a.nan || b.nan, idx := a.idx || b.idx, mask := a.mask || b.mask }

/-- Whether any event occurred. -/
def NumFlags.any (f : NumFlags) : Bool := f.sat || f.nan || f.idx || f.mask

/-- Whether an event is counted now: in a CHECKED block only the primary pass counts (R104). -/
def Chip.countsNow (c : Chip) (k : Nat) : Bool := match (c.ctx k).chk with
  | some b => decide (b.state = 1)
  | none => true

/-- Count the events of one instruction at a stable, each in its own counter (R72). -/
def Chip.countFlags (c : Chip) (k : Nat) (f : NumFlags) : Chip :=
  if c.countsNow k then
    let s := k / 2
    let c := if f.sat then c.bump (stbK s 0x40) else c
    let c := if f.nan then c.bump (stbK s 0x48) else c
    let c := if f.idx then c.bump (stbK s 0x50) else c
    if f.mask then c.bump (stbK s 0x58) else c
  else c

/-- The counters and P[SP] at an instruction's end (R71, R72); SP = 0 writes nothing (R70). -/
def Chip.noteFlags (c : Chip) (k sp : Nat) (f : NumFlags) : Chip := (c.countFlags k f).updCtx k fun x => x.wp sp f.any

/-- An instruction's end: its counters and P[SP]. -/
def finishFlags (k sp : Nat) (f : NumFlags) : Ex Unit := modify fun c => c.noteFlags k sp f

end Sys2Proof.Machine
end

