-- ==== Sys2Proof/Machine/Scalar.lean ====
section
/-! DEFINITION. Scalar and control instructions of a context (R59-R65, Scalar semantics) and the descriptor moves TDLD, TDST and TDBASE (R37, R66). -/

namespace Sys2Proof.Machine

/-- Signed 64-bit quotient truncated towards zero, with the table's corner cases. -/
def divS (a b : W64) : W64 :=
  if b = 0 then BitVec.ofInt 64 (-1) else BitVec.ofInt 64 (a.toInt.tdiv b.toInt)

/-- Signed 64-bit remainder with the sign of A, with the table's corner cases. -/
def remS (a b : W64) : W64 := if b = 0 then a else BitVec.ofInt 64 (a.toInt.tmod b.toInt)

/-- ALU and ALUI by SUB (Scalar semantics). -/
def aluOp (sub : Nat) (a b : W64) : W64 := match sub with
  | 0x00 => a + b
  | 0x01 => a - b
  | 0x02 => a &&& b
  | 0x03 => a ||| b
  | 0x04 => a ^^^ b
  | 0x05 => a <<< fld b 5 0
  | 0x06 => a >>> fld b 5 0
  | 0x07 => a.sshiftRight (fld b 5 0)
  | 0x08 => a * b
  | 0x09 => BitVec.ofNat 64 (a.toNat * b.toNat / 2 ^ 64)
  | 0x0A => BitVec.ofInt 64 (a.toInt * b.toInt / (2 ^ 64 : Nat))
  | 0x0B => if a.slt b then a else b
  | 0x0C => if a.slt b then b else a
  | 0x0D => if a.ult b then a else b
  | 0x0E => if a.ult b then b else a
  | 0x0F => if b = 0 then BitVec.allOnes 64 else BitVec.ofNat 64 (a.toNat / b.toNat)
  | 0x10 => divS a b
  | 0x11 => if b = 0 then a else BitVec.ofNat 64 (a.toNat % b.toNat)
  | _ => remS a b

/-- NOP (OPC 0x01). -/
def dNop : IDesc := { opc := 0x01, sub := 0, fmt := .R, grp := 0, rsvB := fD + fA + fB + fC }
/-- ALU (OPC 0x02). -/
def dAlu (sub : Nat) : IDesc := { opc := 0x02, sub := sub, fmt := .R, grp := 0, rsvB := fC, ok := fun _ => sub ≤ 0x12 }
/-- ALUI (OPC 0x03). -/
def dAlui (sub : Nat) : IDesc := { opc := 0x03, sub := sub, fmt := .I, grp := 0, ok := fun _ => sub ≤ 0x12 }
/-- LI (OPC 0x04). -/
def dLi : IDesc := { opc := 0x04, sub := 0, fmt := .L, grp := 0 }
/-- LD (OPC 0x05). -/
def dLd (sub : Nat) : IDesc := { opc := 0x05, sub := sub, fmt := .I, grp := 0, ok := fun _ => sub ≤ 6 }
/-- ST (OPC 0x06). -/
def dSt (sub : Nat) : IDesc := { opc := 0x06, sub := sub, fmt := .I, grp := 0, ok := fun _ => sub ≤ 3 }
/-- CMP (OPC 0x07). -/
def dCmp (sub : Nat) : IDesc := { opc := 0x07, sub := sub, fmt := .R, grp := 0, rsvB := fC + fDp, ok := fun _ => sub ≤ 5 }
/-- CMPI (OPC 0x08). -/
def dCmpi (sub : Nat) : IDesc := { opc := 0x08, sub := sub, fmt := .I, grp := 0, rsvB := fDp, ok := fun _ => sub ≤ 5 }
/-- PLOG (OPC 0x09). -/
def dPlog (sub : Nat) : IDesc := { opc := 0x09, sub := sub, fmt := .R, grp := 0, rsvB := fC + fDp + fAp + fBp, ok := fun _ => sub ≤ 3 }
/-- BR and CALL (OPC 0x0A). -/
def dBr (sub : Nat) : IDesc := { opc := 0x0A, sub := sub, fmt := .B, grp := 0 }
/-- JR and JRL (OPC 0x0B). -/
def dJr (sub : Nat) : IDesc := { opc := 0x0B, sub := sub, fmt := .R, grp := 0, rsvB := (if sub = 0 then fD else 0) + fB + fC }
/-- MFS (OPC 0x0C). -/
def dMfs (sub : Nat) : IDesc := { opc := 0x0C, sub := sub, fmt := .R, grp := 0, rsvB := fA + fB + fC }
/-- END (OPC 0x0E). -/
def dEnd : IDesc := { opc := 0x0E, sub := 0, fmt := .R, grp := 0, rsvB := fD + fA + fB + fC }
/-- TDLD, TDST and TDBASE (OPC 0x13). -/
def dTd (sub : Nat) : IDesc := { opc := 0x13, sub := sub, fmt := .I }

/-- Bytes of a scalar load or store by SUB. -/
def ldBytes (sub : Nat) : Nat := match sub with
  | 0 | 4 => 1
  | 1 | 5 => 2
  | 2 | 6 => 4
  | _ => 8

/-- The loaded value, zero- or sign-extended by SUB (R63). -/
def ldExtend (sub v : Nat) : W64 := if sub ≥ 4 then sext64 (8 * ldBytes sub) v else BitVec.ofNat 64 v

/-- The view a local address names, with the local offset it stands for (R36): 0 set, 1 clear, 2 rotate. -/
def localAlias (a : Nat) : Option (Nat × Nat) :=
  if within 0x800001000000 0x8000015FFFFF a then some (0, a - 0x800001000000)
  else if within 0x800002000000 0x8000025FFFFF a then some (1, a - 0x800002000000)
  else if within 0x800003000000 0x8000035FFFFF a then some (2, a - 0x800003000000)
  else none

/-- Hall window offset of a local offset at a stable. -/
def localHallOff (stb x : Nat) : Nat := localKey stb x % 0x10000000

/-- A scalar load of `n` bytes: from a view as R156 and R157 give, otherwise plain (R63). In a CHECKED block a byte that
    a pending page holds comes from it. -/
def scalarLoad (k a n : Nat) : Ex Nat := do
  match localAlias a with
  | some (kind, x) =>
    let off := localHallOff (k / 2) x
    if aliasBad kind off n then
      modify fun c => c.bump (hallMemK (k / 8) 0x10)
      pure 0
    else
      return leNat (← rdBytes k (aliasKeys kind (k / 8) off n))
  | none => return leNat (← rd k a n)

/-- A scalar store: through a view the bank's read-modify-write (R156), otherwise the low bytes as they are (R63). -/
def scalarStore (k a : Nat) (bs : List Byte) : Ex Unit := do
  match localAlias a with
  | some (kind, x) =>
    let off := localHallOff (k / 2) x
    if aliasBad kind off bs.length then modify fun c => c.bump (hallMemK (k / 8) 0x10)
    else wordRmw k (aliasKeys kind (k / 8) off bs.length) (aliasByte kind) bs
  | none => wr k 0 a bs

/-- A branch taken to an address: it must be 8-byte aligned, and inside a block it must not lie below the instruction
    after the CHKB (R60, R147). -/
def branchTo (k a : Nat) : Ex Unit := do
  let x ← ctxOf k
  let leaves := match x.blk with
    | some b => decide (a < b.chkbIa + 8)
    | none => false
  checks [(a % 8 != 0, ALIGNMENT), (leaves, CHECK_SCOPE)]
  updC k fun x => { x with ia := a % 2 ^ 48 }

/-- NOP does nothing. -/
def nopBody (_ : Nat) : Ex Unit := pure ()

/-- ALU: S[D] ← A op B. -/
def aluBody (sub : Nat) (e : Enc) (k : Nat) : Ex Unit := do setS k e.d (aluOp sub (← getS k e.a) (← getS k e.b))

/-- ALUI: S[D] ← A op IMM30. -/
def aluiBody (sub : Nat) (e : Enc) (k : Nat) : Ex Unit := do setS k e.d (aluOp sub (← getS k e.a) e.imm30)

/-- LI: S[D] ← IMM64. -/
def liBody (e : Enc) (k : Nat) : Ex Unit := setS k e.d e.x0

/-- LD (R63, R257): in a CHECKED block a load from an ASYNC window is recorded and replayed. -/
def ldBody (sub : Nat) (e : Enc) (k : Nat) : Ex Unit := do
  let a := ((← getS k e.a) + e.imm30).toNat
  let n := ldBytes sub
  let c ← get
  if c.asyncHit k a n && (c.ctx k).chk.isSome then
    let v ← recorded k 16 (do
      let ps ← translate k a n false
      return leNat (← ps.mapM fun q => rdPiece k q.1 q.2).flatten)
    setS k e.d (ldExtend sub v)
  else
    let v ← scalarLoad k a n
    setS k e.d (ldExtend sub v)

/-- ST (R63): the low bytes of S[D]. -/
def stBody (sub : Nat) (e : Enc) (k : Nat) : Ex Unit := do
  let a := ((← getS k e.a) + e.imm30).toNat
  scalarStore k a (leBytes (2 ^ (sub % 4)) (← getS k e.d).toNat)

/-- CMP: P[D] ← comparison of A with B. -/
def cmpBody (sub : Nat) (e : Enc) (k : Nat) : Ex Unit := do setP k e.d (cmpOp sub (← getS k e.a) (← getS k e.b))

/-- CMPI: P[D] ← comparison of A with IMM30. -/
def cmpiBody (sub : Nat) (e : Enc) (k : Nat) : Ex Unit := do setP k e.d (cmpOp sub (← getS k e.a) e.imm30)

/-- PLOG: P[D] ← P[A] op P[B]. -/
def plogBody (sub : Nat) (e : Enc) (k : Nat) : Ex Unit := do
  let x ← ctxOf k
  setP k e.d (plogOp sub (x.rp e.a) (x.rp e.b))

/-- Target of a BR or CALL whose base word is at `ia` (R60). -/
def brTarget (ia : Nat) (e : Enc) : Nat := (((ia : Int) + 8 * e.off40) % (2 ^ 48 : Nat)).toNat

/-- BR: add OFF40 words to the address of the branch's own base word. -/
def brBody (e : Enc) (k : Nat) : Ex Unit := do branchTo k (brTarget ((← ctxOf k).ia - 8) e)

/-- CALL: the return address to S31, then as BR. -/
def callBody (e : Enc) (k : Nat) : Ex Unit := do
  let ia := (← ctxOf k).ia
  setS k 31 (BitVec.ofNat 64 ia)
  branchTo k (brTarget (ia - 8) e)

/-- JR: branch to S[A]. -/
def jrBody (e : Enc) (k : Nat) : Ex Unit := do branchTo k (← getS k e.a).toNat

/-- JRL: the return address to S[D], then branch to S[A] as it was. -/
def jrlBody (e : Enc) (k : Nat) : Ex Unit := do
  let t ← getS k e.a
  setS k e.d (BitVec.ofNat 64 (← ctxOf k).ia)
  branchTo k t.toNat

/-- MFS.CSW: the status word, with PASS read as 0 inside a block (R64). -/
def mfsCswBody (e : Enc) (k : Nat) : Ex Unit := do
  let c ← get
  setS k e.d (BitVec.ofNat 64 (setBits (c.csw k (c.ctx k)) 6 6 0))

/-- MFS.LFC (R35). -/
def mfsLfcBody (e : Enc) (k : Nat) : Ex Unit := do setS k e.d (BitVec.ofNat 64 (← ctxOf k).lfc)

/-- MFS.DEVTIME: the local copy, recorded in the primary pass and replayed in the later ones (R64). -/
def mfsDevtimeBody (e : Enc) (k : Nat) : Ex Unit := do
  let v ← recorded k 16 (return (← get).localTime (k / 8))
  setS k e.d (BitVec.ofNat 64 v)

/-- MFS.IADDR: the address of the MFS's own base word. -/
def mfsIaddrBody (e : Enc) (k : Nat) : Ex Unit := do setS k e.d (BitVec.ofNat 64 ((← ctxOf k).ia - 8))

/-- PLACE of a slot: logical hall, stable, slot and partition. -/
def Chip.place (c : Chip) (k : Nat) : Nat :=
  ((c.hallOf (k / 8)).getD 0) % 256 + k / 2 % 4 * 256 + k % 2 * 1024 + (c.ctx k).part % 32 * 2048

/-- MFS.PLACE. -/
def mfsPlaceBody (e : Enc) (k : Nat) : Ex Unit := do setS k e.d (BitVec.ofNat 64 ((← get).place k))

/-- END: the context stops with STATE 0x0; inside a block it raises CHECK_SCOPE (R148). -/
def endBody (k : Nat) : Ex Unit := do
  need (← ctxOf k).blk.isNone CHECK_SCOPE
  let p := (← ctxOf k).part
  updC k fun x => { x with state := 0, wait := .none, saving := none }
  modify fun c => (c.frameDone p).reconsider (k / 2)

/-! ## Descriptors (R37, R66) -/

/-- Footprint end: the last addressed byte of a tensor, scale array of an MX format included (R76, R110). -/
def Desc.lastByte (d : Desc) : Nat :=
  let rowBytes := (d.dims.headD 1 * fmtBits d.fmt + 7) / 8
  let span := ((d.dims.drop 1).zip d.str).foldl (fun n q => n + (q.1 - 1) * q.2) 0
  let elems := d.base + span + rowBytes
  if isMX d.fmt then
    let rows := (d.dims.drop 1).foldl (· * ·) 1
    alignUp elems 4096 + rows * alignUp ((d.dims.headD 1 + 31) / 32) 32 - 1
  else elems - 1

/-- The classes that a descriptor word raises when it is loaded (R37). -/
def descFaults (w : BitVec 256) : List (Bool × Nat) :=
  let n := w.toNat
  let d := Machine.descOf w
  let extra := (List.range 6).any fun i => decide (i ≥ d.rank) && bits n (64 + 16 * i + 15) (64 + 16 * i) != 0
  let extraS := (List.range 5).any fun i => decide (i + 1 ≥ d.rank) && bits n (160 + 18 * i + 17) (160 + 18 * i) != 0
  let last := d.lastByte
  [ (fmtBits d.fmt == 0 || d.rank == 0 || d.rank == 7 || extra || extraS || decide (d.pol ≥ 2) || bits n 255 254 != 0
      || (d.pol == 1 && decide (d.base < 0x800000000000)) || decide (last > 0xFFFFFFFFFFFF)
      || decide (d.base / 0x800000000000 ≠ last / 0x800000000000), DESCRIPTOR),
    (d.base % 32 != 0, ALIGNMENT) ]

/-- Write TD[i]. -/
def setTD (k i : Nat) (w : BitVec 256) : Ex Unit := updC k fun x => { x with td := x.td.set i w }

/-- Read TD[i]; every TD register holds the all-zero word at creation (R61). -/
def getTD (k i : Nat) : Ex (BitVec 256) := return (← ctxOf k).td.get i 0

/-- TDLD: load and validate the descriptor in the 32-byte word at S[A] + IMM30 (R66); from an ASYNC window it is recorded
    in a CHECKED block (R257). -/
def tdldBody (e : Enc) (k : Nat) : Ex Unit := do
  let a := ((← getS k e.a) + e.imm30).toNat / 32 * 32
  let c ← get
  let v ← if (localAlias a).isSome then scalarLoad k a 32
    else if c.asyncHit k a 32 && (c.ctx k).chk.isSome then
      recorded k 48 (do
        let ps ← translate k a 32 false
        return leNat (← ps.mapM fun q => rdPiece k q.1 q.2).flatten)
    else (do return leNat (← rd k a 32))
  let w := BitVec.ofNat 256 v
  checks (descFaults w)
  setTD k e.d w

/-- TDST: store TD[D] to the 32-byte word at S[A] + IMM30 (R66). -/
def tdstBody (e : Enc) (k : Nat) : Ex Unit := do
  let a := ((← getS k e.a) + e.imm30).toNat / 32 * 32
  let w ← getTD k e.d
  joined (need ((descOf w).rank != 0) ILLEGAL_OPERAND) (scalarStore k a (leBytes 32 w.toNat))

/-- TDBASE: replace BASE by S[A] + IMM30 and validate (R66); the low five bits of the sum are ignored, and a sum above
    bit 47 raises DESCRIPTOR. -/
def tdbaseBody (e : Enc) (k : Nat) : Ex Unit := do
  let a := ((← getS k e.a) + e.imm30).toNat
  let old ← getTD k e.d
  let w := setFld old 47 0 (a / 32 * 32)
  checks (((descOf old).rank == 0, ILLEGAL_OPERAND) :: (decide (2 ^ 48 ≤ a), DESCRIPTOR) :: descFaults w)
  setTD k e.d w

end Sys2Proof.Machine
end

