-- ==== Sys2Proof/Machine/TensorMem.lean ====
section
/-! DEFINITION. Tensors in memory: element addresses (R108), MX scale arrays (R109-R111), reads with tag verification, masked writes by work unit with re-tagging (R38, R75), and the comparison of footprints (R76). -/

namespace Sys2Proof.Machine

/-- Total elements. -/
def Desc.size (d : Desc) : Nat := d.dims.foldl (· * ·) 1

/-- Size of a dimension; 1 above the rank. -/
def Desc.dim (d : Desc) (i : Nat) : Nat := d.dims.getD i 1

/-- Element bits. -/
def Desc.bits (d : Desc) : Nat := fmtBits d.fmt

/-- Row length and number of rows. -/
def Desc.len (d : Desc) : Nat := d.dim 0
/-- Rows of the tensor: lines along DIM0. -/
def Desc.rows (d : Desc) : Nat := (d.dims.drop 1).foldl (· * ·) 1

/-- Byte offset of row ρ, ρ linear over dimensions 1 upwards with dimension 1 fastest. -/
def rowOff : List Nat → List Nat → Nat → Nat
  | n :: ds, s :: ss, r => r % n * s + rowOff ds ss (r / n)
  | _, _, _ => 0

/-- Address of row ρ. -/
def Desc.rowAddr (d : Desc) (r : Nat) : Nat := d.base + rowOff (d.dims.drop 1) d.str r

/-- Bytes of one row. -/
def Desc.rowBytes (d : Desc) : Nat := (d.len * d.bits + 7) / 8

/-- End of the element footprint. -/
def Desc.elemEnd (d : Desc) : Nat := d.rowAddr (d.rows - 1) + d.rowBytes

/-- Scale array base and bytes of a scale row (R110). -/
def Desc.scaleBase (d : Desc) : Nat := alignUp d.elemEnd 4096
/-- SROW (R110). -/
def Desc.srow (d : Desc) : Nat := alignUp ((d.len + 31) / 32) 32

/-- Bytes of the footprint, from BASE to the last addressed byte (R76). -/
def Desc.span (d : Desc) : Nat := d.lastByte + 1 - d.base

/-- The packing and block rules of R108 and R110. -/
def Desc.packOk (d : Desc) : Bool :=
  (d.rank < 2 || (!(d.bits == 4 && d.len % 2 != 0) && !(d.bits == 6 && d.len % 4 != 0))) && (!isMX d.fmt || d.len % 32 == 0)

/-- A descriptor that an instruction can use at all: loaded, with a rank and whole rows (R61, R108). -/
def Desc.usable (d : Desc) : Bool := within 1 6 d.rank && d.bits != 0 && d.packOk

/-- The aliased ranges of local space. -/
def aliasLo : Nat := 0x800001000000

/-- A footprint that touches such a range (R76, R123). -/
def Desc.touchesAlias (d : Desc) : Bool := decide (d.lastByte ≥ aliasLo)

/-- Read the descriptor a field names. -/
def descAt (k i : Nat) : Ex Desc := return descOf (← getTD k i)

/-! ## Footprints -/

/-- The store key of an address, whoever may reach it (R36, R76). -/
def Chip.physKey (c : Chip) (k a : Nat) : Option Nat :=
  if a < 0x800000000000 then (match c.target a with
    | .store key => some key
    | _ => none)
  else if a < 0x800000600000 then some (localKey (k / 2) (localOff a)) else none

/-- Physical pieces of an address range, as far as they resolve (R76). -/
def Chip.physPieces (c : Chip) (k a n : Nat) : List (Nat × Nat) :=
  (pieces (n / 4096 + 2) a n).filterMap fun q => (c.physKey k q.1).map fun key => (key, q.2)

/-- Two lists of pieces share a byte. -/
def piecesMeet (a b : List (Nat × Nat)) : Bool :=
  a.any fun p => b.any fun q => decide (p.1 < q.1 + q.2) && decide (q.1 < p.1 + p.2)

/-- Two address ranges share a physical byte (R76). -/
def Chip.overlap (c : Chip) (k a n b m : Nat) : Bool := piecesMeet (c.physPieces k a n) (c.physPieces k b m)

/-- The output's footprint meets an input's, in-place forms aside (R76). -/
def Chip.clash (c : Chip) (k : Nat) (out inp : Desc) : Bool := c.overlap k out.base out.span inp.base inp.span

/-- Output and input are one tensor in place: the fields BASE, DIM, STR and SSHIFT and the element width agree, whatever their ranks (R76). -/
def inPlace (out inp : Desc) : Bool :=
  out.base == inp.base && (List.range 6).all (fun i => out.dim i == inp.dim i && out.str.getD i 0 == inp.str.getD i 0) && out.sshift == inp.sshift && out.bits == inp.bits

/-! ## Access to whole operands (R36, R45) -/

/-- The address ranges that reading or writing a whole tensor reaches: its rows and the rows of its scales (R108, R110). -/
def Desc.reach (d : Desc) : List (Nat × Nat) :=
  if d.usable then ((List.range d.rows).map fun r => (d.rowAddr r, d.rowBytes))
    ++ (if isMX d.fmt then (List.range d.rows).map fun r => (d.scaleBase + r * d.srow, d.len / 32) else []) else []

/-- The mask of a format-T instruction: element `d0` of a row is enabled (R75). -/
def Ctx.maskOn (x : Ctx) (e : Enc) (d0 : Nat) : Bool := !e.meT || x.v.get (e.vmT * 256 + d0 % 256) 0 != 0

/-- The address ranges that writing a tensor under the instruction's mask reaches (R75). -/
def Ctx.outReach (x : Ctx) (e : Enc) (d : Desc) : List (Nat × Nat) :=
  if e.meT && d.usable then ((List.range d.rows).map fun r => ((List.range d.len).filter (x.maskOn e)).map fun i => (d.rowAddr r + i * d.bits / 8, (d.bits + 7) / 8)).flatten
  else d.reach

/-- The first address of some ranges that R36 denies. -/
def Chip.barredAt (c : Chip) (k : Nat) (rs : List (Nat × Nat)) (wr : Bool) : Option Nat := rs.findSome? fun q => c.denied k q.1 q.2 wr

/-- Raise the classes whose condition holds, where the ACCESS among them is at an address: what reaches nothing is counted (R45, R172,
    R173). -/
def checksAt (l : List (Bool × Nat)) (at' : Option Nat) : Ex Unit := fun c => match checks l c with
  | .ok r => .ok r
  | .error t => .error (match at' with
    | some a => if t.cls = ACCESS then { t with addr := a, chip := t.chip.countMiss a } else t
    | none => t)

/-! ## Reads -/

/-- Element `i` of a row's bytes (R108). -/
def elemOf (bits : Nat) (row : List Byte) (i : Nat) : Nat :=
  if bits ≥ 8 then leNat ((row.drop (i * bits / 8)).take (bits / 8))
  else if bits = 4 then (row.getD (i / 2) 0).toNat / 16 ^ (i % 2) % 16
  else leNat ((row.drop (i / 4 * 3)).take 3) / 64 ^ (i % 4) % 64

/-- Read bytes that a descriptor's tag policy guards: verified when tagged (R38, R125). -/
def rdPol (k : Nat) (tagged : Bool) (a n : Nat) : Ex (List Byte) := do
  if tagged then verifyRange k a n else pure ()
  rd k a n

/-- Element patterns of a tensor in linear order, DIM0 fastest; only the rows that `on` names are read, the others are zeros. -/
def readRawOn (on : Nat → Bool) (k : Nat) (d : Desc) : Ex (List Nat) := do
  let rows ← (List.range d.rows).mapM fun r => do
    let bs ← if on r then rdPol k (d.pol == 0) (d.rowAddr r) d.rowBytes else pure []
    return (List.range d.len).map (elemOf d.bits bs)
  return rows.flatten

/-- Element patterns of a whole tensor. -/
def readRaw (k : Nat) (d : Desc) : Ex (List Nat) := readRawOn (fun _ => true) k d

/-- Scale bytes of an MX tensor, one per block of 32 in linear order (R110), of the rows that `on` names. -/
def readScales (on : Nat → Bool) (k : Nat) (d : Desc) : Ex (List Nat) := do
  let rows ← (List.range d.rows).mapM fun r => do
    let bs ← if on r then rdPol k (d.pol == 0) (d.scaleBase + r * d.srow) (d.len / 32) else pure (List.replicate (d.len / 32) 0)
    return bs.map BitVec.toNat
  return rows.flatten

/-- An MX element's exact value under its scale (R109). -/
def mxVal (fmt elem scale : Nat) : FV := if scale = 0xFF then .nan else (decElem fmt elem).scale2 ((scale : Int) - 127)

/-- Exact element values of the rows of a tensor that `on` names, in linear order. -/
def readTensorOn (on : Nat → Bool) (k : Nat) (d : Desc) : Ex (List FV) := do
  let es ← readRawOn on k d
  if isMX d.fmt then
    let ss ← readScales on k d
    return (List.range es.length).map fun i => mxVal d.fmt (es.getD i 0) (ss.getD (i / 32) 0xFF)
  else return es.map (decElem d.fmt)

/-- Exact element values of a whole tensor. -/
def readTensor (k : Nat) (d : Desc) : Ex (List FV) := readTensorOn (fun _ => true) k d

/-- Element values as FP32 (R94): exact, an MX value beyond the range becoming an infinity. -/
def readF32On (on : Nat → Bool) (k : Nat) (d : Desc) : Ex (List FV) := do return (← readTensorOn on k d).map r32

/-- Element values of a whole tensor as FP32. -/
def readF32 (k : Nat) (d : Desc) : Ex (List FV) := readF32On (fun _ => true) k d

/-! ## Writes -/

/-- Put a pattern of `w` bits at a bit position of a byte list held as a number. -/
def insBits (n pos w v : Nat) : Nat := setBits n (pos + w - 1) pos v

/-- Group byte cells (unit, address, byte) into runs of rising addresses within one unit. -/
def runsOf : List (Nat × Nat × Byte) → List (Nat × Nat × List Byte)
  | [] => []
  | (u, a, b) :: cs => match runsOf cs with
    | (v, a', bs) :: rest => if u = v ∧ a' = a + 1 then (u, a, b :: bs) :: rest else (u, a, [b]) :: (v, a', bs) :: rest
    | [] => [(u, a, [b])]

/-- Cells of a row to be written: the bytes that hold an enabled element, merged with the old row. -/
def rowCells (bits addr : Nat) (old : List Byte) (els : List (Option Nat)) (unit : Nat → Nat) : List (Nat × Nat × Byte) :=
  let n := old.length
  let v := (els.zipIdx).foldl (fun v q => match q.1 with
    | some p => insBits v (q.2 * bits) bits p
    | none => v) (leNat old)
  let touched := fun j => (List.range els.length).find? fun i => (els.getD i none).isSome && decide (i * bits / 8 ≤ j) && decide (j ≤ (i * bits + bits - 1) / 8)
  (List.range n).filterMap fun j => (touched j).map fun i => (unit i, addr + j, BitVec.ofNat 8 (v / 256 ^ j))

/-- Write runs in order; a trap names the blocks written before it. -/
def wrRuns (k : Nat) : List (Nat × Nat × List Byte) → (done : List Nat) → Ex Unit
  | [], _ => pure ()
  | q :: qs, done => fun c => match wr k q.1 q.2.1 q.2.2 c with
    | .ok ((), c') => wrRuns k qs (done ++ ((c.xlate k q.2.1 q.2.2.length true).getD []).map fun p => p.1 / 4096) c'
    | .error t => .error { t with wrote := done }

/-- A phase that a tag or word-code failure stops as it stops a move (R126): outside a CHECKED block memory keeps what the instruction had
    written, and those blocks take the poison tag. -/
def moveStop {α : Type} (k : Nat) (act : Ex α) (left : Trap → Chip → MemSt × List Nat) : Ex α := fun c => match act c with
  | .ok r => .ok r
  | .error t => .error (if (t.cls = TAG ∨ t.cls = DATA_UNCORRECTABLE) ∧ (c.ctx k).chk.isNone then
      let (m, blks) := left t c
      { t with keep := true, chip := blks.foldl Chip.poison { t.chip with mem := { m with wb := t.chip.mem.wb } } }
    else t)

/-- Write runs in unit order, ascending address within a unit (R249), then tag the touched blocks (R38). -/
def emit (k : Nat) (tagged : Bool) (cells : List (Nat × Nat × Byte)) : Ex Unit := do
  let units := (cells.map fun q => q.1).eraseDups
  let top := units.foldl max 0
  let ordered := ((List.range (top + 1)).map fun u => cells.filter fun q => q.1 == u).flatten
  let runs := runsOf ordered
  wrRuns k runs []
  if tagged then
    let blks ← runs.mapM fun q => keyBlocks k q.2.1 q.2.2.length
    tagKeys k (sortBy id blks.flatten.eraseDups)
  else pure ()

/-- Byte `j` of a row holds bits of an enabled element and other bits too: its write is merged in memory. -/
def mergedByte (bits : Nat) (row : List (Option Nat)) (j : Nat) : Bool :=
  let on := fun b => (row.getD ((8 * j + b) / bits) none).isSome
  (List.range 8).any on && !(List.range 8).all on

/-- A byte that a merged write keeps bits of, as the running pass sees it: the write needs no permission to read. -/
def oldByte (k a : Nat) : Ex Byte := do
  let ps ← translate k a 1 true
  return (← ps.mapM fun q => rdPiece k q.1 q.2).flatten.headD 0

/-- The cells of element patterns in linear order; `none` leaves an element as it is, and it is not read (R75). `unit` maps a linear
    index to its work unit. -/
def elemCells (k : Nat) (d : Desc) (els : List (Option Nat)) (unit : Nat → Nat) : Ex (List (Nat × Nat × Byte)) := do
  let cells ← (List.range d.rows).mapM fun r => do
    let row := (els.drop (r * d.len)).take d.len
    let old ← (List.range d.rowBytes).mapM fun j => if mergedByte d.bits row j then oldByte k (d.rowAddr r + j) else pure 0
    return rowCells d.bits (d.rowAddr r) old row fun i => unit (r * d.len + i)
  return cells.flatten

/-- Biased exponent range of an MX element format (R111). -/
def mxEmax (fmt : Nat) : Int := match fmt with
  | 0x11 => 8 | 0x12 => 15 | 0x13 => 2 | 0x14 => 4 | 0x15 => 2 | _ => 0

/-- Encode a block of 32 FP32 values (R111): scale, elements, saturation (only with a clamped scale, R114), NaN block. -/
def mxBlock (fmt : Nat) (vs : List FV) (sr : Bool) (seed idx0 : Nat) : Nat × List Nat × Bool × Bool :=
  if vs.any fun v => !v.finite then (0xFF, vs.map fun _ => 0, false, true)
  else
    let amax := vs.foldl (fun m v => if m.lt v.abs then v.abs else m) FV.zero
    let raw : Option Int := match amax with
      | .fin _ m e => if m = 0 then none else some ((Nat.log2 m : Int) + e - mxEmax fmt + 127)
      | _ => none
    let X : Nat := match raw with
      | none => 127
      | some x => (max 0 (min 254 x)).toNat
    let clamped := match raw with
      | some x => decide (x > 254)
      | none => false
    let es := (vs.zipIdx).map fun q =>
      let w := q.1.scale2 (127 - (X : Int) + (if fmt = 0x10 then 6 else 0))
      match ffOf fmt with
      | some ff =>
        let ff' := { ff with infc := none }
        let r := if sr then ff'.stoch w seed (idx0 + q.2) else ff'.conv w
        (r.1, r.2)
      | none =>
        let r := if sr then stochInt 8 w seed (idx0 + q.2) else convInt 8 w
        (toBits 8 r.1, r.2)
    (X, es.map Prod.fst, clamped && es.any Prod.snd, false)

/-- Encode output values in linear order into a tensor's format and write them (R112, R113, R111), with the flags of R71. An MX block none
    of whose elements has a value stays as it is, its scale too. -/
def writeTensor (k : Nat) (d : Desc) (vals : List (Option FV)) (sr : Bool) (seed : Nat) (unit : Nat → Nat) : Ex NumFlags := do
  if isMX d.fmt then
    let blocks := (List.range (d.size / 32)).map fun b =>
      let vs := (vals.drop (32 * b)).take 32
      if vs.any Option.isSome then some (mxBlock d.fmt (vs.map fun v => v.getD FV.zero) sr seed (32 * b)) else none
    let cells ← elemCells k d ((blocks.map fun o => o.elim (List.replicate 32 none) fun b => b.2.1.map some).flatten) unit
    let per := d.len / 32
    let scells := (blocks.zipIdx).filterMap fun q => q.1.map fun b => (unit (32 * q.2), d.scaleBase + q.2 / per * d.srow + q.2 % per, BitVec.ofNat 8 b.1)
    emit k (d.pol == 0) (cells ++ scells)
    return { sat := blocks.any fun o => o.any fun b => b.2.2.1, nan := blocks.any fun o => o.any fun b => b.2.2.2 }
  else
    let enc := (vals.zipIdx).map fun q => q.1.map fun v => encElem d.fmt v sr seed q.2
    let cells ← elemCells k d (enc.map fun o => o.map Prod.fst) unit
    emit k (d.pol == 0) cells
    return { sat := enc.any fun o => (o.map fun r => r.2.1).getD false, nan := enc.any fun o => (o.map fun r => r.2.2).getD false }

end Sys2Proof.Machine
end

