-- ==== Sys2Proof/Machine/Device.lean ====
section
/-! DEFINITION. Reads, writes and tags of device addresses by masters other than a context's instructions: the DCU, the I/O dies and the save engines (R69, R153, R162, R163). -/

namespace Sys2Proof.Machine

/-- Pieces of a device range, cut at 4 KiB. -/
def devPieces (a n : Nat) : List (Nat × Nat) := pieces (n / 4096 + 2) a n

/-- The store key of a device address, if it leads to a store. -/
def Chip.devKey (c : Chip) (a : Nat) : Option Nat := match c.target a with
  | .store k => some k
  | _ => none

/-- Device bytes as the DCU reads them; zeros where there is no store. -/
def Chip.devRead (c : Chip) (a n : Nat) : List Byte :=
  ((devPieces a n).map fun q => match c.devKey q.1 with
    | some k => c.bytesAt k q.2
    | none => List.replicate q.2 0).flatten

/-- What a read of device bytes by the DCU, an I/O die or a save engine finds in the words it reads (R162). -/
def Chip.devSense (c : Chip) (a n : Nat) : Chip :=
  (devPieces a n).foldl (fun c q => match c.devKey q.1 with
    | some k => (c.sense k q.2).1
    | none => c) c

/-- Write device bytes by the DCU, an I/O die or a save engine (R153, R163). -/
def Chip.devWrite (c : Chip) (a : Nat) (bs : List Byte) : Chip :=
  (cutBytes (devPieces a bs.length) bs).foldl (fun c q => match c.devKey q.1 with
    | some k => (c.putBus k q.2).1
    | none => c) c

/-- Tag the blocks of a device range as the DCU (R69, R165). -/
def Chip.devTag (c : Chip) (a n : Nat) : Chip :=
  (devPieces a n).foldl (fun c q => match c.devKey q.1 with
    | some k => c.tagBlock (k / 4096) 0x4000
    | none => c) c

end Sys2Proof.Machine
end

