-- ==== Sys2Proof/Machine/SaveArea.lean ====
section
/-! DEFINITION. The save area of a context: what a save writes there and what a restore takes from it (R277-R279; the layout is log 33). -/

namespace Sys2Proof.Machine

/-! ## The register image (R279) -/

/-- Its length in bytes. -/
def regImageLen : Nat := 24576

/-- A part of the image with zeros up to its length. -/
def padTo (n : Nat) (bs : List Byte) : List Byte := bs ++ List.replicate (n - bs.length) 0

/-- `n` little-endian numbers of `w` bytes. -/
def leWords (w : Nat) : (n : Nat) → List Byte → List Nat
  | 0, _ => []
  | n + 1, bs => leNat (bs.take w) :: leWords w n (bs.drop w)

/-- The register image of a context homed at a stable: CSW, IA, LFC, P and S0-S31, the units that each stall has completed of an instruction in
    flight, which is none at a boundary (log 75), TD0-TD31 from 0x400 and V0-V15 from 0x2000. -/
def Chip.regImage (c : Chip) (stb : Nat) (x : Ctx) : List Byte :=
  padTo 0x400 (leBytes 8 (c.csw (2 * stb) x) ++ leBytes 8 x.ia ++ leBytes 8 x.lfc ++ leBytes 8 x.p.toNat ++ ((List.range 32).map fun i => leBytes 8 (x.s.get i 0).toNat).flatten)
    ++ padTo 0x1C00 ((List.range 32).map fun i => leBytes 32 (x.td.get i 0).toNat).flatten
    ++ ((List.range 4096).map fun i => leBytes 4 (x.v.get i 0).toNat).flatten

/-- Hold the numbers that are not zero, by position. -/
def held {α : Type} (f : Nat → α) (ns : List Nat) : AMap Nat α := (ns.zipIdx.filter fun q => q.1 != 0).map fun q => (q.2, f q.1)

/-- A context with the registers of an image. -/
def Ctx.ofImage (x : Ctx) (r : List Byte) : Ctx :=
  let ws := leWords 8 36 r
  { x with ia := ws.getD 1 0, lfc := ws.getD 2 0, p := BitVec.ofNat 16 (ws.getD 3 0 / 2 * 2 + 1), s := (held (BitVec.ofNat 64) (ws.drop 4)).del 0,
           td := held (BitVec.ofNat 256) (leWords 32 32 (r.drop 0x400)), v := held (BitVec.ofNat 32) (leWords 4 4096 (r.drop 0x2000)) }

/-! ## The area -/

/-- A tag slot as bytes (R165). -/
def Tag.bytes (t : Tag) : List Byte := leBytes 4 t.crc ++ t.tail ++ leBytes 8 t.time ++ List.replicate 48 0

/-- A tag slot from bytes. -/
def tagFrom (r : List Byte) : Tag :=
  { crc := leNat (r.take 4), prod := leNat ((r.drop 4).take 2), seq := leNat ((r.drop 6).take 2), time := leNat ((r.drop 8).take 8) }

/-- The live accumulator tiles of a context. -/
def CtxDesc.tiles (d : CtxDesc) : List Nat := (List.range 16).filter (bit d.acclive)

/-- The bytes of a tile: four stalls of 1,024 words. -/
def Ctx.tileBytes (x : Ctx) (t : Nat) : List Byte := ((List.range 4096).map fun w => leBytes 4 (x.accRaw (4096 * t + w)).toNat).flatten

/-- What a save writes: the register image, the pages, the live tiles and the pages' tag slots, one after the other (R279). -/
def Chip.saveImage (c : Chip) (stb : Nat) (x : Ctx) (ps ts : List Nat) : List Byte :=
  c.regImage stb x ++ (ps.map fun p => c.bytesAt (localKey stb (4096 * p)) 4096).flatten ++ (ts.map x.tileBytes).flatten
    ++ (ps.map fun p => (c.tagOf (localKey stb (4096 * p) / 4096)).bytes).flatten

/-- The save engine writes a context's save area; what it reads and merges is sensed (R153, R162). -/
def Chip.saveTo (c : Chip) (stb : Nat) (x : Ctx) (d : CtxDesc) (ps : List Nat) : Chip :=
  let c := ps.foldl (fun c p => (c.sense (localKey stb (4096 * p)) 4096).1) c
  c.devWrite d.saveBase (c.saveImage stb x ps d.tiles)

/-- The registers of a saved context stand in its save area too. -/
def Chip.reimage (c : Chip) (stb : Nat) (x : Ctx) : Chip :=
  match x.image, c.desc? x with
  | some _, some d => c.devWrite d.saveBase (c.regImage stb x)
  | _, _ => c

/-- Write saved pages back, then their tags. -/
def Chip.pagesBack (c : Chip) (stb : Nat) (ps : List (Nat × List Byte × Tag)) : Chip :=
  let c := ps.foldl (fun c p => c.putRaw (localKey stb (4096 * p.1)) p.2.1) c
  ps.foldl (fun c p => c.setTag (localKey stb (4096 * p.1) / 4096) p.2.2) c

/-- The restore engine takes a context from its save area: the pages, their tags, the live tiles and the registers (R277). -/
def Chip.loadFrom (c : Chip) (stb : Nat) (x : Ctx) (d : CtxDesc) (ps : List Nat) : Chip × Ctx :=
  let n := ps.length
  let tileAt := regImageLen + 4096 * n
  let tagAt := tileAt + 16384 * d.tiles.length
  let c := c.devSense d.saveBase (tagAt + 64 * n)
  let pages := ps.zipIdx.map fun p => (p.1, c.devRead (d.saveBase + regImageLen + 4096 * p.2) 4096, tagFrom (c.devRead (d.saveBase + tagAt + 64 * p.2) 64))
  let acc := (d.tiles.zipIdx.map fun t => (held (BitVec.ofNat 32) (leWords 4 4096 (c.devRead (d.saveBase + tileAt + 16384 * t.2) 16384))).map fun (q : Nat × W32) => (4096 * t.1 + q.1, q.2)).flatten
  (c.pagesBack stb pages, { x.ofImage (c.devRead d.saveBase regImageLen) with acc := acc, image := none })

end Sys2Proof.Machine
end

