-- ==== Sys2Proof/Machine/Waits.lean ====
section
/-! DEFINITION. Blocking and resuming of contexts (R31, R143, R276), and the record of an outcome when a blocked context resumes. -/

namespace Sys2Proof.Machine

/-- A CHK stable whose slot `k` has come free of a running context switches to its other resident context (R31). -/
def Chip.yieldTo (c : Chip) (k : Nat) : Chip :=
  match c.ctx? (otherSlot k) with
  | some y => if y.state = 1 ∧ y.wait = .none ∧ !c.core.dual.contains (k / 2) then
      { c with core := { c.core with active := c.core.active.set (k / 2) (otherSlot k % 2) } }.updCtx (otherSlot k) fun y => { y with state := 2 }
    else c
  | none => c

/-- Block a context on a wait; a CHK stable switches to its other resident context (R31), and the scheduler reconsiders (R276). -/
def Chip.block (c : Chip) (k : Nat) (w : Wait) : Chip :=
  ((c.updCtx k fun x => { x with wait := w, state := 3, since := c.time.now }).yieldTo k).reconsider (k / 2)

/-- Resident slots whose context waits as `p` says. -/
def Chip.waiting (c : Chip) (p : Ctx → Wait → Bool) : List Nat :=
  (c.core.slots.filter fun e => e.2.state == 3 && p e.2 e.2.wait).map Prod.fst

/-- Resume a resident context with an effect of its own, which may fault (R149, R256). -/
def Chip.resumeWith (c : Chip) (k opc : Nat) (act : Ex Unit) : Chip := (c.resume k).runEx k opc act

/-- End a wait in a context that is saved: it stays saved, and is runnable from now on (R276). -/
def Chip.updSaved (c : Chip) (key : Nat × Nat) (f : Ctx → Ctx) : Chip :=
  match c.core.saved.look key with
  | none => c
  | some x =>
    let y := { f x with since := if x.wait = Wait.none ∨ (f x).wait ≠ Wait.none then x.since else c.time.now }
    let c := { c with core := { c.core with saved := c.core.saved.set key y } }
    match (c.desc? x).bind c.homeKey with
    | some stb => (c.reimage stb y).reconsider stb
    | none => c

/-- Saved contexts of a partition whose wait is as `p` says. -/
def Chip.savedWaiting (c : Chip) (p : Ctx → Wait → Bool) : List (Nat × Nat) :=
  (c.core.saved.filter fun e => e.2.state == 5 && p e.2 e.2.wait).map Prod.fst

end Sys2Proof.Machine
end

