-- ==== Sys2Proof/Machine/Movement.lean ====
section
/-! DEFINITION. MOV and ATOM (R123-R126, R134-R137). -/

namespace Sys2Proof.Machine

/-- Format M: fields SA and SB and the rest, as masks. -/
def fSAm : Nat := fB
/-- SB of format M. -/
def fSBm : Nat := fC

/-- MOV (OPC 0x10): COPY names no S register, FILL no TDS and no SB. -/
def dMov (sub : Nat) : IDesc := { opc := 0x10, sub := sub, fmt := .M, rsvB := if sub = 0 then fSAm + fSBm else fA + fSBm }

/-- ATOM (OPC 0x12). -/
def dAtom (sub : Nat) : IDesc := { opc := 0x12, sub := sub, fmt := .R, rsvB := fC }

/-- One chunk of a move: destination and source addresses and a number of bytes, within one block of each. -/
structure Chunk where
  dst : Nat
  src : Nat
  n   : Nat
deriving DecidableEq, Repr

/-- Cut a run of bytes at the block boundaries of both sides. -/
def chunksOf : (fuel dst src n : Nat) → List Chunk
  | 0, _, _, _ => []
  | f + 1, d, s, n =>
    if n = 0 then [] else
      let m := min n (min (4096 - d % 4096) (4096 - s % 4096))
      { dst := d, src := s, n := m } :: chunksOf f (d + m) (s + m) (n - m)

/-- The element rows of a tensor and, of an MX tensor, its scale rows, as (address, bytes). -/
def Desc.byteRows (d : Desc) : List (Nat × Nat) :=
  ((List.range d.rows).map fun r => (d.rowAddr r, d.rowBytes)) ++
    (if isMX d.fmt then (List.range d.rows).map fun r => (d.scaleBase + r * d.srow, d.srow) else [])

/-- A dense footprint: every stride equals the bytes of the dimensions below it (R125). -/
def denseStr : List Nat → List Nat → Nat → Bool
  | n :: ds, s :: ss, size => s == size && denseStr ds ss (n * size)
  | _, _, _ => true

/-- Dense, in whole aligned blocks, tagged (R125). -/
def Desc.wholeBlocks (d : Desc) : Bool :=
  d.pol == 0 && d.base % 4096 == 0 && denseStr (d.dims.drop 1) d.str d.rowBytes && (d.elemEnd - d.base) % 4096 == 0 && d.span % 4096 == 0

/-- Read a chunk of a move's source. `seen` lists the blocks verified by this instruction. -/
def moveRead (k : Nat) (tagged : Bool) (seen : List Nat) (a n : Nat) : Ex (List Byte × List Nat) := do
  let ps ← translate k a n false
  let x ← ctxOf k
  match ps with
  | [(key, m)] =>
    let blk := key / 4096
    if !tagged || ((x.chk.bind fun b => b.pageOf blk).isSome) then return (← rdPiece k key m, seen)
    else if seen.contains blk then return ((← get).bytesAt key m, seen)
    else
      senseEx (blk * 4096) 4096
      verify (x.execStb k) blk
      return ((← get).bytesAt key m, blk :: seen)
  | _ => raise ACCESS 0 a

/-- Merge a row's last byte where its elements do not fill it: the low `r` bits are new (R108). -/
def lastByte (r : Nat) (new old : Byte) : Byte := if r = 0 then new else BitVec.ofNat 8 (new.toNat % 2 ^ r + old.toNat / 2 ^ r * 2 ^ r)

/-- Run the chunks of a move in ascending destination order. A tag or word-code failure outside a CHECKED block poisons the
    blocks already written (R126). -/
def moveChunks (k : Nat) (first : Nat) (src : Nat → List Nat → Nat → Nat → Ex (List Byte × List Nat)) :
    List Chunk → (seen written : List Nat) → Ex (List Nat)
  | [], _, written => pure written
  | q :: qs, seen, written => do
    let step : Ex (List Nat × List Nat) := do
      let (bs, seen) ← src q.dst seen q.src q.n
      let blks ← keyBlocks k q.dst q.n
      wr k (q.dst / 4096 - first) q.dst bs
      pure (seen, blks)
    let c ← get
    match step c with
    | .ok ((seen, blks), c') => do
      set c'
      moveChunks k first src qs seen (written ++ blks.filter fun b => !written.contains b)
    | .error t =>
      if (t.cls = TAG ∨ t.cls = DATA_UNCORRECTABLE) ∧ (c.ctx k).chk.isNone then
        fun _ => .error { t with keep := true, chip := written.foldl Chip.poison t.chip }
      else fun _ => .error t

/-- The chunks of a copy in ascending destination order. -/
def copyPlan (s d : Desc) : List Chunk :=
  sortBy Chunk.dst ((d.byteRows.zip s.byteRows).map fun q => chunksOf (q.1.2 / 2048 + 3) q.1.1 q.2.1 q.1.2).flatten

/-- What a copy raises at issue (R36, R76, R123, R257): every byte of both footprints lies where R36 permits the access, before any
    block is read. -/
def Chip.copyFaults (c : Chip) (k : Nat) (s d : Desc) : List (Bool × Nat) :=
  let shape := s.usable && d.usable && s.fmt == d.fmt && s.rank == d.rank && s.dims == d.dims && s.smap == 63 && d.smap == 63
  let open' := (copyPlan s d).all fun q => (c.xlate k q.dst q.n true).isSome && (c.xlate k q.src q.n false).isSome
  [ (!(shape && !c.clash k d s), ILLEGAL_OPERAND),
    (s.touchesAlias || d.touchesAlias || ((c.ctx k).chk.isSome && c.asyncHit k s.base s.span) || shape && !open', ACCESS) ]

/-- The source bytes of a chunk; the last byte of a row that its elements do not fill keeps the destination's other bits (R108). -/
def copySrc (k : Nat) (s d : Desc) (dst : Nat) (seen : List Nat) (a n : Nat) : Ex (List Byte × List Nat) := do
  let (bs, seen) ← moveRead k (s.pol == 0) seen a n
  if s.len * s.bits % 8 ≠ 0 ∧ ((List.range d.rows).map fun r => d.rowAddr r + d.rowBytes).contains (dst + n) then do
    let old := (← rd k (dst + n - 1) 1).headD 0
    return (bs.dropLast ++ [lastByte (s.len * s.bits % 8) (bs.getLastD 0) old], seen)
  else return (bs, seen)

/-- Blocks of a readable address range, in address order. -/
def keyBlocksR (k a n : Nat) : Ex (List Nat) := do return ((← translate k a n false).map fun q => q.1 / 4096).eraseDups

/-- Tags of the blocks a copy has written (R125): the source's own tags where both footprints are whole blocks, otherwise new ones; none
    for an untagged destination, and none before the commit in a CHECKED block. -/
def copyTags (k : Nat) (s d : Desc) (written : List Nat) : Ex Unit := do
  if d.pol ≠ 0 ∨ (← inChk k).isSome then pure ()
  else if s.wholeBlocks && d.wholeBlocks then do
    let ss ← keyBlocksR k s.base s.span
    let ds ← keyBlocks k d.base d.span
    modify fun c => (ds.zip ss).foldl (fun c q => c.setTag q.1 (c.tagOf q.2)) c
  else tagKeys k (sortBy id written)

/-- MOV.COPY (R123, R125, R126). -/
def copyBody (e : Enc) (k : Nat) : Ex Unit := do
  let s ← descAt k e.a
  let d ← descAt k e.d
  checks ((← get).copyFaults k s d)
  let written ← moveChunks k (d.base / 4096) (copySrc k s d) (copyPlan s d) [] []
  copyTags k s d written

/-- Byte `j` of the endless repetition of a `w`-bit pattern (R108, R124). -/
def patByte (w p j : Nat) : Byte :=
  if w = 4 then BitVec.ofNat 8 (p * 17)
  else if w = 6 then BitVec.ofNat 8 (p * (1 + 2 ^ 6 + 2 ^ 12 + 2 ^ 18) / 256 ^ (j % 3))
  else BitVec.ofNat 8 (p / 256 ^ (j % (w / 8)))

/-- The chunks of a fill in ascending destination order: the source of a chunk counts bytes within its row. -/
def fillPlan (d : Desc) : List Chunk :=
  sortBy Chunk.dst ((List.range d.rows).map fun r => chunksOf (d.rowBytes / 2048 + 3) (d.rowAddr r) (r * 2 ^ 24) d.rowBytes).flatten

/-- The bytes of a chunk of a fill with a pattern. -/
def fillSrc (k : Nat) (d : Desc) (p : Nat) (dst : Nat) (seen : List Nat) (a n : Nat) : Ex (List Byte × List Nat) := do
  let bs := (List.range n).map fun i => patByte d.bits p (a % 2 ^ 24 + i)
  if d.len * d.bits % 8 ≠ 0 ∧ a % 2 ^ 24 + n = d.rowBytes then do
    let old := (← rd k (dst + n - 1) 1).headD 0
    return (bs.dropLast ++ [lastByte (d.len * d.bits % 8) (bs.getLastD 0) old], seen)
  else return (bs, seen)

/-- MOV.FILL (R124). -/
def fillBody (e : Enc) (k : Nat) : Ex Unit := do
  let d ← descAt k e.d
  let p := (← getS k e.b).toNat % 2 ^ d.bits
  let c ← get
  let shape := d.usable && !isMX d.fmt && d.smap == 63
  checks [(!shape, ILLEGAL_OPERAND), (d.touchesAlias || shape && !(fillPlan d).all fun q => (c.xlate k q.dst q.n true).isSome, ACCESS)]
  let written ← moveChunks k (d.base / 4096) (fillSrc k d p) (fillPlan d) [] []
  if d.pol = 0 then tagKeys k (sortBy id written) else pure ()

/-! ## ATOM -/

/-- The key of each byte of an ATOM's word, where R135 admits its address. -/
def Chip.atomKeys (c : Chip) (k a n : Nat) : Option (List Nat) :=
  match c.xlate k a n true with
  | none => none
  | some ps =>
    let ks := (ps.map fun q => (List.range q.2).map (q.1 + ·)).flatten
    if ks.all fun key => within 0x4000000000 0x51FFFFFFFF key then some ks else none

/-- Read-modify-write of the bytes at the bank (R134, R136): set or clear, with a whole word sensed first (R163). -/
def rmw (keys : List Nat) (clr : Bool) (data : List Byte) : Ex (List Byte) := do
  (keys.map (· / 32)).eraseDups.forM fun w => senseEx (w * 32) 32
  let c ← get
  let old := keys.map c.byteAt
  let new := (keys.zip (old.zip data)).map fun q => (q.1, aliasByte (if clr then 1 else 0) q.2.1 q.2.2)
  set (new.foldl (fun c q => c.putRaw q.1 [q.2]) c)
  pure old

/-- The effect of an ATOM at an address: SUB gives its width and kind. -/
def atomAt (k sub a : Nat) (data : W64) : Ex (List Byte) := do
  let n := if sub < 2 then 8 else 4
  let c ← get
  match c.atomKeys k a n with
  | none => raise ACCESS 0 a
  | some ks => rmw ks (sub % 2 == 1) (leBytes n data.toNat)

/-- ATOM (R134): the old value to S[D]. In a CHECKED block the old value is read and recorded, and the write is held
    (R149). -/
def atomBody (sub : Nat) (e : Enc) (k : Nat) : Ex Unit := do
  let a := (← getS k e.a).toNat
  let data ← getS k e.b
  let n := if sub < 2 then 8 else 4
  match ← inChk k with
  | none => do
    let old ← atomAt k sub a data
    setS k e.d (BitVec.ofNat 64 (leNat old))
  | some _ => do
    need (!(← get).asyncHit k a n) ACCESS
    let v ← recorded k 16 (do
      match (← get).atomKeys k a n with
      | none => raise ACCESS 0 a
      | some ks => return leNat (← rdBytes k ks))
    hold k 0x12 sub [BitVec.ofNat 64 a, if sub < 2 then data else BitVec.ofNat 64 (data.toNat % 2 ^ 32)]
    setS k e.d (BitVec.ofNat 64 v)

end Sys2Proof.Machine
end

