-- ==== Sys2Proof/Machine/Collective.lean ====
section
/-! DEFINITION. Shard maps and collectives (R127-R133): acceptance at issue, instances and their participants, and the transfer. -/

namespace Sys2Proof.Machine

/-! ## Shard maps -/

/-- A shard map in its fields (R127): entries are (logical stable number, local offset). -/
structure SMap where
  sdim  : Nat
  repl  : Bool
  count : Nat
  slen  : Nat
  ents  : List (Nat × Nat)
  /-- Reserved fields are zero and every entry below SCOUNT is valid. -/
  ok    : Bool
deriving DecidableEq, Repr

/-- Parse the 1 KiB of a map. -/
def parseMap (bs : List Byte) : SMap :=
  let word := fun o => leNat ((bs.drop o).take 8)
  let h := word 0
  let n := bits h 14 8
  let ent := fun i => word (0x20 + 8 * i)
  let entOk := fun i => if i < n then bit (ent i) 10 && bits (ent i) 15 11 == 0 && bits (ent i) 63 39 == 0 && bits (ent i) 38 16 % 32 == 0 && decide (bits (ent i) 38 16 < 0x600000)
    else ent i == 0
  { sdim := bits h 2 0, repl := bit h 3, count := n, slen := bits h 47 16,
    ents := (List.range n).map fun i => (4 * bits (ent i) 7 0 + bits (ent i) 9 8, bits (ent i) 38 16),
    ok := within 1 64 n && bits h 7 4 == 0 && !bit h 15 && bits h 63 48 == 0 && ((List.range 3).all fun i => word (8 + 8 * i) == 0)
      && ((List.range 64).all entOk) && (bs.drop 0x220).all (· == 0) }

/-- Read a map of the partition's table, or none where SMAP = 63. -/
def readMap (k smap : Nat) : Ex (List Byte) := do
  if smap = 63 then pure []
  else
    let c ← get
    let a := (c.part (c.ctx k).part).shard + smap * 0x400
    match c.target a with
    | .store key => do senseEx key 0x400; return (← get).bytesAt key 0x400
    | _ => raise ACCESS 0 a

/-! ## Shards -/

/-- Where a part of a tensor lies: in the local space of a stable, at a device address, or at a stable that is not there. -/
inductive Spot where
  | loc (stb off : Nat)
  | dev (a : Nat)
  | gone
deriving DecidableEq, Repr

/-- A shard: its place, its local sizes, and its first global index along the split dimension. -/
structure Shard where
  spot : Spot
  dims : List Nat
  sdim : Nat := 0
  lo   : Nat := 0
deriving DecidableEq, Repr

/-- The shards of an operand (R128); a plain operand is one shard at its base. -/
def Chip.shardsOf (c : Chip) (d : Desc) (m : List Byte) : List Shard :=
  if m.isEmpty then [{ spot := .dev d.base, dims := d.dims }]
  else
    let q := parseMap m
    (q.ents.zipIdx).map fun e =>
      let spot := match c.keyOf e.1.1 with
        | some key => Spot.loc key e.1.2
        | none => .gone
      if q.repl then { spot := spot, dims := d.dims }
      else { spot := spot, dims := d.dims.set q.sdim (min q.slen (d.dim q.sdim - e.2 * q.slen)), sdim := q.sdim, lo := e.2 * q.slen }

/-- Elements, rows and bytes per row of a shard. -/
def Shard.rows (s : Shard) : Nat := (s.dims.drop 1).foldl (· * ·) 1
/-- Row length of a shard. -/
def Shard.len (s : Shard) : Nat := s.dims.headD 1
/-- Byte offset of a shard's row. -/
def Shard.rowOff (s : Shard) (d : Desc) (r : Nat) : Nat := Machine.rowOff (s.dims.drop 1) d.str r
/-- Bytes of a shard's row. -/
def Shard.rowBytes (s : Shard) (d : Desc) : Nat := (s.len * d.bits + 7) / 8
/-- Bytes from a shard's place to its last byte. -/
def Shard.span (s : Shard) (d : Desc) : Nat := s.rowOff d (s.rows - 1) + s.rowBytes d

/-- Pieces of a byte range of a spot, as keys; device addresses by the partition's windows (R36). -/
def Chip.spotPieces (c : Chip) (p : Nat) (s : Spot) (o n : Nat) (wr : Bool) : Option (List (Nat × Nat)) :=
  match s with
  | .loc stb off => (pieces (n / 4096 + 2) (off + o) n).mapM fun q =>
      let key := localKey stb q.1
      if wr && (c.part p).execAt (c.devAddr key) then none else some (key, q.2)
  | .dev a => (pieces (n / 4096 + 2) (a + o) n).mapM fun q =>
      match c.target q.1 with
      | .store key => if (c.part p).permits q.1 wr then some (key, q.2) else none
      | _ => none
  | .gone => none

/-- Bytes of a list of pieces. -/
def Chip.piecesBytes (c : Chip) (ps : List (Nat × Nat)) : List Byte := (ps.map fun q => c.bytesAt q.1 q.2).flatten

/-! ## Issue (R129, R130) -/

/-- RESHARD and the other collectives (OPC 0x11). -/
def dColl (sub : Nat) : IDesc := { opc := 0x11, sub := sub, fmt := .M, rsvB := fC }

/-- A map suits a descriptor (R129). -/
def SMap.fits (m : SMap) (d : Desc) : Bool :=
  m.ok && decide (m.sdim < d.rank) && d.base == 0 &&
    (if m.repl then m.slen == 0
     else decide ((m.count - 1) * m.slen < d.dim m.sdim) && decide (d.dim m.sdim ≤ m.count * m.slen) && !(m.sdim == 0 && m.slen * d.bits % 8 != 0))

/-- The combination of maps that a form accepts (the table of collective forms). -/
def collForm (sub : Nat) (s d : Option SMap) (fmt : Nat) : Bool :=
  let split := fun (m : Option SMap) => match m with
    | some q => !q.repl
    | none => false
  let repl := fun (m : Option SMap) => match m with
    | some q => q.repl
    | none => false
  match sub with
  | 0 => !repl s && !repl d && (s.isSome || d.isSome)
  | 1 => (s.isNone || (split s && (s.map SMap.count) == some 1)) && repl d
  | 2 => split s && repl d
  | _ => repl s && d.isSome && (fmt == 2 || fmt == 3 || within 9 11 fmt)

/-- The physical footprint of a shard, whoever may reach it. -/
def Chip.shardKeys (c : Chip) (d : Desc) (s : Shard) : List (Nat × Nat) := match s.spot with
  | .loc stb off => (pieces (s.span d / 4096 + 2) off (s.span d)).map fun q => (localKey stb q.1, q.2)
  | .dev a => (pieces (s.span d / 4096 + 2) a (s.span d)).filterMap fun q => match c.target q.1 with
    | .store key => some (key, q.2)
    | _ => none
  | .gone => []

/-- Destination shards overlap one another or a source shard. -/
def Chip.shardsMeet (c : Chip) (sd dd : Desc) (ss ds : List Shard) : Bool :=
  let dk := ds.map (c.shardKeys dd)
  let sk := ss.map (c.shardKeys sd)
  ((dk.zipIdx).any fun a => (dk.zipIdx).any fun b => decide (a.2 < b.2) && piecesMeet a.1 b.1) || dk.any fun a => sk.any fun b => piecesMeet a b

/-- Whether a map's entries all lie in the partition and in local space (R129). -/
def Chip.mapReach (c : Chip) (p : Nat) (d : Desc) (m : SMap) (sh : List Shard) : Bool :=
  (m.ents.all fun e => bit (c.part p).stables e.1) && sh.all fun s => match s.spot with
    | .loc _ off => decide (off + s.span d ≤ 0x600000)
    | .dev _ => true
    | .gone => false

/-- The checks of a collective at issue (R129); answers its descriptors and maps. -/
def collCheck (sub : Nat) (e : Enc) (k : Nat) : Ex (Desc × Desc × List Byte × List Byte) := do
  let s ← descAt k e.a
  let d ← descAt k e.d
  let sm ← readMap k s.smap
  let dm ← readMap k d.smap
  let c ← get
  let p := (c.ctx k).part
  let so := if sm.isEmpty then none else some (parseMap sm)
  let dq := if dm.isEmpty then none else some (parseMap dm)
  let fits := fun (o : Option SMap) (x : Desc) => match o with
    | some m => m.fits x
    | none => true
  let shapes := s.usable && d.usable && s.fmt == d.fmt && s.rank == d.rank && s.dims == d.dims && !isMX s.fmt
  let form := shapes && fits so s && fits dq d && collForm sub so dq s.fmt
  let reach := fun (o : Option SMap) (x : Desc) (m : List Byte) (wr : Bool) => match o with
    | some q => c.mapReach p x q (c.shardsOf x m)
    | none => decide (x.base < 0x800000000000) && (c.spotPieces p (.dev x.base) 0 x.span wr).isSome
  let async := (c.ctx k).chk.isSome && sm.isEmpty && (pieces (s.span / 4096 + 2) s.base s.span).any fun q => (c.part p).asyncAt q.1
  checks [ (!(form && !c.shardsMeet s d (if sm.isEmpty then [] else c.shardsOf s sm) (if dm.isEmpty then [] else c.shardsOf d dm)), ILLEGAL_OPERAND),
    (shapes && (async || !(reach so s sm false && reach dq d dm true)), ACCESS) ]
  pure (s, d, sm, dm)

/-- The participants of a collective (R130): the stables that either map names, source map first. -/
def collMembers (sm dm : List Byte) : List Nat :=
  let f := fun (m : List Byte) => if m.isEmpty then [] else (parseMap m).ents.map Prod.fst
  (f sm ++ f dm).eraseDups

/-- The triples of R130 agree: partition, LFC and collective ID. -/
def Coll.matches (i : Coll) (p : Nat) (q : CollReq) : Bool := i.part == p && i.lfc == q.lfc && i.id == q.id

/-- A participant stable joins the oldest instance of the triple that it has not issued, or begins a new one (R130). Answers the
    instance. -/
def Chip.enterColl (c : Chip) (me p : Nat) (q : CollReq) : Chip × Nat :=
  match c.core.colls.find? fun i => i.matches p q && !i.issued.contains me with
  | some i => ({ c with core := { c.core with colls := c.core.colls.map fun j => if j.inst = i.inst then { j with issued := me :: j.issued } else j } }, i.inst)
  | none =>
    let n := c.core.nextInst
    let i : Coll := { inst := n, part := p, lfc := q.lfc, id := q.id, sub := q.sub, tdd := q.tdd, tds := q.tds, smap := q.smap, dmap := q.dmap, members := collMembers q.smap q.dmap, issued := [me], done := [] }
    ({ c with core := { c.core with colls := c.core.colls ++ [i], nextInst := n + 1 } }, n)

/-- The instance of a triple that a participant has issued and that has not completed there; of several, the newest. -/
def Chip.openColl (c : Chip) (me p : Nat) (q : CollReq) : Option Nat :=
  ((c.core.colls.filter fun i => i.matches p q && i.issued.contains me && !i.done.contains me).getLast?).map Coll.inst

/-- Issue at a participant stable: it enters an instance, or waits until the one that it has already issued has completed there
    (R130). Answers what becomes of the context. -/
def Chip.joinAt (c : Chip) (me p : Nat) (q : CollReq) : Chip × (Ctx → Ctx) :=
  match c.openColl me p q with
  | some i => (c, fun x => { x with joins := x.joins ++ [{ q with after := i, plan := [] }] })
  | none => let (c, n) := c.enterColl me p q; (c, fun x => { x with colls := x.colls ++ [n] })

/-- Issue by the context in a slot: at once, or, since a collective is a release at issue, behind the context's open plan port
    exchanges (R119, R221). -/
def Chip.joinColl (c : Chip) (k : Nat) (q : CollReq) : Chip :=
  let x := c.ctx k
  match c.planOpen (k / 8) x.part x.idx with
  | [] => let (c, f) := c.joinAt ((c.logStb (k / 2)).getD 0) x.part q; c.updCtx k f
  | l => c.updCtx k fun x => { x with joins := x.joins ++ [{ q with plan := l }] }

/-- A request that stands behind an instance. -/
def CollReq.behind (q : CollReq) (inst : Nat) : Bool := q.plan.isEmpty && q.after == inst

/-- An exchange of a context has ended: what is left of its requests, and those that may issue now (R221). -/
def Ctx.planGone (x : Ctx) (seq : Nat) : Ctx × List CollReq :=
  let next := x.joins.map fun q => (q.plan.isEmpty, { q with plan := q.plan.filter (· != seq) })
  let free := fun (e : Bool × CollReq) => !e.1 && e.2.plan.isEmpty
  ({ x with joins := (next.filter fun e => !free e).map Prod.snd }, (next.filter free).map Prod.snd)

/-- The collectives that stood behind an exchange alone are issued, in program order (R221). -/
def Chip.joinFreed (c : Chip) (p i seq : Nat) : Chip :=
  let all := fun (c : Chip) (me : Nat) (x : Ctx) =>
    (x.planGone seq).2.foldl (fun (r : Chip × Ctx) q => let (c, f) := r.1.joinAt me p q; (c, f r.2)) (c, (x.planGone seq).1)
  match c.core.slots.find? fun e => e.2.part == p && e.2.idx == i && e.2.state != 0 with
  | some e => let (c, y) := all c ((c.logStb (e.1 / 2)).getD 0) e.2; c.setCtx e.1 y
  | none => match c.core.saved.look (p, i) with
    | some x => let (c, y) := all c (((c.desc? x).map fun d => 4 * d.hall + d.stable).getD 0) x; c.updSaved (p, i) fun _ => y
    | none => c

/-- The instance that a context waits for: one that it has entered, or one that stands before its next. -/
def Ctx.collWait (x : Ctx) : Option Nat := match x.colls, x.joins with
  | i :: _, _ => some i
  | [], q :: _ => some q.after
  | [], [] => none

/-- Wait for the collectives that the context has issued and that are not complete here (R131). -/
def Chip.waitColl (c : Chip) (k : Nat) : Chip :=
  match (c.ctx k).collWait with
  | none => c
  | some i => c.block k (.coll i)

/-! ## The transfer (R131-R133) -/

/-- A shard's element patterns in its linear order. -/
def Chip.shardElems (c : Chip) (p : Nat) (d : Desc) (s : Shard) : List Nat :=
  ((List.range s.rows).map fun r =>
    let bs := c.piecesBytes ((c.spotPieces p s.spot (s.rowOff d r) (s.rowBytes d) false).getD [])
    (List.range s.len).map (elemOf d.bits bs)).flatten

/-- Coordinates of a linear index. -/
def coordsOf : List Nat → Nat → List Nat
  | [], _ => []
  | n :: ds, i => i % n :: coordsOf ds (i / n)

/-- Linear index of coordinates. -/
def linearOf : List Nat → List Nat → Nat
  | n :: ds, x :: xs => x + n * linearOf ds xs
  | _, _ => 0

/-- The shard of a list that holds global coordinates, and the linear index there. -/
def shardAt (ss : List Shard) (g : List Nat) : Option (Nat × Nat) :=
  (List.find? (fun (q : Shard × Nat) => decide (q.1.lo ≤ g.getD q.1.sdim 0) && decide (g.getD q.1.sdim 0 < q.1.lo + q.1.dims.getD q.1.sdim 1)) ss.zipIdx).map
    fun q => (q.2, linearOf q.1.dims (g.set q.1.sdim (g.getD q.1.sdim 0 - q.1.lo)))

/-- One element of REDUCE.ADD: the sum over the replicas in ascending order, converted back (R133). -/
def reduceElem (fmt : Nat) (xs : List Nat) : Nat × Bool × Bool :=
  if isInt3 fmt then
    let w := fmtBits fmt
    let acc := xs.foldl (fun (a : Int) x => sat32 (a + sgn w x)) 0
    encElem fmt (FV.ofInt acc) false 0 0
  else encElem fmt (xs.foldl (fun a x => r32 (a.add (decElem fmt x))) FV.zero) false 0 0
where
  /-- INT8 and INT16. -/
  isInt3 (f : Nat) : Bool := f == 2 || f == 3

/-- The pattern, saturation and NaN events of the element at global coordinates, from the source shards' patterns. -/
def collElem (sub fmt : Nat) (ss : List Shard) (vals : List (Array Nat)) (g : List Nat) : Nat × Bool × Bool :=
  if sub = 3 then
    reduceElem fmt (vals.map fun v => v.getD (linearOf (ss.headD { spot := .dev 0, dims := [] }).dims g) 0)
  else match shardAt ss g with
    | some (i, j) => ((vals.getD i #[]).getD j 0, false, false)
    | none => (0, false, false)

/-- Global coordinates of a shard's linear index. -/
def Shard.global (s : Shard) (i : Nat) : List Nat :=
  let xs := coordsOf s.dims i
  xs.set s.sdim (xs.getD s.sdim 0 + s.lo)

/-- Write one destination shard and tag its blocks with their stable as producer (R132, R133). Answers that stable, and whether an
    element saturated or became a NaN. -/
def Chip.fillShard (c : Chip) (p sub : Nat) (d : Desc) (ss : List Shard) (vals : List (Array Nat)) (first : Nat) (s : Shard) : Chip × Nat × Bool × Bool :=
  let els := (List.range (s.rows * s.len)).map fun i => collElem sub d.fmt ss vals (s.global i)
  let stb := match s.spot with
    | .loc stb _ => stb
    | _ => first
  let step := fun (acc : Chip × List Nat) r =>
    let ps := (acc.1.spotPieces p s.spot (s.rowOff d r) (s.rowBytes d) true).getD []
    let row := ((els.drop (r * s.len)).take s.len).map fun q => some q.1
    let bs := (rowCells d.bits 0 (acc.1.piecesBytes ps) row fun _ => 0).map fun q => q.2.2
    ((cutBytes ps bs).foldl (fun c q => c.putRaw q.1 q.2) acc.1, acc.2 ++ ps.map fun q => q.1 / 4096)
  let (c, blks) := (List.range s.rows).foldl step (c, [])
  ((sortBy id blks.eraseDups).foldl (fun c b => c.tagBlock b (c.stbProducer stb)) c, stb, els.any (fun q => q.2.1), els.any fun q => q.2.2)

/-- Count the events of the destination shards, once for each stable (R72, R133). -/
def Chip.countShards (c : Chip) (es : List (Nat × Bool × Bool)) : Chip :=
  let c := ((es.filter fun q => q.2.1).map Prod.fst).eraseDups.foldl (fun c stb => c.bump (stbK stb 0x40)) c
  ((es.filter fun q => q.2.2).map Prod.fst).eraseDups.foldl (fun c stb => c.bump (stbK stb 0x48)) c

/-- Sense and verify the blocks of a source shard at its stable (R132). -/
def verifyShard (p : Nat) (d : Desc) (stb : Nat) (s : Shard) : Ex Unit := do
  let c ← get
  let ps := ((List.range s.rows).map fun r => (c.spotPieces p s.spot (s.rowOff d r) (s.rowBytes d) false).getD []).flatten
  (ps.map fun q => q.1 / 4096).eraseDups.forM fun b => do senseEx (b * 4096) 4096; verify stb b

/-- The slot of a stable whose context has issued an instance. -/
def Chip.collSlot (c : Chip) (stb inst : Nat) : Option Nat := [2 * stb, 2 * stb + 1].find? fun k => (c.ctx k).colls.contains inst

/-- Verify every source shard; a failure faults the participant that sources it (R125, R126, R132). The flag tells that all
    passed. -/
def Chip.verifySources (c : Chip) (i : Coll) : List Shard → Chip × Bool
  | [] => (c, true)
  | s :: ss =>
    let stb := match s.spot with
      | .loc stb _ => stb
      | _ => (c.keyOf (i.members.headD 0)).getD 0
    match verifyShard i.part (Machine.descOf i.tds) stb s c with
    | .ok ((), c') => verifySources c' i ss
    | .error t => match c.collSlot stb i.inst with
      | some k => (t.take c k 0x11, false)
      | none => (c.dueReset i.part t.cls stb, false)

/-- Two sums of REDUCE.ADD differ at a CHECKED destination stable: a check disagreement of that stable (R149, R261-R263). It is counted,
    and an arbiter's sum settles it and attributes it, or the stable fails as after three different passes. The flag tells that the sum
    stands (log 74). -/
def Chip.sumDiffers (c : Chip) (i : Coll) (stb a : Nat) (l : SumCmp) : Chip × Bool :=
  let c := (c.bump (stbK stb 0xC8)).bump (stbK a 0xD0)
  match l with
  | .settled n =>
    let c := c.post .CHK_ARBITRATED (stbUnit stb) (some i.part)
    let c := c.sendErr { unit := if n.val = 4 then stbUnit stb else stallUnit stb n.val, cls := 0x13, part := i.part, synd := b2n (n.val == 4) * 16 }
    (c.attribute stb n.val (c.eng stb).seq, true)
  | .unsettled =>
    let c := (c.bump (stbK stb 0xD8)).sendErr { unit := stbUnit stb, cls := 0x13, part := i.part, synd := 48 }
    let c := c.quarantine stb
    (match c.collSlot stb i.inst with
    | some k => c.takeFault k { cls := CHECK_FAIL, opc := 0x11 }
    | none => c.dueReset i.part CHECK_FAIL stb, false)

/-- The disagreements of an instance's sums, at its CHECKED destination stables; one without an eligible arbiter waits (R260). -/
def Chip.sumsAgree (c : Chip) (i : Coll) : List (Nat × SumCmp) → Chip × Bool
  | [] => (c, true)
  | (stb, l) :: ls =>
    if i.sub = 3 ∧ c.checkedMode stb = true ∧ ((c.logStb stb).any fun n => (parseMap i.dmap).ents.any fun e => e.1 == n) = true then
      match c.arbiterOf i.part stb with
      | none => (c, false)
      | some a =>
        let (c, ok) := c.sumDiffers i stb a l
        if ok then sumsAgree c i ls else (c, false)
    else sumsAgree c i ls

/-- Move the data of an instance whose participants have all issued. -/
def Chip.runColl (c : Chip) (i : Coll) (cmps : List (Nat × SumCmp)) : Chip × Bool :=
  let sd := Machine.descOf i.tds
  let dd := Machine.descOf i.tdd
  let ss := c.shardsOf sd i.smap
  let (c, ok) := c.verifySources i ss
  if !ok then (c, false)
  else
    let (c, ok) := c.sumsAgree i cmps
    if !ok then (c, false)
    else
      let vals := ss.map fun s => (c.shardElems i.part sd s).toArray
      let first := (c.keyOf (i.members.headD 0)).getD 0
      let (c, es) := (c.shardsOf dd i.dmap).foldl (fun (r : Chip × List (Nat × Bool × Bool)) s => let (c, e) := r.1.fillShard i.part i.sub dd ss vals first s; (c, r.2 ++ [e])) (c, [])
      (c.countShards es, true)

/-- An instance is done at a context: it waits for its next one, or resumes. -/
def Ctx.collDone (x : Ctx) (inst : Nat) : Ctx :=
  let y : Ctx := { x with colls := x.colls.filter (· != inst) }
  match x.wait with
  | .coll _ => { y with wait := match y.collWait with
    | some j => .coll j
    | none => .none }
  | _ => y

/-- The first collective of a context that waits for instance `inst` enters instance `n`; its others then wait for that one. -/
def Ctx.joinNext (x : Ctx) (inst n : Nat) : Ctx :=
  let first := x.joins.findIdx? fun q => q.behind inst
  match first with
  | none => x
  | some j => { x with colls := x.colls ++ [n], joins := (x.joins.eraseIdx j).map fun q => if q.behind inst then { q with after := n } else q }

/-- A saved context's home is logical stable `me`. -/
def Chip.savedAt (c : Chip) (me : Nat) (e : (Nat × Nat) × Ctx) : Bool := ((c.part e.1.1).ctxs[e.1.2]?.map fun d => 4 * d.hall + d.stable) == some me

/-- An instance has completed at a stable: the oldest second issue of its triple there joins the next instance (R130), in a resident
    context before a saved one; another one then waits for that. -/
def Chip.nextColl (c : Chip) (i : Coll) (stb me : Nat) : Chip :=
  let waits := fun (x : Ctx) => x.part == i.part && x.joins.any fun q => q.behind i.inst
  let req := fun (x : Ctx) => x.joins.find? fun q => q.behind i.inst
  match [2 * stb, 2 * stb + 1].find? fun k => waits (c.ctx k) with
  | some k => match req (c.ctx k) with
    | some q =>
      let (c, n) := c.enterColl me i.part q
      let c := c.updCtx k fun x => x.joinNext i.inst n
      let later := fun (x : Ctx) => { x with joins := x.joins.map fun q => if q.behind i.inst then { q with after := n } else q }
      let c := c.updCtx (otherSlot k) later
      { c with core := { c.core with saved := c.core.saved.map fun e => if c.savedAt me e then (e.1, later e.2) else e } }
    | none => c
  | none => match c.core.saved.find? fun e => c.savedAt me e && waits e.2 with
    | some e => match req e.2 with
      | some q =>
        let (c, n) := c.enterColl me i.part q
        { c with core := { c.core with saved := c.core.saved.map fun f => if f.1 = e.1 then (f.1, f.2.joinNext i.inst n) else if c.savedAt me f then (f.1, { f.2 with joins := f.2.joins.map fun q => if q.behind i.inst then { q with after := n } else q }) else f } }
      | none => c
    | none => c

/-- A resident context goes on, or waits for its next collective, when an instance has completed at its stable. -/
def Chip.collSettle (c : Chip) (inst : Nat) (k : Nat) : Chip :=
  let waited := match (c.ctx k).wait with
    | .coll _ => true
    | _ => false
  let c := c.updCtx k fun x => x.collDone inst
  if waited && (c.ctx k).wait == .none then c.resume k else c

/-- A collective completes at a participant (R131): every participant has issued, and no earlier instance of the triple is
    open there. The data moves with the first completion (log 20); `cmps` names the destination stables whose two sums differed. -/
def Chip.collComplete (c : Chip) (inst stb : Nat) (cmps : List (Nat × SumCmp)) : Chip :=
  match c.logStb stb, List.find? (fun (i : Coll) => i.inst == inst) c.core.colls with
  | some me, some i =>
    let early := c.core.colls.any fun j => decide (j.inst < inst) && j.part == i.part && j.lfc == i.lfc && j.id == i.id && j.members.contains me && !j.done.contains me
    if !i.members.contains me || i.done.contains me || early || !(i.members.all i.issued.contains) then c
    else
      let (c, ok) := if i.done.isEmpty then c.runColl i cmps else (c, true)
      if !ok then c
      else
        let i := { i with done := me :: i.done }
        let cs := if i.members.all i.done.contains then c.core.colls.filter fun j => j.inst != inst else c.core.colls.map fun j => if j.inst = inst then i else j
        let c := { c with core := { c.core with colls := cs } }.nextColl i stb me
        let ks := [2 * stb, 2 * stb + 1].filter fun k => (c.ctx k).part == i.part && (c.ctx? k).isSome
        let c := ks.foldl (fun c k => c.collSettle inst k) c
        ((c.core.saved.filter fun e => e.1.1 == i.part && c.savedAt me e).map Prod.fst).foldl (fun c key => c.updSaved key fun x => x.collDone inst) c
  | _, _ => c

/-! ## The instruction -/

/-- The outbound data of one stable in a pass, as cells of destination keys (R149). -/
def outCells (k : Nat) (d : Desc) (mine : List (Nat × List Nat)) (ss ds : List Shard) (repl : Bool) : Ex (List (Nat × Byte)) := do
  let c ← get
  let p := (c.ctx k).part
  let cells := ds.map fun s => (List.range s.rows).map fun r =>
    let ps := ((c.spotPieces p s.spot (s.rowOff d r) (s.rowBytes d) true).getD []).map fun q => (List.range q.2).map (q.1 + ·)
    let keys := ps.flatten
    let row := (List.range s.len).map fun i =>
      let g := s.global (r * s.len + i)
      if repl then (mine.head?).map fun m => m.2.getD (linearOf (ss.getD m.1 s).dims g) 0
      else (shardAt ss g).bind fun q => (mine.find? fun m => m.1 == q.1).map fun m => m.2.getD q.2 0
    (rowCells d.bits 0 (List.replicate (s.rowBytes d) 0) row fun _ => 0).map fun q => (keys.getD q.2.1 0, q.2.2)
  return cells.flatten.flatten

/-- In a CHECKED block: the routing and outbound data enter the signature, and the collective is held (R149). -/
def collHeld (sub id k : Nat) (tdd tds : BitVec 256) (s d : Desc) (sm dm : List Byte) : Ex Unit := do
  let c ← get
  let me := c.logStb (k / 2)
  let ss := c.shardsOf s sm
  let ds := c.shardsOf d dm
  let p := (c.ctx k).part
  let own := (ss.zipIdx).filter fun q => match q.1.spot with
    | .loc stb _ => stb == k / 2
    | _ => (collMembers sm dm).head? == me
  let mine ← own.mapM fun q => do
    let rows ← (List.range q.1.rows).mapM fun r => do
      let bs ← ((c.spotPieces p q.1.spot (q.1.rowOff s r) (q.1.rowBytes s) false).getD []).mapM fun z => rdPiece k z.1 z.2
      return (List.range q.1.len).map (elemOf s.bits bs.flatten)
    return (q.2, rows.flatten)
  let cells := sortBy Prod.fst (← outCells k d mine ss ds (sub == 3))
  let lo := (cells.headD (0, 0)).1 / 4096
  (runsOf (cells.map fun q => (q.1 / 4096 - lo, q.1, q.2))).forM fun q => signWrite k q.1 q.2.1 q.2.2
  let words := fun (w : BitVec 256) => (List.range 4).map fun i => BitVec.ofNat 64 (w.toNat / 2 ^ (64 * i))
  let mapWords := fun (m : List Byte) => (List.range (m.length / 8)).map fun i => BitVec.ofNat 64 (leNat ((m.drop (8 * i)).take 8))
  hold k 0x11 sub ([BitVec.ofNat 64 id] ++ words tdd ++ words tds ++ [BitVec.ofNat 64 sm.length] ++ mapWords sm ++ mapWords dm)

/-- A collective (R129-R131). -/
def collBody (sub : Nat) (e : Enc) (k : Nat) : Ex Unit := do
  let tdd ← getTD k e.d
  let tds ← getTD k e.a
  let id := (← getS k e.b).toNat % 2 ^ 32
  let (s, d, sm, dm) ← collCheck sub e k
  let c ← get
  match c.logStb (k / 2) with
  | none => pure ()
  | some me =>
    if !(collMembers sm dm).contains me then pure ()
    else match ← inChk k with
      | some _ => collHeld sub id k tdd tds s d sm dm
      | none => modify fun c => (c.joinColl k { lfc := (c.ctx k).lfc, id := id, sub := sub, tdd := tdd, tds := tds, smap := sm, dmap := dm }).waitColl k

/-- Launch a held collective at commit (R149). -/
def Chip.launchHeld (c : Chip) (k : Nat) (h : Held) : Chip :=
  let w := fun i => (h.ops.getD i 0).toNat
  let td := fun i => BitVec.ofNat 256 (w i + w (i + 1) * 2 ^ 64 + w (i + 2) * 2 ^ 128 + w (i + 3) * 2 ^ 192)
  let n := w 9 / 8
  let mp := fun (i n : Nat) => (((h.ops.drop i).take n).map fun (v : W64) => leBytes 8 v.toNat).flatten
  c.joinColl k { lfc := (c.ctx k).lfc, id := w 0, sub := h.sub, tdd := td 1, tds := td 5, smap := mp 10 n, dmap := mp (10 + n) 128 }

end Sys2Proof.Machine
end

