-- ==== Sys2Proof/Machine/Sync.lean ====
section
/-! DEFINITION. Event flags, barriers, timed waits and landing instructions (R119-R122, R138-R146). -/

namespace Sys2Proof.Machine

/-- EVT (OPC 0x72): SET 0, WAIT 1, CLR 2, POST 3 (R139). -/
def dEvt (sub : Nat) : IDesc := { opc := 0x72, sub := sub, fmt := .R, grp := 1, rsvB := fD + fC + if sub = 3 then 0 else fB }
/-- BAR (OPC 0x73): ARRIVE 0, WAIT 1 (R141). -/
def dBar (sub : Nat) : IDesc := { opc := 0x73, sub := sub, fmt := .R, grp := 1, rsvB := fC + if sub = 0 then fB else fD }
/-- FENCE (OPC 0x74). -/
def dFence : IDesc := { opc := 0x74, sub := 0, fmt := .R, grp := 1, rsvB := fD + fA + fB + fC }
/-- WAITT (OPC 0x75). -/
def dWaitt : IDesc := { opc := 0x75, sub := 0, fmt := .R, grp := 1, rsvB := fB + fC }
/-- LAND (OPC 0x71): WAIT 0, SIGNAL 1 (R43, R145, R146). -/
def dLand (sub : Nat) : IDesc := { opc := 0x71, sub := sub, fmt := .R, grp := 1, rsvB := fA + fB + fC + (if sub = 0 then 0 else fD), unpred := true }

/-! ## Flags at the home (R138-R140) -/

/-- A context waits on flag `f` of its partition. -/
def Wait.onFlag (w : Wait) (f : Nat) : Bool := match w with
  | .evt g _ => g == f
  | _ => false

/-- A context that waits on flag `f` is woken (R140). -/
def Ctx.wake (x : Ctx) (f : Nat) : Ctx := if x.wait.onFlag f then { x with wait := .evt f true } else x

/-- Set flag `f` of partition `p` at its home: every context then waiting on it is woken (R139, R140). -/
def Chip.evtSet (c : Chip) (p f : Nat) : Chip :=
  let c := c.updPart p fun q => { q with flags := q.flags ||| 2 ^ f }
  { c with core := { c.core with slots := c.core.slots.map fun e => if e.2.part = p then (e.1, e.2.wake f) else e, saved := c.core.saved.map fun e => if e.1.1 = p then (e.1, e.2.wake f) else e } }

/-- Clear flag `f` of partition `p` (R139). -/
def Chip.evtClr (c : Chip) (p f : Nat) : Chip := c.updPart p fun q => { q with flags := if bit q.flags f then q.flags - 2 ^ f else q.flags }

/-- Write the USER record of an EVT.POST that a context of partition `p` issued in slot `k` in frame `lfc` (R139, R426). -/
def Chip.userRecord (c : Chip) (k p lfc : Nat) (a b : W64) : Chip :=
  c.route (c.mkEv .USER (stbUnit (k / 2)) [(0x10, 4, a.toNat % 2 ^ 32), (0x14, 2, c.place k), (0x18, 8, b.toNat), (0x20, 8, lfc)]) (some p)

/-- Write the USER record of EVT.POST. -/
def Chip.evtPost (c : Chip) (k : Nat) (a b : W64) : Chip := c.userRecord k (c.ctx k).part (c.ctx k).lfc a b

/-- Record that a wait ended, in the primary pass of a CHECKED block (R149). -/
def recordDone (k : Nat) : Ex Unit := do let _ ← recorded k 16 (pure 1); pure ()

/-- EVT.SET and EVT.CLR: at once, or held in a CHECKED block (R139, R149). -/
def evtSetBody (clr : Bool) (e : Enc) (k : Nat) : Ex Unit := do
  let f := (← getS k e.a).toNat % 256
  match ← inChk k with
  | some _ => hold k 0x72 (if clr then 2 else 0) [BitVec.ofNat 64 f]
  | none => modify fun c => c.owe k { opc := 0x72, sub := if clr then 2 else 0, ops := [BitVec.ofNat 64 f] } fun c =>
      if clr then c.evtClr (c.ctx k).part f else c.evtSet (c.ctx k).part f

/-- EVT.POST: a USER record now, or held (R139, R149). -/
def evtPostBody (e : Enc) (k : Nat) : Ex Unit := do
  let a ← getS k e.a
  let b ← getS k e.b
  match ← inChk k with
  | some _ => hold k 0x72 3 [BitVec.ofNat 64 (a.toNat % 2 ^ 32), b]
  | none => modify fun c => c.owe k { opc := 0x72, sub := 3, ops := [BitVec.ofNat 64 (a.toNat % 2 ^ 32), b] } fun c => c.evtPost k a b

/-- EVT.WAIT: goes on when the flag reads 1, else blocks; later passes of a CHECKED block do not wait (R139, R149). -/
def evtWaitBody (e : Enc) (k : Nat) : Ex Unit := do
  let f := (← getS k e.a).toNat % 256
  let later := match ← inChk k with
    | some b => b.state != 1
    | none => false
  let c ← get
  if later || bit (c.part (c.ctx k).part).flags f then recordDone k else modify fun c => c.block k (.evt f false)

/-- The contexts of a partition that a set of flag `f` has woken resume (R140). -/
def Chip.evtWake (c : Chip) (p f : Nat) : Chip :=
  let c := (c.waiting fun x w => x.part == p && w == .evt f true).foldl (fun c k => c.resumeWith k 0x72 (recordDone k)) c
  (c.savedWaiting fun _ w => w == .evt f true).foldl (fun c key => if key.1 = p then c.updSaved key fun x => { x with wait := .none } else c) c

/-- The synchronisation block of a partition in a hall: this site is its home and the partition is in use (R138, R144). -/
def Chip.isHome (c : Chip) (site p : Nat) : Bool := (c.part p).held && c.siteOf (c.part p).home == some site

/-- A write of HALL_EVTSk or HALL_EVTCk: each 1 bit acts as EVT.SET or EVT.CLR; discarded and counted away from the home
    (R122, R144). -/
def Chip.hallEvtWrite (c : Chip) (site p k : Nat) (v : Nat) (clr : Bool) : Chip :=
  if c.isHome site p then
    ((List.range 64).filter (bit v)).foldl (fun c j => if clr then c.evtClr p (64 * k + j) else c.evtSet p (64 * k + j)) c
  else c.bump (syncK site p 0x148)

/-! ## Barriers (R141) -/

/-- A barrier's GEN, ARRIVED and COUNT. -/
def Part.bar (q : Part) (b : Nat) : Nat × Nat × Nat := q.bars.get b (0, 0, 0)

/-- One arrival at a barrier (R141). -/
def Chip.barArrive (c : Chip) (p b : Nat) : Chip :=
  let (g, a, n) := (c.part p).bar b
  if n = 0 then c
  else if a + 1 ≥ n then c.updPart p fun q => { q with bars := q.bars.set b ((g + 1) % 2 ^ 32, 0, n) }
  else c.updPart p fun q => { q with bars := q.bars.set b (g, a + 1, n) }

/-- BAR.ARRIVE: the current GEN to S[D], and the arrival now or held (R141, R149). -/
def barArriveBody (e : Enc) (k : Nat) : Ex Unit := do
  let b := (← getS k e.a).toNat % 32
  let p := (← ctxOf k).part
  let g ← recorded k 16 (return ((← get).part p).bar b |>.1)
  match ← inChk k with
  | some _ => hold k 0x73 0 [BitVec.ofNat 64 b]
  | none => modify fun c => c.owe k { opc := 0x73, sub := 0, ops := [BitVec.ofNat 64 b] } fun c => c.barArrive p b
  setS k e.d (BitVec.ofNat 64 g)

/-- BAR.WAIT: goes on when GEN differs from S[B][31:0], else blocks (R141). -/
def barWaitBody (e : Enc) (k : Nat) : Ex Unit := do
  let b := (← getS k e.a).toNat % 32
  let g := (← getS k e.b).toNat % 2 ^ 32
  let later := match ← inChk k with
    | some b => b.state != 1
    | none => false
  let c ← get
  if later || ((c.part (c.ctx k).part).bar b).1 != g then recordDone k else modify fun c => c.block k (.bar b g)

/-- A wait on a barrier whose GEN has moved on. -/
def Chip.barOver (c : Chip) (p : Nat) (w : Wait) (b : Nat) : Bool := match w with
  | .bar b' g => b' == b && ((c.part p).bar b).1 != g
  | _ => false

/-- The contexts that wait on a barrier resume after its GEN advances (R141). -/
def Chip.barResume (c : Chip) (p b : Nat) : Chip :=
  let c := (c.waiting fun x w => x.part == p && c.barOver p w b).foldl (fun c k => c.resumeWith k 0x73 (recordDone k)) c
  (c.savedWaiting fun _ w => c.barOver p w b).foldl (fun c key => if key.1 = p then c.updSaved key fun x => { x with wait := .none } else c) c

/-- A write of HALL_BARb.COUNT: discarded and counted while ARRIVED is not 0, or away from the home (R144). -/
def Chip.barCountWrite (c : Chip) (site p b v : Nat) : Chip :=
  let (g, a, _) := (c.part p).bar b
  if c.isHome site p && a == 0 && decide (bits v 9 0 ≤ 512) then c.updPart p fun q => { q with bars := q.bars.set b (g, 0, bits v 9 0) }
  else c.bump (syncK site p 0x148)

/-! ## FENCE and WAITT (R121, R142) -/

/-- FENCE: every earlier access of the context is complete, which holds at each instruction here (R32, R121). -/
def fenceBody (_ : Nat) : Ex Unit := pure ()

/-- WAITT: the local copy to S[D] once it has reached S[A] (R142). -/
def waittBody (e : Enc) (k : Nat) : Ex Unit := do
  let t := (← getS k e.a).toNat
  let c ← get
  let later := match ← inChk k with
    | some b => b.state != 1
    | none => false
  if later || decide (t ≤ c.localTime (k / 8)) then setS k e.d (BitVec.ofNat 64 (← recorded k 16 (pure (c.localTime (k / 8)))))
  else modify fun c => c.block k (.time t e.d)

/-- The local DEVTIME copy has reached the target of a slot's WAITT (R142). -/
def Chip.waittResume (c : Chip) (k : Nat) : Chip :=
  match (c.ctx k).wait with
  | .time t d =>
    if (c.ctx k).state = 3 ∧ t ≤ c.localTime (k / 8) then
      c.resumeWith k 0x75 do setS k d (BitVec.ofNat 64 (← recorded k 16 (return (← get).localTime (k / 8))))
    else c
  | _ => c

/-! ## Landing (R145, R146) -/

/-- LAND.WAIT completes for the frame after `l` (R145). -/
def Chip.landed (c : Chip) (x : Ctx) (l d : Nat) : Ctx := { (x.ws d (BitVec.ofNat 64 (l + 1))) with lfc := l + 1, overrun := false, moveTo := none, budget := c.lfcBudget x }

/-- LAND.WAIT (R145). Inside a block it raises CHECK_SCOPE (R148). -/
def landWaitBody (e : Enc) (k : Nat) : Ex Unit := do
  let x ← ctxOf k
  need x.blk.isNone CHECK_SCOPE
  let c ← get
  if c.time.running && decide (c.start (x.lfc + 1) ≤ c.time.now) then
    updC k fun x => c.landed x x.lfc e.d
    modify fun c => c.frameDone x.part
  else modify fun c => c.block k (.land x.lfc e.d)

/-- A release that waited takes effect (R221). -/
def Chip.releaseNow (c : Chip) (o : Owed) : Chip :=
  let w := fun i => o.op.ops.getD i 0
  let n := (w 0).toNat
  match o.op.opc with
  | 0x72 => if o.op.sub = 0 then c.evtSet o.part n else if o.op.sub = 2 then c.evtClr o.part n else c.userRecord o.slot o.part o.lfc (w 0) (w 1)
  | 0x73 => c.barArrive o.part n
  | _ => (c.onCtx o.part o.idx fun x => { x with signal := some o.lfc }).frameDone o.part

/-- LAND.SIGNAL (R146). Inside a block it raises CHECK_SCOPE (R148). -/
def landSignalBody (k : Nat) : Ex Unit := do
  let x ← ctxOf k
  need x.blk.isNone CHECK_SCOPE
  modify fun c => c.owe k { opc := 0x71, sub := 1, ops := [] } fun c => (c.updCtx k fun x => { x with signal := some x.lfc }).frameDone x.part

/-- Contexts that wait in LAND.WAIT for the landing start of frame `n` resume (R145, R447 step 5). -/
def Chip.landResume (c : Chip) (n : Nat) : Chip :=
  let due := fun (w : Wait) => match w with
    | .land l _ => decide (l + 1 ≤ n)
    | _ => false
  let go := fun (x : Ctx) => match x.wait with
    | .land l d => c.landed x l d
    | _ => x
  let c := (c.waiting fun _ w => due w).foldl (fun c k => ((c.updCtx k go).resume k).frameDone (c.ctx k).part) c
  (c.savedWaiting fun _ w => due w).foldl (fun c key => (c.updSaved key fun x => { go x with wait := .none }).frameDone key.1) c

end Sys2Proof.Machine
end

