-- ==== Sys2Proof/Machine/Checked.lean ====
section
/-! DEFINITION. Checked execution: CHKB and CHKE (R147, R241, R252), the end of a pass (R247-R251), arbitration (R260-R262) and heartbeats (R267-R269). -/

namespace Sys2Proof.Machine

/-- CHKB (OPC 0x70, SUB 0): D, A and IMM30[29:16] are zero (R43, R62). -/
def dChkb : IDesc := { opc := 0x70, sub := 0, fmt := .I, grp := 1, rsvB := fD + fA + maskOf 29 16, unpred := true }
/-- CHKE (OPC 0x70, SUB 1): D, A and IMM30 are zero (R43, R62). -/
def dChke : IDesc := { opc := 0x70, sub := 1, fmt := .I, grp := 1, rsvB := fD + fA + maskOf 29 0, unpred := true }

/-! ## Blocks -/

/-- The registers of a context as an image. -/
def Ctx.img (x : Ctx) : RegImg := { s := x.s, p := x.p, td := x.td }

/-- Restore an image, with V and ACC reading zero (R47). -/
def Ctx.load (x : Ctx) (r : RegImg) : Ctx := { x with s := r.s, p := r.p, td := r.td, v := [], acc := [], accNeg := [], lost := [] }

/-- The scene slots that a block captures (R49, R201). -/
def Chip.sceneCapture (c : Chip) (p : Nat) : List (Nat × Nat × Bool) :=
  (List.range 8).map fun i => let q := (c.part p).scenes.get i {}; (q.addr, q.epoch, q.valid)

/-- Search Unit limits that a block captures (R49). -/
def Chip.limitCapture (c : Chip) (site : Nat) : List W64 := (List.range 7).map fun i => BitVec.ofNat 64 (c.reg (suK site (0x100 + 8 * i)))

/-- Open a block at a CHKB whose base word lies before the context's instruction address (R49, R147, R241). -/
def Chip.openBlock (c : Chip) (k cbid : Nat) : Chip :=
  let x := c.ctx k
  let stb := k / 2
  let chk := c.checkedMode stb
  let b := (c.eng stb).seq
  let blk : Block := { cbid := cbid, checked := chk, b := if chk then b else 0, k := if chk then 1 + b % 31 else 0, chkbIa := x.ia - 8,
                       start := x.img, scenes := c.sceneCapture x.part, limits := c.limitCapture (k / 8), frame := c.time.frame }
  let c := if chk then c.updEng stb fun e => { e with seq := (e.seq + 1) % 2 ^ 64 } else c
  c.updCtx k fun x => if chk then { x with blk := some blk, v := [], acc := [], accNeg := [], lost := [], wait := .none } else { x with blk := some blk, wait := .none }

/-- CHKB: outside a block only; in CHECKED mode the context has pending pages (R246), and a due heartbeat runs first
    (R268). -/
def chkbBody (e : Enc) (k : Nat) : Ex Unit := do
  let x ← ctxOf k
  let c ← get
  let chk := c.checkedMode (k / 2)
  let pages := ((c.desc? x).map CtxDesc.pendPages).getD 0
  need (x.blk.isNone && !(chk && pages == 0)) CHECK_SCOPE
  let cbid := fld e.body 15 0
  if chk && (c.eng (k / 2)).hb ∈ [1, 2] then updC k fun x => { x with wait := .chkb cbid }
  else modify fun c => c.openBlock k cbid

/-! ## The end of a pass -/

/-- The bytes that the final registers add to a signature (R249). -/
def RegImg.sigBytes (r : RegImg) : List Byte :=
  ((List.range 31).map fun i => leBytes 8 (r.s.get (i + 1) 0).toNat).flatten
    ++ ((List.range 15).map fun i => BitVec.ofNat 8 (b2n (r.p.getLsbD (i + 1))))
    ++ ((List.range 32).map fun i => leBytes 32 (r.td.get i 0).toNat).flatten

/-- Finish the running pass: page CRCs, final registers, and the image (R247, R249). -/
def finishPass (k : Nat) : Ex Unit := do
  let x ← ctxOf k
  match x.chk with
  | none => pure ()
  | some b => do
    flushSig k
    feedSig k (b.cur.held.map Held.bytes).flatten
    feedSig k x.img.sigBytes
    let pages ← b.cur.pages.mapM fun p => do
      let key ← pageKey k b.setIdx p.idx
      return { p with crc := crc32c ((← get).bytesAt key 4096) }
    updB k fun b => b.updCur fun p => { p with pages := pages, fin := x.img }

/-- CHKE (R149, R252): an UNCHECKED block ends; a primary pass gives way to the shadow pass; a shadow pass is compared; an
    arbiter pass waits for its outcome. -/
def chkeBody (k : Nat) : Ex Unit := do
  let x ← ctxOf k
  need x.blk.isSome CHECK_SCOPE
  match x.blk with
  | none => pure ()
  | some b =>
    if !b.checked then do
      updC k fun x => { x with blk := none }
      modify fun c => c.applyMove k
    else do
      finishPass k
      if b.state = 1 then
        updC k fun x => { x.load b.start with ia := b.chkbIa + 8 }
        updB k fun b => { b with state := 2, nextIa := x.ia, recPos := 0, resBlks := [] }
      else if b.state = 2 then do
        let x ← ctxOf k
        match x.blk with
        | none => pure ()
        | some b =>
          if b.prim.sig = b.shad.sig then updB k fun b => { b with state := 6, set := 0 }
          else do
            updB k fun b => { b with state := 4 }
            modify fun c => c.bump (stbK (k / 2) 0xC8)
      else updB k fun b => { b with arbDone := true }

/-! ## Arbitration (R260-R262) -/

/-- No pass of the stable's own is running: each open block stands at a pass boundary (R261). -/
def Chip.atBoundary (c : Chip) (stb : Nat) : Bool :=
  (c.eng stb).serving.isNone && (c.eng stb).hb != 2 && [2 * stb, 2 * stb + 1].all fun k => match (c.ctx k).blk with
    | some b => !((b.state == 1 || b.state == 2) && b.cur.insns != 0)
    | none => true

/-- The arbiter pass of a slot's block starts at its arbiter stable (R261). -/
def Chip.arbStart (c : Chip) (k : Nat) : Chip :=
  let x := c.ctx k
  match x.blk with
  | none => c
  | some b =>
    if b.state ≠ 4 then c
    else match c.arbiterOf x.part (k / 2) with
      | none => c
      | some a =>
        if c.atBoundary a then
          let c := c.updEng a fun e => { e with serving := some k }
          c.updCtx k fun x => { x.load b.start with ia := b.chkbIa + 8, blk := some { b with state := 5, arbiter := some a, recPos := 0, arb := {}, arbDone := false, resBlks := [] } }
        else c

/-- Attribute a disagreement: one differing class names the stall that ran it, else the shared units (R262). -/
def attributed (diff sigma : Nat) : Nat :=
  match [0, 1, 2, 3].filter (bit diff) with
  | [j] => (j + sigma) % 4
  | _ => 4

/-- A two-of-three outcome: set `set` is committed, and the pass with shift `sigma` was faulty (R261, R262). -/
def Chip.arbWin (c : Chip) (k a : Nat) (x : Ctx) (b : Block) (set diff sigma : Nat) (fin : RegImg) : Chip :=
  let n := attributed diff sigma
  let c := c.updEng a fun e => { e with serving := none }
  let c := c.bump (stbK a 0xD0)
  let c := c.post .CHK_ARBITRATED (stbUnit (k / 2)) (some x.part)
  let unit := if n = 4 then stbUnit (k / 2) else stallUnit (k / 2) n
  let c := c.sendErr { unit := unit, cls := 0x13, cbid := b.cbid, part := x.part, blkseq := b.b % 2 ^ 32, synd := diff + b2n (n == 4) * 16 + b.prim.sig % 2 ^ 64 * 2 ^ 64 }
  let c := c.attribute (k / 2) n b.b
  c.updCtx k fun x => { x.load fin with ia := b.nextIa, blk := some { b with state := 6, set := set, arbiter := none } }

/-- The arbiter signature decides (R261): set P or S is committed, or CHECK_FAIL poisons what the block wrote in set P,
    quarantines the stable and resets the partition. -/
def Chip.arbEnd (c : Chip) (k : Nat) : Chip :=
  let x := c.ctx k
  match x.blk with
  | none => c
  | some b =>
    match b.arbiter with
    | none => c
    | some a =>
      if b.state ≠ 5 ∨ !b.arbDone then c
      else if b.arb.sig = b.prim.sig then c.arbWin k a x b 0 (clsDiff b.shad b.prim) 1 b.prim.fin
      else if b.arb.sig = b.shad.sig then c.arbWin k a x b 1 (clsDiff b.prim b.shad) 0 b.shad.fin
      else
        let c := (c.bump (stbK a 0xD0)).bump (stbK (k / 2) 0xD8)
        let c := b.prim.pages.foldl (fun c p => c.poison p.dest) c
        let c := c.quarantine (k / 2)
        c.takeFault k { cls := CHECK_FAIL, sub := 0 }

/-! ## Heartbeats and comparator injection (R267-R269) -/

/-- The heartbeat becomes due (R268): HBINT ms have passed since the last one, or the mode has just become CHECKED. -/
def Chip.hbDue (c : Chip) (stb : Nat) (changed : Bool) : Chip :=
  let e := c.eng stb
  let int := bits (c.reg (stbK stb 0xA8)) 15 0 * 1000000
  if c.checkedMode stb ∧ e.hb = 0 ∧ (changed = true ∨ e.hbLast + int ≤ c.time.now) then c.updEng stb fun e => { e with hb := 1 } else c

/-- No pass is being issued and no block is in COMPARE, ARBITRATING or COMMITTING (R268). -/
def Chip.hbFree (c : Chip) (stb : Nat) : Bool :=
  (c.eng stb).serving.isNone && [2 * stb, 2 * stb + 1].all fun k => match (c.ctx k).blk with
    | some b => !(b.state == 3 || b.state == 5 || b.state == 6) && !((b.state == 1 || b.state == 2) && (c.ctx k).state == 2)
    | none => true

/-- The heartbeat injection starts (R268). -/
def Chip.hbRun (c : Chip) (stb : Nat) : Chip := if (c.eng stb).hb = 1 ∧ c.hbFree stb then c.updEng stb fun e => { e with hb := 2 } else c

/-- CHKBs that waited for the heartbeat complete (R268). -/
def Chip.chkbGo (c : Chip) (stb : Nat) : Chip :=
  [2 * stb, 2 * stb + 1].foldl (fun c k => match (c.ctx k).wait with
    | .chkb id => c.openBlock k id
    | _ => c) c

/-- A stable's mode becomes UNCHECKED: a heartbeat that is due is no longer, and a CHKB that waited for it goes on (R268). -/
def Chip.hbOff (c : Chip) (stb : Nat) : Chip :=
  if (c.eng stb).hb = 1 then (c.updEng stb fun e => { e with hb := 0 }).chkbGo stb else c

/-- A saved context stops with CHECK_FAIL and syndrome COMPARATOR (R269). -/
def Chip.savedFails (c : Chip) (e : (Nat × Nat) × Ctx) : Chip :=
  let stb := ((c.desc? e.2).bind c.homeKey).getD 0
  let c : Chip := { c with core := { c.core with saved := c.core.saved.map fun q => if q.1 = e.1 then (q.1, { q.2 with fault := CHECK_FAIL, multi := false }) else q } }
  c.sendErr { unit := stbUnit stb, cls := CHECK_FAIL, part := e.1.1, synd := 1 }

/-- The injection ends: it was flagged, with the gate held at position 128, or the heartbeat fails (R268, R269). -/
def Chip.hbEnd (c : Chip) (stb : Nat) (flagged : Bool) : Chip :=
  let e := c.eng stb
  if e.hb ≠ 2 then c
  else if flagged then
    ((c.updEng stb fun e => { e with hb := 0, hbPos := (e.hbPos + 1) % 129, hbLast := c.time.now }).bump (stbK stb 0xE0)).chkbGo stb
  else
    let c := c.updEng stb fun e => { e with hb := 3, barred := true, quar := true }
    let c := c.sendErr { unit := stbUnit stb, cls := 0x15, synd := e.hbPos + 256, part := (c.partOfStb stb).getD 0xFF }
    let c := c.post .CHK_BARRED (stbUnit stb) (c.partOfStb stb)
    match c.partOfStb stb with
    | none => c
    | some p =>
      let ks := (c.core.slots.filter fun x => x.2.part == p && x.2.state != 0).map Prod.fst
      let c := ks.foldl (fun c k => c.recordFault k { cls := CHECK_FAIL, sub := 1 }) c
      ((c.core.saved.filter fun e => e.1.1 == p && e.2.state != 0).foldl Chip.savedFails c).dueReset p CHECK_FAIL stb

/-- The 129 injected blocks of start-up end (R267): a stable whose comparator missed one is barred. -/
def Chip.injectionDone (c : Chip) (stb : Nat) (missed : Option Nat) : Chip :=
  match missed with
  | none => c
  | some pos =>
    let c := c.updEng stb fun e => { e with barred := true }
    let c := c.sendErr { unit := stbUnit stb, cls := 0x15, synd := pos }
    c.post .CHK_BARRED (stbUnit stb) (c.partOfStb stb)

end Sys2Proof.Machine
end

