-- ==== Sys2Proof/Machine/Kv.lean ====
section
/-! DEFINITION. The KV page cache: table entries as instructions check them (R176-R178), KVPAGE (R180, R181), its form in a CHECKED block (R194), and the waits and splice of a reclaim batch (R182, R183). -/

namespace Sys2Proof.Machine

/-- KVPAGE (OPC 0x52): ALLOC 0, REF 1, UNREF 2, COW 3. -/
def dKvpage (sub : Nat) : IDesc := { opc := 0x52, sub := sub, fmt := .R, rsvB := fB + fC }

/-- A page table entry (R176). -/
structure KvEnt where
  st   : Nat
  kvf  : Nat
  frm  : Nat
  fsz  : Nat
  ref  : Nat
  fill : Nat
  dhb  : Nat
  hkv  : Nat
  link : Nat
  /-- Reserved fields are zero and no field holds a reserved value. -/
  ok   : Bool
deriving DecidableEq, Repr

/-- Read an entry. -/
def Chip.kvEnt (c : Chip) (stb i : Nat) : KvEnt :=
  let a := c.kvWord stb i 0
  let b := c.kvWord stb i 1
  { st := bits a 1 0, kvf := bits a 2 2, frm := bits a 47 12 * 4096, fsz := bits a 59 48,
    ref := bits b 15 0, fill := bits b 24 16, dhb := bits b 27 25, hkv := bits b 33 28, link := bits b 63 48,
    ok := bits a 11 3 == 0 && bits a 63 60 == 0 && bits a 59 48 != 0 && bits b 47 34 == 0 && decide (bits b 24 16 ≤ 256) }

/-- A page layout: KVF, D_h and H_kv (R174). -/
structure KvForm where
  kvf : Nat
  dh  : Nat
  hkv : Nat
deriving DecidableEq, Repr

/-- The layout that an entry's fields give. -/
def KvEnt.form (e : KvEnt) : KvForm := { kvf := e.kvf, dh := 32 * (e.dhb + 1), hkv := e.hkv + 1 }

/-- Bytes of one token's head vector. -/
def KvForm.vec (f : KvForm) : Nat := if f.kvf = 0 then f.dh else f.dh / 2
/-- KB: bytes of the K elements. -/
def KvForm.kb (f : KvForm) : Nat := 256 * f.hkv * f.vec
/-- SB: bytes of the K scales. -/
def KvForm.sb (f : KvForm) : Nat := 16 * f.hkv * f.dh
/-- VOFF. -/
def KvForm.voff (f : KvForm) : Nat := alignUp f.kb 4096
/-- KSOFF. -/
def KvForm.ksoff (f : KvForm) : Nat := 2 * f.voff
/-- VSOFF. -/
def KvForm.vsoff (f : KvForm) : Nat := f.ksoff + alignUp f.sb 4096
/-- FRAME_BYTES. -/
def KvForm.bytes (f : KvForm) : Nat := f.vsoff + alignUp f.sb 4096

/-- The four regions of a frame: offset and bytes of one token of one head (R174). -/
def KvForm.regions (f : KvForm) : List (Nat × Nat) :=
  [(0, f.vec), (f.voff, f.vec), (f.ksoff, f.dh / 32 * 2), (f.vsoff, f.dh / 32 * 2)]

/-! ## Checks and views of an instruction -/

/-- The header, as the walker checks it: its reserved field is zero (R176, R177). -/
def kvHeader (k : Nat) : Ex Unit := do
  senseEx ((← get).kvKey (k / 2) 0) 16
  need (bits ((← get).kvWord (k / 2) 0 1) 63 32 == 0) ILLEGAL_OPERAND

/-- The table must be registered (R178), with a header that the walker accepts. -/
def kvReady (k : Nat) : Ex Unit := do
  need ((← get).kvOn (k / 2)) ILLEGAL_OPERAND
  kvHeader k

/-- A page number names an entry (R180). -/
def Chip.kvIdxOk (c : Chip) (stb p : Nat) : Bool := p != 0 && p != 0xFFFF && decide (p < c.kvEntries stb)

/-- Sense and read an entry, with the walker's checks of its fields (R177). -/
def kvLook (k p : Nat) : Ex KvEnt := do
  need ((← get).kvIdxOk (k / 2) p) ILLEGAL_OPERAND
  senseEx ((← get).kvKey (k / 2) p) 16
  let e := (← get).kvEnt (k / 2) p
  need (e.ok && decide (e.form.bytes ≤ e.fsz * 4096)) ILLEGAL_OPERAND
  pure e

/-- The block holds a page RESERVED. -/
def Block.holds (b : Block) (stb p : Nat) : Bool := b.reserved.contains (stb, p)

/-- A page that the instruction may use: LIVE, or RESERVED by its own block (R179). -/
def usablePage (x : Ctx) (stb p : Nat) (e : KvEnt) : Bool :=
  e.st == 1 || (e.st == 2 && match x.chk with
    | some b => b.holds stb p
    | none => false)

/-- REFCNT with the running pass's held changes (R194). -/
def heldRef (x : Ctx) (p ref : Nat) : Int :=
  match x.chk with
  | none => ref
  | some b => b.cur.held.foldl (fun (n : Int) h =>
      if h.opc = 0x52 ∧ (h.ops.getD 0 0).toNat = p then (if h.sub = 1 then n + 1 else if h.sub = 2 ∨ h.sub = 3 then n - 1 else n) else n) ref

/-- FILL with the running pass's held updates (R194). -/
def heldFill (x : Ctx) (p fill : Nat) : Nat :=
  match x.chk with
  | none => fill
  | some b => b.cur.held.foldl (fun n h => if h.opc = 0x51 ∧ (h.ops.getD 0 0).toNat = p then (h.ops.getD 1 0).toNat else n) fill

/-- An ALLOC or COW that needs a page waits for the splice: a batch awaits it, and the instruction is not in a block that
    was open at the tick (R183). -/
def Chip.kvMustWait (c : Chip) (k : Nat) : Bool :=
  (c.batches (k / 2)).any fun b => b.holds (c.ctx k).blk

/-! ## Allocation (R179, R180) -/

/-- Take the page at FREE_HEAD with a layout and FILL: LIVE, or RESERVED by the CHECKED block. -/
def kvTake (k : Nat) (f : KvForm) (fill : Nat) : Ex Nat := do
  let stb := k / 2
  let p := (← get).kvFreeHead stb
  if p = 0xFFFF then
    modify fun c => c.bump (stbK stb 0x70)
    pure 0xFFFF
  else do
    need ((← get).kvIdxOk stb p) ILLEGAL_OPERAND
    senseEx ((← get).kvKey stb p) 16
    let e := (← get).kvEnt stb p
    need (e.ok && e.st == 0 && decide (f.bytes ≤ e.fsz * 4096) && (e.link == 0xFFFF || decide (e.link < (← get).kvEntries stb))) ILLEGAL_OPERAND
    let chk ← inChk k
    modify fun c =>
      let n := c.kvFreeCount stb
      let c := c.kvFld stb 0 0 15 0 e.link
      let c := c.kvFld stb 0 0 31 16 (n - 1)
      let c := c.kvFld stb p 0 2 0 ((if chk.isSome then 2 else 1) + 4 * f.kvf)
      c.kvPut stb p 1 (1 + fill * 2 ^ 16 + (f.dh / 32 - 1) * 2 ^ 25 + (f.hkv - 1) * 2 ^ 28 + 0xFFFF * 2 ^ 48)
    match chk with
    | some _ => updB k fun b => { b with reserved := b.reserved ++ [(stb, p)] }
    | none => pure ()
    pure p

/-- ALLOC with its operand, once no splice holds it up. -/
def allocNow (k d a : Nat) : Ex Unit := do
  let f : KvForm := { kvf := a % 2, dh := 32 * (bits a 3 1 + 1), hkv := bits a 9 4 + 1 }
  let p ← recorded k 16 (kvTake k f 0)
  setS k d (BitVec.ofNat 64 p)

/-- KVPAGE.ALLOC (R180, R183, R194). -/
def kvAllocBody (e : Enc) (k : Nat) : Ex Unit := do
  kvReady k
  let a := (← getS k e.a).toNat
  need (a < 1024) ILLEGAL_OPERAND
  let later := match ← inChk k with
    | some b => b.state != 1
    | none => false
  if !later && (← get).kvMustWait k then modify fun c => c.block k (.kv 0 e.d a) else allocNow k e.d a

/-! ## References (R180, R194) -/

/-- Apply a REF or UNREF at the table (R179). -/
def Chip.kvRefApply (c : Chip) (stb p : Nat) (up : Bool) : Chip :=
  let e := c.kvEnt stb p
  if up then c.kvFld stb p 1 15 0 (e.ref + 1)
  else if e.ref ≤ 1 then c.kvPend stb p
  else c.kvFld stb p 1 15 0 (e.ref - 1)

/-- The walker checks the entry at PEND_TAIL before it links a page behind it (R177, R179). -/
def kvTail (k : Nat) : Ex Unit := do
  let t := (← get).kvPendTail (k / 2)
  if t = 0xFFFF then pure () else do
    let q ← kvLook k t
    need (q.st == 3) ILLEGAL_OPERAND

/-- A REF or UNREF reaches the table: a page that loses its last reference goes behind the tail of the pending list. -/
def kvRefNow (k p : Nat) (up : Bool) : Ex Unit := do
  if up || decide (1 < ((← get).kvEnt (k / 2) p).ref) then pure () else kvTail k
  modify fun c => c.kvRefApply (k / 2) p up

/-- KVPAGE.REF and UNREF: the new REFCNT to S[D]; held in a CHECKED block. -/
def kvRefBody (up : Bool) (e : Enc) (k : Nat) : Ex Unit := do
  kvReady k
  let a := (← getS k e.a).toNat
  need (a < 65536) ILLEGAL_OPERAND
  let q ← kvLook k a
  let x ← ctxOf k
  let r := heldRef x a q.ref
  need (usablePage x (k / 2) a q && (if up then decide (0 < r) && decide (r < 65535) else decide (1 ≤ r))) ILLEGAL_OPERAND
  let new := if up then r + 1 else r - 1
  match ← inChk k with
  | none => do
    kvRefNow k a up
    setS k e.d (BitVec.ofInt 64 new)
  | some _ => do
    let v ← recorded k 16 (pure new.toNat)
    hold k 0x52 (if up then 1 else 2) [BitVec.ofNat 64 a]
    setS k e.d (BitVec.ofNat 64 v)

/-! ## Frames -/

/-- The keys of a frame's bytes: the frame lies in windows that permit reads and writes (R174, R177). -/
def frameKey (k frm n : Nat) : Ex Nat := do
  let c ← get
  match c.xlate k frm n true, c.xlate k frm n false with
  | some ((key, _) :: _), some _ => if frm + n ≤ 0x3600000000 ∧ ¬((c.ctx k).chk.isSome ∧ c.asyncHit k frm n = true) then pure key else raise ACCESS 0 frm
  | _, _ => raise ACCESS 0 frm

/-- Write bytes of a frame that the block holds RESERVED: directly, but signed (R194). -/
def wrReserved (k u key : Nat) (bs : List Byte) : Ex Unit := do
  signWrite k u key bs
  let (c, ok) := (← get).put key bs
  set c
  updB k fun b => { b with resBlks := b.resBlks ++ (blocksOf key bs.length).filter fun q => !b.resBlks.contains q }
  if ok then pure () else raise DATA_UNCORRECTABLE 0 (c.devAddr key)

/-- Blocks of a frame that hold any byte of its first `n` tokens, in ascending order (R181). -/
def KvForm.liveBlocks (f : KvForm) (n : Nat) : List Nat :=
  if n = 0 then [] else
    (sortBy id ((f.regions.map fun g => (List.range f.hkv).map fun h => blocksOf (g.1 + h * 256 * g.2) (n * g.2)).flatten.flatten)).eraseDups

/-- Copy the live blocks of one frame to another, verified when read (R181, R125). -/
def copyFrame (k src dst : Nat) (f : KvForm) (fill : Nat) (reserved : Bool) : Ex Unit := do
  let s ← frameKey k src f.bytes
  let d ← frameKey k dst f.bytes
  let stb := (← ctxOf k).execStb k
  ((f.liveBlocks fill).zipIdx).forM fun q => do
    let x ← ctxOf k
    let key ← rdKey k (s + q.1 * 4096)
    senseEx key 4096
    if key = s + q.1 * 4096 ∧ !((x.chk.map fun b => b.resBlks.contains (key / 4096)).getD false) then verify stb (key / 4096) else pure ()
    let bs := (← get).bytesAt key 4096
    if reserved then wrReserved k q.2 (d + q.1 * 4096) bs
    else do
      wrPiece k q.2 (d + q.1 * 4096) bs
      tagKeys k [(d + q.1 * 4096) / 4096]

/-- COW with its slot address, once no splice holds it up (R181, R194). -/
def cowNow (k d a : Nat) : Ex Unit := do
  let p := leNat (← rd k a 2)
  let q ← kvLook k p
  let x ← ctxOf k
  need (usablePage x (k / 2) p q) ILLEGAL_OPERAND
  let fill := heldFill x p q.fill
  let alone := heldRef x p q.ref == 1
  let n ← recorded k 16 (if alone then pure p else kvTake k q.form fill)
  if n = p ∨ n = 0xFFFF then setS k d (BitVec.ofNat 64 n)
  else do
    let chk := x.chk.isSome
    let dst := ((← get).kvEnt (k / 2) n).frm
    copyFrame k q.frm dst q.form fill chk
    wr k 0 a (leBytes 2 n)
    if chk then hold k 0x52 3 [BitVec.ofNat 64 p] else modify fun c => c.kvRefApply (k / 2) p false
    setS k d (BitVec.ofNat 64 n)

/-- A page-list slot address: local, 2-byte aligned, below 0x8000_0040_0000. -/
def slotAddr (a n : Nat) : Bool := decide (0x800000000000 ≤ a) && a % 2 == 0 && decide (a + n ≤ 0x800000400000)

/-- KVPAGE.COW (R181, R183, R194). -/
def kvCowBody (e : Enc) (k : Nat) : Ex Unit := do
  kvReady k
  let a := (← getS k e.a).toNat
  need (slotAddr a 2) ILLEGAL_OPERAND
  let later := match ← inChk k with
    | some b => b.state != 1
    | none => false
  if !later && (← get).kvMustWait k then do
    let p := leNat (← rd k a 2)
    let q ← kvLook k p
    let x ← ctxOf k
    if heldRef x p q.ref == 1 then cowNow k e.d a else modify fun c => c.block k (.kv 3 e.d a)
  else cowNow k e.d a

/-! ## The splice (R182 step 3) and registers (R196) -/

/-- A context does not hold up a batch (R182 step 2): it has no block that was open at the batch's tick, and no KVPAGE that was issued before it
    and waits. -/
def Chip.pastTick (c : Chip) (b : KvBatch) (x : Ctx) : Bool := b.holds x.blk && match x.wait with
  | .kv _ _ _ => decide (c.start b.frame ≤ x.since)
  | _ => true

/-- The oldest batch of a stable may be spliced: no resident or saved context of the stable holds it up. -/
def Chip.spliceDue (c : Chip) (stb : Nat) : Bool :=
  match c.batch.look stb with
  | none => false
  | some b => [2 * stb, 2 * stb + 1].all (fun k => c.pastTick b (c.ctx k))
      && c.core.saved.all fun e => e.2.state != 5 || c.homeKey (c.descOf e.2) != some stb || c.pastTick b e.2

/-- Saved contexts of a stable that waited for a splice (in `was`) are runnable from now on, and the scheduler reconsiders (R276). -/
def Chip.kvSaved (c was : Chip) (stb : Nat) : Chip :=
  let waits := fun (x : Ctx) => c.runnable x stb && !was.runnable x stb && c.homeKey (c.descOf x) == some stb
  ({ c with core := { c.core with saved := c.core.saved.map fun (e : (Nat × Nat) × Ctx) => if waits e.2 then (e.1, { e.2 with since := c.time.now }) else e } }).reconsider stb

/-- The batch is linked into the free list, and instructions that waited for it proceed (R182, R183). -/
def Chip.kvReclaim (c : Chip) (stb : Nat) : Chip :=
  if c.spliceDue stb then
    let d := c.kvSplice stb
    [2 * stb, 2 * stb + 1].foldl (fun c k => if (c.batches stb).any (c.kvHeldBy (c.ctx k)) then c else match (c.ctx k).wait with
      | .kv 0 d a => c.resumeWith k 0x52 (allocNow k d a)
      | .kv _ d a => c.resumeWith k 0x52 (cowNow k d a)
      | _ => c) (d.kvSaved c stb)
  else c

/-- A write of STB_KVPT (R196). A refused write leaves BASE as it was. -/
def Chip.kvptWrite (c : Chip) (stb v : Nat) : Chip :=
  let busy := [2 * stb, 2 * stb + 1].any fun k => (c.ctx k).state == 2 || (c.ctx k).state == 3
  if busy then c.bump (stbK stb 0x38)
  else if !bit v 0 then c.setReg (stbK stb 0x60) (bits v 47 5 * 32)
  else
    let base := bits v 47 5 * 32
    let d := c.setReg (stbK stb 0x60) (base + 1)
    let n := d.kvEntries stb
    let inLocal := decide (0x800000000000 ≤ base) && decide (base < 0x800000400000)
    if inLocal && decide (2 ≤ n) && decide (base + 16 * n ≤ 0x800000400000) && bits (d.kvWord stb 0 1) 63 32 == 0 then d
    else (c.setReg (stbK stb 0x60) (c.reg (stbK stb 0x60) / 2 * 2)).bump (stbK stb 0x38)

end Sys2Proof.Machine
end

