-- ==== Sys2Proof/Machine/Attention.lean ====
section
/-! DEFINITION. KVAPP and the three forms of ATTN (R175, R178, R185-R193). -/

namespace Sys2Proof

open Machine

/-- WINDOW of AOW. -/
def Enc.window (e : Enc) : Nat := fld e.x0 63 48
/-- NGLOB of AOW. -/
def Enc.nglob (e : Enc) : Nat := fld e.x0 47 43
/-- CAUSAL of AOW. -/
def Enc.causal (e : Enc) : Bool := flag e.x0 42
/-- KVFMT of AOW. -/
def Enc.kvfmt (e : Enc) : Nat := fld e.x0 41 40
/-- SP of AOW.PARAM. -/
def Enc.spA (e : Enc) : Nat := fld e.x0 35 32
/-- GLIST of GLW. -/
def Enc.glist (e : Enc) : Nat := fld e.x1 47 0

end Sys2Proof

namespace Sys2Proof.Machine

/-- ATTN (OPC 0x50): PARAM bit 39 and GSHIFT 5 to 7 are reserved (R55, R58, R189). -/
def dAttn (sub : Nat) : IDesc := { opc := 0x50, sub := sub, fmt := .A, rsv0 := 2 ^ 39, ok := fun e => decide (fld e.x0 38 36 ≤ 4) }
/-- KVAPP (OPC 0x51): PARAM holds SP and RING; SA is not used (R188). -/
def dKvapp : IDesc := { opc := 0x51, sub := 0, fmt := .A, rsvB := maskOf 19 15, rsv0 := maskOf 31 0 + maskOf 39 37 }

/-- A length table entry (R185) with its number of the first work unit. -/
structure LenEnt where
  qstart : Nat
  qlen   : Nat
  kvlen  : Nat
  npg    : Nat
  list   : Nat
  ok     : Bool
  unit   : Nat
deriving DecidableEq, Repr

/-- A table descriptor of 16-byte entries in local space, untagged (R178, R185). -/
def tableDesc (d : Desc) : Bool := d.rank == 2 && d.fmt == 3 && d.dim 0 == 8 && d.pol == 1 && decide (0x800000000000 ≤ d.base)

/-- Number the work units in table order (R187). -/
def numberUnits : Nat → List LenEnt → List LenEnt
  | _, [] => []
  | u, e :: es => { e with unit := u } :: numberUnits (u + if e.kvlen = 0 then 0 else (e.qlen + 31) / 32) es

/-- Read the length table (R185). -/
def lenTable (k : Nat) (d : Desc) : Ex (List LenEnt) := do
  let es ← (List.range (d.dim 1)).mapM fun i => do
    let bs ← rd k (d.rowAddr i) 16
    let a := leNat (bs.take 8)
    let b := leNat (bs.drop 8)
    let npg := bits b 31 24
    let list := 0x800000000000 + bits b 63 32
    return ({ qstart := bits a 31 0, qlen := bits a 47 32, kvlen := bits b 23 0, npg := npg, list := list,
              ok := bits a 63 48 == 0 && (npg != 0 || bits b 23 0 == 0) && (bits b 23 0 == 0 || slotAddr list (2 * npg)), unit := 0 } : LenEnt)
  return numberUnits 0 es

/-- Row ranges of two entries overlap (R186). -/
def rowsMeet : List LenEnt → Bool
  | [] => false
  | e :: es => (es.any fun f => decide (e.qstart < f.qstart + f.qlen) && decide (f.qstart < e.qstart + e.qlen)) || rowsMeet es

/-- The checks that a length table meets by itself (R185, R186): `rows` query rows, linear or ring lists. -/
def lenOk (es : List LenEnt) (rows : Nat) (ring : Bool) : Bool :=
  !rowsMeet (es.filter fun e => e.qlen != 0) && es.all fun e =>
    e.ok && decide (e.qstart + e.qlen ≤ rows) && (e.kvlen == 0 || decide (e.qlen ≤ e.kvlen)) && (ring || e.kvlen == 0 || decide ((e.kvlen + 255) / 256 ≤ e.npg))

/-- The TDP operand names the registered table (R178). -/
def Chip.tablePtr (c : Chip) (k : Nat) (d : Desc) : Bool :=
  c.kvOn (k / 2) && tableDesc d && d.base == bits (c.reg (stbK (k / 2) 0x60)) 47 5 * 32 && d.dim 1 == c.kvEntries (k / 2)

/-- The slot of a token's page in a list (R186). -/
def LenEnt.slot (e : LenEnt) (ring : Bool) (t : Nat) : Nat := if ring then t / 256 % e.npg else t / 256

/-- The page numbers of an entry's list. -/
def pageList (k : Nat) (e : LenEnt) : Ex (List Nat) := do
  let bs ← rd k e.list (2 * e.npg)
  return (List.range e.npg).map fun i => leNat ((bs.drop (2 * i)).take 2)

/-! ## KVAPP -/

/-- Quantise one 32-element block (R175): scale pattern, elements, saturated, NaN. -/
def quantBlock (kvf : Nat) (xs : List FV) : Nat × List Int × Bool × Bool :=
  let qmax : Int := if kvf = 0 then 127 else 7
  if xs.any fun x => !x.finite then (0x7E00, xs.map fun _ => 0, false, true)
  else
    let a := xs.foldl (fun m x => if m.lt x.abs then x.abs else m) FV.zero
    let (s0, sat) := ffF16.conv (f32 (div32 a (FV.ofInt qmax)))
    let s := if sat then 0x7BFF else s0
    let q := fun (x : FV) => if s = 0 then (0 : Int) else match f32 (div32 x (ffF16.dec s)) with
      | .fin n m e => max (-qmax) (min qmax (rneInt n m e))
      | .inf n => if n then -qmax else qmax
      | .nan => 0
    (s, xs.map q, sat, false)

/-- The bytes of one quantised head vector, and of its scales. -/
def quantVec (kvf : Nat) (xs : List FV) : List Byte × List Byte × Bool × Bool :=
  let blocks := (List.range (xs.length / 32)).map fun b => quantBlock kvf ((xs.drop (32 * b)).take 32)
  let w := if kvf = 0 then 8 else 4
  let els := (blocks.map fun b => b.2.1).flatten
  let num := (els.zipIdx).foldl (fun v q => insBits v (q.2 * w) w (toBits w q.1)) 0
  (leBytes (els.length * w / 8) num, (blocks.map fun b => leBytes 2 b.1).flatten, blocks.any fun b => b.2.2.1, blocks.any fun b => b.2.2.2)

/-- A source of KVAPP, or a query (R188, R189): rank 3 and one of the formats. -/
def headTensor (d : Desc) (fmts : List Nat) : Bool := d.usable && d.rank == 3 && fmts.contains d.fmt && d.dim 0 % 32 == 0 && within 32 256 (d.dim 0)

/-- One token to be written: source row, page, token in the page, work unit. -/
structure KvPutTok where
  row  : Nat
  page : Nat
  tok  : Nat
  unit : Nat
  fill : Nat
deriving DecidableEq, Repr

/-- The tokens an entry writes, with each page's FILL as it grows (R188): none where t mod 256 exceeds FILL. -/
def planTokens (ring : Bool) (e : LenEnt) (pl : List Nat) (fills : AMap Nat Nat) : List Nat → Option (List KvPutTok × AMap Nat Nat)
  | [] => some ([], fills)
  | i :: is =>
    let t := e.kvlen - e.qlen + i
    let p := pl.getD (e.slot ring t) 0
    let f := fills.get p 0
    let m := t % 256
    let new := if ring && m == 0 then some 1 else if m ≤ f then some (max f (m + 1)) else none
    match new with
    | none => none
    | some n => match planTokens ring e pl (fills.set p n) is with
      | none => none
      | some (ts, fs) => some ({ row := e.qstart + i, page := p, tok := m, unit := e.unit + i / 32, fill := n } :: ts, fs)

/-- What KVAPP finds before it writes: the format, the tokens in order with their pages' FILL, and the sources (R188). -/
structure KvAppIn where
  f     : KvForm
  toks  : List KvPutTok
  fills : AMap Nat Nat
  ks    : List FV
  vs    : List FV

/-- The checks and reads of KVAPP (R188). -/
def kvappRead (e : Enc) (k : Nat) : Ex KvAppIn := do
  let kd ← descAt k e.a
  let vd ← descAt k e.d
  let pd ← descAt k e.b
  let ld ← descAt k e.c
  let ring := flag e.x0 36
  let f : KvForm := { kvf := e.kvfmt, dh := kd.dim 0, hkv := kd.dim 1 }
  let fm := [0x09, 0x0A, 0x0B]
  let ok := (← get).tablePtr k pd && headTensor kd fm && headTensor vd fm && kd.dims == vd.dims && decide (f.hkv ≤ 64) && tableDesc ld && e.window == 0 && e.nglob == 0 && !e.causal && e.x1 == 0
  checks [(!ok, ILLEGAL_OPERAND), (kd.touchesAlias || vd.touchesAlias || ld.touchesAlias, ACCESS)]
  kvHeader k
  let es ← lenTable k ld
  need (lenOk es (kd.dim 2) ring) ILLEGAL_OPERAND
  let x ← ctxOf k
  let (toks, fills) ← es.foldlM (fun (acc : List KvPutTok × AMap Nat Nat) en => do
    if en.kvlen = 0 ∨ en.qlen = 0 then pure acc
    else do
      let pl ← pageList k en
      let used := ((List.range en.qlen).map fun i => pl.getD (en.slot ring (en.kvlen - en.qlen + i)) 0).eraseDups
      let fs ← used.foldlM (fun (fs : AMap Nat Nat) p => do
        let q ← kvLook k p
        need (usablePage x (k / 2) p q && heldRef x p q.ref == 1 && q.form == f) ILLEGAL_OPERAND
        return if (fs.look p).isSome then fs else fs.set p (heldFill x p q.fill)) acc.2
      match planTokens ring en pl fs (List.range en.qlen) with
      | none => raise ILLEGAL_OPERAND
      | some (ts, fs) => return (acc.1 ++ ts, fs)) (([], []) : List KvPutTok × AMap Nat Nat)
  let ks ← readF32 k kd
  let vs ← readF32 k vd
  pure { f := f, toks := toks, fills := fills, ks := ks, vs := vs }

/-- A write of KVAPP: work unit, key, bytes, page. -/
abbrev KvWrite := Nat × Nat × List Byte × Nat

/-- The quantised vectors of every token and head as writes, with the saturation and NaN of each head (R188). -/
def kvappCells (k : Nat) (a : KvAppIn) : Ex (List (List KvWrite × Bool × Bool)) := do
  let ks := a.ks.toArray
  let vs := a.vs.toArray
  let per := a.f.hkv * a.f.dh
  let cells ← a.toks.mapM fun t => do
    let q := (← get).kvEnt (k / 2) t.page
    let base ← frameKey k q.frm a.f.bytes
    return (List.range a.f.hkv).map fun h =>
      let vec := fun (v : Array FV) => (List.range a.f.dh).map fun d => v.getD (t.row * per + h * a.f.dh + d) FV.zero
      let (kb, ksc, s1, n1) := quantVec a.f.kvf (vec ks)
      let (vb, vsc, s2, n2) := quantVec a.f.kvf (vec vs)
      let at' := fun (g : Nat × Nat) => base + g.1 + (h * 256 + t.tok) * g.2
      let ws := (a.f.regions.zip [kb, vb, ksc, vsc]).map fun (r : (Nat × Nat) × List Byte) => (t.unit, at' r.1, r.2, t.page)
      (ws, s1 || s2, n1 || n2)
  return cells.flatten

/-- Write vectors in order, those of the block's own frames directly; a trap names the blocks written before it. -/
def kvWrites (k : Nat) (held : Nat → Bool) : List KvWrite → (done : List Nat) → Ex Unit
  | [], _ => pure ()
  | w :: ws, done => fun c => match (if held w.2.2.2 then wrReserved k w.1 w.2.1 w.2.2.1 else wrPiece k w.1 w.2.1 w.2.2.1) c with
    | .ok ((), c') => kvWrites k held ws (done ++ blocksOf w.2.1 w.2.2.1.length) c'
    | .error t => .error { t with wrote := done }

/-- Write the vectors by work unit and address (a failure stops them as R126 says, R193), tag their blocks, and hold or set each page's FILL (R188, R194). -/
def kvappStore (k : Nat) (a : KvAppIn) (writes : List KvWrite) : Ex Unit := do
  let x ← ctxOf k
  let ordered := sortBy (fun w => w.1 * 2 ^ 48 + w.2.1) writes
  let held := fun p => (x.chk.map fun b => b.holds (k / 2) p).getD false
  moveStop k (kvWrites k held ordered []) fun t _ => (t.chip.mem, t.wrote)
  tagKeys k (sortBy id ((ordered.map fun w => blocksOf w.2.1 w.2.2.1.length).flatten.eraseDups))
  (a.fills.map Prod.fst).forM fun p =>
    if x.chk.isSome then hold k 0x51 0 [BitVec.ofNat 64 p, BitVec.ofNat 64 (a.fills.get p 0)]
    else modify fun c => c.kvFld (k / 2) p 1 24 16 (a.fills.get p 0)

/-- KVAPP (R188). -/
def kvappBody (e : Enc) (k : Nat) : Ex Unit := do
  let a ← kvappRead e k
  let all ← kvappCells k a
  kvappStore k a (all.map fun c => c.1).flatten
  finishFlags k e.spA { sat := all.any fun c => c.2.1, nan := all.any fun c => c.2.2 }

/-! ## ATTN -/

/-- Token `t` is enabled for the row at `qpos` (R190). `low` is the lowest kept token of a ring. -/
def enabledTok (window : Nat) (causal sparse : Bool) (glist : List Nat) (kvlen low qpos t : Nat) : Bool :=
  decide (t < kvlen) && decide (low ≤ t)
    && (window == 0 || decide ((qpos : Int) - t < window) || (sparse && glist.contains t)) && (!causal || decide (t ≤ qpos))

/-- The lowest token that an entry's list still holds (R190). -/
def LenEnt.low (e : LenEnt) (ring : Bool) : Nat := if ring then ((e.kvlen + 255) / 256 - e.npg) * 256 else 0

/-- Dequantised head vector: elements and their scales (R175). -/
structure HeadVec where
  els : List Int
  scl : List FV
deriving DecidableEq, Repr

/-- One output row and head (R191): values, and whether it took an EMPTY branch, and whether a NaN arose. -/
def attnHead (q : List FV) (qscale : FV) (toks : List Nat) (ks vs : Nat → HeadVec) : List FV × Bool :=
  let dh := q.length
  let dot := fun (t : Nat) =>
    let v := ks t
    (List.range (dh / 32)).foldl (fun acc b =>
      let part := (List.range 32).foldl (fun s d => s.add ((q.getD (32 * b + d) FV.zero).mul (FV.ofInt (v.els.getD (32 * b + d) 0)))) FV.zero
      r32 (acc.add ((v.scl.getD b FV.zero).mul part))) FV.zero
  let logits := toks.map fun t => r32 ((dot t).mul qscale)
  if toks.isEmpty then (List.replicate dh FV.zero, true)
  else if logits.any fun l => l == .nan then (List.replicate dh .nan, false)
  else
    let m := logits.foldl (fun a l => if a.lt l then l else a) (.inf true)
    match m with
    | .inf false => (List.replicate dh .nan, false)
    | .inf true => (List.replicate dh FV.zero, true)
    | _ =>
      let w := logits.map fun l => f32 (exp32 (r32 (l.sub m)))
      let l := w.foldl (fun a x => r32 (a.add x)) FV.zero
      let out := (List.range dh).map fun d =>
        let a := (toks.zip w).foldl (fun a q =>
          let v := vs q.1
          r32 (a.add (r32 (q.2.mul ((v.scl.getD (d / 32) FV.zero).mul (FV.ofInt (v.els.getD d 0))))))) FV.zero
        f32 (div32 a l)
      (out, false)

/-- A page as an ATTN uses it: its frame key and whether the block holds it RESERVED. -/
structure KvPage where
  key  : Nat
  resv : Bool
deriving DecidableEq, Repr

/-- Bytes of a token's head vector in a region, as the running pass sees them (R194). -/
def kvBytes (k : Nat) (g : KvPage) (off n : Nat) : Ex (List Byte) := do
  if g.resv then do
    senseEx (g.key + off) n
    return (← get).bytesAt (g.key + off) n
  else do
    let key ← rdKey k (g.key + off)
    return (← get).bytesAt key n

/-- Read a token's K and V vectors of a head. -/
def kvVec (k : Nat) (f : KvForm) (g : KvPage) (h m : Nat) : Ex (HeadVec × HeadVec) := do
  let w := if f.kvf = 0 then 8 else 4
  let els := fun (bs : List Byte) => (List.range f.dh).map fun d => sgn w (elemOf w bs d)
  let scl := fun (bs : List Byte) => (List.range (f.dh / 32)).map fun b => ffF16.dec (leNat ((bs.drop (2 * b)).take 2))
  let get' := fun (i : Nat) => do
    let r := f.regions.getD i (0, 0)
    kvBytes k g (r.1 + (h * 256 + m) * r.2) r.2
  return ({ els := els (← get' 0), scl := scl (← get' 2) }, { els := els (← get' 1), scl := scl (← get' 3) })

/-- Sense and verify the blocks that an entry's enabled tokens use (R38, R125). -/
def kvVerify (k : Nat) (f : KvForm) (uses : List (KvPage × Nat)) : Ex Unit := do
  let x ← ctxOf k
  let blks := ((uses.filter fun u => !u.1.resv).map fun u => (f.regions.map fun r => (List.range f.hkv).map fun h => blocksOf (u.1.key + r.1 + (h * 256 + u.2) * r.2) r.2).flatten.flatten).flatten.eraseDups
  blks.forM fun b => match x.chk.bind fun q => q.pageOf b with
    | some _ => pure ()
    | none => do senseEx (b * 4096) 4096; verify (x.execStb k) b

/-- The global positions of ATTN.SPARSE (R189). -/
def globList (k : Nat) (sparse : Bool) (e : Enc) : Ex (List Nat) :=
  if sparse then do
    let bs ← rd k e.glist (4 * e.nglob)
    return (List.range e.nglob).map fun i => leNat ((bs.drop (4 * i)).take 4)
  else pure []

/-- What an ATTN finds before it computes (R189): its form, output, status address, entries, global positions, and the pages of each
    entry that has work, as (page of the sequence, frame). -/
structure AttnIn where
  ring  : Bool
  g     : Nat
  f     : KvForm
  qd    : Desc
  od    : Desc
  st    : Nat
  es    : List LenEnt
  glist : List Nat
  pages : List (LenEnt × List (Nat × KvPage))

/-- Rows of the query. -/
def AttnIn.rows (a : AttnIn) : Nat := a.qd.dim 2
/-- Elements of a row of the query. -/
def AttnIn.per (a : AttnIn) : Nat := a.qd.dim 1 * a.f.dh

/-- The checks and table reads of ATTN (R189, R190). -/
def attnRead (sub : Nat) (e : Enc) (k : Nat) : Ex AttnIn := do
  let qd ← descAt k e.a
  let od ← descAt k e.d
  let pd ← descAt k e.b
  let ld ← descAt k e.c
  let st := (← getS k e.saA).toNat
  let ring := sub == 1
  let sparse := sub == 2
  let g := fld e.x0 38 36
  let f : KvForm := { kvf := e.kvfmt, dh := qd.dim 0, hkv := qd.dim 1 / 2 ^ g }
  let rows := qd.dim 2
  let glistOk := if sparse then within 1 65535 e.window && within 1 16 e.nglob && decide (0x800000000000 ≤ e.glist) && e.glist % 32 == 0
    else e.nglob == 0 && e.glist == 0
  let c ← get
  let shape := c.tablePtr k pd && headTensor qd [0x07, 0x09, 0x0A] && od.usable && od.dims == qd.dims && within 9 11 od.fmt && decide (g ≤ 4) && qd.dim 1 == f.hkv * 2 ^ g && within 1 64 f.hkv && tableDesc ld && glistOk
  let gl := if sparse then [(e.glist, 4 * e.nglob)] else []
  let stLocal := st == 0 || (decide (0x800000000000 ≤ st) && decide (st + rows ≤ aliasLo))
  let apart := fun (a n : Nat) => !c.overlap k od.base od.span a n
  let stApart := st == 0 || ([(od.base, od.span), (qd.base, qd.span), (ld.base, ld.span), (pd.base, pd.span)] ++ gl).all fun r => !c.overlap k st rows r.1 r.2
  checks [ (!(shape && apart qd.base qd.span && apart ld.base ld.span && apart pd.base pd.span && (gl.all fun r => apart r.1 r.2) && stApart), ILLEGAL_OPERAND),
    (!stLocal || qd.touchesAlias || od.touchesAlias || ld.touchesAlias, ACCESS) ]
  kvHeader k
  let es ← lenTable k ld
  need (lenOk es rows ring) ILLEGAL_OPERAND
  let glist ← globList k sparse e
  let x ← ctxOf k
  let work := es.filter fun en => en.kvlen != 0 && en.qlen != 0
  let pages ← work.mapM fun en => do
    let pl ← pageList k en
    need (apart en.list (2 * en.npg) && (st == 0 || !c.overlap k st rows en.list (2 * en.npg))) ILLEGAL_OPERAND
    let slots := ((List.range ((en.kvlen + 255) / 256)).filter fun j => decide (en.low ring ≤ j * 256)).map fun j => (j, pl.getD (en.slot ring (j * 256)) 0)
    let got ← slots.mapM fun s => do
      let q ← kvLook k s.2
      let fill := heldFill x s.2 q.fill
      let need' := min 256 (en.kvlen - s.1 * 256)
      need (usablePage x (k / 2) s.2 q && q.form == f && decide (need' ≤ fill)) ILLEGAL_OPERAND
      let key ← frameKey k q.frm f.bytes
      need (apart q.frm f.bytes) ILLEGAL_OPERAND
      return (s.1, ({ key := key, resv := q.st == 2 } : KvPage))
    return (en, got)
  pure { ring := ring, g := g, f := f, qd := qd, od := od, st := st, es := es, glist := glist, pages := pages }

/-- An output row: its number, work unit, values, and whether a head took an EMPTY branch. -/
structure AttnRow where
  row   : Nat
  unit  : Nat
  vals  : List FV
  empty : Bool

/-- The output rows: each head of each row over its enabled tokens (R190, R191). -/
def attnRows (sub : Nat) (e : Enc) (k : Nat) (a : AttnIn) : Ex (List AttnRow) := do
  let qs := (← readF32 k a.qd).toArray
  let zv : HeadVec × HeadVec := ({ els := [], scl := [] }, { els := [], scl := [] })
  let results ← a.pages.mapM fun eg => do
    let en := eg.1
    let page := fun t => ((eg.2.find? fun s => s.1 == t / 256).map Prod.snd).getD { key := 0, resv := true }
    let on := fun i t => enabledTok e.window e.causal (sub == 2) a.glist en.kvlen (en.low a.ring) (en.kvlen - en.qlen + i) t
    let any := (List.range en.kvlen).filter fun t => (List.range en.qlen).any fun i => on i t
    kvVerify k a.f (any.map fun t => (page t, t % 256))
    let vecs ← (List.range a.f.hkv).mapM fun h => do return (← any.mapM fun t => kvVec k a.f (page t) h (t % 256)).toArray
    let pos := fun t => (any.findIdx? (· == t)).getD 0
    return (List.range en.qlen).map fun i =>
      let row := en.qstart + i
      let toks := (List.range en.kvlen).filter (on i)
      let heads := (List.range (a.qd.dim 1)).map fun hq =>
        let kv := vecs.getD (hq / 2 ^ a.g) #[]
        let q := (List.range a.f.dh).map fun d => qs.getD (row * a.per + hq * a.f.dh + d) FV.zero
        attnHead q (f32 e.prm) toks (fun t => (kv.getD (pos t) zv).1) (fun t => (kv.getD (pos t) zv).2)
      ({ row := row, unit := en.unit + i / 32, vals := (heads.map Prod.fst).flatten, empty := heads.any Prod.snd } : AttnRow)
  return results.flatten

/-- The computed row with a number. -/
def attnRowAt (rs : List AttnRow) (r : Nat) : Option AttnRow := rs.find? fun q => q.row == r

/-- The values of the output in linear order: rows that no entry names are not written (R189). -/
def AttnIn.vals (a : AttnIn) (rs : List AttnRow) : List (Option FV) :=
  ((List.range a.rows).map fun r => match attnRowAt rs r with
    | some q => q.vals.map some
    | none => List.replicate a.per none).flatten

/-- Work unit of a linear element of the output. -/
def AttnIn.unit (a : AttnIn) (rs : List AttnRow) (i : Nat) : Nat := ((attnRowAt rs (i / a.per)).map AttnRow.unit).getD 0

/-- Status bytes of the rows that the entries name: 2 for an empty sequence, 1 for an EMPTY branch, 4 for a NaN (R192). -/
def AttnIn.status (a : AttnIn) (rs : List AttnRow) : List (Nat × Nat) :=
  (a.es.map fun en => if en.kvlen = 0 ∨ en.qlen ≠ 0 then (List.range en.qlen).map fun i =>
    (en.qstart + i, if en.kvlen = 0 then 2 else match attnRowAt rs (en.qstart + i) with
      | some q => b2n q.empty + 4 * b2n (q.vals.any fun v => v == .nan)
      | none => 0) else []).flatten

/-- The events of an ATTN in the counters, its flagged count and P[SP] (R71, R192). -/
def Chip.attnFlags (c : Chip) (k sp : Nat) (sat : Bool) (rs : List AttnRow) (flagged : Bool) : Chip :=
  let c := c.countFlags k { sat := sat, nan := rs.any fun q => q.vals.any fun v => v == .nan, mask := rs.any AttnRow.empty }
  let c := if flagged && c.countsNow k then c.bump (stbK (k / 2) 0x80) else c
  c.updCtx k fun x => x.wp sp flagged

/-- The blocks that output rows lie in. -/
def AttnIn.blocks (a : AttnIn) (c : Chip) (k : Nat) (rs : List AttnRow) : List Nat :=
  (rs.map fun q => ((List.range (a.od.dim 1)).map fun h => ((c.xlate k (a.od.rowAddr (q.row * a.od.dim 1 + h)) a.od.rowBytes true).getD []).map fun p => p.1 / 4096).flatten).flatten.eraseDups

/-- The rows of the sequences before the first that cannot be read. -/
def attnPrefix (sub : Nat) (e : Enc) (k : Nat) (a : AttnIn) (c : Chip) : List AttnRow :=
  ((List.range a.pages.length).reverse.findSome? fun n => match attnRows sub e k { a with pages := a.pages.take n } c with
    | .ok (rs, _) => some rs
    | .error _ => none).getD []

/-- What memory holds when the compute phase stops: the rows of the sequences before the failing one (log 77). -/
def attnLeft (sub : Nat) (e : Enc) (k : Nat) (a : AttnIn) (c : Chip) : MemSt × List Nat :=
  let rs := attnPrefix sub e k a c
  match writeTensor k a.od (a.vals rs) false 0 (a.unit rs) c with
  | .ok (_, c') => (c'.mem, a.blocks c k rs)
  | .error t => (t.chip.mem, t.wrote)

/-- ATTN, ATTN.RING and ATTN.SPARSE (R189-R193). -/
def attnBody (sub : Nat) (e : Enc) (k : Nat) : Ex Unit := do
  let a ← attnRead sub e k
  let rs ← moveStop k (attnRows sub e k a) fun _ c => attnLeft sub e k a c
  let fl ← moveStop k (writeTensor k a.od (a.vals rs) false 0 (a.unit rs)) fun t _ => (t.chip.mem, t.wrote)
  moveStop k (if a.st = 0 then pure () else (a.status rs).forM fun q => wr k 0 (a.st + q.1) [BitVec.ofNat 8 q.2]) fun t c => (t.chip.mem, a.blocks c k rs)
  modify fun c => c.attnFlags k e.spA fl.sat rs ((a.status rs).any fun q => q.2 != 0)

end Sys2Proof.Machine
end

