-- ==== Sys2Proof/Machine/Exact.lean ====
section
/-! DEFINITION. Exact geometry on FP32 values (R197-R199, R210, R211): points, primitive distances, decisions with square roots, and the two roundings that a report needs. -/

namespace Sys2Proof.Machine

/-- The exact value of a finite number. -/
def FV.rat : FV → Option Rat
  | .fin s m e =>
    let q : Rat := if e ≥ 0 then ((m * 2 ^ e.toNat : Nat) : Int) else mkRat m (2 ^ (-e).toNat)
    some (if s then -q else q)
  | _ => none

/-- The exact value of an FP32 pattern. -/
def rat32 (v : Nat) : Option Rat := (f32 v).rat

/-- A point or a vector. -/
structure V3 where
  x : Rat
  y : Rat
  z : Rat
deriving DecidableEq

/-- Difference. -/
def V3.sub (a b : V3) : V3 := { x := a.x - b.x, y := a.y - b.y, z := a.z - b.z }
/-- Sum. -/
def V3.add (a b : V3) : V3 := { x := a.x + b.x, y := a.y + b.y, z := a.z + b.z }
/-- Multiple. -/
def V3.smul (k : Rat) (a : V3) : V3 := { x := k * a.x, y := k * a.y, z := k * a.z }
/-- Inner product. -/
def V3.dot (a b : V3) : Rat := a.x * b.x + a.y * b.y + a.z * b.z
/-- Cross product. -/
def V3.cross (a b : V3) : V3 := { x := a.y * b.z - a.z * b.y, y := a.z * b.x - a.x * b.z, z := a.x * b.y - a.y * b.x }
/-- Squared length. -/
def V3.sq (a : V3) : Rat := a.dot a

/-- Clamp. -/
def clampQ (x lo hi : Rat) : Rat := if x < lo then lo else if hi < x then hi else x

/-- A closed box. -/
structure Box where
  lo : V3
  hi : V3
deriving DecidableEq

/-- The smallest box around two. -/
def Box.join (a b : Box) : Box :=
  { lo := { x := min a.lo.x b.lo.x, y := min a.lo.y b.lo.y, z := min a.lo.z b.lo.z },
    hi := { x := max a.hi.x b.hi.x, y := max a.hi.y b.hi.y, z := max a.hi.z b.hi.z } }

/-- Squared distance from a point to a box. -/
def Box.dist2 (b : Box) (q : V3) : Rat :=
  (q.sub { x := clampQ q.x b.lo.x b.hi.x, y := clampQ q.y b.lo.y b.hi.y, z := clampQ q.z b.lo.z b.hi.z }).sq

/-- Squared distance from a point to a segment. -/
def segDist2 (q a b : V3) : Rat :=
  let d := b.sub a
  if d.sq = 0 then (q.sub a).sq
  else
    let t := clampQ ((q.sub a).dot d / d.sq) 0 1
    (q.sub (a.add (d.smul t))).sq

/-- Squared distance from a point to a closed triangle. -/
def triDist2 (q a b c : V3) : Rat :=
  let n := (b.sub a).cross (c.sub a)
  let edge := min (segDist2 q a b) (min (segDist2 q b c) (segDist2 q c a))
  if n.sq = 0 then edge
  else
    let side := fun (u v : V3) => ((v.sub u).cross (q.sub u)).dot n
    if 0 ≤ side a b ∧ 0 ≤ side b c ∧ 0 ≤ side c a then let h := n.dot (q.sub a); h * h / n.sq else edge

/-- sqrt(a) ≤ s + sqrt(q), decided exactly, for a, q ≥ 0. -/
def sqrtLe (a s q : Rat) : Bool :=
  if 0 ≤ s then let l := a - s * s - q; decide (l ≤ 0) || decide (l * l ≤ 4 * s * s * q)
  else let l := q - a - s * s; decide (0 ≤ l) && decide (4 * s * s * a ≤ l * l)

/-! ## Primitives (R198, R199) -/

/-- A primitive as its record gives it. -/
structure Prim where
  typ : Nat
  obj : Nat
  v   : List Nat
deriving DecidableEq, Repr

/-- Values that a type uses. -/
def primUsed (typ : Nat) : Nat := match typ with
  | 1 => 6 | 2 => 15 | 3 => 4 | 4 => 9 | _ => 0

/-- A record: its type, its object and its values; refused where a reserved type or field shows (R198). -/
def primOf (bs : List Byte) : Option Prim :=
  let w := fun i => leNat ((bs.drop (4 * i)).take 4)
  let typ := w 0 % 16
  let v := (List.range 15).map fun i => w (i + 1)
  if (typ = 1 ∨ typ = 2 ∨ typ = 3 ∨ typ = 4) ∧ bits (w 0) 7 4 = 0 ∧ (v.drop (primUsed typ)).all (· == 0) then some { typ := typ, obj := w 0 / 256, v := v } else none

/-- The 64 bytes of a record. -/
def Prim.bytes (p : Prim) : List Byte := leBytes 4 (p.typ + p.obj * 256) ++ (p.v.map fun x => leBytes 4 x).flatten

/-- A value as a rational; a non-finite one makes the test INVALID (R199). -/
def Prim.q (p : Prim) (i : Nat) : Option Rat := rat32 (p.v.getD i 0)

/-- Three values as a point. -/
def Prim.pt (p : Prim) (i : Nat) : Option V3 := do return { x := ← p.q i, y := ← p.q (i + 1), z := ← p.q (i + 2) }

/-- The exact distance of a point to a primitive as sqrt(A) - R cut at 0, given as (A, R); none is INVALID (R198, R199). -/
def Prim.dist (p : Prim) (q : V3) : Option (Rat × Rat) := match p.typ with
  | 1 => do
    let lo ← p.pt 0
    let hi ← p.pt 3
    if lo.x ≤ hi.x ∧ lo.y ≤ hi.y ∧ lo.z ≤ hi.z then some (Box.dist2 { lo := lo, hi := hi } q, 0) else none
  | 2 => do
    let c ← p.pt 0
    let h ← p.pt 3
    let u0 ← p.pt 6
    let u1 ← p.pt 9
    let u2 ← p.pt 12
    let d := q.sub c
    let e := fun (u : V3) (h : Rat) => let t := d.dot u; let r := t - clampQ t (-h) h; r * r
    if 0 ≤ h.x ∧ 0 ≤ h.y ∧ 0 ≤ h.z then some (e u0 h.x + e u1 h.y + e u2 h.z, 0) else none
  | 3 => do
    let c ← p.pt 0
    let r ← p.q 3
    if 0 ≤ r then some ((q.sub c).sq, r) else none
  | _ => do return (triDist2 q (← p.pt 0) (← p.pt 3) (← p.pt 6), 0)

/-- The exact bounds of a primitive; none where R199 holds of it. -/
def Prim.box (p : Prim) : Option Box := match p.typ with
  | 1 => do
    let lo ← p.pt 0
    let hi ← p.pt 3
    if lo.x ≤ hi.x ∧ lo.y ≤ hi.y ∧ lo.z ≤ hi.z then some { lo := lo, hi := hi } else none
  | 2 => do
    let c ← p.pt 0
    let h ← p.pt 3
    let u0 ← p.pt 6
    let u1 ← p.pt 9
    let u2 ← p.pt 12
    let ab := fun (x : Rat) => if x < 0 then -x else x
    let ext := fun (f : V3 → Rat) => h.x * ab (f u0) + h.y * ab (f u1) + h.z * ab (f u2)
    let e : V3 := { x := ext V3.x, y := ext V3.y, z := ext V3.z }
    if 0 ≤ h.x ∧ 0 ≤ h.y ∧ 0 ≤ h.z then some { lo := c.sub e, hi := c.add e } else none
  | 3 => do
    let c ← p.pt 0
    let r ← p.q 3
    let e : V3 := { x := r, y := r, z := r }
    if 0 ≤ r then some { lo := c.sub e, hi := c.add e } else none
  | _ => do
    let a ← p.pt 0
    let b ← p.pt 3
    let c ← p.pt 6
    return (({ lo := a, hi := a } : Box).join { lo := b, hi := b }).join { lo := c, hi := c }

/-- The axes of an OBB are orthonormal within 2^-20 in every norm and inner product (R198, R212). -/
def Prim.ortho (p : Prim) : Bool :=
  if p.typ ≠ 2 then true else
    match p.pt 6, p.pt 9, p.pt 12 with
    | some a, some b, some c =>
      let eps : Rat := mkRat 1 (2 ^ 20)
      let nrm := fun (u : V3) => decide ((1 - eps) * (1 - eps) ≤ u.sq) && decide (u.sq ≤ (1 + eps) * (1 + eps))
      let dt := fun (u v : V3) => decide (-eps ≤ u.dot v) && decide (u.dot v ≤ eps)
      nrm a && nrm b && nrm c && dt a b && dt b c && dt a c
    | _, _, _ => false

/-! ## Roundings -/

/-- FP32 nearest even of an exact value. -/
def rne32Rat (x : Rat) : Nat := (ffF32.rneFrac (decide (x < 0)) x.num.natAbs x.den).1

/-- FP32 towards minus infinity (R212). -/
def down32 (x : Rat) : Nat :=
  let (c, r, _) := cutCode ffF32 x.num.natAbs x.den
  if 0 ≤ x then min c 0x7F7FFFFF else 2 ^ 31 + (if r = 0 then c else c + 1)

/-- FP32 towards plus infinity (R212). -/
def up32 (x : Rat) : Nat :=
  let (c, r, _) := cutCode ffF32 x.num.natAbs x.den
  if 0 ≤ x then (if r = 0 then c else c + 1) else 2 ^ 31 + min c 0x7F7FFFFF

/-- FP32 nearest even of max(0, sqrt(a) - r) - s (R198). -/
def clear32 (a r s : Rat) : Nat :=
  if sqrtLe a r 0 then rne32Rat (-s)
  else
    let K := 160
    let n := a.num.natAbs * 4 ^ K
    let f := isqrt (n / a.den)
    let inexact := decide (f * f * a.den ≠ n)
    rne32Rat (mkRat (2 * f + (if inexact then 1 else 0) : Nat) (2 ^ (K + 1)) - r - s)

/-- sqrt(a) - r ≤ sqrt(b) - s, each cut at 0. -/
def distLe (x y : Rat × Rat) : Bool :=
  if sqrtLe x.1 x.2 0 then true
  else if sqrtLe y.1 y.2 0 then false
  else sqrtLe x.1 (x.2 - y.2) y.1

end Sys2Proof.Machine
end

