-- ==== Sys2Proof/Machine/Geometry.lean ====
section
/-! DEFINITION. Geometry queries: scenes, slots and dynamic sets as instructions read them (R200, R201, R207), traversal, the result rows (R209), GTEST, GTRAV and GSWEEP with re-validation (R210, R211, R216). -/

namespace Sys2Proof

open Machine

/-- SA of format G. -/
def Enc.saG (e : Enc) : Nat := fld e.body 24 20
/-- TFIRST of GOW. -/
def Enc.tfirst (e : Enc) : Nat := fld e.x0 63 48
/-- NT of GOW. -/
def Enc.nt (e : Enc) : Nat := fld e.x0 47 32

end Sys2Proof

namespace Sys2Proof.Machine

/-- TFIRST and NT of GOW as a mask. -/
def fWindow : Nat := maskOf 63 32

/-- GTEST (OPC 0x60): no S operand and no window. -/
def dGtest (sub : Nat) : IDesc := { opc := 0x60, sub := sub, fmt := .G, rsvB := fC, rsv0 := fWindow }
/-- GTRAV (OPC 0x61): no TDB; PARAM holds SP. -/
def dGtrav (sub : Nat) : IDesc := { opc := 0x61, sub := sub, fmt := .G, rsvB := fB, rsv0 := maskOf 31 4 }
/-- GSWEEP (OPC 0x62): SUB names EDGE or ARTIC; PARAM bit REVAL (bit 4 of the extension word) is read by the body. -/
def dGsweep (sub : Nat) : IDesc :=
  { opc := 0x62, sub := sub, fmt := .G, rsv0 := maskOf 31 5, ok := fun _ => sub ≤ 1 }

/-! ## Scenes and sets -/

/-- A header of a scene (R200). -/
structure SceneHdr where
  addr   : Nat
  epoch  : Nat
  nprim  : Nat
  nnode  : Nat
  root   : Nat
  pbase  : Nat
  nbase  : Nat
  margin : Nat
  near   : Nat
  dbase  : Nat
  dpbase : Nat
  dcount : Nat
  dfirst : Nat
  dpcount : Nat
deriving DecidableEq, Repr

/-- Fields of a header's 256 bytes. -/
def sceneHdr (a : Nat) (bs : List Byte) : SceneHdr :=
  let w := fun i n => leNat ((bs.drop i).take n)
  { addr := a, epoch := w 0 4, nprim := w 4 4, nnode := w 8 4, root := w 12 4, pbase := w 16 8, nbase := w 24 8, margin := w 0x38 4, near := w 0x3C 4,
    dbase := w 0x40 8, dpbase := w 0x48 8, dcount := w 0x50 4, dfirst := w 0x54 4, dpcount := w 0x58 4 }

/-- Reserved parts of a header are zero: bytes from 0x5C, and bits [63:48] of every base (R200). -/
def hdrClean (bs : List Byte) : Bool :=
  (bs.drop 0x5C).all (· == 0) && [16, 24, 0x40, 0x48].all fun i => (bs.drop (i + 6)).take 2 == [0, 0]

/-- The slot's header address and epoch as the instruction resolves it (R201). -/
def sceneSlot (k slot : Nat) : Ex (Nat × Nat) := do
  let c ← get
  let x := c.ctx k
  let (a, ep, ok) := match x.blk with
    | some b => b.scenes.getD slot (0, 0, false)
    | none => let q := (c.part x.part).scenes.get slot {}; (q.addr, q.epoch, q.valid)
  need ok ILLEGAL_OPERAND
  pure (a, ep)

/-- The tree arrays a traversal uses: nodes and primitives by global index (R200, R207). -/
structure Tree where
  nbase : Nat
  nnode : Nat
  pbase : Nat
  nprim : Nat
deriving DecidableEq, Repr

/-- Read a primitive record; a reserved type or field raises ILLEGAL_OPERAND (R198). -/
def readPrim (k base i : Nat) : Ex Prim := do
  match primOf (← rdPol k true (base + 64 * i) 64) with
  | some p => pure p
  | none => raise ILLEGAL_OPERAND

/-- A query ball: centre and radius s + sqrt(q); none where a value makes the test INVALID (R199). -/
structure Ball where
  c : V3
  s : Rat
  q : Rat
deriving DecidableEq

/-- The ball meets a set at distance sqrt(A) - R. -/
def Ball.hits (b : Ball) (d : Rat × Rat) : Bool := sqrtLe d.1 (b.s + d.2) b.q

/-- What a search has found. `near` extends the reach of NEAREST beyond the radius. -/
structure Found where
  words : List Nat := []
  inv   : Bool := false
  best  : Option ((Rat × Rat) × Nat) := none
  stop  : Bool := false
deriving DecidableEq

/-- Forms of a search: stop at the first hit, and the extra reach for NEAREST. -/
structure Search where
  any  : Bool := false
  near : Option Rat := none

/-- The word that stands in a search for the INVALID forecast of a slice (R208): one of its own, since each is a hit. -/
def invSlice (i : Nat) : Nat := 2 ^ 32 + i

/-- PRIM of a found word (R209). -/
def primWord (w : Nat) : Nat := if 2 ^ 32 ≤ w then 0xFFFFFFFE else w

/-- The order of found words at one distance: static primitives, then the lower slice, whose INVALID forecast comes first, then the lower
    index (R209). -/
def primRank (w : Nat) : Nat := if 2 ^ 32 ≤ w then 2 ^ 31 + (w - 2 ^ 32) % 2048 * 2 ^ 21 else if 2 ^ 31 ≤ w then 2 ^ 31 + 2 * (w - 2 ^ 31) + 1 else w

/-- PRIM of the first found word. -/
def Found.first (f : Found) : Nat := (f.words.head?.map primWord).getD 0xFFFFFFFF

/-- PRIM of the lowest found word. -/
def Found.least (f : Found) : Nat := (f.words.map primWord).foldl min 0xFFFFFFFF

/-- Take a primitive into account for one ball: its word, and its distance or INVALID (R199, R210). -/
def Found.see1 (f : Found) (s : Search) (b : Option Ball) (w : Nat) (d : V3 → Option (Rat × Rat)) : Found :=
  let hitAt := fun (dist : Rat × Rat) (hit inv reach : Bool) =>
    let words := if hit && !f.words.contains w then f.words ++ [w] else f.words
    let best := if s.near.isSome && reach then (match f.best with
      | none => some (dist, w)
      | some (d0, w0) => if distLe d0 dist then (if distLe dist d0 && primRank w < primRank w0 then some (dist, w) else some (d0, w0)) else some (dist, w)) else f.best
    { words := words, inv := f.inv || inv, best := best, stop := f.stop || (s.any && hit) }
  match b with
  | none => hitAt (0, 0) true true true
  | some b => match d b.c with
    | none => hitAt (0, 0) true true true
    | some dist => hitAt dist (b.hits dist) false (({ b with s := b.s + s.near.getD 0 } : Ball).hits dist)

/-- A primitive meets a packet of balls, taken in order. -/
def Found.see (f : Found) (s : Search) (bs : List (Option Ball)) (w : Nat) (d : V3 → Option (Rat × Rat)) : Found := bs.foldl (fun f b => f.see1 s b w d) f

/-- Whether a child's box is entered by a ball; a box that R199 makes INVALID is. -/
def boxEnter1 (s : Search) (b : Option Ball) (bs : List Byte) : Bool :=
  match b with
  | none => true
  | some b =>
    let p : Prim := { typ := 1, obj := 0, v := (List.range 6).map fun i => leNat ((bs.drop (4 * i)).take 4) }
    match p.dist b.c with
    | none => true
    | some d => ({ b with s := b.s + s.near.getD 0 } : Ball).hits d

/-- Whether any ball of a packet enters a box. -/
def boxEnter (s : Search) (bs : List (Option Ball)) (x : List Byte) : Bool := bs.any fun b => boxEnter1 s b x

/-- Traverse from a reference with a packet of balls, depth-first, child 0 before child 1 (R200). -/
def traverse (k : Nat) (t : Tree) (s : Search) (b : List (Option Ball)) (word : Nat → Nat) : (depth : Nat) → Nat → Found → Ex Found
  | 0, _, _ => raise ILLEGAL_OPERAND
  | n + 1, ref, f => do
    if f.stop ∨ ref = 0xFFFFFFFF then pure f
    else if bit ref 31 then do
      let first := bits ref 23 0
      let count := bits ref 26 24 + 1
      need (bits ref 30 27 == 0 && decide (first + count ≤ t.nprim)) ILLEGAL_OPERAND
      (List.range count).foldlM (fun f i => do
        if f.stop then pure f
        else
          let p ← readPrim k t.pbase (first + i)
          pure (f.see s b (word (first + i)) p.dist)) f
    else do
      need (bits ref 30 24 == 0 && decide (bits ref 23 0 < t.nnode)) ILLEGAL_OPERAND
      let bs ← rdPol k true (t.nbase + 64 * bits ref 23 0) 64
      let r0 := leNat ((bs.drop 0x30).take 4)
      let r1 := leNat ((bs.drop 0x34).take 4)
      let f ← if r0 ≠ 0xFFFFFFFF ∧ boxEnter s b bs then traverse k t s b word n r0 f else pure f
      if r1 ≠ 0xFFFFFFFF ∧ boxEnter s b (bs.drop 24) then traverse k t s b word n r1 f else pure f

/-- Search the static hierarchy of a scene (R210). -/
def searchStatic (k : Nat) (h : SceneHdr) (s : Search) (b : List (Option Ball)) (f : Found) : Ex Found :=
  traverse k { nbase := h.nbase, nnode := h.nnode, pbase := h.pbase, nprim := h.nprim } s b id 65 h.root f

/-- A dynamic set: its header fields (R207). -/
structure DynSet where
  dt     : Nat
  nslice : Nat
  lfc    : Nat
  sbase  : Nat
  tree   : Tree
deriving DecidableEq, Repr

/-- Read the header of a dynamic set. -/
def readDyn (k a : Nat) : Ex DynSet := do
  let bs ← rdPol k true a 64
  let w := fun i n => leNat ((bs.drop i).take n)
  return { dt := w 8 4, nslice := w 12 4, lfc := w 16 4, sbase := w 0x18 8, tree := { nbase := w 0x28 8, nnode := w 0x34 4, pbase := w 0x20 8, nprim := w 0x30 4 } }

/-- Search one time slice (R208, R210). -/
def searchSlice (k : Nat) (d : DynSet) (s : Search) (b : List (Option Ball)) (i : Nat) (f : Found) : Ex Found := do
  if f.stop then pure f
  else
    let bs ← rdPol k true (d.sbase + 16 * i) 16
    let w := fun i => leNat ((bs.drop (4 * i)).take 4)
    need (w 3 / 2 == 0) ILLEGAL_OPERAND
    let f := if w 3 % 2 = 1 then f.see s [none] (invSlice i) fun _ => none else f
    traverse k d.tree s b (fun g => 2 ^ 31 + i % 2048 * 2 ^ 20 + (g - w 1) % 2 ^ 20) 65 (w 0) f

/-! ## Rows (R209) -/

/-- A result row. -/
structure Row where
  n     : Nat := 0
  hit   : Bool := false
  inv   : Bool := false
  hzn   : Bool := false
  stale : Bool := false
  dold  : Bool := false
  sat   : Bool := false
  prim  : Nat := 0xFFFFFFFF
  w2    : Nat := 0x7F800000
  epoch : Nat := 0
deriving DecidableEq, Repr

/-- The four words of a row. -/
def Row.words (r : Row) : List Nat :=
  [r.n + b2n r.hit * 2 ^ 24 + b2n r.inv * 2 ^ 25 + b2n r.hzn * 2 ^ 26 + b2n r.stale * 2 ^ 27 + b2n r.dold * 2 ^ 28 + b2n r.sat * 2 ^ 29, r.prim, r.w2, r.epoch]

/-- Read a row back (R216). -/
def rowOf (ws : List Nat) : Row :=
  let w := ws.getD 0 0
  { n := w % 2 ^ 24, hit := bit w 24, inv := bit w 25, hzn := bit w 26, stale := bit w 27, dold := bit w 28, sat := bit w 29, prim := ws.getD 1 0, w2 := ws.getD 2 0, epoch := ws.getD 3 0 }

/-- A tensor of 32-bit words: INT32 operands carry the one 32-bit format code (log 22). -/
def words32 (d : Desc) (len : Nat) : Bool := d.usable && d.rank == 2 && d.fmt == 0x0B && d.dim 0 == len

/-- Write rows, each in its last work unit; a row that is absent stays as it is (R209, R249). -/
def storeRows (k : Nat) (d : Desc) (rows : List (Option Row)) (unit : Nat → Nat) : Ex Unit := do
  let els := (rows.map fun r => match r with
    | some r => r.words.map some
    | none => [none, none, none, none]).flatten
  let cells ← elemCells k d els fun i => unit (i / 4)
  emit k (d.pol == 0) cells

/-- Count an event of a geometry instruction, in the primary pass only. -/
def Chip.geoCount (c : Chip) (k off : Nat) (b : Bool) : Chip := if b && c.countsNow k then c.bump (stbK (k / 2) off) else c

/-- P[SP] of a geometry instruction (R209). -/
def Chip.rowSp (c : Chip) (k sp : Nat) (rows : List Row) : Chip := c.updCtx k fun x => x.wp sp (rows.any fun r => r.inv || r.hzn || r.stale || r.dold)

/-- The counters of INVALID and of HORIZON or DYNOLD rows, and P[SP] (R209). -/
def Chip.rowFlags (c : Chip) (k sp : Nat) (rows : List Row) : Chip :=
  ((c.geoCount k 0x88 (rows.any Row.inv)).geoCount k 0x90 (rows.any fun r => r.hzn || r.dold)).rowSp k sp rows

/-- The radius of a query or a sphere with a margin, where both are finite and the radius is not negative (R199). -/
def radius (r margin : Nat) : Option Rat := do
  let a ← rat32 r
  let m ← rat32 margin
  if 0 ≤ a then some (a + m) else none

/-- A ball from FP32 patterns. -/
def ballOf (x y z r margin : Nat) : Option Ball := do
  return { c := { x := ← rat32 x, y := ← rat32 y, z := ← rat32 z }, s := ← radius r margin, q := 0 }

/-- The clearance of a test that is a hit at distance -r′ (R199): computed in FP32 arithmetic, so that a NaN or an infinity
    shows. -/
def invClear (r margin : Nat) : Nat := rne32 ((f32 r).add (f32 margin)).negate

/-- The queries of GTEST and GTRAV as FP32 patterns. -/
def readQueries (k : Nat) (d : Desc) : Ex (List (Nat × Nat × Nat × Nat)) := do
  let vs := ((← readTensor k d).map rne32).toArray
  return (List.range (d.dim 1)).map fun i => (vs.getD (4 * i) 0, vs.getD (4 * i + 1) 0, vs.getD (4 * i + 2) 0, vs.getD (4 * i + 3) 0)

/-- A query tensor (R209). -/
def queryOk (d : Desc) : Bool := d.usable && d.rank == 2 && within 9 11 d.fmt && d.dim 0 == 4

/-- Operands and records of GTEST: the result tensor, the records of the type that SUB names, and the queries (R210). -/
def gtestRead (sub : Nat) (e : Enc) (k : Nat) : Ex (Desc × List Prim × List (Nat × Nat × Nat × Nat)) := do
  let rd' ← descAt k e.d
  let qd ← descAt k e.a
  let pd ← descAt k e.b
  let c ← get
  checks [ (!(words32 rd' 4 && queryOk qd && words32 pd 16 && rd'.dim 1 == qd.dim 1 && !c.clash k rd' qd && !c.clash k rd' pd), ILLEGAL_OPERAND),
    (rd'.touchesAlias || qd.touchesAlias || pd.touchesAlias, ACCESS) ]
  let typ := match sub with
    | 0 => 2 | 1 => 1 | 2 => 3 | _ => 4
  let prims ← (List.range (pd.dim 1)).mapM fun i => do
    let p ← match primOf (← rdPol k (pd.pol == 0) (pd.rowAddr i) 64) with
      | some p => pure p
      | none => raise ILLEGAL_OPERAND
    need (p.typ == typ) ILLEGAL_OPERAND
    pure p
  let qs ← readQueries k qd
  pure (rd', prims, qs)

/-- The row of one query against every record (R210). -/
def gtestRow (margin : Nat) (prims : List Prim) (q : Nat × Nat × Nat × Nat) : Row :=
  let b := ballOf q.1 q.2.1 q.2.2.1 q.2.2.2 margin
  let s : Search := { near := some 0 }
  let f := (prims.zipIdx).foldl (fun (f : Found) p => f.see s [b] p.2 p.1.dist) {}
  let ds := (prims.zipIdx).map fun p => ((match b with
    | none => none
    | some b => p.1.dist b.c).getD (0, 0), p.2)
  let best := ds.foldl (fun (m : Option (Rat × Rat)) d => match m with
    | none => some d.1
    | some x => if distLe x d.1 then some x else some d.1) none
  let n := f.words.length
  let anyInv := f.inv
  let w2 := match b, best with
    | some b, some d => clear32 d.1 d.2 b.s
    | none, some _ => invClear q.2.2.2 margin
    | _, none => 0x7F800000
  { n := min n 0xFFFFFF, hit := n != 0, inv := anyInv, sat := decide (n > 0xFFFFFF), prim := f.least, w2 := w2 }

/-- GTEST (R210): every query against every record. -/
def gtestBody (sub : Nat) (e : Enc) (k : Nat) : Ex Unit := do
  let (rd', prims, qs) ← gtestRead sub e k
  let rows := qs.map (gtestRow e.prm prims)
  storeRows k rd' (rows.map some) fun i => (i + 1) * ((prims.length + 15) / 16) - 1
  modify fun c => c.rowFlags k 0 rows

/-! ## GTRAV -/

/-- What S[SA] of GTRAV and GSWEEP holds. -/
structure GeoSel where
  slot  : Nat
  noSta : Bool
  set'  : Nat
deriving DecidableEq, Repr

/-- Resolve the scene, the set and the slice window (R201, R207, R209); NT = 0 tests no slice. -/
def geoSel (k : Nat) (e : Enc) : Ex (GeoSel × SceneHdr × Nat × Option DynSet) := do
  let v := (← getS k e.saG).toNat
  let g : GeoSel := { slot := bits v 2 0, noSta := bit v 3, set' := bits v 47 5 * 32 }
  need (!bit v 4 && bits v 63 48 == 0 && (e.nt != 0 || e.tfirst == 0) && (e.nt == 0 || g.set' != 0)) ILLEGAL_OPERAND
  let (a, ep) ← sceneSlot k g.slot
  let h := sceneHdr a (← rdPol k true a 256)
  if e.nt = 0 then return (g, h, ep, none)
  else
    let d ← readDyn k g.set'
    need (within 1 1024 d.nslice && decide (e.tfirst + e.nt ≤ d.nslice) && d.dt != 0) ILLEGAL_OPERAND
    return (g, h, ep, some d)

/-- The set was built for another frame than the context works for (R208). -/
def dynOld (k : Nat) (d : Option DynSet) : Ex Bool := do
  let x ← ctxOf k
  return match d with
    | some d => d.lfc != x.lfc % 2 ^ 32
    | none => false

/-- The result tensor and rows of GTRAV: every query searches the hierarchy, then the slices of the window (R210); a search range that is not
    finite makes every test of NEAREST INVALID (R199). -/
def gtravRows (sub : Nat) (e : Enc) (k : Nat) : Ex (Desc × List Row) := do
  let rd' ← descAt k e.d
  let qd ← descAt k e.a
  let c ← get
  checks [ (!(words32 rd' 4 && queryOk qd && rd'.dim 1 == qd.dim 1 && !c.clash k rd' qd), ILLEGAL_OPERAND),
    (rd'.touchesAlias || qd.touchesAlias, ACCESS) ]
  let (g, h, ep, d) ← geoSel k e
  let old ← dynOld k d
  let qs ← readQueries k qd
  let s : Search := if sub = 0 then { any := true } else if sub = 2 then { near := some ((rat32 h.near).getD 0) } else {}
  let rows ← qs.mapM fun q => do
    let b := if sub = 2 ∧ (rat32 h.near).isNone then none else ballOf q.1 q.2.1 q.2.2.1 q.2.2.2 h.margin
    let f ← if g.noSta then pure {} else searchStatic k h s [b] {}
    let f ← match d with
      | none => pure f
      | some d => (List.range e.nt).foldlM (fun f i => searchSlice k d s [b] (e.tfirst + i) f) f
    let n := f.words.length
    let base : Row := { hit := n != 0, inv := f.inv, dold := old, epoch := ep }
    return match sub with
      | 0 => { base with n := min n 1, prim := f.first }
      | 1 => { base with n := min n 0xFFFFFF, sat := decide (n > 0xFFFFFF), prim := f.least }
      | _ => match f.best with
        | none => base
        | some (dist, w) => { base with prim := primWord w, w2 := match b with
          | some b => clear32 dist.1 dist.2 b.s
          | none => invClear q.2.2.2 h.margin }
  pure (rd', rows)

/-- GTRAV (R210). -/
def gtravBody (sub : Nat) (e : Enc) (k : Nat) : Ex Unit := do
  let (d, rows) ← gtravRows sub e k
  storeRows k d (rows.map some) (· / 16)
  modify fun c => c.rowFlags k (fld e.x0 3 0) rows

/-! ## GSWEEP -/

/-- A pose as FP32 patterns; `tau` is an INT32 (R205). -/
structure Pose where
  v   : List Nat
  tau : Int
deriving DecidableEq, Repr

/-- A pose's headings satisfy R206. -/
def Pose.ok (p : Pose) : Bool :=
  let unit := fun i => match rat32 (p.v.getD i 0), rat32 (p.v.getD (i + 1) 0) with
    | some c, some s => let t := c * c + s * s - 1; decide (t ≤ mkRat 1 65536) && decide (-(mkRat 1 65536) ≤ t)
    | _, _ => false
  unit 3 && unit 5

/-- The machine model (R204): hitch, body count and spheres (a, b, h, r) as patterns. -/
structure Model where
  hitch : List Nat
  nbody : Nat
  sph   : List (List Nat)
deriving DecidableEq, Repr

/-- Place sphere `i` at a pose, exactly (R205); EDGE holds the implement rigid. -/
def place (m : Model) (edge : Bool) (p : Pose) (i : Nat) : Option V3 := do
  let g := fun i => rat32 (p.v.getD i 0)
  let s := m.sph.getD i []
  let r := fun j => rat32 (s.getD j 0)
  let x ← g 0
  let y ← g 1
  let z ← g 2
  let c ← g 3
  let sn ← g 4
  let a ← r 0
  let b ← r 1
  let h ← r 2
  if i < m.nbody then return { x := x + c * a - sn * b, y := y + sn * a + c * b, z := z + h }
  else
    let t := fun j => rat32 (m.hitch.getD j 0)
    let hx ← t 0
    let hy ← t 1
    let hz ← t 2
    let ci ← if edge then some c else g 5
    let si ← if edge then some sn else g 6
    let Hx := x + c * hx - sn * hy
    let Hy := y + sn * hx + c * hy
    return { x := Hx + ci * a - si * b, y := Hy + si * a + ci * b, z := z + hz + h }

/-- The two balls of a sphere over a pair of poses (R211 steps 1-3). -/
def sweptBalls (m : Model) (edge : Bool) (p q : Pose) (margin i : Nat) : List (Option Ball) :=
  match place m edge p i, place m edge q i, radius ((m.sph.getD i []).getD 3 0) margin with
  | some a, some b, some r => let d := (a.sub b).sq / 4; [some { c := a, s := r, q := d }, some { c := b, s := r, q := d }]
  | _, _, _ => [none, none]

/-- Slices of a pair, clamped into the window, with HORIZON (R211 step 4). -/
def slicesOf (d : DynSet) (first nt : Nat) (t0 t1 : Int) : List Nat × Bool :=
  let at' := fun (t : Int) => (t * 1000).fdiv d.dt
  let lo : Int := first
  let hi : Int := (first + nt - 1 : Nat)
  let cl := fun (x : Int) => max lo (min hi x)
  let a := cl (at' t0)
  let b := cl (at' t1)
  ((List.range (b - a + 1).toNat).map (· + a.toNat), at' t0 != a || at' t1 != b)

/-- Packets of 16 balls in order. -/
def packets : (fuel : Nat) → List (Option Ball) → List (List (Option Ball))
  | 0, _ => []
  | n + 1, bs => if bs.isEmpty then [] else bs.take 16 :: packets n (bs.drop 16)

/-- Sweep one edge: the row without its epoch; `test` searches for one packet of one pair's centres (R211). The packets and their
    traversals have the order of R209 and of the chapter's division into units. -/
def sweepEdge (m : Model) (edge : Bool) (poses : List Pose) (margin : Nat) (test : List (Option Ball) → Pose → Pose → Found → Ex Found)
    (hzn : Pose → Pose → Bool) : Ex Row := do
  let pairs := (poses.zip (poses.drop 1)).zipIdx
  pairs.foldlM (fun (r : Row) pr => do
    let p := pr.1.1
    let q := pr.1.2
    let mark := fun (r : Row) (prim : Nat) => if r.hit then r else { r with hit := true, n := pr.2, prim := prim, w2 := toBits 32 p.tau }
    if !(p.ok && q.ok) || decide (q.tau < p.tau) then return { mark r 0xFFFFFFFF with inv := true }
    else
      let balls := ((List.range m.sph.length).map (sweptBalls m edge p q margin)).flatten
      let f ← (packets balls.length balls).foldlM (fun f b => test b p q f) ({} : Found)
      let r := { r with inv := r.inv || f.inv, hzn := r.hzn || hzn p q }
      return match f.words with
        | w :: _ => mark r (primWord w)
        | [] => r) { w2 := 0x7FFFFFFF }

/-- Read the model (R204). -/
def readModel (k : Nat) (d : Desc) : Ex Model := do
  need (d.usable && d.rank == 2 && d.fmt == 0x0B && d.dim 0 == 4 && within 2 65 (d.dim 1)) ILLEGAL_OPERAND
  let vs := (← readRaw k d).toArray
  let row := fun i => (List.range 4).map fun j => vs.getD (4 * i + j) 0
  let n := d.dim 1 - 1
  let nb := vs.getD 3 0
  need (within 1 n nb) ILLEGAL_OPERAND
  return { hitch := (row 0).take 3, nbody := nb, sph := (List.range n).map fun i => row (i + 1) }

/-- Read the poses of edge `i` (R205). -/
def posesOf (vs : Array Nat) (samples i : Nat) : List Pose :=
  (List.range samples).map fun j =>
    let w := fun n => vs.getD ((i * samples + j) * 8 + n) 0
    { v := (List.range 7).map w, tau := sgn 32 (w 7) }

/-- A delta entry (R215). -/
structure DeltaEnt where
  epoch : Nat
  kind  : Nat
  first : Nat
  count : Nat
  box   : List Byte
deriving DecidableEq, Repr

/-- Read the delta list, refusing reserved values and epochs outside it (R215). -/
def readDeltas (k : Nat) (h : SceneHdr) : Ex (List DeltaEnt) :=
  (List.range h.dcount).mapM fun i => do
    let bs ← rdPol k true (h.dbase + 64 * i) 64
    let w := fun j => leNat ((bs.drop j).take 4)
    let ep := w 0
    need (decide (h.dfirst ≤ ep) && decide (ep ≤ h.epoch) && w 4 % 4 != 3 && bits (w 4) 7 2 == 0 && (bs.drop 0x28).all (· == 0) && decide (w 8 + w 12 ≤ h.dpcount)) ILLEGAL_OPERAND
    return { epoch := ep, kind := w 4 % 4, first := w 8, count := w 12, box := (bs.drop 16).take 24 }

/-- Test a packet against the entries of a re-validation (R216). -/
def searchDeltas (k : Nat) (h : SceneHdr) (ds : List DeltaEnt) (b : List (Option Ball)) (f : Found) : Ex Found :=
  ds.foldlM (fun f e => do
    if boxEnter {} b e.box then
      (List.range e.count).foldlM (fun f i => do
        let p ← readPrim k h.dpbase (e.first + i)
        pure (f.see {} b 0xFFFFFFFD p.dist)) f
    else pure f) f

/-- What a GSWEEP finds before it sweeps: its tensors, machine model, scene, slice window and poses (R211). -/
structure SweepIn where
  rd    : Desc
  pd    : Desc
  m     : Model
  g     : GeoSel
  h     : SceneHdr
  ep    : Nat
  d     : Option DynSet
  old   : Bool
  ps    : List Nat

/-- The checks and reads of GSWEEP. -/
def gsweepRead (e : Enc) (k : Nat) : Ex SweepIn := do
  let rd' ← descAt k e.d
  let pd ← descAt k e.a
  let md ← descAt k e.b
  let c ← get
  let posesOk := pd.usable && pd.rank == 3 && pd.fmt == 0x0B && pd.dim 0 == 8 && within 2 65535 (pd.dim 1)
  checks [ (!(words32 rd' 4 && posesOk && rd'.dim 1 == pd.dim 2 && !c.clash k rd' pd && !c.clash k rd' md), ILLEGAL_OPERAND),
    (rd'.touchesAlias || pd.touchesAlias || md.touchesAlias, ACCESS) ]
  let m ← readModel k md
  let (g, h, ep, d) ← geoSel k e
  let old ← dynOld k d
  let ps ← readRaw k pd
  pure { rd := rd', pd := pd, m := m, g := g, h := h, ep := ep, d := d, old := old, ps := ps }

/-- The work unit in which row `i` is written. -/
def SweepIn.unit (a : SweepIn) (i : Nat) : Nat := (i + 1) * ((a.pd.dim 1 - 1) * ((2 * a.m.sph.length + 15) / 16)) - 1

/-- The rows of a sweep over the scene (R211). -/
def sweepRows (sub : Nat) (e : Enc) (k : Nat) (a : SweepIn) : Ex (List Row) := do
  let ps := a.ps.toArray
  (List.range (a.pd.dim 2)).mapM fun i => do
    let test := fun b (p q : Pose) f => do
      let f ← if a.g.noSta then pure f else searchStatic k a.h {} b f
      match a.d with
      | none => pure f
      | some d => (slicesOf d e.tfirst e.nt p.tau q.tau).1.foldlM (fun f s => searchSlice k d {} b s f) f
    let hzn := fun (p q : Pose) => match a.d with
      | none => false
      | some d => (slicesOf d e.tfirst e.nt p.tau q.tau).2
    let r ← sweepEdge a.m (sub == 0) (posesOf ps (a.pd.dim 1) i) a.h.margin test hzn
    return { r with dold := a.old, epoch := a.ep }

/-- The rows of a re-validation (R216): each row as it is to be written, if it changes, as it then stands, and whether it was hit or its age lost. -/
def revalRows (sub : Nat) (k : Nat) (a : SweepIn) : Ex (List (Option Row × Row × Bool)) := do
  let ps := a.ps.toArray
  let olds := (← readRaw k a.rd).toArray
  let was := (List.range (a.pd.dim 2)).map fun i => rowOf ((List.range 4).map fun j => olds.getD (4 * i + j) 0)
  let untouched := fun (r : Row) => r.hit || r.epoch == a.ep
  let lost := fun (r : Row) => decide (r.epoch + 1 < a.h.dfirst)
  let ds ← if was.any fun r => !untouched r && !lost r then readDeltas k a.h else pure []
  (was.zipIdx).mapM fun q => do
    let r := q.1
    if untouched r then return (none, r, false)
    else if lost r then
      let r := { r with hit := true, stale := true, prim := 0xFFFFFFFD, epoch := a.ep }
      return (some r, r, true)
    else
      let es := ds.filter fun x => decide (x.epoch > r.epoch) && x.kind ≤ 1
      let s ← sweepEdge a.m (sub == 0) (posesOf ps (a.pd.dim 1) q.2) a.h.margin (fun b _ _ f => searchDeltas k a.h es b f) fun _ _ => false
      let r := if s.hit then { r with hit := true, inv := r.inv || s.inv, prim := 0xFFFFFFFD, n := s.n, w2 := s.w2, epoch := a.ep } else { r with epoch := a.ep }
      return (some r, r, s.hit)

/-- The counters of a re-validation, by the rows that it set, and P[SP] by the rows as they stand (R209, R216). -/
def Chip.revalFlags (c : Chip) (k sp : Nat) (rows : List (Option Row × Row × Bool)) : Chip :=
  ((c.geoCount k 0x88 (rows.any fun q => q.1.any Row.inv)).geoCount k 0x98 (rows.any fun q => q.2.2)).rowSp k sp (rows.map fun q => q.2.1)

/-- GSWEEP.EDGE and GSWEEP.ARTIC (R211), and with REVAL their re-validation (R216). -/
def gsweepBody (sub : Nat) (reval : Bool) (e : Enc) (k : Nat) : Ex Unit := do
  let a ← gsweepRead e k
  let sp := fld e.x0 3 0
  if !reval then do
    let rows ← sweepRows sub e k a
    storeRows k a.rd (rows.map some) a.unit
    modify fun c => c.rowFlags k sp rows
  else do
    let rows ← revalRows sub k a
    storeRows k a.rd (rows.map fun q => q.1) a.unit
    modify fun c => c.revalFlags k sp rows

end Sys2Proof.Machine
end

