-- ==== Sys2Proof/Machine/Scenes.lean ====
section
/-! DEFINITION. GBUILD (R212-R214) and the scene slots at the synchronisation home (R202, R203, R219). -/

namespace Sys2Proof.Machine

/-- GBUILD (OPC 0x63): BUILD 0, REFIT 1, DYN 2, with the fields and PARAM bits that each uses. -/
def dGbuild (sub : Nat) : IDesc :=
  { opc := 0x63, sub := sub, fmt := .G, rsvB := if sub = 1 then fD + fA + fB else 0,
    rsv0 := fWindow + (if sub = 0 then maskOf 31 3 else if sub = 1 then maskOf 31 0 else maskOf 31 16) }

/-- A tree under construction: a reference, and nodes as 64-byte lists by index from a base, in depth-first order. -/
structure Built where
  ref   : Nat
  nodes : List (List Byte)
deriving DecidableEq, Repr

/-- Outward FP32 bytes of a box: minimum, then maximum (R212). -/
def boxBytes (b : Box) : List Byte :=
  (([b.lo.x, b.lo.y, b.lo.z].map fun v => leBytes 4 (down32 v)) ++ [b.hi.x, b.hi.y, b.hi.z].map fun v => leBytes 4 (up32 v)).flatten

/-- Bounds of a list of boxes. -/
def joinAll : List Box → Option Box
  | [] => none
  | b :: bs => some (bs.foldl Box.join b)

/-- A node's bytes. -/
def nodeBytes (b0 b1 : Box) (r0 r1 parent : Nat) : List Byte :=
  boxBytes b0 ++ boxBytes b1 ++ leBytes 4 r0 ++ leBytes 4 r1 ++ leBytes 4 (parent % 2 ^ 24) ++ leBytes 4 0

/-- Interleave x, y and z, x lowest (R212). -/
def morton (x y z : Nat) : Nat :=
  (List.range 10).foldl (fun n i => n + (bits x i i * 1 + bits y i i * 2 + bits z i i * 4) * 8 ^ i) 0

/-- Morton code of a box's midpoint within bounds (R212). -/
def mortonOf (bb b : Box) : Nat :=
  let q := fun (f : V3 → Rat) =>
    let w := f bb.hi - f bb.lo
    if w = 0 then 0 else (max 0 (min 1023 ((1024 * ((f b.lo + f b.hi) / 2 - f bb.lo)) / w).floor)).toNat
  morton (q V3.x) (q V3.y) (q V3.z)

/-- The first index of the right half of [i, j] (R212 step 4). -/
def splitAt' (codes : Array Nat) (i j : Nat) : Nat :=
  let a := codes.getD i 0
  let b := codes.getD j 0
  if a = b then i + (j - i + 1) / 2
  else
    let h := Nat.log2 (Nat.xor a b)
    (firstFrom (fun n => bit (codes.getD n 0) h) (j - i + 1) i).getD j

/-- Build the tree over records [i, j]: leaves name records from `rbase`, nodes are numbered from `next` (R212). -/
def buildRange (codes : Array Nat) (boxes : Array Box) (leafMax rbase : Nat) : (fuel i j next parent : Nat) → Built
  | 0, i, j, _, _ => { ref := 2 ^ 31 + (rbase + i) + (j - i) % 8 * 2 ^ 24, nodes := [] }
  | f + 1, i, j, next, parent =>
    if j + 1 - i ≤ leafMax then { ref := 2 ^ 31 + (rbase + i) + (j - i) % 8 * 2 ^ 24, nodes := [] }
    else
      let s := splitAt' codes i j
      let l := buildRange codes boxes leafMax rbase f i (s - 1) (next + 1) next
      let r := buildRange codes boxes leafMax rbase f s j (next + 1 + l.nodes.length) next
      let z : Box := { lo := { x := 0, y := 0, z := 0 }, hi := { x := 0, y := 0, z := 0 } }
      let bx := fun a b => (joinAll ((List.range (b + 1 - a)).map fun n => boxes.getD (a + n) z)).getD z
      { ref := next, nodes := nodeBytes (bx i (s - 1)) (bx s j) l.ref r.ref parent :: (l.nodes ++ r.nodes) }

/-- Sort records by Morton code, then index, and build (R212): the order, the bounds and the tree. -/
def buildTree (prims : List (Prim × Box)) (leafMax rbase nbase : Nat) : List Prim × Option Box × Built :=
  match joinAll (prims.map Prod.snd) with
  | none => ([], none, { ref := 0xFFFFFFFF, nodes := [] })
  | some bb =>
    let coded := prims.map fun p => (mortonOf bb p.2, p)
    let sorted := sortBy Prod.fst coded
    let n := sorted.length
    let t := buildRange (sorted.map Prod.fst).toArray (sorted.map fun q => q.2.2).toArray leafMax rbase (n + 1) 0 (n - 1) nbase 0xFFFFFF
    (sorted.map fun q => q.2.1, some bb, t)

/-- Write bytes as tagged blocks (R200, R166). -/
def wrTagged (k a : Nat) (bs : List Byte) : Ex Unit := do
  wr k 0 a bs
  tagKeys k (← keyBlocks k a bs.length)

/-- A record that BUILD and REFIT accept, with its box. -/
def buildable (p : Prim) : Ex (Prim × Box) := do
  match p.box with
  | some b => do need p.ortho ILLEGAL_OPERAND; pure (p, b)
  | none => raise ILLEGAL_OPERAND

/-- What GBUILD.BUILD reads: the node tensor, the output records, the header address, and the input records with their bounds (R212). -/
def gbuildRead (e : Enc) (k : Nat) : Ex (Desc × Desc × Nat × List (Prim × Box)) := do
  let nd ← descAt k e.d
  let ip ← descAt k e.a
  let op ← descAt k e.b
  let ha := (← getS k e.saG).toNat
  let c ← get
  let n := ip.dim 1
  checks [ (!(words32 ip 16 && words32 op 16 && op.dim 1 == n && nd.usable && decide (n ≤ 2 ^ 24) && decide (64 * max 1 (n - 1) ≤ nd.span)
      && ip.base % 64 == 0 && op.base % 64 == 0 && nd.base % 64 == 0 && ha % 256 == 0
      && !c.clash k nd ip && !c.clash k op ip && !c.overlap k ha 256 ip.base ip.span), ILLEGAL_OPERAND),
    (nd.touchesAlias || ip.touchesAlias || op.touchesAlias, ACCESS) ]
  let prims ← (List.range n).mapM fun i => do
    match primOf (← rdPol k (ip.pol == 0) (ip.rowAddr i) 64) with
    | some p => buildable p
    | none => raise ILLEGAL_OPERAND
  pure (nd, op, ha, prims)

/-- Write a hierarchy: the sorted records, the nodes, and the header's counts, root and bounds (R212). -/
def gbuildWrite (k : Nat) (nd op : Desc) (ha : Nat) (sorted : List Prim) (bb : Option Box) (t : Built) : Ex Unit := do
  (sorted.zipIdx).forM fun q => wr k 0 (op.rowAddr q.2) q.1.bytes
  if op.pol = 0 then tagKeys k (← keyBlocks k op.base op.span) else pure ()
  let nb := t.nodes.flatten
  if nb.isEmpty then pure () else do
    wr k 0 nd.base nb
    if nd.pol = 0 then tagKeys k (← keyBlocks k nd.base nb.length) else pure ()
  wr k 0 (ha + 4) (leBytes 4 sorted.length ++ leBytes 4 t.nodes.length ++ leBytes 4 t.ref)
  match bb with
  | some b => wr k 0 (ha + 0x20) (boxBytes b)
  | none => pure ()
  tagKeys k (← keyBlocks k ha 256)

/-- GBUILD.BUILD (R212). -/
def gbuildBody (e : Enc) (k : Nat) : Ex Unit := do
  let (nd, op, ha, prims) ← gbuildRead e k
  let (sorted, bb, t) := buildTree prims (fld e.x0 2 0 + 1) 0 0
  gbuildWrite k nd op ha sorted bb t

/-- The exact bounds of what a reference holds, from the current records (R213). -/
def refBox (k : Nat) (t : Tree) : (depth : Nat) → Nat → Ex (Option Box)
  | 0, _ => raise ILLEGAL_OPERAND
  | n + 1, ref => do
    if ref = 0xFFFFFFFF then pure none
    else if bit ref 31 then do
      let first := bits ref 23 0
      let count := bits ref 26 24 + 1
      need (bits ref 30 27 == 0 && decide (first + count ≤ t.nprim)) ILLEGAL_OPERAND
      let bs ← (List.range count).mapM fun i => do
        let p ← readPrim k t.pbase (first + i)
        return (← buildable p).2
      pure (joinAll bs)
    else do
      need (bits ref 30 24 == 0 && decide (bits ref 23 0 < t.nnode)) ILLEGAL_OPERAND
      let bs ← rdPol k true (t.nbase + 64 * bits ref 23 0) 64
      let a ← refBox k t n (leNat ((bs.drop 0x30).take 4))
      let b ← refBox k t n (leNat ((bs.drop 0x34).take 4))
      pure (match a, b with
        | some a, some b => some (a.join b)
        | some a, none => some a
        | none, b => b)

/-- The bounds that a refit finds: of both references of each node, and of the whole scene, from the current records (R213). -/
def refitBoxes (k : Nat) (h : SceneHdr) : Ex (List (Option Box × Option Box) × Option Box) := do
  let t : Tree := { nbase := h.nbase, nnode := h.nnode, pbase := h.pbase, nprim := h.nprim }
  let boxes ← (List.range h.nnode).mapM fun i => do
    let bs ← rdPol k true (h.nbase + 64 * i) 64
    return (← refBox k t 64 (leNat ((bs.drop 0x30).take 4)), ← refBox k t 64 (leNat ((bs.drop 0x34).take 4)))
  let all ← refBox k t 65 h.root
  pure (boxes, all)

/-- Write the bounds: an empty reference keeps its box (R213). -/
def refitWrite (k ha : Nat) (h : SceneHdr) (boxes : List (Option Box × Option Box)) (all : Option Box) : Ex Unit := do
  (boxes.zipIdx).forM fun q => do
    match q.1.1 with
    | some b => wr k 0 (h.nbase + 64 * q.2) (boxBytes b)
    | none => pure ()
    match q.1.2 with
    | some b => wr k 0 (h.nbase + 64 * q.2 + 24) (boxBytes b)
    | none => pure ()
  if h.nnode = 0 then pure () else tagKeys k (← keyBlocks k h.nbase (64 * h.nnode))
  match all with
  | some b => wrTagged k (ha + 0x20) (boxBytes b)
  | none => pure ()

/-- GBUILD.REFIT (R213): every node box and the scene bounds, from the current records. -/
def grefitBody (e : Enc) (k : Nat) : Ex Unit := do
  let ha := (← getS k e.saG).toNat
  need (ha % 256 == 0) ILLEGAL_OPERAND
  let h := sceneHdr ha (← rdPol k true ha 256)
  let (boxes, all) ← refitBoxes k h
  refitWrite k ha h boxes all

/-- One slice of GBUILD.DYN: its sorted records, its tree and its INVALID mark (R214). -/
def dynSlice (vs : Array Nat) (spheres nslice agents : Nat) (ids : Nat → Nat) (slice rbase nbase : Nat) : List Prim × Built × Bool :=
  let cells := ((List.range agents).map fun a => (List.range spheres).map fun s => (a, s)).flatten
  let get' := fun (a s j : Nat) => vs.getD (((a * nslice + slice) * spheres + s) * 4 + j) 0
  let kinds := cells.map fun q =>
    let v := (List.range 4).map (get' q.1 q.2)
    let fin := v.all f32Finite
    let unused := fin && (match rat32 (v.getD 3 0) with
      | some r => decide (r ≤ 0)
      | none => false)
    let p : Prim := { typ := 3, obj := ids q.1 % 2 ^ 24, v := v ++ List.replicate 11 0 }
    (fin, unused, p)
  let bad := kinds.any fun q => !q.1
  let live := (kinds.filter fun q => q.1 && !q.2.1).filterMap fun q => q.2.2.box.map fun b => (q.2.2, b)
  let (sorted, _, t) := buildTree live 4 rbase nbase
  (sorted, t, bad)

/-- All slices in order. -/
def dynSlices (vs : Array Nat) (spheres nslice agents : Nat) (ids : Nat → Nat) : (n slice rbase nbase : Nat) → List (List Prim × Built × Bool × Nat)
  | 0, _, _, _ => []
  | n + 1, slice, rbase, nbase =>
    let q := dynSlice vs spheres nslice agents ids slice rbase nbase
    (q.1, q.2.1, q.2.2, rbase) :: dynSlices vs spheres nslice agents ids n (slice + 1) (rbase + q.1.length) (nbase + q.2.1.nodes.length)

/-- The descriptor of the agent IDs, or none where TDB = 0 (R214). -/
def idsDesc (k i : Nat) : Ex (Option Desc) := if i = 0 then pure none else do return some (← descAt k i)

/-- The agent IDs. -/
def idWords (k : Nat) : Option Desc → Ex (Array Nat)
  | none => pure #[]
  | some d => do return (← readRaw k d).toArray

/-- The output of GBUILD.DYN and the bytes of the set in their order: header, slice table, records, nodes (R214). -/
def gdynRead (e : Enc) (k : Nat) : Ex (Desc × List Byte) := do
  let od ← descAt k e.d
  let fd ← descAt k e.a
  let tb ← getS k e.saG
  let dt := fld e.x0 15 0
  let spheres := fd.dim 1
  let nslice := fd.dim 2
  let agents := fd.dim 3
  let ids ← idsDesc k e.b
  let c ← get
  let idOk := match ids with
    | none => true
    | some d => d.usable && d.fmt == 0x0B && d.size == agents && !c.clash k od d
  checks [ (!(fd.usable && fd.rank == 4 && within 9 11 fd.fmt && fd.dim 0 == 4 && decide (spheres ≤ 16) && decide (nslice ≤ 1024) && decide (agents ≤ 4096)
      && od.usable && od.rank == 1 && od.fmt == 2 && od.base % 64 == 0 && dt != 0
      && decide (64 + alignUp (16 * nslice) 64 + 128 * agents * spheres * nslice ≤ od.len) && idOk && !c.clash k od fd), ILLEGAL_OPERAND),
    (od.touchesAlias || fd.touchesAlias || (ids.map Desc.touchesAlias).getD false, ACCESS) ]
  let vs := ((← readTensor k fd).map rne32).toArray
  let idv ← idWords k ids
  let slices := dynSlices vs spheres nslice agents (fun a => if ids.isNone then a else idv.getD a 0) nslice 0 0 0
  let recs := (slices.map fun q => (q.1.map Prim.bytes).flatten).flatten
  let nodes := (slices.map fun q => q.2.1.nodes.flatten).flatten
  let table := (slices.map fun q => leBytes 4 q.2.1.ref ++ leBytes 4 q.2.2.2 ++ leBytes 4 q.1.length ++ leBytes 4 (b2n q.2.2.1)).flatten
  let sb := od.base + 64
  let pb := sb + alignUp (16 * nslice) 64
  let nb := pb + recs.length
  let x ← ctxOf k
  let ns := dt * 100000
  let dtv := if ns < 2 ^ 32 then ns else (Config.dynDt dt).toNat
  let hdr := leBytes 8 tb.toNat ++ leBytes 4 dtv ++ leBytes 4 nslice ++ leBytes 4 x.lfc ++ leBytes 4 agents ++ leBytes 8 sb ++ leBytes 8 pb ++ leBytes 8 nb
    ++ leBytes 4 (recs.length / 64) ++ leBytes 4 (nodes.length / 64) ++ leBytes 8 0
  pure (od, hdr ++ table ++ List.replicate (alignUp (16 * nslice) 64 - 16 * nslice) 0 ++ recs ++ nodes)

/-- Write a run of bytes at a tensor's BASE, tagged by its policy. -/
def wrDesc (k : Nat) (od : Desc) (all : List Byte) : Ex Unit := do
  wr k 0 od.base all
  if od.pol = 0 then tagKeys k (← keyBlocks k od.base all.length) else pure ()

/-- GBUILD.DYN (R214): the set's parts at TDD's BASE. -/
def gdynBody (e : Enc) (k : Nat) : Ex Unit := do
  let (od, all) ← gdynRead e k
  wrDesc k od all

/-! ## Scene slots (R202, R203, R219) -/

/-- Open check blocks of a partition that hold a slot's retiring header (R203), in saved contexts too. -/
def Chip.sceneBusy (c : Chip) (p slot : Nat) : Nat :=
  let q := (c.part p).scenes.get slot {}
  (((c.core.slots.map Prod.snd) ++ c.core.saved.map Prod.snd).filter fun x => x.part == p && match x.blk with
    | some b => b.scenes.getD slot (0, 0, false) == (q.retAddr, q.retEpoch, true)
    | none => false).length

/-- Change a scene slot. -/
def Chip.updScene (c : Chip) (p slot : Nat) (f : Scene → Scene) : Chip := c.updPart p fun q => { q with scenes := q.scenes.upd slot {} f }

/-- The unit path of the hall scheduler at a partition's home. -/
def Chip.homeUnit (c : Chip) (p : Nat) : Nat := hallUnit ((c.siteOf (c.part p).home).getD 0) 4

/-- Write an event record of a partition's home, about a slot. -/
def Chip.homePost (c : Chip) (e : Ev) (p v : Nat) : Chip := c.post e (c.homeUnit p) (some p) v

/-- BUSY of a retiring header has reached 0 (R203). -/
def Chip.sceneRetired (c : Chip) (p slot : Nat) : Chip :=
  if ((c.part p).scenes.get slot {}).ret && c.sceneBusy p slot == 0 then (c.updScene p slot fun q => { q with ret := false, retAddr := 0, retEpoch := 0 }).homePost .SCENE_RETIRED p 0 else c

/-- A device range lies in windows of the partition that permit reads. -/
def Chip.winReads (c : Chip) (p a n : Nat) : Bool := (c.spotPieces p (.dev a) 0 n false).isSome

/-- The REJ code of a staged header, 0 where every check passes, with its sensing done (R202 step 2). -/
def Chip.sceneCheck (c : Chip) (p slot : Nat) : Chip × Nat :=
  let q := (c.part p).scenes.get slot {}
  let a := q.staged
  if a ≥ 0x800000000000 || !c.winReads p a 256 then (c, 5)
  else match c.target a with
    | .store key =>
      let (c, ue) := c.sense (key / 4096 * 4096) 4096
      if ue then (c, 1)
      else if !c.tagGood (key / 4096) then
        let site := (c.siteOf (c.part p).home).getD 0
        (c.tagFail (key / 4096) (hallUnit site 4) (hallMemK site 0x30), 1)
      else
        let bs := c.bytesAt key 256
        let h := sceneHdr a bs
        let arr := fun (base n : Nat) => n == 0 || decide (0x800000000000 ≤ base) || c.winReads p base (64 * n)
        if !hdrClean bs then (c, 2)
        else if h.epoch ≠ (q.epoch + 1) % 2 ^ 32 then (c, 3)
        else if !(decide (1 ≤ h.dfirst) && decide (h.dfirst ≤ h.epoch) && decide (h.nnode ≤ h.nprim - 1)) then (c, 4)
        else if !(arr h.pbase h.nprim && arr h.nbase h.nnode && arr h.dbase h.dcount && arr h.dpbase h.dpcount) then (c, 5)
        else (c, 0)
    | _ => (c, 5)

/-- A slot at a landing start (R202). -/
def Chip.sceneLand (c : Chip) (p slot : Nat) : Chip :=
  let q := (c.part p).scenes.get slot {}
  if !q.v then c
  else if q.ret then c.homePost .SCENE_DEFER p 0
  else
    let (c, rej) := c.sceneCheck p slot
    if rej ≠ 0 then (c.updScene p slot fun q => { q with v := false, rej := rej }).homePost .SCENE_REJECT p 0
    else
      let c := c.updScene p slot fun q => { addr := q.staged, epoch := (q.epoch + 1) % 2 ^ 32, valid := true, rej := 0, staged := q.staged, v := false, ret := q.valid, retAddr := if q.valid then q.addr else 0, retEpoch := if q.valid then q.epoch else 0 }
      (c.homePost .SCENE_APPLIED p ((q.epoch + 1) % 2 ^ 32)).sceneRetired p slot

/-- Every slot of every partition at a landing start (R447 step 2). -/
def Chip.scenesLand (c : Chip) : Chip :=
  (c.parts.map Prod.fst).foldl (fun c p => if (c.part p).held then (List.range 8).foldl (fun c s => c.sceneLand p s) c else c) c

/-- A write of HALL_SCNSk (R202, R219): staged with V = 1, withdrawn with V = 0; away from the home it is discarded and
    counted (R144). -/
def Chip.sceneWrite (c : Chip) (site p slot v : Nat) : Chip :=
  if c.isHome site p then c.updScene p slot fun q => { q with staged := bits v 47 8 * 256, v := bit v 0 } else c.bump (syncK site p 0x148)

end Sys2Proof.Machine
end

