-- ==== Sys2Proof/Machine/SearchUnit.lean ====
section
/-! DEFINITION. The Search Unit: ownership (R220), the priority queues (R222, R223), the node store (R224, R225), their form in a CHECKED block (R231), and SU_QCFG (R240). -/

namespace Sys2Proof.Machine

/-- SUQ (OPC 0x68): INSERT 0, EXTRACT 1, PEEK 2, COUNT 3, CLEAR 4. -/
def dSuq (sub : Nat) : IDesc := { opc := 0x68, sub := sub, fmt := .R, rsvB := match sub with
  | 0 => fC
  | 1 | 2 => fB
  | 3 => fB + fC
  | _ => fD + fB + fC }
/-- SUNODE (OPC 0x69): NEW 0, RD 1, WR 2, NEAREST 3. -/
def dSunode (sub : Nat) : IDesc := { opc := 0x69, sub := sub, fmt := .R, rsvB := if sub = 1 ∨ sub = 2 then fD + fC else fB + fC }

/-! ## Ownership (R220) -/

/-- SU_OWNER admits the partition. -/
def Chip.suOwned (c : Chip) (site p : Nat) : Bool := let o := c.reg (suK site 0); bit o 8 && bits o 4 0 == p

/-- The issuing context's partition does not own its hall's Search Unit. -/
def Chip.suDenied (c : Chip) (k : Nat) : Bool := !c.suOwned (k / 8) (c.ctx k).part

/-- Capacities of SU_QCFG, in entries. -/
def suCap (v q : Nat) : Nat := bits v (16 * q + 8) (16 * q) * 256

/-- A write to SU_QCFG (R240): discarded while a queue holds entries, or when the capacities sum above 256 units or one is
    reserved (R6). -/
def Chip.suQcfgWrite (c : Chip) (site v : Nat) : Chip :=
  let full := (List.range 4).any fun q => (c.suSt site).queues.get q [] != []
  let caps := (List.range 4).map fun q => bits v (16 * q + 8) (16 * q)
  if full || decide (caps.sum > 256) then c.bump (suK site 0x50)
  else c.setReg (suK site 0x8) ((List.range 4).foldl (fun n q => n + caps.getD q 0 * 2 ^ (16 * q)) 0)

/-! ## The queues (R222, R223, R231) -/

/-- Whether the running pass only replays (R231). -/
def laterPass (k : Nat) : Ex Bool := return match (← ctxOf k).chk with
  | some b => b.state != 1
  | none => false

/-- Apply a command to the unit itself, in the primary pass only (R231). -/
def once (k : Nat) (act : Ex Unit) : Ex Unit := do if ← laterPass k then pure () else act

/-- The word of three entries that the command meets in a queue that holds any, with the upset `upset` in it (a hardware fact): a
    single symbol is corrected and reported; an uncorrectable word is reported, empties the queue and raises
    DATA_UNCORRECTABLE (R162, R222). -/
def suqSound (site q : Nat) (upset : BitVec 288) : Ex Unit := fun c =>
  let rep := fun (c : Chip) (off cls synd : Nat) => (c.bump (hallMemK site off)).sendErr { unit := hallUnit site 1, cls := cls, synd := synd }
  if (c.suSt site).queues.get q [] = [] then .ok ((), c) else
  match classify upset.toNat with
  | .clean => .ok ((), c)
  | .corrected i v => .ok ((), rep c 0 0x10 (i + v * 256))
  | .uncorrectable s =>
    .error { cls := DATA_UNCORRECTABLE, chip := (rep c 8 0x11 (leNat (s.map (BitVec.ofNat 8)))).updSu site fun u => { u with queues := u.queues.set q [] }, keep := true }

/-- SUQ.INSERT. -/
def suqInsertBody (upset : BitVec 288) (e : Enc) (k : Nat) : Ex Unit := do
  let a := (← getS k e.a).toNat
  let b := (← getS k e.b).toNat
  checks [((← get).suDenied k, ACCESS), (a / 2 ^ 50 != 0 || b / 2 ^ 32 != 0, ILLEGAL_OPERAND)]
  let q := bits a 49 48
  let r ← recorded k 16 do
    suqSound (k / 8) q upset
    let c ← get
    if ((c.suSt (k / 8)).queues.get q []).length < suCap (c.reg (suK (k / 8) 8)) q then
      modify fun c => c.updSu (k / 8) fun u => { u with queues := u.queues.upd q [] fun l => l ++ [(bits a 47 0, b)] }
      pure 0
    else
      modify fun c => c.bump (suK (k / 8) 0x40)
      pure 1
  setS k e.d (BitVec.ofNat 64 r)

/-- The entry with the smallest key, the first inserted among equals (R222). -/
def qMin : List (Nat × Nat) → Option (Nat × Nat)
  | [] => none
  | x :: xs => match qMin xs with
    | none => some x
    | some y => if y.1 < x.1 then some y else some x

/-- Remove the first entry with this key. -/
def qDrop (key : Nat) : List (Nat × Nat) → List (Nat × Nat)
  | [] => []
  | x :: xs => if x.1 = key then xs else x :: qDrop key xs

/-- SUQ.EXTRACT and SUQ.PEEK. -/
def suqTakeBody (peek : Bool) (upset : BitVec 288) (e : Enc) (k : Nat) : Ex Unit := do
  let a := (← getS k e.a).toNat
  checks [((← get).suDenied k, ACCESS), (a / 4 != 0, ILLEGAL_OPERAND)]
  let r ← recorded k 16 do
    suqSound (k / 8) a upset
    match qMin ((← get).suSt (k / 8) |>.queues.get a []) with
    | none => pure (2 ^ 32 + (2 ^ 48 - 1) * 2 ^ 64)
    | some (key, pay) => do
      if peek then pure () else modify fun c => c.updSu (k / 8) fun u => { u with queues := u.queues.upd a [] (qDrop key) }
      pure (pay + key * 2 ^ 64)
  setS k e.d (BitVec.ofNat 64 r)
  setS k e.c (BitVec.ofNat 64 (r / 2 ^ 64))

/-- SUQ.COUNT. -/
def suqCountBody (e : Enc) (k : Nat) : Ex Unit := do
  let a := (← getS k e.a).toNat
  checks [((← get).suDenied k, ACCESS), (a / 4 != 0, ILLEGAL_OPERAND)]
  let r ← recorded k 16 (return ((← get).suSt (k / 8) |>.queues.get a []).length)
  setS k e.d (BitVec.ofNat 64 r)

/-- SUQ.CLEAR. -/
def suqClearBody (e : Enc) (k : Nat) : Ex Unit := do
  let a := (← getS k e.a).toNat
  checks [((← get).suDenied k, ACCESS), (a / 16 != 0, ILLEGAL_OPERAND)]
  once k (modify fun c => c.updSu (k / 8) fun u =>
    let u := if bit a 2 then { u with queues := [] } else { u with queues := u.queues.set (a % 4) [] }
    if bit a 3 then { u with nalloc := 0 } else u)

/-! ## The node store (R224, R225) -/

/-- Key of a node. -/
def nodeKey (site n : Nat) : Nat := sramKey site (0x1800000 + 64 * n)

/-- A record address: 32-byte aligned, in local space outside the aliases. -/
def recAddr (a n align : Nat) : List (Bool × Nat) :=
  [(a % align != 0, ALIGNMENT), (!(decide (0x800000000000 ≤ a) && decide (a + n ≤ 0x800000600000)), ACCESS)]

/-- Read a node, sensing its words. -/
def rdNode (site n : Nat) : Ex (List Byte) := do
  senseEx (nodeKey site n) 64
  return (← get).bytesAt (nodeKey site n) 64

/-- Write a node. -/
def wrNode (k n : Nat) (bs : List Byte) : Ex Unit := do
  need (!(← get).execKey k (nodeKey (k / 8) n)) ACCESS
  modify fun c => c.putRaw (nodeKey (k / 8) n) bs

/-- SUNODE.NEW: FLAGS.LIVE is bit 0 of byte 0x20. -/
def sunodeNewBody (e : Enc) (k : Nat) : Ex Unit := do
  let a := (← getS k e.a).toNat
  checks (((← get).suDenied k, ACCESS) :: recAddr a 64 32)
  let r ← recorded k 16 do
    let n := ((← get).suSt (k / 8)).nalloc
    if n ≥ 32768 then
      modify fun c => c.bump (suK (k / 8) 0x48)
      pure 0xFFFFFFFF
    else
      let bs ← rd k a 64
      wrNode k n (bs.take 32 ++ (bs.getD 32 0 ||| 1) :: bs.drop 33)
      modify fun c => c.updSu (k / 8) fun u => { u with nalloc := n + 1 }
      pure n
  setS k e.d (BitVec.ofNat 64 r)

/-- The checks of a node index and a record address that RD and WR share. -/
def nodeChecks (k a b : Nat) : Ex Unit := do
  let later ← laterPass k
  let c ← get
  checks ([(c.suDenied k, ACCESS), (a / 2 ^ 15 != 0 || (!later && decide (a ≥ (c.suSt (k / 8)).nalloc)), ILLEGAL_OPERAND)] ++ recAddr b 64 32)

/-- SUNODE.RD: the 64 bytes enter a CHECKED block as a record, and every pass writes them (R231). -/
def sunodeRdBody (e : Enc) (k : Nat) : Ex Unit := do
  let a := (← getS k e.a).toNat
  let b := (← getS k e.b).toNat
  nodeChecks k a b
  let v ← recorded k 64 (return leNat (← rdNode (k / 8) a))
  wr k 0 b (leBytes 64 v)

/-- SUNODE.WR. -/
def sunodeWrBody (e : Enc) (k : Nat) : Ex Unit := do
  let a := (← getS k e.a).toNat
  let b := (← getS k e.b).toNat
  nodeChecks k a b
  once k do wrNode k a (← rd k b 64)

/-- FP32 operations on patterns, each rounded to nearest even. -/
def fadd32 (a b : Nat) : Nat := rne32 ((f32 a).add (f32 b))
/-- FP32 difference. -/
def fsub32 (a b : Nat) : Nat := rne32 ((f32 a).sub (f32 b))
/-- FP32 product. -/
def fmul32 (a b : Nat) : Nat := rne32 ((f32 a).mul (f32 b))
/-- FP32 quotient. -/
def fdiv32 (a b : Nat) : Nat := div32 (f32 a) (f32 b)
/-- FP32 square root. -/
def fsqrt32 (a : Nat) : Nat := sqrt32 (f32 a)
/-- FP32 negation. -/
def fneg32 (a : Nat) : Nat := rne32 (f32 a).negate
/-- FP32 magnitude. -/
def fabs32 (a : Nat) : Nat := a % 2 ^ 31
/-- FP32 order. -/
def flt32 (a b : Nat) : Bool := (f32 a).lt (f32 b)

/-- The metric of R225 between a query and a node. -/
def nodeMetric (wh wi : Nat) (q n : List Byte) : Nat :=
  let w := fun (bs : List Byte) i => leNat ((bs.drop (4 * i)).take 4)
  let sq := fun i => let d := fsub32 (w q i) (w n i); fmul32 d d
  fadd32 (fadd32 (fadd32 (sq 0) (sq 1)) (fmul32 wh (fadd32 (sq 2) (sq 3)))) (fmul32 wi (fadd32 (sq 4) (sq 5)))

/-- The least metric over the live nodes, the lower index at a tie; NaN is skipped (R225). -/
def nearestNode (c : Chip) (site wh wi : Nat) (q : List Byte) : (n i : Nat) → Option (Nat × Nat) → Option (Nat × Nat)
  | 0, _, best => best
  | n + 1, i, best =>
    let bs := c.bytesAt (nodeKey site i) 64
    let m := nodeMetric wh wi q bs
    let best := if !(bs.getD 32 0).getLsbD 0 || f32 m == .nan then best else match best with
      | none => some (i, m)
      | some (j, x) => if flt32 m x then some (i, m) else some (j, x)
    nearestNode c site wh wi q n (i + 1) best

/-- SUNODE.NEAREST. -/
def sunodeNearestBody (e : Enc) (k : Nat) : Ex Unit := do
  let a := (← getS k e.a).toNat
  checks (((← get).suDenied k, ACCESS) :: recAddr a 64 32)
  let r ← recorded k 16 do
    let q ← rd k a 64
    let n := ((← get).suSt (k / 8)).nalloc
    senseEx (nodeKey (k / 8) 0) (64 * n)
    let c ← get
    let cfg := c.reg (suK (k / 8) 0x38)
    match nearestNode c (k / 8) (bits cfg 31 0) (bits cfg 63 32) q n 0 none with
    | none => pure (2 ^ 31 + 0x7F800000 * 2 ^ 32)
    | some (i, m) => pure (i + m * 2 ^ 32)
  setS k e.d (BitVec.ofNat 64 r)

end Sys2Proof.Machine
end

