-- ==== Sys2Proof/Machine/Paths.lean ====
section
/-! DEFINITION. The path pipeline: SUPATH.SMOOTH (R226) and SUPATH.TSCALE (R227-R229, R448), in FP32 in the order written. What the rules give without an order of operations comes from the free functions of Config (log 23, 24). -/

namespace Sys2Proof.Machine

/-- SUPATH (OPC 0x6A): SMOOTH 0, TSCALE 1. -/
def dSupath (sub : Nat) : IDesc := { opc := 0x6A, sub := sub, fmt := .R, rsvB := fB + fC }

/-- The FP32 pattern of a decimal numerator over a denominator. -/
def f32c (num den : Nat) : Nat := (ffF32.rneFrac false num den).1

/-- A 4-byte word of a byte list. -/
def wordAt (bs : List Byte) (off : Nat) : Nat := leNat ((bs.drop off).take 4)

/-- An FP32 pattern is finite. -/
def fin32 (v : Nat) : Bool := (f32 v).finite

/-- A finite pattern, or +∞ (SLIM). -/
def finOrInf32 (v : Nat) : Bool := fin32 v || v == 0x7F800000

/-- The live limits, or those that the CHECKED block captured (R49, R230). -/
def limitsOf (k : Nat) : Ex (Array Nat) := do
  let x ← ctxOf k
  let c ← get
  let ws := match x.chk with
    | some b => b.limits.map BitVec.toNat
    | none => (List.range 7).map fun i => c.reg (suK (k / 8) (0x100 + 8 * i))
  return (ws.map fun w => [bits w 31 0, bits w 63 32]).flatten.toArray

/-- Limit `i` in register order: VMAX 0, VREV 1, AMAX 2, DMAX 3, JMAX 4, ALAT 5, RMIN 6, KRATE 7, GMAX 8, KSLOPE 9,
    HITCHL 10, HITCHM 11, ARTMAX 12. -/
def lim (l : Array Nat) (i : Nat) : Nat := l.getD i 0

/-- The job record at S[A]: 32-byte aligned and local. -/
def jobRecord (e : Enc) (k : Nat) : Ex (List Byte) := do
  let a := (← getS k e.a).toNat
  checks (((← get).suDenied k, ACCESS) :: recAddr a 64 32)
  rd k a 64

/-- A region of a job lies in local space. -/
def localRegion (a n : Nat) : Bool := decide (0x800000000000 ≤ a) && decide (a + n ≤ 0x800000600000)

/-- Two regions overlap. -/
def overlap (a n b m : Nat) : Bool := n != 0 && m != 0 && decide (a < b + m) && decide (b < a + n)

/-- An opaque FP32 result as a number. -/
def ofW (w : BitVec 32) : Nat := w.toNat

/-- One axis of a quintic: its coefficients as words. -/
def coefW (cs : List Nat) : List (BitVec 32) := cs.map (BitVec.ofNat 32)

/-! ## Values whose formula stands without an order of operations (log 23, 24)

Such a value is free, but only as far as rounding reaches: within `n` × 2^-24 of the magnitude of its terms about the exact value. -/

/-- A number's magnitude. -/
def absQ (x : Rat) : Rat := if x < 0 then -x else x

/-- The exact value of an FP32 pattern, 0 where it has none. -/
def ratOr0 (v : Nat) : Rat := (rat32 v).getD 0

/-- The free word where it lies within the rounding error of the exact value `x`, whose terms have magnitude `mag`; the nearest FP32 value
    else. Where a term overflows, nothing is said. -/
def freeNear (w : BitVec 32) (n : Nat) (ok : Bool) (x mag : Rat) : Nat :=
  if !ok || decide ((2 ^ 126 : Nat) ≤ mag) then ofW w
  else match rat32 (ofW w) with
    | some y => if absQ (y - x) ≤ (n : Rat) * mag / (2 ^ 24 : Nat) + mkRat 1 (2 ^ 126) then ofW w else rne32Rat x
    | none => rne32Rat x

/-- Σ cᵢ uⁱ. -/
def polyQ (cs : List Rat) (u : Rat) : Rat := cs.foldr (fun c r => c + u * r) 0

/-- The coefficients of a derivative. -/
def derivQ (cs : List Rat) : List Rat := (cs.zipIdx.drop 1).map fun e => (e.2 : Rat) * e.1

/-- Position on an axis at u (R226). -/
def quinticPos (cs : List Nat) (u : Nat) : Nat :=
  let q := cs.map ratOr0
  if fabs32 u = 0 then cs.headD 0
  else freeNear (Config.quinticAt (coefW cs) (BitVec.ofNat 32 u)) 20 (cs.all fin32) (polyQ q (ratOr0 u)) (polyQ (q.map absQ) (ratOr0 u))

/-- First derivative on an axis at u. -/
def quinticVel (cs : List Nat) (u : Nat) : Nat :=
  let q := derivQ (cs.map ratOr0)
  if fabs32 u = 0 then cs.getD 1 0
  else freeNear (Config.quinticD (coefW cs) (BitVec.ofNat 32 u)) 20 (cs.all fin32) (polyQ q (ratOr0 u)) (polyQ (q.map absQ) (ratOr0 u))

/-- Whether a value is num / den^(3/2) for some num within `e` of `n` and some den within `es` of `s` > `es`. -/
def kappaFits (w n e s es : Rat) : Bool :=
  let (w, n) := if w < 0 then (-w, -n) else (w, n)
  let lo := (s - es) * (s - es) * (s - es)
  let hi := (s + es) * (s + es) * (s + es)
  decide (0 ≤ n + e) && decide (w * w * lo ≤ (n + e) * (n + e)) && (decide (n - e ≤ 0) || decide ((n - e) * (n - e) ≤ w * w * hi))

/-- Signed curvature at u: (x′y″ − y′x″) / (x′² + y′²)^(3/2). -/
def curvature (cx cy : List Nat) (u : Nat) : Nat :=
  let w := Config.curvAt (coefW cx) (coefW cy) (BitVec.ofNat 32 u)
  let at1 := fun (cs : List Rat) => let d := derivQ cs; let dd := derivQ d; (polyQ d (ratOr0 u), polyQ dd (ratOr0 u))
  let (x1, x2) := at1 (cx.map ratOr0)
  let (y1, y2) := at1 (cy.map ratOr0)
  let (mx1, mx2) := at1 (cx.map fun v => absQ (ratOr0 v))
  let (my1, my2) := at1 (cy.map fun v => absQ (ratOr0 v))
  let n := x1 * y2 - y1 * x2
  let s := x1 * x1 + y1 * y1
  let e := 60 * (mx1 * my2 + my1 * mx2) / (2 ^ 24 : Nat)
  let es := 60 * (mx1 * mx1 + my1 * my1) / (2 ^ 24 : Nat)
  if !(cx ++ cy).all fin32 || decide (s ≤ es) || decide (s ≤ mkRat 1 (2 ^ 40)) || decide ((2 ^ 40 : Nat) ≤ mx1 + my1 + mx2 + my2) then ofW w
  else
    let fit := match rat32 (ofW w) with
      | some y => kappaFits y n e s es
      | none => false
    if fit then ofW w else fdiv32 (rne32Rat n) (fmul32 (rne32Rat s) (fsqrt32 (rne32Rat s)))

/-! ## SMOOTH (R226) -/

/-- The coefficients of one axis from P0, Δ, T0, T1, A0, A1. -/
def quintic (p0 dl t0 t1 a0 a1 : Nat) : List Nat :=
  let m := fun (num den : Nat) v => fmul32 (f32c num den) v
  let c3 := fadd32 (fsub32 (fsub32 (fsub32 (m 10 1 dl) (m 6 1 t0)) (m 4 1 t1)) (m 3 2 a0)) (m 1 2 a1)
  let c4 := fsub32 (fadd32 (fadd32 (fadd32 (fneg32 (m 15 1 dl)) (m 8 1 t0)) (m 7 1 t1)) (m 3 2 a0)) a1
  let c5 := fadd32 (fsub32 (fsub32 (fsub32 (m 6 1 dl) (m 3 1 t0)) (m 3 1 t1)) (m 1 2 a0)) (m 1 2 a1)
  [p0, t0, fdiv32 a0 (f32c 2 1), c3, c4, c5]

/-- Distance of two points. -/
def chord (x0 y0 x1 y1 : Nat) : Nat :=
  let dx := fsub32 x1 x0
  let dy := fsub32 y1 y0
  fsqrt32 (fadd32 (fmul32 dx dx) (fmul32 dy dy))

/-- The segment of an interval for one scale η. -/
def segFor (p0 p1 : List Byte) (eta : Nat) : List Nat × List Nat :=
  let w := wordAt
  let rev := bit (w p0 0x18) 0
  let sgnd := fun v => if rev then fneg32 v else v
  let el := fmul32 eta (chord (w p0 0) (w p0 4) (w p1 0) (w p1 4))
  let dir := fun p => (sgnd (cos32 (f32 (w p 8))), sgnd (sin32 (f32 (w p 8))))
  let nrm := fun p => (fneg32 (sin32 (f32 (w p 8))), cos32 (f32 (w p 8)))
  let acc := fun p n => fmul32 (fmul32 (fmul32 el el) (w p 0xC)) n
  let ax := fun (i : Nat) (sel : Nat × Nat → Nat) =>
    quintic (w p0 i) (fsub32 (w p1 i) (w p0 i)) (fmul32 el (sel (dir p0))) (fmul32 el (sel (dir p1))) (acc p0 (sel (nrm p0))) (acc p1 (sel (nrm p1)))
  (ax 0 Prod.fst, ax 4 Prod.snd)

/-- Every checked |κ| is within 1 / RMIN. -/
def radiusOk (rmin : Nat) (s : List Nat × List Nat) : Bool :=
  (List.range 33).all fun j => (f32 (fabs32 (curvature s.1 s.2 (f32c j 32)))).le (f32 (fdiv32 (f32c 1 1) rmin))

/-- Position of a segment at u = j / 32. -/
def segPt (s : List Nat × List Nat) (j : Nat) : Nat × Nat := (quinticPos s.1 (f32c j 32), quinticPos s.2 (f32c j 32))

/-- The scales in the order of R226. -/
def etas : List Nat := [f32c 1 1, f32c 5 4, f32c 4 5, f32c 3 2, f32c 13 20]

/-- One segment of SMOOTH, and whether it carries RADIUS. -/
def smoothSeg (rmin : Nat) (p0 p1 : List Byte) : List Byte × Bool :=
  let pick := (etas.map (segFor p0 p1)).find? (radiusOk rmin)
  let s := pick.getD (segFor p0 p1 (f32c 1 1))
  let len := (List.range 32).foldl (fun n j => let a := segPt s j; let b := segPt s (j + 1); fadd32 n (chord a.1 a.2 b.1 b.2)) 0
  let fl := wordAt p0 0x18
  let flags := b2n (bit fl 0) + b2n pick.isNone * 2 + bits fl 15 8 * 256
  (((s.1 ++ s.2 ++ [len, wordAt p0 0x10, wordAt p0 0x14, flags]).map (leBytes 4)).flatten, pick.isNone)

/-- What SMOOTH reads: the output's address, RMIN and the waypoints (R226). -/
def smoothRead (e : Enc) (k : Nat) : Ex (Nat × Nat × List (List Byte)) := do
  let j ← jobRecord e k
  let inp := leNat (j.take 8)
  let out := leNat ((j.drop 8).take 8)
  let n := wordAt j 0x10
  checks [ (!within 2 1024 n || leNat (j.drop 0x14) != 0 || overlap out (64 * (n - 1)) inp (32 * n), ILLEGAL_OPERAND),
    (!(localRegion inp (32 * n) && localRegion out (64 * (n - 1))), ACCESS) ]
  let l ← limitsOf k
  let bs ← rd k inp (32 * n)
  pure (out, lim l 6, (List.range n).map fun i => (bs.drop (32 * i)).take 32)

/-- A waypoint's curvature exceeds 1 / RMIN: TIGHT (R226). -/
def smoothTight (rmin : Nat) (wps : List (List Byte)) : Bool := wps.any fun p => (f32 (fdiv32 (f32c 1 1) rmin)).lt (f32 (fabs32 (wordAt p 0xC)))

/-- A waypoint that is not finite, but for an SLIM of +∞, which is no cap: INVALID (R229). -/
def smoothBad (wps : List (List Byte)) : Bool := wps.any fun p => !([0, 4, 8, 0xC, 0x10].all fun o => fin32 (wordAt p o)) || !finOrInf32 (wordAt p 0x14)

/-- The segments between neighbouring waypoints, each with its flag. -/
def smoothSegs (rmin : Nat) (wps : List (List Byte)) : List (List Byte × Bool) := (wps.zip (wps.drop 1)).map fun q => smoothSeg rmin q.1 q.2

/-- SUPATH.SMOOTH (R226, R229). -/
def smoothBody (e : Enc) (k : Nat) : Ex Unit := do
  let (out, rmin, wps) ← smoothRead e k
  if smoothBad wps then setS k e.d (BitVec.ofNat 64 (b2n (smoothTight rmin wps) * 2 ^ 16 + 2 ^ 17))
  else
    let segs := smoothSegs rmin wps
    wr k 0 out (segs.map Prod.fst).flatten
    setS k e.d (BitVec.ofNat 64 ((segs.filter Prod.snd).length + b2n (smoothTight rmin wps) * 2 ^ 16))

/-! ## TSCALE (R227, R228) -/

/-- A station of the profile. -/
structure Station where
  x : Nat
  y : Nat
  kap : Nat
  grade : Nat
  slim : Nat
  rev : Bool
  impl : Nat
  seg : Nat
  u : Nat
  psi : Nat
deriving Inhabited

/-- Least of the FP32 values. -/
def fmin32 (a b : Nat) : Nat := rne32 ((f32 a).min (f32 b))
/-- Greatest of two. -/
def fmax32 (a b : Nat) : Nat := rne32 ((f32 a).max (f32 b))

/-- wrap_pi of an exact real held in fixed point (R448). -/
def wrapPi (x : Int) : Nat :=
  let k := -((piFix - x) / (2 * piFix))
  let v := roundFix (x - 2 * piFix * k)
  if v = 0xC0490FDB then 0x40490FDB else v

/-- The fixed-point value of a finite FP32 pattern. -/
def fixF (v : Nat) : Int := match f32 v with
  | .fin s m e => fixOf s m e
  | _ => 0

/-- Heading of a tangent: its exact angle, turned by π in reverse, wrapped and rounded once (R228, R448). -/
def headOf (tx ty : Nat) (rev : Bool) : Nat :=
  match angleFix (f32 ty) (f32 tx) with
  | some a => wrapPi (if rev then a + piFix else a)
  | none => 0x7FC00000

/-- A segment of the input: coefficients of x and y, LEN, GRADE, SLIM, FLAGS. -/
def segCoef (s : List Byte) : List Nat × List Nat := ((List.range 6).map fun i => wordAt s (4 * i), (List.range 6).map fun i => wordAt s (0x18 + 4 * i))

/-- Values on a segment at u. -/
def onSeg (s : List Byte) (u : Nat) : Nat × Nat × Nat × Nat :=
  let c := segCoef s
  let rev := bit (wordAt s 0x3C) 0
  (quinticPos c.1 u, quinticPos c.2 u, curvature c.1 c.2 u, headOf (quinticVel c.1 u) (quinticVel c.2 u) rev)

/-- Station `i` of M. -/
def stationOf (segs : Array (List Byte)) (i : Nat) : Station :=
  let q := min (i / 32) (segs.size - 1)
  let s := segs.getD q []
  let u := f32c (i - 32 * q) 32
  let (x, y, kap, psi) := onSeg s u
  let fl := wordAt s 0x3C
  { x := x, y := y, kap := kap, grade := wordAt s 0x34, slim := wordAt s 0x38, rev := bit fl 0, impl := bits fl 15 8, seg := q, u := u, psi := psi }

/-- g of R227. -/
def gF : Nat := f32c 980665 100000

/-- An array element. -/
def at' (a : Array Nat) (i : Nat) : Nat := a.getD i 0

/-- The caps of R227. `steep` is the first station of a segment steeper than GMAX. -/
def capsOf (l : Array Nat) (st : Array Station) (ds : Array Nat) (m steep : Nat) : Array Nat :=
  ((List.range (m + 1)).map fun i =>
    let s := st[i]!
    let turn := i ≥ 1 && s.rev != (st[i - 1]!).rev
    if turn || decide (i ≥ steep) then 0 else
      let v := if s.rev then lim l 1 else lim l 0
      let v := fmin32 v s.slim
      let v := fmin32 v (fmul32 (lim l 0) (fmax32 0 (fsub32 (f32c 1 1) (fmul32 (lim l 9) (fabs32 s.grade)))))
      let v := if fabs32 s.kap = 0 then v else fmin32 v (fsqrt32 (fdiv32 (lim l 5) (fabs32 s.kap)))
      if i = m ∨ fabs32 (at' ds i) = 0 then v
      else
        let r := fabs32 (fdiv32 (fsub32 (st[i + 1]!).kap s.kap) (at' ds i))
        if r = 0 then v else fmin32 v (fdiv32 (lim l 7) r)).toArray

/-- The forward pass of R227. `a` is none after a station interval of length 0, whose acceleration has a divisor of zero: its
    term is left out of the next minimum. -/
def forwardV (l : Array Nat) (st : Array Station) (ds caps : Array Nat) : (n i : Nat) → (a : Option Nat) → Array Nat → Array Nat
  | 0, _, _, v => v
  | n + 1, i, a, v =>
    let vi := at' v i
    let d := at' ds i
    let top := fsub32 (lim l 2) (fmul32 gF (st[i]!).grade)
    let amax := match a with
      | some a => fmin32 top (fadd32 a (fdiv32 (fmul32 (lim l 4) d) (fmax32 vi (f32c 1 10))))
      | none => top
    let w := fmin32 (at' caps (i + 1)) (fsqrt32 (fmax32 0 (fadd32 (fmul32 vi vi) (fmul32 (fmul32 (f32c 2 1) amax) d))))
    let a' := if fabs32 d = 0 then none else some (fdiv32 (fsub32 (fmul32 w w) (fmul32 vi vi)) (fmul32 (f32c 2 1) d))
    forwardV l st ds caps n (i + 1) a' (v.push w)

/-- The backward pass of R227, from station `i - 1` down. -/
def backwardV (l : Array Nat) (st : Array Station) (ds : Array Nat) : (i : Nat) → Array Nat → Array Nat
  | 0, v => v
  | i + 1, v =>
    let w := at' v (i + 1)
    let t := fsqrt32 (fadd32 (fmul32 w w) (fmul32 (fmul32 (f32c 2 1) (fadd32 (lim l 3) (fmul32 gF (st[i]!).grade))) (at' ds i)))
    backwardV l st ds i (v.set! i (fmin32 (at' v i) t))

/-- Station times up to where both speeds of an interval are zero: the times, and the station at which the motion ends. -/
def timesOf (ds v : Array Nat) : (n i : Nat) → Array Nat → Array Nat × Nat
  | 0, i, t => (t, i)
  | n + 1, i, t =>
    if fabs32 (at' v i) = 0 ∧ fabs32 (at' v (i + 1)) = 0 then (t, i)
    else timesOf ds v n (i + 1) (t.push (fadd32 (at' t i) (fdiv32 (fmul32 (f32c 2 1) (at' ds i)) (fadd32 (at' v i) (at' v (i + 1))))))

/-- Implement headings by station (R228). -/
def implHead (hl hm : Nat) (st : Array Station) (ds : Array Nat) : (n i : Nat) → Array Nat → Array Nat
  | 0, _, a => a
  | n + 1, i, a =>
    let io := at' a i
    let s := st[i]!
    let df := f32 (fsub32 s.psi io)
    let sd := if s.rev then fneg32 (at' ds i) else at' ds i
    let r := fdiv32 (fmul32 sd (fsub32 (sin32 df) (fmul32 (fmul32 (fdiv32 hm hl) s.kap) (cos32 df)))) hl
    implHead hl hm st ds n (i + 1) (a.push (fadd32 io r))

/-- A sample of R228: X, Y, HEAD, SPEED, ACCEL, CURV, IMPL, FLAGS. -/
structure Smp where
  w    : List Nat
  iota : Nat

/-- Everything that TSCALE derives from a job. -/
structure Profile where
  st   : Array Station
  ds   : Array Nat
  v    : Array Nat
  t    : Array Nat
  /-- The last station reached, and M. -/
  fin  : Nat
  m    : Nat
  iota : Array Nat
  hitch : Bool

/-- Acceleration of an interval, as R227 forms it. -/
def Profile.acc (p : Profile) (i : Nat) : Nat :=
  fdiv32 (fsub32 (fmul32 (at' p.v (i + 1)) (at' p.v (i + 1))) (fmul32 (at' p.v i) (at' p.v i))) (fmul32 (f32c 2 1) (at' p.ds i))

/-- ψ − ι, wrapped; 0 without a hitch (R228). -/
def Profile.impl (p : Profile) (psi io : Nat) : Nat := if p.hitch then wrapPi (fixF psi - fixF io) else 0

/-- The station interval that covers sample k, if the motion has not ended by then. -/
def Profile.cover (p : Profile) (k : Nat) : Option Nat :=
  (List.range p.fin).find? fun i => (f32 (f32c k 100)).lt (f32 (at' p.t (i + 1)))

/-- u and speed of sample k in station interval `i`, from u0 to u1: constant acceleration, and u linear in the arc position (R228). -/
def Profile.within (p : Profile) (i u0 u1 k : Nat) : Nat × Nat :=
  let q := fun (a : Array Nat) j => ratOr0 (at' a j)
  let vals := coefW [u0, u1, at' p.v i, at' p.v (i + 1), at' p.ds i, at' p.t i, at' p.iota i, at' p.iota (i + 1)]
  let v0 := q p.v i
  let v1 := q p.v (i + 1)
  let ds := q p.ds i
  let tau := mkRat k 100 - q p.t i
  let a := (v1 * v1 - v0 * v0) / (2 * ds)
  let amag := (v1 * v1 + v0 * v0) / (2 * ds)
  let tmag := q p.t i + q p.t (i + 1)
  let ok := [at' p.v i, at' p.v (i + 1), at' p.ds i, at' p.t i, at' p.t (i + 1)].all fin32 && decide (0 < ds)
  let du := (ratOr0 u1 - ratOr0 u0) / ds
  (freeNear (Config.sampleIn 0 vals k) 40 ok (ratOr0 u0 + du * (v0 * tau + a * tau * tau / 2)) (ratOr0 u0 + du * ((v0 + v1) * tmag + amag * tmag * tmag)),
    freeNear (Config.sampleIn 1 vals k) 40 ok (v0 + a * tau) (v0 + v1 + amag * tmag))

/-- Sample k (R228). -/
def Profile.sample (p : Profile) (segs : Array (List Byte)) (k : Nat) : Smp :=
  match p.cover k with
  | some i =>
    let s := p.st[i]!
    let u1 := if i + 1 ≥ 32 * (s.seg + 1) then f32c 1 1 else (p.st[i + 1]!).u
    let vals := coefW [s.u, u1, at' p.v i, at' p.v (i + 1), at' p.ds i, at' p.t i, at' p.iota i, at' p.iota (i + 1)]
    let (u, sp) := p.within i s.u u1 k
    let (x, y, kap, psi) := onSeg (segs.getD s.seg []) u
    let io := ofW (Config.sampleIn 2 vals k)
    { w := [x, y, psi, if s.rev then fneg32 sp else sp, p.acc i, kap, p.impl psi io, s.impl * 256], iota := io }
  | none =>
    let s := p.st[p.fin]!
    let io := at' p.iota p.fin
    { w := [s.x, s.y, s.psi, 0, 0, s.kap, p.impl s.psi io, s.impl * 256], iota := io }

/-- A value exceeds its limit by more than 1 %. -/
def over1 (v limit : Nat) : Bool := match rat32 v, rat32 limit with
  | some a, some b => decide (b * 101 / 100 < a)
  | _, _ => true

/-- Bit LIMIT (R228) over the output samples. -/
def limitHit (l : Array Nat) (ss : List Smp) : Bool :=
  let g := fun (s : Smp) i => s.w.getD i 0
  let one' := fun s =>
    let v := fabs32 (g s 3)
    over1 v (if bit (g s 3) 31 then lim l 1 else lim l 0)
      || (if bit (g s 4) 31 then over1 (fabs32 (g s 4)) (lim l 3) else over1 (g s 4) (lim l 2))
      || over1 (fmul32 (fmul32 v v) (fabs32 (g s 5))) (lim l 5)
  let jerk := fun (q : Smp × Smp) => over1 (fdiv32 (fabs32 (fsub32 (g q.2 4) (g q.1 4))) (f32c 1 100)) (lim l 4)
  ss.any one' || (ss.zip (ss.drop 1)).any jerk

/-- The profile of a job. -/
def profileOf (l : Array Nat) (segs : Array (List Byte)) (v0 a0 vend impl0 : Nat) : Profile × Nat :=
  let m := 32 * segs.size
  let st := ((List.range (m + 1)).map (stationOf segs)).toArray
  let ds := ((List.range m).map fun i => let a := st[i]!; let b := st[i + 1]!; chord a.x a.y b.x b.y).toArray
  let steep := ((List.range segs.size).find? fun q => (f32 (lim l 8)).lt (f32 (fabs32 (wordAt (segs.getD q []) 0x34)))).elim (m + 1) (32 * ·)
  let caps := capsOf l st ds m steep
  let v := forwardV l st ds caps m 0 (some a0) #[fabs32 v0]
  let v := v.set! m (fmin32 (at' v m) vend)
  let v := backwardV l st ds m v
  let (t, fin) := timesOf ds v m 0 #[0]
  let hl := lim l 10
  let hitch := fabs32 hl != 0
  let io0 := fsub32 (st[0]!).psi impl0
  let iota := if hitch then implHead hl (lim l 11) st ds m 0 #[io0] else #[]
  ({ st := st, ds := ds, v := v, t := t, fin := fin, m := m, iota := iota, hitch := hitch }, steep)

/-- The status word of TSCALE. -/
def tscaleStatus (l : Array Nat) (segs : Array (List Byte)) (p : Profile) (steep v0 nout : Nat) (ss : List Smp) : Nat :=
  let tEnd := at' p.t p.fin
  let last := f32c (nout - 1) 100
  let trunc := (f32 last).lt (f32 tEnd)
  let short := (f32 tEnd).lt (f32 last)
  let radius := segs.any fun s => bit (wordAt s 0x3C) 1
  let decel := flt32 (at' p.v 0) (fabs32 v0)
  let atEnd := p.fin == p.m
  let endb := atEnd && short && fabs32 (at' p.v p.m) != 0
  let art := (List.range (p.m + 1)).any fun i => flt32 (lim l 12) (fabs32 (p.impl (p.st[i]!).psi (at' p.iota i)))
  [trunc, short, radius, decide (steep ≤ p.m), decel, endb, art, limitHit l ss, !atEnd].zipIdx.foldl (fun n q => n + b2n q.1 * 2 ^ q.2) 0

/-- A pose of R205 for a sample. -/
def poseBytes (zref tau0 : Nat) (p : Profile) (k : Nat) (s : Smp) : List Byte :=
  let psi := s.w.getD 2 0
  let io := if p.hitch then s.iota else psi
  ([s.w.getD 0 0, s.w.getD 1 0, zref, cos32 (f32 psi), sin32 (f32 psi), cos32 (f32 io), sin32 (f32 io), (tau0 + 10000 * k) % 2 ^ 32].map (leBytes 4)).flatten

/-- What TSCALE reads: the job record, the limits and the segments (R227). -/
structure ScaleIn where
  job  : List Byte
  l    : Array Nat
  segs : Array (List Byte)

/-- Output samples, and the addresses of the samples and of the poses (0 for none). -/
def ScaleIn.nout (a : ScaleIn) : Nat := leNat ((a.job.drop 0x24).take 2)
/-- Address of the samples. -/
def ScaleIn.out (a : ScaleIn) : Nat := leNat ((a.job.drop 8).take 8)
/-- Address of the poses, 0 for none. -/
def ScaleIn.pose (a : ScaleIn) : Nat := leNat ((a.job.drop 0x28).take 8)

/-- The checks and reads of TSCALE. -/
def tscaleRead (e : Enc) (k : Nat) : Ex ScaleIn := do
  let j ← jobRecord e k
  let inp := leNat (j.take 8)
  let out := leNat ((j.drop 8).take 8)
  let n := wordAt j 0x10
  let nout := leNat ((j.drop 0x24).take 2)
  let pose := leNat ((j.drop 0x28).take 8)
  let psz := if pose = 0 then 0 else 32 * nout
  checks [ (!within 1 1023 n || !within 1 400 nout || leNat ((j.drop 0x26).take 2) != 0 || leNat (j.drop 0x38) != 0 || (f32 (wordAt j 0x1C)).lt FV.zero
      || overlap out (32 * nout) inp (64 * n) || overlap out (32 * nout) pose psz, ILLEGAL_OPERAND),
    (!(localRegion inp (64 * n) && localRegion out (32 * nout) && (pose == 0 || localRegion pose psz)), ACCESS) ]
  let l ← limitsOf k
  let bs ← rd k inp (64 * n)
  pure { job := j, l := l, segs := ((List.range n).map fun i => (bs.drop (64 * i)).take 64).toArray }

/-- An input that is not finite, but for an SLIM of +∞: INVALID (R229). -/
def ScaleIn.bad (a : ScaleIn) : Bool :=
  (a.segs.any fun s => !((List.range 14).all fun i => fin32 (wordAt s (4 * i))) || !finOrInf32 (wordAt s 0x38))
    || !([0x14, 0x18, 0x1C, 0x20].all fun o => fin32 (wordAt a.job o)) || (a.pose != 0 && !fin32 (wordAt a.job 0x34))

/-- The profile and its samples (R227, R228). -/
def ScaleIn.samples (a : ScaleIn) : Profile × Nat × List Smp :=
  let (p, steep) := profileOf a.l a.segs (wordAt a.job 0x14) (wordAt a.job 0x18) (wordAt a.job 0x1C) (wordAt a.job 0x20)
  (p, steep, (List.range a.nout).map (p.sample a.segs))

/-- Write the samples and, where asked for, the poses. -/
def tscaleWrite (k : Nat) (a : ScaleIn) : Ex Unit := do
  let (p, _, ss) := a.samples
  wr k 0 a.out ((ss.map fun s => (s.w.map (leBytes 4)).flatten).flatten)
  if a.pose ≠ 0 then wr k 0 a.pose ((ss.zipIdx.map fun q => poseBytes (wordAt a.job 0x34) (wordAt a.job 0x30) p q.2 q.1).flatten) else pure ()

/-- The status word of TSCALE (R229). -/
def ScaleIn.status (a : ScaleIn) : Nat :=
  if a.bad then 2 ^ 7 + b2n (a.segs.any fun s => bit (wordAt s 0x3C) 1) * 4 + b2n (a.segs.any fun s => (f32 (lim a.l 8)).lt (f32 (fabs32 (wordAt s 0x34)))) * 8
  else let (p, steep, ss) := a.samples; tscaleStatus a.l a.segs p steep (wordAt a.job 0x14) a.nout ss

/-- SUPATH.TSCALE (R227-R229). -/
def tscaleBody (e : Enc) (k : Nat) : Ex Unit := do
  let a ← tscaleRead e k
  if a.bad then pure () else tscaleWrite k a
  setS k e.d (BitVec.ofNat 64 a.status)

end Sys2Proof.Machine
end

