-- ==== Sys2Proof/Machine/Plan.lean ====
section
/-! DEFINITION. The plan port (R233, R235-R239): draft checks, sending, acknowledgements, the armed stop and the planning deadline. -/

namespace Sys2Proof.Machine

/-- SUPLAN (OPC 0x6B): COMMIT 0, STOP 1. -/
def dSuplan (sub : Nat) : IDesc := { opc := 0x6B, sub := sub, fmt := .R, rsvB := (if sub = 0 then fB else 0) + fC }
/-- SUSYNC (OPC 0x6C). -/
def dSusync : IDesc := { opc := 0x6C, sub := 0, fmt := .R, rsvB := fA + fB + fC }

/-- An island's state. -/
def Chip.isl (c : Chip) (i : Isl) : IslSt := match i with
  | .A => c.islA
  | .B => c.islB

/-- Change an island's state. -/
def Chip.updIsl (c : Chip) (i : Isl) (f : IslSt → IslSt) : Chip := match i with
  | .A => { c with islA := f c.islA }
  | .B => { c with islB := f c.islB }

/-! ## Records (R235) -/

/-- Bytes of a plan record. -/
def planBytes : Nat := 25856

/-- A number in a record. -/
def fieldAt (r : List Byte) (off n : Nat) : Nat := leNat ((r.drop off).take n)

/-- Replace bytes of a record. -/
def patch (r : List Byte) (off n v : Nat) : List Byte := r.take off ++ leBytes n v ++ r.drop (off + n)

/-- Sample `k` of the MAIN (0x100) or STOP (0x3300) trajectory. -/
def sampleAt (r : List Byte) (base k : Nat) : List Byte := (r.drop (base + 32 * k)).take 32

/-- The seven FP32 fields of every sample are finite. -/
def trajFinite (r : List Byte) (base : Nat) : Bool := (List.range 400).all fun k => (List.range 7).all fun j => fin32 (fieldAt r (base + 32 * k + 4 * j) 4)

/-- The zero bits of every sample's FLAGS are zero. -/
def trajZero (r : List Byte) (base : Nat) : Bool := (List.range 400).all fun k => let f := fieldAt r (base + 32 * k + 0x1C) 4; f / 65536 == 0 && f % 256 == 0

/-- The last sample of STOP is at rest. -/
def stopsAtRest (r : List Byte) : Bool := let s := sampleAt r 0x3300 399; fabs32 (fieldAt s 0xC 4) == 0 && fabs32 (fieldAt s 0x10 4) == 0

/-- start(F) and D(F) by a schedule (R23, R24). -/
def Sched.start (s : Sched) (f : Nat) : Int := (s.base : Int) + ((f : Int) - s.fb) * s.t
/-- The commit deadline of a frame. -/
def Sched.deadline (s : Sched) (f : Nat) : Int := s.start (f + 1) + s.l

/-- The planning deadline of a frame at a site (R238). -/
def Chip.planDeadline (c : Chip) (site f : Nat) : Option Int :=
  (c.suSt site).sched.map fun s => s.deadline f - (((c.suSt site).guards.get f (bits (c.reg (suK site 0x200)) 31 16)) * 10000 : Nat)

/-- The draft's form (R236 step 3); a STOP ignores MAIN and SCORE (R237). -/
def draftForm (stop : Bool) (r : List Byte) (d : Int) : Bool :=
  let t0 : Int := fieldAt r 0x10 8
  fieldAt r 0 4 == 0x4E414C50 && fieldAt r 0x2C 2 == 400 && fieldAt r 0x2E 2 == 400 && decide (fieldAt r 0x22 1 ≤ 2) && decide (fieldAt r 0x23 1 ≤ 7)
    && leNat ((r.drop 0x36).take 202) == 0 && trajFinite r 0x3300 && trajZero r 0x3300
    && (stop || (trajFinite r 0x100 && trajZero r 0x100 && fin32 (fieldAt r 0x30 4)))
    && decide (d ≤ t0) && decide (t0 < d + 10000000)

/-- A stop record: the stop copied into MAIN, CLASS 0, SCORE −∞ (R235, R237). -/
def stopRecord (r : List Byte) : List Byte :=
  let r := patch (patch r 0x22 1 0) 0x30 4 0xFF800000
  r.take 0x100 ++ (r.drop 0x3300).take 12800 ++ r.drop 0x3300

/-! ## Sending (R236 step 7) -/

/-- Write a record into an island's buffer through its mailbox: only the plan port of the hall that SI_PLANSRC names may
    (R300). Nothing arrives at an island that is in reset or whose link is not UP; while the link retrains the record waits (R347). -/
def Chip.mailRecord (c : Chip) (i : Isl) (hall : Nat) (r : List Byte) : Chip :=
  let link := (c.yard.ports.get (16 * (0x4E + islN i) + 8) {}).state
  if link = 3 then c.updIsl i fun s => { s with mail := s.mail ++ [(hall, r)] }
  else if !(c.isl i).up || link ≠ 2 then c
  else if bits (c.reg (siK i 0x20)) 7 0 = hall then c.putRaw (islKey i ((c.isl i).wbuf * 0x8000)) r else c.bump (siK i 0xC0)

/-- The records that waited for a retrain arrive, or are lost with a link that fences. -/
def Chip.mailFlush (c : Chip) (i : Isl) : Chip :=
  (c.isl i).mail.foldl (fun c m => c.mailRecord i m.1 m.2) (c.updIsl i fun s => { s with mail := [] })

/-- Write the plan port's fields and send the record to both islands. -/
def Chip.sendRecord (c : Chip) (site p frame reason idx : Nat) (own : Bool) (r : List Byte) : Chip :=
  let u := c.suSt site
  let seq := (u.seq + 1) % 2 ^ 32
  let hall := (c.hallOf site).getD 0xFF
  let r := patch (patch (patch (patch (patch (patch r 0x8 8 frame) 0x18 8 (c.localTime site)) 0x20 2 reason) 0x28 4 seq) 0x34 1 hall) 0x35 1 p
  let r := patch r 4 4 (crc32c (r.drop 8))
  let c := (c.mailRecord .A hall r).mailRecord .B hall r
  let c := c.updSu site fun u => { u with seq := seq, sent := some frame, sentF := (frame :: u.sentF).take 8, statOf := if own then some seq else u.statOf, exch := u.exch ++ [{ seq := seq, part := p, idx := idx, sent := c.time.now, own := own }] }
  if own then c.onCtx p idx fun x => { x with planOf := some seq } else c

/-- The status word of a record that is sent. -/
def Exch.status (x : Exch) : Nat := b2n x.ackA * 256 + b2n x.ackB * 512 + x.seq * 65536

/-- What the plan port answers: a status at once, or a record sent, whose status waits for the acknowledgements. -/
inductive PlanOut where
  | done (status : Nat)
  | open
  | disabled
deriving DecidableEq, Repr

/-- Count and report a refusal (R236). -/
def Chip.planRefuse (c : Chip) (site p code : Nat) : Chip × PlanOut :=
  ((c.bump (suK site 0x230)).post .PLAN_REFUSED (hallUnit site 3) (some p) code, .done code)

/-- The plan port executes a SUPLAN of a partition's context for frame LFC (R236, R237). `kind` is 0 COMMIT, 1 ARM, 2 NO_PATH;
    `misread` tells that the two reads of the draft gave different CRCs (a hardware fact). -/
def Chip.planPort (c : Chip) (site p idx frame kind : Nat) (keys : List (Nat × Nat)) (misread : Bool) : Chip × PlanOut :=
  let u := c.suSt site
  let stop := kind != 0
  if !bit (c.reg (suK site 0x200)) 0 then (c, .disabled)
  else match u.sched, c.planDeadline site frame with
    | some s, some dl =>
      if decide (dl ≤ (c.localTime site : Int)) || (match u.sent with
          | some g => decide (frame ≤ g)
          | none => false) then c.planRefuse site p 2
      else
        let r := c.piecesBytes keys
        if !draftForm stop r (s.deadline frame) then c.planRefuse site p 3
        else if fieldAt r 0x24 4 != ((c.part p).scenes.get (fieldAt r 0x23 1) {}).epoch then c.planRefuse site p 1
        else if !stop && (sampleAt r 0x100 0).take 28 != (sampleAt r 0x3300 0).take 28 then c.planRefuse site p 4
        else if !stopsAtRest r then c.planRefuse site p 5
        else
          let (c, ue) := keys.foldl (fun (q : Chip × Bool) k => let (c, b) := q.1.sense k.1 k.2; (c, q.2 || b)) (c, false)
          let crc := fun w => (Config.misreadCrc site c.time.now w).toNat
          if ue || (misread && !stop) then
            (c.sendErr { unit := hallUnit site 3, cls := 0x17, part := p, synd := if ue then 2 ^ 64 else crc 0 + crc 1 * 2 ^ 32 }).planRefuse site p 6
          else if kind = 1 then
            (c.updSu site fun u => { u with arm := some { frame := frame, slot := fieldAt r 0x23 1, epoch := fieldAt r 0x24 4, draft := r } }, .done 7)
          else if kind = 2 then (c.sendRecord site p frame 1 idx true (stopRecord r), .open)
          else (c.sendRecord site p frame 0 idx true r, .open)
    | _, _ => c.planRefuse site p 2

/-! ## The context's side (R233) -/

/-- A SUPLAN of a context has its status at once (R233, R236). -/
def Chip.planDone (c : Chip) (site p i status : Nat) : Chip :=
  (c.updSu site fun u => { u with stat := status, statOf := none }).onCtx p i fun x => { x with suplan := BitVec.ofNat 64 status, planOf := none }

/-- The keys of a draft at a local address (R236). -/
def draftAt (a k : Nat) : Ex (List (Nat × Nat)) := do
  checks (recAddr a planBytes 256)
  translate k a planBytes false

/-- SUPLAN.COMMIT and SUPLAN.STOP (R236, R237): held in a CHECKED block (R233), else executed now. -/
def suplanBody (stop misread : Bool) (e : Enc) (k : Nat) : Ex Unit := do
  let a := (← getS k e.a).toNat
  let mode := (← getS k (if stop then e.b else 0)).toNat
  checks ([((← get).suDenied k, ACCESS), (mode / 2 != 0, ILLEGAL_OPERAND)] ++ recAddr a planBytes 256)
  let kind := if stop then 1 + mode else 0
  let x ← ctxOf k
  match x.chk with
  | some _ => do
    let _ ← draftAt a k
    hold k 0x6B (b2n stop) (if stop then [BitVec.ofNat 64 a, BitVec.ofNat 64 mode] else [BitVec.ofNat 64 a])
    setS k e.d 0xFF
    updC k fun x => { x with suplan := 0xFF, planOf := none }
  | none => do
    let keys ← draftAt a k
    let (c, out) := (← get).planPort (k / 8) x.part x.idx x.lfc kind keys misread
    match out with
    | .disabled => raise ACCESS 0 a
    | .done s => do
      set (c.planDone (k / 8) x.part x.idx s)
      setS k e.d (BitVec.ofNat 64 s)
    | .open => set (c.block k (.plan e.d))

/-- A held SUPLAN is executed at commit (R233). -/
def Chip.suplanHeld (c : Chip) (k : Nat) (h : Held) (misread : Bool) : Chip :=
  let x := c.ctx k
  let site := k / 8
  let a := (h.ops.headD 0).toNat
  let kind := if h.sub = 0 then 0 else 1 + ((h.ops.getD 1 0).toNat % 2)
  let (c, out) := c.planPort site x.part x.idx x.lfc kind ((c.xlate k a planBytes false).getD []) misread
  match out with
  | .disabled => ((c.planRefuse site x.part 8).1).planDone site x.part x.idx 8
  | .done s => c.planDone site x.part x.idx s
  | .open => c.onCtx x.part x.idx fun x => { x with suplan := 0xFF }

/-- SUSYNC (R233): waits for the context's own open exchange. Later passes of a CHECKED block do not wait. -/
def susyncBody (e : Enc) (k : Nat) : Ex Unit := do
  need (!(← get).suDenied k) ACCESS
  let x ← ctxOf k
  let c ← get
  let waits := c.planOpen (k / 8) x.part x.idx != []
  if waits && !(← laterPass k) then modify fun c => c.block k (.plan e.d)
  else setS k e.d (BitVec.ofNat 64 (← recorded k 16 (return (← ctxOf k).suplan.toNat)))

/-! ## The end of an exchange (R221, R233, R236) -/

/-- The status of an exchange stands, unless a later SUPLAN has been executed since: in SU_PLANSTAT, and for its context (R233). -/
def Chip.exchStatus (c : Chip) (site : Nat) (x : Exch) : Chip :=
  let c := c.updSu site fun u => if u.statOf = some x.seq then { u with stat := x.status, statOf := none } else u
  c.onCtx x.part x.idx fun y => if y.planOf = some x.seq then { y with suplan := BitVec.ofNat 64 x.status, planOf := none } else y

/-- A context that waits in SUPLAN or SUSYNC. -/
def Wait.onPlan : Wait → Option Nat
  | .plan d => some d
  | _ => Option.none

/-- A context whose exchanges have all ended goes on from its SUPLAN or SUSYNC with the status of its most recent SUPLAN (R233,
    R236). -/
def Chip.planResume (c : Chip) (p i : Nat) : Chip :=
  let go : Ctx → Ctx := fun x => match x.wait.onPlan with
    | some d => { (x.ws d x.suplan) with wait := .none }
    | none => x
  let c := (c.waiting fun x w => x.part == p && x.idx == i && w.onPlan.isSome).foldl (fun c k =>
    let v := (c.ctx k).suplan.toNat
    c.resumeWith k 0x6B do setS k (((c.ctx k).wait.onPlan).getD 0) (BitVec.ofNat 64 (← recorded k 16 (pure v)))) c
  (c.savedWaiting fun _ w => w.onPlan.isSome).foldl (fun c key => if key = (p, i) then c.updSaved key go else c) c

/-- An exchange ends: its status stands, the releases and collectives behind it alone take effect in program order (R221), and a
    context that waits for it goes on. -/
def Chip.exchEnd (c : Chip) (site : Nat) (x : Exch) : Chip :=
  let c := c.updSu site fun u => { u with exch := u.exch.filter fun q => q.seq != x.seq }
  if !x.own then c
  else
    let c := c.exchStatus site x
    let left := (c.suSt site).owed.map fun o => { o with after := o.after.filter (· != x.seq) }
    let c := c.updSu site fun u => { u with owed := left.filter fun o => !o.after.isEmpty }
    let c := ((left.filter fun o => o.after.isEmpty).foldl Chip.releaseNow c).joinFreed x.part x.idx x.seq
    if c.planOpen site x.part x.idx = [] then c.planResume x.part x.idx else c

/-! ## Clearing and ownership (R220, R240) -/

/-- What a reset of the owner or a change of owner does to the unit (R220); node contents stay. A record in flight has been sent:
    its exchange ends with the acknowledgements that have arrived (log 78). -/
def Chip.suClear (c : Chip) (site : Nat) : Chip :=
  let c := c.updSu site fun u => { u with queues := [], nalloc := 0, arm := none }
  (c.suSt site).exch.foldl (fun c x => c.exchEnd site x) c

/-- The DCU assigns a Search Unit or releases it; the unit is cleared first (R220). -/
def Chip.suAssign (c : Chip) (site p : Nat) (en : Bool) : Chip := (c.suClear site).setReg (suK site 0) (p % 32 + b2n en * 256)

/-- A write to SU_OWNER (R240): from the DCU only, and not a change of PART while EN = 1. -/
def Chip.suOwnerWrite (c : Chip) (site v : Nat) (dcu : Bool) : Chip :=
  let o := c.reg (suK site 0)
  if !dcu || (bit o 8 && bits o 4 0 != bits v 4 0) then c.bump (suK site 0x50)
  else
    let c := if bits o 4 0 != bits v 4 0 || bit o 8 != bit v 8 then c.suClear site else c
    c.setReg (suK site 0) (bits v 4 0 + b2n (bit v 8) * 256)

/-! ## Acknowledgements (R236 step 7) -/

/-- An acknowledgement that an island has sent reaches the plan port. -/
def Chip.planAck (c : Chip) (site : Nat) (i : Isl) (seq : Nat) : Chip :=
  if !(c.isl i).ackOut.contains (site, seq) then c
  else
    let c := c.updIsl i fun s => { s with ackOut := s.ackOut.erase (site, seq) }
    match (c.suSt site).exch.find? fun q => q.seq == seq with
    | none => c
    | some q =>
      let q' := match i with
        | .A => { q with ackA := true }
        | .B => { q with ackB := true }
      let c := c.updSu site fun u => { u with exch := u.exch.map fun r => if r.seq = seq then q' else r }
      if q'.ackA && q'.ackB then c.exchEnd site q' else c

/-- The 20 µs wait of an exchange ends. -/
def Chip.planAckTimeout (c : Chip) (site seq : Nat) : Chip :=
  match (c.suSt site).exch.find? fun q => q.seq == seq with
  | none => c
  | some q => if q.sent + 20000 ≤ c.time.now then c.exchEnd site q else c

/-! ## The deadline, the arm and the schedule (R237, R238) -/

/-- The planning deadline of frame `f` at a plan sender. -/
def Chip.planningDeadline (c : Chip) (site f : Nat) : Chip :=
  let u := c.suSt site
  match c.planDeadline site f with
  | none => c
  | some dl =>
    if !bit (c.reg (suK site 0x200)) 0 || decide ((c.localTime site : Int) < dl) || decide (dl ≤ (u.enAt : Int)) || (match u.passed with
        | some g => decide (f ≤ g)
        | none => false) then c
    else
      let o := c.reg (suK site 0)
      let p := bits o 4 0
      let part := if bit o 8 then some p else none
      let later := match u.sent with
        | some g => decide (f < g)
        | none => false
      let c := c.updSu site fun u => { u with passed := some f }
      let armed := u.arm.filter fun a => a.frame == f
      let c := if !u.sentF.contains f then
          match armed.filter fun _ => !later with
          | some a => ((c.sendRecord site p f 2 0 false (stopRecord a.draft)).bump (suK site 0x220)).post .PLAN_TIMEOUT (hallUnit site 3) part
          | none => (c.bump (suK site 0x228)).post .PLAN_MISSING (hallUnit site 3) part
        else c
      if u.arm.any fun a => decide (a.frame ≤ f) then c.updSu site fun u => { u with arm := none } else c

/-- Step 3 of a landing start: arms whose epoch has moved on are disarmed (R237, R447). -/
def Chip.disarmStale (c : Chip) : Chip :=
  (c.su.map Prod.fst).foldl (fun c site => match (c.suSt site).arm with
    | none => c
    | some a =>
      let o := c.reg (suK site 0)
      if ((c.part (bits o 4 0)).scenes.get a.slot {}).epoch != a.epoch then
        (c.updSu site fun u => { u with arm := none }).post .STOP_DISARMED (hallUnit site 3) (if bit o 8 then some (bits o 4 0) else none)
      else c) c

/-- The frame schedule as the DCU now distributes it. -/
def Chip.schedule (c : Chip) : Option Sched :=
  if c.time.fixed then some { base := c.start c.time.frame, fb := c.time.frame, t := c.T, l := c.L } else none

/-- The DCU's frame schedule reaches a plan port (R238). -/
def Chip.scheduleTo (c : Chip) (site : Nat) : Chip :=
  match c.schedule with
  | some s => c.updSu site fun u => { u with sched := some s }
  | none => c

/-- A frame starts: each plan port keeps its GUARD for it (R238). -/
def Chip.keepGuards (c : Chip) (f : Nat) : Chip :=
  (List.range 72).foldl (fun c site => if bit (c.reg (suK site 0x200)) 0 then c.updSu site fun u => { u with guards := AMap.set (u.guards.filter fun e => f ≤ e.1 + 3) f (bits (c.reg (suK site 0x200)) 31 16) } else c) c

/-- The frames that have started keep the GUARD of their start at a plan port, which a write to come does not change (R238). -/
def Chip.fixGuards (c : Chip) (site : Nat) : Chip :=
  let g := bits (c.reg (suK site 0x200)) 31 16
  let fs := if c.time.running then [c.time.frame - 1, c.time.frame] else []
  c.updSu site fun u => { u with guards := fs.foldl (fun m f => if (m.look f).isSome then m else m.set f g) (u.guards.filter fun e => c.time.frame ≤ e.1 + 3) }

/-- A write of SU_PLANCTL: GUARD 0 is reserved (R6), and setting EN starts the watch (R239). -/
def Chip.planCtlWrite (c : Chip) (site v : Nat) : Chip :=
  if bits v 31 16 = 0 then c.bump (suK site 0x50)
  else
    let c := c.fixGuards site
    let c := if bit v 0 && !bit (c.reg (suK site 0x200)) 0 then c.updSu site fun u => { u with enAt := c.localTime site } else c
    c.setReg (suK site 0x200) (b2n (bit v 0) + bits v 31 16 * 65536)

end Sys2Proof.Machine
end

