-- ==== Sys2Proof/Machine/Commit.lean ====
section
/-! DEFINITION. BLOCK_COMMIT (R252-R254): COMMITTING publishes the pages, applies the held operations in program order, and the block reaches NONE. -/

namespace Sys2Proof.Machine

/-- The pass whose set is committed. -/
def Block.winner (b : Block) : Pass := if b.set = 1 then b.shad else if b.set = 2 then b.arb else b.prim

/-- The state with a page published: copied whole and tagged (R253), or, in a block of an ASYNC window, the bytes written alone (R258). -/
def Chip.publish (c : Chip) (k key : Nat) (p : Page) : Chip :=
  match p.spans with
  | none => (c.putRaw (p.dest * 4096) (c.bytesAt key 4096)).tagBlock p.dest (c.stbProducer (k / 2))
  | some ss => ss.foldl (fun c q => c.putRaw (p.dest * 4096 + q.1) (c.bytesAt (key + q.1) q.2)) c

/-- Publish one page: compare its CRC, copy it to its destination block and tag that block (R253). -/
def publishPage (k set : Nat) (p : Page) : Ex Unit := do
  let key ← pageKey k set p.idx
  let (c, ue) := (← get).sense key 4096
  put' c
  if ue || crc32c (c.bytesAt key 4096) != p.crc then raise TAG 0 (c.devAddr (p.dest * 4096))
  else modify fun c => c.publish k key p
where
  /-- Replace the state. -/
  put' (c : Chip) : Ex Unit := fun _ => .ok ((), c)

/-- Publish pages in order; at a failure the blocks already published take the poison tag and TAG is raised (R253). -/
def publishPages (k set : Nat) : List Page → (done : List Nat) → Ex Unit
  | [], _ => pure ()
  | p :: ps, done => fun c => match publishPage k set p c with
    | .ok ((), c') => publishPages k set ps (done ++ [p.dest]) c'
    | .error t => .error { t with keep := true, chip := done.foldl Chip.poison t.chip }

/-- Apply one held operation at commit (R149, R194, R233). -/
def Chip.applyHeld (c : Chip) (k : Nat) (misread : Bool) (h : Held) : Chip :=
  let p := (c.ctx k).part
  let w := fun i => h.ops.getD i 0
  let n := fun i => (w i).toNat
  match h.opc with
  | 0x12 => c.runEx k 0x12 do
      let _ ← atomAt k h.sub (n 0) (w 1)
      pure ()
  | 0x11 => c.launchHeld k h
  | 0x51 => c.kvFld (k / 2) (n 0) 1 24 16 (n 1)
  | 0x52 => c.runEx k 0x52 (kvRefNow k (n 0) (h.sub == 1))
  | 0x72 => c.owe k h fun c => if h.sub = 0 then c.evtSet p (n 0) else if h.sub = 2 then c.evtClr p (n 0) else c.evtPost k (w 0) (w 1)
  | 0x73 => c.owe k h fun c => c.barArrive p (n 0)
  | _ => c.suplanHeld k h misread

/-- Held operations in program order, until one faults. -/
def Chip.applyHelds (c : Chip) (k : Nat) (misread : Bool) : List Held → Chip
  | [] => c
  | h :: hs => if (c.ctx k).blk.isNone then c else Chip.applyHelds (c.applyHeld k misread h) k misread hs

/-- Blocks of RESERVED frames that the committing pass wrote are tagged, and the pages become LIVE (R166, R179, R194). -/
def Chip.liveReserved (c : Chip) (k : Nat) (b : Block) : Chip :=
  let c := b.resBlks.foldl (fun c q => c.tagBlock q (c.stbProducer (k / 2))) c
  (b.reserved.foldl (fun c r => c.kvFld r.1 r.2 0 1 0 1) c).updCtx k fun x => { x with blk := x.blk.map fun b => { b with reserved := [] } }

/-- The block reaches NONE (R252): V and ACC read zero, the counter advances, and what was owed until now happens (R50,
    R131, R254). -/
def Chip.endBlock (c : Chip) (k : Nat) : Chip :=
  match (c.ctx k).blk with
  | none => c
  | some _ =>
    let c := (c.updCtx k fun x => { x with blk := none, v := [], acc := [], accNeg := [], lost := [] }).bump (stbK (k / 2) 0xC0)
    if (c.ctx k).abandon then c.abandonNow k else (c.waitColl k).applyMove k

/-- COMMITTING of the slot's block finishes. `misread` is the hardware fact of R236 step 6, for a held SUPLAN. -/
def Chip.blockCommit (c : Chip) (k : Nat) (misread : Bool) : Chip :=
  match (c.ctx k).blk with
  | none => c
  | some b =>
    if b.checked && b.state == 6 then
      match publishPages k b.set b.winner.pages [] c with
      | .error t => t.take c k 0
      | .ok ((), c') => ((c'.liveReserved k b).applyHelds k misread b.winner.held).endBlock k
    else c

end Sys2Proof.Machine
end

