-- ==== Sys2Proof/Machine/Records.lean ====
section
/-! DEFINITION. Event and error records as bytes (R406, R425, R426), and an island's event ring (R303). -/

namespace Sys2Proof.Machine

/-- A record body of (offset, bytes, value) fields over zeros. -/
def bodyBytes (n : Nat) (fs : List (Nat × Nat × Nat)) : List Byte :=
  fs.foldl (fun bs f => patch bs f.1 f.2.1 f.2.2) (List.replicate n 0)

/-- The 64 bytes of an event record with its QSEQ. -/
def EvtRec.bytes (r : EvtRec) (qseq : Nat) : List Byte :=
  bodyBytes 64 ([(0, 2, r.typ), (2, 2, qseq), (4, 4, r.unit), (8, 8, r.time)] ++ r.body)

/-- The 64 bytes of an error record (R406). -/
def ErrRec.bytes (r : ErrRec) (seq : Nat) : List Byte :=
  bodyBytes 64 [(0, 4, r.unit), (4, 1, r.hall), (5, 1, r.cls), (6, 1, r.flags), (7, 1, r.opc), (8, 8, r.time), (0x10, 2, r.cbid), (0x12, 2, r.temp),
    (0x14, 2, r.volt), (0x16, 1, r.part), (0x17, 1, r.bin), (0x18, 4, seq), (0x1C, 4, r.count), (0x20, 16, r.synd), (0x30, 8, r.addr), (0x38, 4, r.blkseq)]

/-- The bytes of a ring record. -/
def RingRec.bytes (r : RingRec) (n : Nat) : List Byte := match r with
  | .evt e => e.bytes n
  | .err e => e.bytes 0

/-- Place a record in an island's event ring: 512 slots of 64 bytes at 0x2_0000 (R303, log 27). -/
def Chip.ringPut (c : Chip) (i : Isl) (r : RingRec) : Chip :=
  let n := (c.isl i).ringIdx
  (c.putRaw (islKey i (0x20000 + n % 512 * 64)) (r.bytes n)).updIsl i fun s => { s with ringIdx := n + 1, ring := s.ring ++ [r] }

/-- Die code of an island. -/
def islDie (i : Isl) : Nat := 0x50 + islN i

/-- An island writes an event record with up to two values (R426). -/
def Chip.islEvent (c : Chip) (i : Isl) (e : Ev) (v1 : Nat := 0) (v2 : Nat := 0) : Chip :=
  c.ringPut i (.evt { c.mkEv e (islUnit i) [(0x10, 1, 0xFF), (0x18, 8, v1), (0x20, 8, v2)] with time := c.localTime (islDie i) })

/-- An island writes an error record (R406). -/
def Chip.islErr (c : Chip) (i : Isl) (sub cls synd : Nat) (addr : Nat := 0) : Chip :=
  let u := islUnit i sub
  let cap := c.capture u
  c.ringPut i (.err { unit := u, cls := cls, synd := synd, time := c.localTime (islDie i), temp := cap.1, volt := cap.2.1, bin := cap.2.2, addr := addr })

/-- The DCU copies an island's oldest uncopied record (R303, R449): events go to queue 0, errors to the DCU's log with
    FLAGS.ISLAND. `up` tells that the island's link is up. -/
def Chip.ringCopy (c : Chip) (i : Isl) (up : Bool) : Chip :=
  match (c.isl i).ring with
  | [] => c
  | r :: rs =>
    if up then
      let c := c.updIsl i fun s => { s with ring := rs }
      match r with
      | .evt e => c.postTo 0 e
      | .err e => { c with log := { c.log with inbox := c.log.inbox ++ [{ e with flags := e.flags + 4 }] } }
    else c

end Sys2Proof.Machine
end

