-- ==== Sys2Proof/Machine/Islands.lean ====
section
/-! DEFINITION. The safety islands: traps and safe outputs (R301, R305), plan reception (R306, R307), frame outcomes (R308), control samples and set-points (R299, R309), stop takeover (R310-R313), cross-comparison (R314-R316), DTHOLD (R298), watchdog (R304), encoders and ADC (R323). -/

namespace Sys2Proof.Machine

/-! ## Flags, traps and safe outputs -/

/-- The processor's open check block is in its primary pass: a waiting outcome is recorded (R302). -/
def IslSt.note (s : IslSt) (bytes val : Nat) : IslSt :=
  { s with blk := s.blk.map fun b => if b.state = 1 then { b with recs := b.recs ++ [{ bytes := bytes, val := val }] } else b }

/-- Set an island's event flag (R303); a processor that waits for it goes on. -/
def Chip.islFlag (c : Chip) (i : Isl) (f : Nat) : Chip :=
  c.updIsl i fun s =>
    let s := { s with flags := s.flags ||| 2 ^ f }
    if s.wait.onFlag f then { s.note 16 1 with wait := .none } else s

/-- A trap puts the island in FAULT with its error record (R301, R305). -/
def Chip.islTrap (c : Chip) (i : Isl) (code : Nat) : Chip :=
  if (c.isl i).trap ≠ 0 ∨ !(c.isl i).up then c
  else (c.updIsl i fun s => { s with trap := code, blk := none, wait := .none }).islErr i 1 0x18 code

/-- Channels of a Loop Engine. -/
def IslSt.ch (s : IslSt) (n : Nat) : LeCh := s.le.get n {}

/-- Change a channel. -/
def Chip.updCh (c : Chip) (i : Isl) (n : Nat) (f : LeCh → LeCh) : Chip := c.updIsl i fun s => { s with le := s.le.upd n {} f }

/-- Word `w` of a bank. -/
def LeCh.word (h : LeCh) (bank w : Nat) : Nat := h.words.get (128 * bank + w) 0

/-- A channel is OFF, with its output at SAFE (R320). -/
def LeCh.off (h : LeCh) : LeCh := { h with st := 0, u := h.word h.bankact 5, cmd := none, due := none }

/-- Every PWM at its SAFEDUTY, every enabled GPIO at its safe level, every channel OFF (R305). -/
def Chip.safeOutputs (c : Chip) (i : Isl) : Chip :=
  let g := c.reg (siK i 0xB0)
  let duty := (List.range 8).map fun p => (p, bits (c.reg (sioK i (0x100 + 8 * p))) 47 32)
  let out := (List.range 16).foldl (fun n j => if bit g (16 + j) then setBits n j j (b2n (bit g j)) else n) (c.isl i).gpioOut
  c.updIsl i fun s => { s with pwmOut := duty, gpioOut := out, le := s.le.map (fun e => (e.1, e.2.off)), safe := true }

/-! ## Plan reception (R306, R307) -/

/-- D(F) of an island's frame schedule (R306). -/
def IslSt.deadline (s : IslSt) (f : Nat) : Int := (s.fs.getD { base := 0, fb := 0, t := 0, l := 0 }).deadline f

/-- The record in a buffer. -/
def Chip.planBuf (c : Chip) (i : Isl) (b : Nat) : List Byte := c.bytesAt (islKey i (b * 0x8000)) planBytes

/-- The refusal code of a record, 0 where it is accepted (R306). -/
def Chip.planCheck (c : Chip) (i : Isl) (buf : Nat) : Nat :=
  let s := c.isl i
  let src := c.reg (siK i 0x20)
  let r := c.planBuf i s.wbuf
  let f := fieldAt r
  let frame := f 8 8
  let now := c.localTime (islDie i)
  let d := s.deadline frame
  let reason := f 0x20 2
  let old := match s.lastAcc with
    | some (lf, ls) => decide (frame ≤ lf) || decide (f 0x28 4 ≤ ls)
    | none => false
  if !s.timed then 7
  else if !bit src 16 || f 0x34 1 != bits src 7 0 || f 0x35 1 != bits src 12 8 then 1
  else if buf ≠ s.wbuf then 2
  else if f 0 4 ≠ 0x4E414C50 then 3
  else if f 4 4 ≠ crc32c (r.drop 8) then 4
  else if old then 5
  else if !(decide (d ≤ (f 0x10 8 : Int)) && decide ((f 0x10 8 : Int) < d + 10000000)) || decide (now < f 0x18 8) then 6
  else if d ≤ now then 7
  else if f 0x2C 2 != 400 || f 0x2E 2 != 400 || decide (reason > 2) || (reason != 0 && f 0x22 1 != 0) || leNat ((r.drop 0x36).take 202) != 0
      || !trajZero r 0x100 || !trajZero r 0x3300 || !trajFinite r 0x100 || !trajFinite r 0x3300
      || (if reason = 0 then !fin32 (f 0x30 4) else f 0x30 4 != 0xFF800000) || !stopsAtRest r then 8
  else 0

/-- The lowest buffer that holds neither the active nor a pending record; WBUF stays where there is none (log 28). -/
def IslSt.freeBuf (s : IslSt) : Nat := ([0, 1, 2].find? fun b => s.active != some b && !s.pend.contains b).getD s.wbuf

/-- A doorbell from the plan port of a hall (R300, R306, R307). -/
def Chip.planDoorbell (c : Chip) (i : Isl) (site buf : Nat) : Chip :=
  let s := c.isl i
  let src := c.reg (siK i 0x20)
  if !s.up then c
  else if c.hallOf site != some (bits src 7 0) then c.bump (siK i 0xC0)
  else
    let r := c.planBuf i s.wbuf
    let frame := fieldAt r 8 8
    let seq := fieldAt r 0x28 4
    match c.planCheck i buf with
    | 0 =>
      let crc := fieldAt r 4 4
      c.updIsl i fun s =>
        let s := { s with lastAcc := some (frame, seq), mine := s.mine.set frame (seq, crc), pend := s.pend ++ [buf], accOut := s.accOut ++ [(frame, seq, crc)],
                          ackOut := if s.trap = 0 then s.ackOut ++ [(site, seq)] else s.ackOut }
        { s with wbuf := s.freeBuf }
    | code => ((c.bump (siK i 0x58)).setReg (siK i 0x78) (code + frame % 2 ^ 32 * 2 ^ 32)).islEvent i .PLAN_REJECTED code frame

/-- The private link to the other island carries messages: neither end is fenced (R345). -/
def Chip.peerLink (c : Chip) (i : Isl) : Bool := [i, otherIsl i].all fun j => (c.yard.ports.get (16 * islDie j + 1) {}).state != 4

/-- The other island's oldest acceptance message arrives at island `i` (R307). -/
def Chip.acceptReceive (c : Chip) (i : Isl) : Chip :=
  match (c.isl (otherIsl i)).accOut with
  | [] => c
  | (f, q, crc) :: rest =>
    let c := c.updIsl (otherIsl i) fun s => { s with accOut := rest }
    if (c.isl i).up && c.peerLink i then c.updIsl i fun s => { s with peers := s.peers.set f (q, crc) } else c

/-! ## Frame outcomes (R307, R308) -/

/-- Bad frames among the last 100 deadlines. -/
def IslSt.bad100 (s : IslSt) : Nat := (s.outs.filter (!·)).length

/-- FRAME of the record in a buffer. -/
def Chip.bufFrame (c : Chip) (i : Isl) (b : Nat) : Nat := c.numAt (islKey i (b * 0x8000 + 8)) 8

/-- The island decides frame `f` at D(F): the frames are decided in order. A bad frame's pending record is freed (log 28). -/
def Chip.frameOutcome (c : Chip) (i : Isl) (f : Nat) : Chip :=
  let s := c.isl i
  let next := match s.decided with
    | some g => f == g + 1
    | none => s.mine.all fun e => decide (f ≤ e.1)
  if !s.up || s.fs.isNone || !s.timed || !next || decide ((c.localTime (islDie i) : Int) < s.deadline f) then c
  else
    let good := match s.mine.look f with
      | some a => s.peers.look f == some a
      | none => false
    let c := if good then c else c.bump (siK i 0x60)
    let keep := fun b => good || c.bufFrame i b != f
    let c := c.updIsl i fun s =>
      let s := { s with decided := some f, outs := (good :: s.outs).take 100, badrun := if good then 0 else s.badrun + 1,
                        pend := s.pend.filter keep, mine := s.mine.filter fun e => decide (f < e.1), peers := s.peers.filter fun e => decide (f < e.1) }
      { s with trig := if s.badrun ≥ 3 ∨ s.bad100 > 5 then s.trig ++ [1] else s.trig }
    c.islFlag i 4

/-! ## Set-points (R309, R311) -/

/-- An FP32 field interpolated between samples. -/
def lerp32 (f a b : Nat) : Nat := fadd32 a (fmul32 f (fsub32 b a))

/-- The exact value of an FP32 pattern in fixed point, and its sum with another. -/
def lerpHead (f a b : Nat) : Nat :=
  let d := wrapPi (fixF b - fixF a)
  wrapPi (fixF (fadd32 a (fmul32 f d)))

/-- A trajectory at `dt` ns after its first sample: X, Y, HEAD, SPEED, ACCEL, CURV, IMPL, FLAGS (R309). -/
def trajAt (r : List Byte) (base dt : Nat) : List Nat :=
  let k := dt / 10000000
  let w := fun k j => fieldAt r (base + 32 * k + 4 * j) 4
  if k ≥ 399 then (List.range 8).map (w 399)
  else
    let f := f32c (dt % 10000000) 10000000
    (List.range 8).map fun j => if j = 7 then w k 7 else if j = 2 then lerpHead f (w k 2) (w (k + 1) 2) else lerp32 f (w k j) (w (k + 1) j)

/-- MAIN of the record in a buffer at time `t`. -/
def Chip.mainAt (c : Chip) (i : Isl) (b t : Nat) : List Nat := let r := c.planBuf i b; trajAt r 0x100 (t - fieldAt r 0x10 8)

/-- A value of R311's transform, free as far as its rounding reaches (log 25). -/
def reanchored (item : Nat) (args : List Nat) (x mag : Rat) : Nat := freeNear (Config.reanchor item (coefW args)) 40 (args.all fin32) x mag

/-- The pose of a stop sample moved by the rigid transform that takes the pose of sample 0 onto the anchor's: X, Y, HEAD (R311). -/
def Anchor.move (a : Anchor) (p p0 : List Nat) : List Nat :=
  let g := fun (l : List Nat) j => l.getD j 0
  let args := [g p 0, g p 1, g p 2, g p0 0, g p0 1, g p0 2, a.x, a.y, a.head]
  let q := fun (l : List Nat) j => ratOr0 (g l j)
  let turn := fixF a.head - fixF (g p0 2)
  let co := mkRat (cosFix turn) (2 ^ FB)
  let si := mkRat (sinFix turn) (2 ^ FB)
  let dx := q p 0 - q p0 0
  let dy := q p 1 - q p0 1
  let reach := (absQ (q p 0) + absQ (q p0 0) + absQ (q p 1) + absQ (q p0 1)) * (1 + absQ (ratOr0 a.head) + absQ (q p0 2))
  let head := wrapPi (fixF (g p 2) + turn)
  [ reanchored 0 args (ratOr0 a.x + co * dx - si * dy) (absQ (ratOr0 a.x) + reach),
    reanchored 1 args (ratOr0 a.y + si * dx + co * dy) (absQ (ratOr0 a.y) + reach),
    reanchored 2 args (ratOr0 head) (absQ (q p 2) + absQ (q p0 2) + absQ (ratOr0 a.head)) ]

/-- The stop at time `t`: re-anchored, or MAIN of a record with REASON 1 or 2 (R311). -/
def Anchor.stopAt (a : Anchor) (t : Nat) : List Nat :=
  if fieldAt a.plan 0x20 2 ≠ 0 then trajAt a.plan 0x100 (t - fieldAt a.plan 0x10 8)
  else
    let v := trajAt a.plan 0x3300 (t - a.ts)
    let g := fun j => v.getD j 0
    let sp := if flt32 (fabs32 a.v) (fabs32 (g 3)) then fabs32 a.v else fabs32 (g 3)
    a.move v (trajAt a.plan 0x3300 0) ++ [g 3 / 2 ^ 31 * 2 ^ 31 + sp, g 4, g 5, g 6, g 7]

/-- The set-points of a sample: MAIN in PLAN and HOLD, the stop of the takeover in STOP, zeros where there is no record (log 29). -/
def Chip.setPoints (c : Chip) (i : Isl) (t : Nat) : List Nat :=
  let s := c.isl i
  if s.pmode = 3 then s.anchor.elim (List.replicate 8 0) fun a => a.stopAt t
  else s.active.elim (List.replicate 8 0) fun b => c.mainAt i b t

/-! ## Control samples (R299, R309-R314) -/

/-- CSP in ns. -/
def Chip.csp (c : Chip) (i : Isl) : Nat := bits (c.reg (siK i 8)) 4 0 * 100000

/-- Pending records that are good and due become active in order (R307). `mine` of a decided good frame has been dropped, so
    a pending record whose frame is decided is good. -/
def Chip.activate' (c : Chip) (i : Isl) (t : Nat) : (fuel : Nat) → Chip
  | 0 => c
  | n + 1 =>
    let s := c.isl i
    match s.pend, s.decided with
    | b :: rest, some d =>
      if c.bufFrame i b ≤ d ∧ c.numAt (islKey i (b * 0x8000 + 0x10)) 8 ≤ t then
        let c := (c.updIsl i fun s => { s with active := some b, pend := rest }).islFlag i 1
        Chip.activate' c i t n
      else c
    | _, _ => c

/-- A trigger of R310 is present (log 16). -/
def Chip.trigPresent (c : Chip) (i : Isl) : Bool :=
  let s := c.isl i
  s.trig != [] || decide (s.badrun ≥ 3) || decide (s.bad100 > 5) || !s.peer || c.reg (siK i 0x18) != 0
    || (List.range 32).any fun n => (s.ch n).st == 4 && bit (c.reg (leK i (0x1000 + n * 0x1000))) 1

/-- Enter STOP with the lowest cause decided (R310, log 16), re-anchoring the stop (R311). -/
def Chip.enterStop (c : Chip) (i : Isl) (t cause : Nat) : Chip :=
  let s := c.isl i
  let a := s.active.map fun b =>
    let m := c.mainAt i b t
    { ts := t, x := m.getD 0 0, y := m.getD 1 0, head := m.getD 2 0, v := m.getD 3 0, plan := c.planBuf i b : Anchor }
  (c.updIsl i fun s => { s with pmode := 3, cause := cause, anchor := a, resumed := false }).islEvent i .SAFE_STOP cause

/-- PMODE outside STOP (R309). -/
def IslSt.mode (s : IslSt) : Nat := if s.active.isNone then 0 else if s.badrun = 0 then 1 else 2

/-- The mode of a sample: STOP on a trigger, out of STOP under R313. -/
def Chip.sampleMode (c : Chip) (i : Isl) (t : Nat) : Chip :=
  let s := c.isl i
  let trig := if c.reg (siK i 0x18) ≠ 0 then s.trig ++ [5] else s.trig
  let c := c.updIsl i fun s => { s with trig := [] }
  if s.pmode = 3 then
    let leave := s.outs.take 2 == [true, true] && trig == [] && !c.trigPresent i && (bit (c.reg (siK i 8)) 8 || s.resumed)
    if leave then c.updIsl i fun s => { s with pmode := s.mode, anchor := none } else c
  else match trig with
    | [] => c.updIsl i fun s => { s with pmode := s.mode }
    | x :: xs => c.enterStop i t (xs.foldl min x)

/-- The compare message of a sample (R314). -/
def Chip.cmpMsg (c : Chip) (i : Isl) (t : Nat) : CmpMsg :=
  let s := c.isl i
  let fs := match s.active with
    | some b => let r := c.planBuf i b; (fieldAt r 8 8, fieldAt r 0x28 4)
    | none => (0, 0)
  let xs := ((List.range 32).filter fun n => bit (c.reg (leK i (0x1000 + n * 0x1000))) 2).take 4
  { time := t, pmode := s.pmode, cause := s.cause, frame := fs.1, seq := fs.2, badrun := s.badrun, bad100 := s.bad100, sp := s.sp,
    outs := xs.map fun n => (n, (s.ch n).u), dthold := s.dthold }

/-- The control sample of DEVTIME `t` (R299). -/
def Chip.sampleAt (c : Chip) (i : Isl) (t : Nat) : Chip :=
  let s := c.isl i
  let later := match s.sampled with
    | some u => decide (u < t)
    | none => true
  if !s.up || !later then c
  else
    let c := c.updIsl i fun s => { s with sampled := some t }
    if s.trap ≠ 0 then (if s.safe then c else c.safeOutputs i)
    else
      let c := c.activate' i t 3
      let c := c.sampleMode i t
      let c := if (c.isl i).pmode ≠ s.pmode then c.islFlag i 2 else c
      let c := c.updIsl i fun s => { s with sp := c.setPoints i t }
      let m := c.cmpMsg i t
      (c.updIsl i fun s => { s with sent := some m, link := some m }).islFlag i 0

/-- A control sample of the island, where its own DEVTIME copy stands at a multiple of CSP (R299). -/
def Chip.controlSample (c : Chip) (i : Isl) : Chip := match c.instant (islDie i) (c.csp i) with
  | some t => c.sampleAt i t
  | none => c

/-! ## Cross-comparison (R314-R316) -/

/-- The other island's message arrives, or arrives with a wrong CRC; Island B takes Island A's time while either holds
    (R298). -/
def Chip.compareReceive (c : Chip) (i : Isl) (crcOk : Bool) : Chip :=
  match (c.isl (otherIsl i)).link with
  | none => c
  | some m =>
    let c := c.updIsl (otherIsl i) fun s => { s with link := none }
    if !(c.isl i).up || !crcOk || !c.peerLink i || (c.isl i).trap ≠ 0 then c
    else
      let c := c.updIsl i fun s => { s with got := some m }
      if i = .B ∧ (m.dthold || (c.isl .B).dthold) = true then c.setOffset 0x51 ((c.localTime 0x50 : Int) - c.time.now) else c

/-- XTOL of a channel's active bank. -/
def LeCh.xtol (h : LeCh) : Nat := h.word h.bankact 19

/-- Two outputs differ by more than a tolerance. -/
def beyondTol (a b tol : Nat) : Bool := match rat32 a, rat32 b, rat32 tol with
  | some x, some y, some t => decide (t < (if x < y then y - x else x - y))
  | _, _, _ => a != b

/-- Consecutive differences of the XCMP channels after one comparison (R315). -/
def xcmpRuns (s : IslSt) (own got : CmpMsg) : AMap Nat Nat :=
  own.outs.map fun q => (q.1, match got.outs.find? fun r => r.1 == q.1 with
    | some r => if beyondTol q.2 r.2 (s.ch q.1).xtol then s.xrun.get q.1 0 + 1 else 0
    | none => 0)

/-- The comparison half a control sample after the sample (R315, R316). -/
def Chip.comparePoint (c : Chip) (i : Isl) : Chip :=
  let s := c.isl i
  match s.sent with
  | none => c
  | some own =>
    if !s.up || s.trap ≠ 0 || c.localTime (islDie i) < own.time + c.csp i / 2 then c
    else
      let c := c.updIsl i fun s => { s with sent := none, got := none }
      match s.got with
      | none =>
        (c.bump (siK i 0x70)).updIsl i fun s =>
          let s := { s with goodRun := 0, missRun := s.missRun + 1 }
          if s.missRun ≥ 2 then { s with peer := false, trig := s.trig ++ [3] } else s
      | some m =>
        let xr := xcmpRuns s own m
        let far := xr.any fun e => decide (e.2 ≥ bits (c.reg (siK i 8)) 27 24)
        let dis := own.time != m.time || own.pmode != m.pmode || own.frame != m.frame || own.seq != m.seq || own.badrun != m.badrun || own.bad100 != m.bad100 || own.sp != m.sp || far
        let c := c.updIsl i fun s => { s with missRun := 0, goodRun := s.goodRun + 1, peer := s.peer || decide (s.goodRun + 1 ≥ 8), xrun := xr }
        if dis then (c.bump (siK i 0x68)).updIsl i fun s => { s with trig := s.trig ++ [2] } else c

/-! ## Requests, watchdog, clock and time -/

/-- A write of SI_CTL.RESUME (R313): outside STOP it is ignored. -/
def Chip.siResume (c : Chip) (i : Isl) : Chip :=
  if (c.isl i).pmode = 3 then (c.setReg (siK i 0x18) 0).updIsl i fun s => { s with resumed := true } else c

/-- Set a bit of SI_STOPREQ: 0 DCU, 1 HOST, 2 FW (R300, R310). -/
def Chip.stopReq (c : Chip) (i : Isl) (b : Nat) : Chip := c.setReg (siK i 0x18) (c.reg (siK i 0x18) ||| 2 ^ b)

/-- A key written to SI_WDT (R304): 0x5A then 0xA5; any other value traps WATCHDOG. -/
def Chip.watchdogKey (c : Chip) (i : Isl) (v : Nat) : Chip :=
  if v = 0x5A then c.updIsl i fun s => { s with wdtKey := true }
  else if v = 0xA5 then c.updIsl i fun s => if s.wdtKey then { s with wdtKey := false, wdtAt := c.localTime (islDie i) } else s
  else c.islTrap i 0x20

/-- WDTIME has passed without the pair (R304). -/
def Chip.watchdogExpiry (c : Chip) (i : Isl) : Chip :=
  if (c.isl i).wdtAt + bits (c.reg (siK i 0xA8)) 15 0 * 100000 ≤ c.localTime (islDie i) then c.islTrap i 0x20 else c

/-- No time for 100 µs (R298). -/
def Chip.dtholdEnter (c : Chip) (i : Isl) : Chip :=
  let s := c.isl i
  if s.up && s.timed && !s.dthold && decide (s.timeAt + 100000 ≤ c.localTime (islDie i)) then c.updIsl i fun s => { s with dthold := true, timeBack := none } else c

/-- 1 ms after time has arrived again DTHOLD clears and the copy slews to the distributed value (R298). -/
def Chip.dtholdClear (c : Chip) (i : Isl) : Chip :=
  match (c.isl i).timeBack with
  | some b => if (c.isl i).dthold && decide (b + 1000000 ≤ c.localTime (islDie i)) then c.updIsl i fun s => { s with dthold := false, timeBack := none } else c
  | none => c

/-- A DEVTIME value reaches an island. -/
def Chip.timeToIsl (c : Chip) (i : Isl) : Chip :=
  c.updIsl i fun s =>
    let s := { s with timeAt := c.localTime (islDie i) }
    if s.dthold && s.timeBack.isNone then { s with timeBack := some (c.localTime (islDie i)) } else s

/-! ## Encoders and ADC (R323) -/

/-- A pulse on an encoder input, up or down, `period` (in 100 ns) after the last. -/
def Chip.encoderPulse (c : Chip) (i : Isl) (q : Nat) (up : Bool) (period : Nat) : Chip :=
  c.updIsl i fun s => { s with enc := s.enc.upd q (0, 0, 0) fun e => (sgn 32 (toBits 32 (if up then e.1 + 1 else e.1 - 1)), period % 2 ^ 32, c.localTime (islDie i)) }

/-- A conversion of ADC channel `a` completes while ADC scanning covers it. -/
def Chip.adcDone (c : Chip) (i : Isl) (a v : Nat) : Chip :=
  let cfg := c.reg (sioK i 0x300)
  if bit cfg 16 && decide (a < bits cfg 7 0) then c.updIsl i fun s => { s with adc := s.adc.set a (v % 65536, c.localTime (islDie i) / 1000 % 2 ^ 32) } else c

end Sys2Proof.Machine
end

