-- ==== Sys2Proof/Machine/Can.lean ====
section
/-! DEFINITION. CAN controllers (R434): transmit slots, and the latching of a received frame in the slots whose filters match. -/

namespace Sys2Proof.Machine

/-- Register of a CAN controller's block. -/
def canK (r : CanRef) (off : Nat) : RegKey := match r with
  | .iod i n => iodK i.val (0x0200000 + n.val * 0x1000 + off)
  | .isl i n => sioK i (0x1000 + n.val * 0x1000 + off)

/-- Die of a controller. -/
def canDie : CanRef → Nat
  | .iod i _ => 0x4E + i.val
  | .isl i _ => islDie i

/-- A controller may send: its mode is not off, it does not only listen, it is not bus-off, and its island is not in FAULT
    (R305). -/
def Chip.canSends (c : Chip) (r : CanRef) : Bool :=
  let v := c.reg (canK r 0)
  let up := match r with
    | .iod _ _ => true
    | .isl i _ => (c.isl i).up && (c.isl i).trap == 0
  bits v 1 0 != 0 && !bit v 2 && bits (c.reg (canK r 8)) 1 0 != 2 && up

/-- Transmit slot `s` sends its frame. -/
def Chip.canSend (c : Chip) (r : CanRef) (s : Nat) : Chip := if c.canSends r then c.bump (canK r (0x318 + 32 * s)) else c

/-- A write of TXDATA: with TXPER = 0 it sends the frame once (R434). -/
def Chip.canTxWrite (c : Chip) (r : CanRef) (s v : Nat) : Chip :=
  let c := c.setReg (canK r (0x308 + 32 * s)) v
  if bits (c.reg (canK r (0x310 + 32 * s))) 31 0 = 0 then c.canSend r s else c

/-- A transmit slot's period has passed (R434). -/
def Chip.canPeriodic (c : Chip) (r : CanRef) (s : Nat) : Chip :=
  if bits (c.reg (canK r (0x310 + 32 * s))) 31 0 = 0 then c else c.canSend r s

/-- A receive slot's filter matches an ID with its IDE. -/
def Chip.canMatch (c : Chip) (r : CanRef) (s id : Nat) (ide : Bool) : Bool :=
  let f := c.reg (canK r (0x100 + 32 * s))
  bit f 31 && bit f 29 == ide && Nat.land (Nat.xor (bits f 28 0) id) (bits f 60 32) == 0

/-- Latch a frame in every receive slot whose filter matches; answers whether one did. -/
def Chip.canLatch (c : Chip) (r : CanRef) (id : Nat) (ide : Bool) (data : List Byte) : Chip × Bool :=
  let ss := (List.range 16).filter fun s => c.canMatch r s id ide
  (ss.foldl (fun c s => (c.setReg (canK r (0x108 + 32 * s)) (leNat (data.take 8))).setReg (canK r (0x110 + 32 * s)) (c.localTime (canDie r))) c, !ss.isEmpty)

end Sys2Proof.Machine
end

