-- ==== Sys2Proof/Machine/Signature.lean ====
section
/-! DEFINITION. SHA-384 and ECDSA P-384 verification, which R68 names for every signed image and package (the algorithms are those of FIPS 180-4 and FIPS 186-5). -/

namespace Sys2Proof.Machine

/-! ## SHA-384 -/

/-- Primes below 410, by trial division. -/
def primes : List Nat := (List.range 410).filter fun n => decide (2 ≤ n) && (List.range n).all fun d => decide (d < 2) || n % d != 0

/-- Integer k-th root of n by bisection over `fuel` bits. -/
def rootK (k n : Nat) : (fuel r : Nat) → Nat
  | 0, r => r
  | f + 1, r => rootK k n f (if (r + 2 ^ f) ^ k ≤ n then r + 2 ^ f else r)

/-- The 80 round constants: 64 fraction bits of the cube roots of the first 80 primes. -/
def shaK : Array (BitVec 64) := ((primes.take 80).map fun p => BitVec.ofNat 64 (rootK 3 (p * 2 ^ 192) 68 0)).toArray

/-- The initial hash: 64 fraction bits of the square roots of the ninth to sixteenth primes. -/
def shaInit : List (BitVec 64) := ((primes.drop 8).take 8).map fun p => BitVec.ofNat 64 (rootK 2 (p * 2 ^ 128) 68 0)

/-- The big-endian number of a byte list. -/
def beNat (bs : List Byte) : Nat := bs.foldl (fun n b => n * 256 + b.toNat) 0

/-- The message schedule of one block, extended to 80 words. -/
def shaSched : (fuel : Nat) → Array (BitVec 64) → Array (BitVec 64)
  | 0, w => w
  | f + 1, w =>
    let t := w.size
    let g := fun i => w.getD (t - i) 0
    let s0 := fun (x : BitVec 64) => x.rotateRight 1 ^^^ x.rotateRight 8 ^^^ (x >>> 7)
    let s1 := fun (x : BitVec 64) => x.rotateRight 19 ^^^ x.rotateRight 61 ^^^ (x >>> 6)
    shaSched f (w.push (s1 (g 2) + g 7 + s0 (g 15) + g 16))

/-- One round. -/
def shaRound (kw : BitVec 64) : List (BitVec 64) → List (BitVec 64)
  | [a, b, c, d, e, f, g, h] =>
    let t1 := h + (e.rotateRight 14 ^^^ e.rotateRight 18 ^^^ e.rotateRight 41) + ((e &&& f) ^^^ (~~~e &&& g)) + kw
    let t2 := (a.rotateRight 28 ^^^ a.rotateRight 34 ^^^ a.rotateRight 39) + ((a &&& b) ^^^ (a &&& c) ^^^ (b &&& c))
    [t1 + t2, a, b, c, d + t1, e, f, g]
  | l => l

/-- One 128-byte block. -/
def shaBlock (h : List (BitVec 64)) (blk : List Byte) : List (BitVec 64) :=
  let w0 := ((List.range 16).map fun i => BitVec.ofNat 64 (beNat ((blk.drop (8 * i)).take 8))).toArray
  let w := shaSched 64 w0
  let r := (List.range 80).foldl (fun s t => shaRound (shaK.getD t 0 + w.getD t 0) s) h
  (h.zip r).map fun q => q.1 + q.2

/-- Blocks of a padded message. -/
def shaBlocks : (fuel : Nat) → List (BitVec 64) → List Byte → List (BitVec 64)
  | 0, h, _ => h
  | f + 1, h, bs => if bs.isEmpty then h else shaBlocks f (shaBlock h (bs.take 128)) (bs.drop 128)

/-- SHA-384 as a 384-bit number. -/
def sha384 (m : List Byte) : Nat :=
  let pad := (239 - m.length % 128) % 128
  let bs := m ++ (0x80 : Byte) :: List.replicate pad 0 ++ (leBytes 16 (8 * m.length)).reverse
  ((shaBlocks (bs.length / 128 + 1) shaInit bs).take 6).foldl (fun n w => n * 2 ^ 64 + w.toNat) 0

/-! ## ECDSA P-384 -/

/-- The field prime. -/
def p384 : Nat := 2 ^ 384 - 2 ^ 128 - 2 ^ 96 + 2 ^ 32 - 1
/-- The order of the base point. -/
def n384 : Nat := 0xFFFFFFFFFFFFFFFFFFFFFFFFFFFFFFFFFFFFFFFFFFFFFFFFC7634D81F4372DDF581A0DB248B0A77AECEC196ACCC52973
/-- The curve coefficient b. -/
def b384 : Nat := 0xB3312FA7E23EE7E4988E056BE3F82D19181D9C6EFE8141120314088F5013875AC656398D8A2ED19D2A85C8EDD3EC2AEF
/-- The base point. -/
def g384 : Nat × Nat :=
  (0xAA87CA22BE8B05378EB1C71EF320AD746E1D3B628BA79B9859F741E082542A385502F25DBF55296C3A545E3872760AB7,
   0x3617DE4A96262C6F5D9E98BF9292DC29F8F41DBD289A147CE9DA3113B5F0B8C00A60B1CE1D7E819D7A431D7C90EA0E5F)

/-- Modular power, over `fuel` bits. -/
def powMod (m : Nat) : (fuel b e : Nat) → Nat
  | 0, _, _ => 1
  | f + 1, b, e => if e = 0 then 1 else let h := powMod m f (b * b % m) (e / 2); if e % 2 = 1 then h * b % m else h

/-- Inverse modulo a prime. -/
def invMod (m a : Nat) : Nat := powMod m 384 (a % m) (m - 2)

/-- Addition of affine points; none is the point at infinity. -/
def ecAdd (a b : Option (Nat × Nat)) : Option (Nat × Nat) :=
  match a, b with
  | none, q => q
  | q, none => q
  | some (x1, y1), some (x2, y2) =>
    if x1 = x2 ∧ (y1 + y2) % p384 = 0 then none
    else
      let l := if x1 = x2 then (3 * x1 * x1 + 3 * (p384 - 1)) * invMod p384 (2 * y1) % p384 else (y2 + p384 - y1) * invMod p384 (x2 + p384 - x1) % p384
      let x3 := (l * l + 2 * p384 - x1 - x2) % p384
      some (x3, (l * (x1 + p384 - x3) + p384 - y1) % p384)

/-- Scalar multiple, over `fuel` bits. -/
def ecMul : (fuel k : Nat) → Option (Nat × Nat) → Option (Nat × Nat)
  | 0, _, _ => none
  | f + 1, k, q => if k = 0 then none else let h := ecMul f (k / 2) (ecAdd q q); if k % 2 = 1 then ecAdd h q else h

/-- ECDSA P-384 verification of a signature (r, s) over a message. -/
def ecdsaOk (key : Nat × Nat) (r s : Nat) (m : List Byte) : Bool :=
  let onCurve := decide (key.1 < p384) && decide (key.2 < p384) && key.2 * key.2 % p384 == (key.1 ^ 3 + 3 * (p384 - key.1) + b384) % p384
  let inRange := decide (0 < r) && decide (r < n384) && decide (0 < s) && decide (s < n384)
  onCurve && inRange &&
    let w := invMod n384 s
    match ecAdd (ecMul 385 (sha384 m * w % n384) (some g384)) (ecMul 385 (r * w % n384) (some key)) with
    | some (x, _) => x % n384 == r
    | none => false

end Sys2Proof.Machine
end

