-- ==== Sys2Proof/Machine/Image.lean ====
section
/-! DEFINITION. Images: their header, section table and trailer, the acceptance checks of R68, the flash directory (R366), and the loading of sections (R69). -/

namespace Sys2Proof.Machine

/-- A section table entry. -/
structure Sect where
  typ   : Nat
  flags : Nat
  part  : Nat
  align : Nat
  file  : Nat
  size  : Nat
  load  : Nat
  rsv   : Bool
deriving DecidableEq, Repr

/-- The section table of an image. -/
def imgSects (img : List Byte) : List Sect :=
  let off := fieldAt img 0x10 8
  (List.range (min 256 (fieldAt img 0x18 4))).map fun i =>
    let g := fun o n => fieldAt img (off + 32 * i + o) n
    { typ := g 0 2, flags := g 2 2, part := g 4 1, align := g 5 1, file := g 8 8, size := g 0x10 8, load := g 0x18 8, rsv := g 6 2 == 0 && decide (g 2 2 < 8) }

/-- Two sections of one partition overlap at load. -/
def Sect.meets (a b : Sect) : Bool := a.part == b.part && overlap a.load a.size b.load b.size

/-- Every pair of a list. -/
def pairs {α : Type} : List α → List (α × α)
  | [] => []
  | x :: xs => xs.map (fun y => (x, y)) ++ pairs xs

/-- Bit (site * 16 + stall) of the personality map. -/
def imgPers (img : List Byte) (site stall : Nat) : Bool := bit (fieldAt img 0x30 144) (site * 16 + stall)

/-- The key of a slot, if it is provisioned and not revoked (R367). `rev` holds the revocations of this device. -/
def slotKey? (die rev slot : Nat) : Option (Nat × Nat) :=
  if slot < 4 ∧ Config.keyProvisioned die slot = true ∧ Config.keyRevoked die slot = false ∧ bit rev slot = false then some (Config.fuseKey die slot) else none

/-- The signature trailer verifies over everything before it. -/
def signedOk (die rev slot : Nat) (img : List Byte) (n : Nat) : Bool :=
  match slotKey? die rev slot with
  | some k => decide (128 ≤ n) && decide (n ≤ img.length) && ecdsaOk k (beNat ((img.drop (n - 128)).take 48)) (beNat ((img.drop (n - 80)).take 48)) (img.take (n - 128))
  | none => false

/-- The first failing check of R68, counted from 1 in its order; 0 where the image is accepted. -/
def imgReject (die rev : Nat) (img : List Byte) : Nat :=
  let n := fieldAt img 8 8
  let ss := imgSects img
  if !signedOk die rev (fieldAt img 0x1C 4) img n then 1
  else if fieldAt img 0 4 != 0x4E534E46 || fieldAt img 4 2 != 1 then 2
  else if fieldAt img 0x20 16 != 0 || fieldAt img 0xC0 64 != 0 || leNat ((img.drop (n - 32)).take 32) != 0 || ss.any (fun s => !s.rsv) then 3
  else if ss.any (fun s => !within 1 9 s.typ) then 4
  else if (pairs ss).any fun q => q.1.meets q.2 then 5
  else if ss.any fun s => s.file != 0 && decide (s.file + s.size > n - 128) then 6
  else if ss.any fun s => if s.typ = 1 then s.flags % 4 != 1 else bit s.flags 0 then 7
  else if (List.range 72).any fun h => (List.range 4).any fun s => (List.range 4).any fun t => imgPers img h (4 * s + t) != imgPers img h (4 * s) then 8
  else 0

/-- The further conditions of a DCU firmware image (R367). -/
def fwForm (img : List Byte) : Bool :=
  (imgSects img).all (fun s => within 1 4 s.typ && s.part == 0) && fieldAt img 0x30 144 == 0 && decide (fieldAt img 8 8 ≤ 4194304)

/-! ## The directory (R366) -/

/-- Flash bytes. -/
def Chip.flash (c : Chip) (off n : Nat) : List Byte := c.mem.cells.readBytes (flashKey off) n

/-- A directory entry. -/
structure DirEnt where
  typ    : Nat
  active : Bool
  off    : Nat
  len    : Nat
deriving DecidableEq, Repr

/-- A directory copy is valid. -/
def dirOk (d : List Byte) : Bool :=
  let n := fieldAt d 0x10 4
  fieldAt d 0 4 == 0x52494446 && within 1 125 n && fieldAt d 0xFFC 4 == crc32c (d.take 0xFFC) && leNat ((d.drop 0x14).take 44) == 0
    && leNat ((d.drop (0x40 + 32 * n)).take (0xFFC - 0x40 - 32 * n)) == 0
    && (List.range n).all fun e => let o := 0x40 + 32 * e
      within 1 4 (fieldAt d o 2) && decide (fieldAt d (o + 2) 2 < 2) && fieldAt d (o + 4) 4 == 0 && fieldAt d (o + 24) 8 == 0

/-- The directory copy in use: the valid one, the higher GEN, and the first on a tie. -/
def Chip.directory (c : Chip) : Option (List Byte) :=
  let a := c.flash 0 4096
  let b := c.flash 0x10000 4096
  match dirOk a, dirOk b with
  | true, true => if fieldAt b 4 4 > fieldAt a 4 4 then some b else some a
  | true, false => some a
  | false, true => some b
  | false, false => none

/-- Entries of a TYPE, as copy A and copy B. -/
def dirEnts (d : List Byte) (typ : Nat) : List DirEnt :=
  ((List.range (fieldAt d 0x10 4)).map fun e => let o := 0x40 + 32 * e
    ({ typ := fieldAt d o 2, active := bit (fieldAt d (o + 2) 2) 0, off := fieldAt d (o + 8) 8, len := fieldAt d (o + 16) 8 } : DirEnt)).filter fun e => e.typ == typ

/-- The copies of a TYPE in the order in which they are tried, with their slot (1 A, 2 B). -/
def dirTries (d : List Byte) (typ : Nat) : List (Nat × DirEnt) :=
  let es := ((dirEnts d typ).take 2).zipIdx.map fun q => (q.2 + 1, q.1)
  es.filter (fun q => q.2.active) ++ es.filter fun q => !q.2.active

/-- Try the copies of an image: the first accepted one, and the reject codes before it. -/
def Chip.tryImages (c : Chip) (rev : Nat) (extra : List Byte → Bool) : List (Nat × DirEnt) → List Nat × Option (Nat × List Byte)
  | [] => ([], none)
  | (slot, e) :: rest =>
    let img := c.flash e.off e.len
    let code := imgReject 0 rev img
    let code := if code = 0 && !extra img then 4 else code
    if code = 0 then ([], some (slot, img.take (fieldAt img 8 8)))
    else let (cs, r) := Chip.tryImages c rev extra rest; (code :: cs, r)

/-! ## Loading (R69, R382) -/

/-- The device address at which a section loads (log 31). -/
def Sect.addr (s : Sect) : Nat := Config.shareBase s.part + s.load

/-- A section lies in DRAM. -/
def Sect.inDram (s : Sect) : Bool := decide (s.addr + s.size ≤ 0x3600000000)

/-- Contents of a section in an image. -/
def Sect.bytes (s : Sect) (img : List Byte) : List Byte := if s.typ = 4 ∨ s.file = 0 then List.replicate s.size 0 else (img.drop s.file).take s.size

/-- Load one section. -/
def Chip.loadSect (c : Chip) (img : List Byte) (s : Sect) : Chip :=
  let c := c.devWrite s.addr (s.bytes img)
  if bit s.flags 2 then c.devTag s.addr s.size else c

/-- The sections of the image that the device keeps; none of an image that Fensan RT has refused (R52). -/
def Chip.sects (c : Chip) : List Sect := if c.boot.image = [] ∨ c.boot.refused then [] else imgSects c.boot.image

/-- Sections of a partition in that image. -/
def Chip.sectsOf (c : Chip) (p : Nat) : List Sect := c.sects.filter fun s => s.part == p

/-- The only section of a type of a partition. -/
def Chip.onlySect (c : Chip) (p typ : Nat) : Option Sect := match (c.sectsOf p).filter fun s => s.typ == typ with
  | [s] => some s
  | _ => none

end Sys2Proof.Machine
end

