-- ==== Sys2Proof/Machine/Margin.lean ====
section
/-! DEFINITION. The margin plan: points and bins (R390), the planner (R401, R402), and the plan's bytes in flash (R403, R366). -/

namespace Sys2Proof.Machine

/-- Frequency of a point in kHz (R390). -/
def pointKHz (i : Nat) : Nat := 312500 + 62500 * i

/-- The VTAB entry of a point in a bin. -/
def SiteRec.vt (r : SiteRec) (i b : Nat) : Nat := r.vtab.get (16 * b + i) 0

/-- Voltage of a point in a bin, mV. -/
def SiteRec.mv (r : SiteRec) (i b : Nat) : Nat := bits (r.vt i b) 9 0

/-- USE: the voltage is at most 850 mV (R390, R401). -/
def SiteRec.use (r : SiteRec) (i b : Nat) : Bool := bit (r.vt i b) 10

/-- CHKOK (R402). -/
def SiteRec.chkok (r : SiteRec) (i b : Nat) : Bool := bit (r.vt i b) 11

/-- The highest point below `n` with a property. -/
def highest (p : Nat → Bool) : Nat → Option Nat
  | 0 => none
  | n + 1 => if p n then some n else highest p n

/-- The top clock point: the highest point usable in every bin (R390). -/
def SiteRec.top (r : SiteRec) : Option Nat := highest (fun i => (List.range 8).all fun b => r.use i b) 16

/-- A site's record in the plan in use. -/
def Chip.siteRec (c : Chip) (site : Nat) : SiteRec := c.pm.plan.sites.get site {}

/-- Top clock of a hall in kHz, 0 where no point is usable in every bin. -/
def Chip.topClk (c : Chip) (site : Nat) : Nat := match (c.siteRec site).top with
  | some i => pointKHz i
  | none => 0

/-- Operating minutes: those of the plan when it was loaded, and those since nRESET release (R403, R446). -/
def Chip.minutes (c : Chip) : Nat := c.pm.plan.minutes + (c.time.now - c.boot.base) / 60000000000

/-- One VTAB entry (R401). CHKOK is lost with the third addition of 10 mV at a point above 0 (R402). -/
def SiteRec.entry (r : SiteRec) (site i b : Nat) : Nat :=
  let add := r.binadd.get (16 * b + i) 0
  let v := min 1020 (alignUp (Config.vFactory site i b + r.age + 5 * add) 5)
  v + b2n (decide (v ≤ 850)) * 1024 + b2n (i == 0 || decide (add < 6)) * 2048

/-- Form every point's voltage from the site's age and additions (R401). -/
def SiteRec.form (r : SiteRec) (site : Nat) : SiteRec :=
  { r with vtab := (List.range 128).map fun n => (n, r.entry site (n % 16) (n / 16)) }

/-- A measured shift in ps raises the stored age and never lowers it (R401). `k_h` is in µV per ps (log 36). -/
def SiteRec.aged (r : SiteRec) (site shift minutes : Nat) : SiteRec :=
  { r with valid := true, shift := shift, measured := minutes, age := max r.age (ceilDiv (shift * Config.sensitivity site) 1000) }

/-- The plan that the next change starts from. -/
def Chip.planBase (c : Chip) : Margin := c.pm.planNext.getD c.pm.plan

/-- Change one site's record and re-form it; the change takes effect at the next landing start (R401) and is due for a
    flash write where it changes a stored value (R403). -/
def Chip.replan (c : Chip) (site : Nat) (f : SiteRec → SiteRec) : Chip :=
  let m := c.planBase
  let r := (f (m.sites.get site {})).form site
  let m' : Margin := { m with sites := m.sites.set site r, fuse := Config.fuseVersion }
  { c with pm := { c.pm with planNext := some m', planWrite := c.pm.planWrite || !(m' == m) } }

/-- Partitions that run contexts on a site whose WCET clock exceeds a top clock. -/
def Chip.overClock (c : Chip) (site khz : Nat) : List Nat := match c.hallOf site with
  | none => []
  | some h => (c.parts.filter fun e => e.2.state == 2 && e.2.ctxs.any fun d => d.hall == h && decide (khz < d.fclk)).map Prod.fst

/-- A waiting re-plan takes effect; a top clock that falls below a running partition's FCLK is reported (R401). -/
def Chip.planLand (c : Chip) : Chip := match c.pm.planNext with
  | none => c
  | some m =>
    let was := fun s => c.topClk s
    let c' := { c with pm := { c.pm with plan := m, planNext := none } }
    (List.range 72).foldl (fun d s => if d.topClk s < was s then
      ((c.overClock s (d.topClk s)).filter fun p => !(c.overClock s (was s)).contains p).foldl (fun d p => d.post .MARGIN_TOPCLK (hallUnit s 6) (some p)) d else d) c'

/-! ## Clustering (R402, R411) -/

/-- Events of a hall at a point and bin in the last 24 operating hours, over the four groups. -/
def Chip.binEvents (c : Chip) (hall i b : Nat) : Nat :=
  ((c.log.groups.filter fun e => e.1.1 == hall && e.1.2.2 == (i, b) && decide (c.minutes < e.2.1 + 1440)).map fun e => e.2.2).sum

/-- Events of a hall at every point and bin in the last 24 operating hours. -/
def Chip.hallEvents (c : Chip) (hall : Nat) : Nat :=
  ((c.log.groups.filter fun e => e.1.1 == hall && decide (c.minutes < e.2.1 + 1440)).map fun e => e.2.2).sum

/-- A bin is clustered: at least 4 events, and a rate above four times that of all other bins together (log 37). -/
def Chip.clustered (c : Chip) (hall i b : Nat) : Bool :=
  let n := c.binEvents hall i b
  decide (4 ≤ n) && decide (4 * (c.hallEvents hall - n) < n)

/-- Add 10 mV at a clustered bin and clear its count; point 0 takes additions up to 850 mV (R402). -/
def Chip.cluster (c : Chip) (hall i b : Nat) : Chip := match c.siteOf hall with
  | none => c
  | some s =>
    if c.clustered hall i b then
      let c := c.replan s fun r =>
        let add := r.binadd.get (16 * b + i) 0
        if i = 0 ∧ (Config.vFactory s i b + r.age + 5 * (add + 2)) > 850 then r else { r with binadd := r.binadd.set (16 * b + i) (min 255 (add + 2)) }
      { c with log := { c.log with groups := c.log.groups.filter fun e => !(e.1.1 == hall && e.1.2.2 == (i, b)) } }
    else c

/-! ## The plan in flash -/

/-- The retirements, quarantines and bars of a site as the check engines hold them. -/
def Chip.withService (c : Chip) (site : Nat) (r : SiteRec) : SiteRec :=
  let f := fun (g : ChkEng → Nat) (w : Nat) => ((List.range 4).map fun s => g (c.eng (4 * site + s)) * 2 ^ (w * s)).sum
  { r with retired := f (fun e => e.retired % 32) 5, quar := f (fun e => b2n e.quar) 1, barred := f (fun e => b2n e.barred) 1 }

/-- A site record's 512 bytes. -/
def SiteRec.bytes (r : SiteRec) (site : Nat) : List Byte :=
  leBytes 1 site ++ leBytes 1 (b2n r.valid) ++ leBytes 2 0 ++ leBytes 4 r.retired ++ leBytes 1 r.quar ++ leBytes 1 r.barred ++ leBytes 6 0
    ++ leBytes 2 r.age ++ leBytes 2 r.shift ++ leBytes 4 r.measured ++ leBytes 8 0
    ++ ((List.range 128).map fun n => leBytes 2 (r.vtab.get n 0)).flatten ++ ((List.range 128).map fun n => leBytes 1 (r.binadd.get n 0)).flatten ++ leBytes 96 0

/-- A plan's 36,928 bytes. -/
def Margin.bytes (m : Margin) (minutes : Nat) : List Byte :=
  let hdr := leBytes 4 0x4E41474D ++ leBytes 4 m.gen ++ leBytes 4 72 ++ leBytes 4 minutes ++ leBytes 4 m.fuse ++ leBytes 40 0
  let recs := ((List.range 72).map fun s => (m.sites.get s {}).bytes s).flatten
  hdr ++ leBytes 4 (crc32c (hdr ++ recs)) ++ recs

/-- A site record from its bytes. -/
def siteRecOf (bs : List Byte) : SiteRec :=
  let a := bs.toArray
  let g := fun o n => leNat ((List.range n).map fun i => a.getD (o + i) 0)
  { valid := bit (g 1 1) 0, retired := g 4 4, quar := g 8 1, barred := g 9 1, age := g 0x10 2, shift := g 0x12 2, measured := g 0x14 4, vtab := (List.range 128).map fun n => (n, g (0x20 + 2 * n) 2), binadd := (List.range 128).map fun n => (n, g (0x120 + n) 1) }

/-- A plan from its bytes, where they are a valid plan. -/
def marginOf (bs : List Byte) : Option Margin :=
  if fieldAt bs 0 4 = 0x4E41474D ∧ fieldAt bs 8 4 = 72 ∧ fieldAt bs 0x3C 4 = crc32c (bs.take 0x3C ++ (bs.drop 0x40).take 36864) then
    some { gen := fieldAt bs 4 4, minutes := fieldAt bs 0xC 4, fuse := fieldAt bs 0x10 4, sites := (List.range 72).map fun s => (s, siteRecOf ((bs.drop (0x40 + 0x200 * s)).take 0x200)) }
  else none

/-- Copies A and B of the plan: flash offset, and the plan where the copy is valid. -/
def Chip.planCopies (c : Chip) : List (Nat × Option Margin) := match c.directory with
  | none => []
  | some d => ((dirEnts d 3).take 2).map fun e => (e.off, marginOf (c.flash e.off 36928))

/-- The valid copy of the higher generation (R380, R403). -/
def Chip.planStored (c : Chip) : Option Margin :=
  (c.planCopies.filterMap Prod.snd).foldl (fun best m => match best with
    | some b => if m.gen > b.gen then some m else some b
    | none => some m) none

/-- The copy to overwrite: an invalid one, else that of the lower generation. -/
def Chip.planTarget (c : Chip) : Option Nat :=
  (c.planCopies.foldl (fun (best : Option (Nat × Option Margin)) q => match best with
    | none => some q
    | some b => match b.2, q.2 with
      | none, _ => some b
      | some _, none => some q
      | some x, some y => if y.gen < x.gen then some q else some b) none).map Prod.fst

/-- A plan write completes: the plan with the service state of the check engines goes to flash with the next generation.
    A failed write is reported and tried again at the next update (R403, R380). `ok` is what the flash did. -/
def Chip.planWritten (c : Chip) (ok : Bool) : Chip :=
  match ok && !c.boot.die0, c.planTarget with
  | true, some off =>
    let m := c.planBase
    let m : Margin := { m with gen := (m.gen + 1) % 2 ^ 32, sites := (List.range 72).map fun s => (s, c.withService s (m.sites.get s {})) }
    let c := { c with mem := { c.mem with cells := c.mem.cells.writeBytes (flashKey off) (m.bytes c.minutes) } }
    let pm := match c.pm.planNext with
      | some _ => { c.pm with planNext := some m, planWrite := false }
      | none => { c.pm with plan := m, planWrite := false }
    { c with pm := pm }
  | _, _ => c.post .MARGIN_WRITE_FAIL (dcuUnit 2) none

/-- MARGIN_PLAN_WRITE_DONE: only where a write is due, by a changed value or by changed service state. -/
def Chip.marginWriteDone (c : Chip) (ok : Bool) : Chip :=
  let m := c.planBase
  if c.pm.planWrite || (List.range 72).any fun s => !(c.withService s (m.sites.get s {}) == m.sites.get s {}) then c.planWritten ok else c

end Sys2Proof.Machine
end

