-- ==== Sys2Proof/Machine/Partition.lean ====
section
/-! DEFINITION. Partitions: descriptors and the creation checks (R271-R273), CREATE, RESTART and STOP (R285), partition reset and its variants (R281, R264, R265), and the clearing of stable domains (R386). -/

namespace Sys2Proof.Machine

/-! ## Descriptors in memory -/

/-- All bytes of a field are zero. -/
def zeroAt (r : List Byte) (off n : Nat) : Bool := fieldAt r off n == 0

/-- A window entry, where V = 1. -/
def winOf (r : List Byte) (w : Nat) : Option Win :=
  let a := fieldAt r (0x100 + 16 * w) 8
  let b := fieldAt r (0x108 + 16 * w) 8
  if bit b 40 then some { base := bits a 47 12 * 4096, pages := bits b 35 0, r := bit b 36, w := bit b 37, x := bit b 38, async := bit b 39 } else none

/-- Reserved bits of a window entry are zero, and a window in use has pages. -/
def winClean (r : List Byte) (w : Nat) : Bool :=
  let a := fieldAt r (0x100 + 16 * w) 8
  let b := fieldAt r (0x108 + 16 * w) 8
  bits a 11 0 == 0 && bits a 63 48 == 0 && bits b 63 41 == 0 && (!bit b 40 || bits b 35 0 != 0)

/-- A job descriptor's bytes. -/
def jobFrom (r : List Byte) : Job :=
  { job := fieldAt r 0 2, prio := fieldAt r 2 1, kind := fieldAt r 3 1, first := fieldAt r 4 2, count := fieldAt r 6 2, deadline := fieldAt r 8 8, chkreq := bit (fieldAt r 0x10 2) 0 }

/-- Form of a job descriptor (check 0x01). -/
def jobClean (r : List Byte) (nctx : Nat) : Bool :=
  let j := jobFrom r
  decide (fieldAt r 0x10 2 < 2) && zeroAt r 0x12 14 && decide (j.kind ≤ 1) && (j.kind == 1 || j.deadline == 0) && decide (1 ≤ j.count) && decide (j.first + j.count ≤ nctx)

/-- A descriptor as the DCU reads it. -/
structure Draft where
  part  : Part
  /-- Its form is right in the sense of check 0x01. -/
  clean : Bool
  next  : Bool
  /-- Offsets in the LIVEMAP and WCET sections, by context. -/
  offs  : List (Nat × Nat)
deriving DecidableEq, Repr

/-- A context descriptor with its live map and WCET entry, read from the copy of the image. -/
def Chip.ctxDescOf (c : Chip) (p : Nat) (r : List Byte) : CtxDesc :=
  let img := c.boot.image
  let lm := match c.onlySect p 7 with
    | some s => (s.bytes img).drop (fieldAt r 0x40 8)
    | none => []
  let wc := match c.onlySect p 8 with
    | some s => (s.bytes img).drop (fieldAt r 0x48 8)
    | none => []
  let rng := fun i => let v := fieldAt lm (4 + 4 * i) 4; (bits v 9 0, bits v 19 10 + 1, bit v 20)
  { job := fieldAt r 0 2, hall := bits (fieldAt r 2 2) 9 2, stable := fieldAt r 2 2 % 4, pinned := bit (fieldAt r 4 2) 0, nopre := bit (fieldAt r 4 2) 1, nacc := fieldAt r 6 1,
    entry := fieldAt r 8 8, fentry := fieldAt r 0x10 8, arg := fieldAt r 0x18 8, pendBase := fieldAt r 0x20 8, pendPages := fieldAt r 0x28 2,
    saveBase := fieldAt r 0x30 8, savePages := fieldAt r 0x38 4, ranges := (List.range (min 64 (fieldAt lm 0 2))).map rng, acclive := fieldAt lm 2 2,
    cycles := fieldAt wc 0 8, umax := fieldAt wc 8 4, fclk := fieldAt wc 0xC 4, mode := fieldAt wc 0x10 1, pers := fieldAt wc 0x11 1 }

/-- What the DCU's read of the `v`th descriptor at `base`, its jobs and its contexts finds in the words read (R162). -/
def Chip.senseDraft (c : Chip) (base v : Nat) : Chip :=
  let r := c.devRead (base + 0x200 * v) 512
  ((c.devSense (base + 0x200 * v) 512).devSense (base + fieldAt r 0x58 8) (32 * min (fieldAt r 8 2) 64)).devSense (base + fieldAt r 0x60 8) (128 * min (fieldAt r 0xA 2) 1024)

/-- Read the `v`th descriptor of a JOBS section at `base`. -/
def Chip.readDraft (c : Chip) (p base v : Nat) : Draft :=
  let r := c.devRead (base + 0x200 * v) 512
  let nj := fieldAt r 8 2
  let nc := fieldAt r 0xA 2
  let jr := (List.range (min nj 64)).map fun i => c.devRead (base + fieldAt r 0x58 8 + 32 * i) 32
  let cr := (List.range (min nc 1024)).map fun i => c.devRead (base + fieldAt r 0x60 8 + 128 * i) 128
  let jobs := jr.map jobFrom
  let stables := fieldAt r 0x10 32
  let ctxJob := fun i => (jobs.find? fun j => decide (j.first ≤ i) && decide (i < j.first + j.count)).map Job.job
  let clean := fieldAt r 0 4 == 0x54524150 && fieldAt r 4 1 == p && (decide (fieldAt r 5 1 < 16) || fieldAt r 5 1 == 0xFF) && decide (fieldAt r 6 1 < 64) && decide (fieldAt r 7 1 < 4)
    && within 1 64 nj && within 1 1024 nc && zeroAt r 0xC 4 && zeroAt r 0x78 136 && (List.range 16).all (winClean r) && fieldAt r 0x50 8 % 1024 == 0
    && jr.all (fun j => jobClean j nc) && (pairs jobs).all (fun q => decide (q.1.first + q.1.count ≤ q.2.first) || decide (q.2.first + q.2.count ≤ q.1.first))
    && (cr.zipIdx.all fun q => ctxJob q.2 == some (fieldAt q.1 0 2))
  { clean := clean, next := bit (fieldAt r 7 1) 1, offs := cr.map fun x => (fieldAt x 0x40 8, fieldAt x 0x48 8),
    part := { state := 2, stables := stables, landmap := fieldAt r 0x30 32, wins := (List.range 16).filterMap (winOf r), jobs := jobs, ctxs := cr.map (c.ctxDescOf p), func := fieldAt r 5 1, evq := fieldAt r 6 1, chkreq := bit (fieldAt r 7 1) 0, suhalls := fieldAt r 0x70 8, shard := fieldAt r 0x50 8, dataBytes := fieldAt r 0x68 8, home := ((List.range 64).find? fun h => bits stables (4 * h + 3) (4 * h) != 0).getD 0, descAddr := base } }

/-! ## The checks -/

/-- Stables of a set, as logical numbers. -/
def stableList (m : Nat) : List Nat := (List.range 256).filter (bit m)

/-- Partitions other than `p` that hold resources. -/
def Chip.others (c : Chip) (p : Nat) : List Part := (c.parts.filter fun e => e.1 != p && e.2.held).map Prod.snd

/-- A site is active (R29). -/
def Chip.siteActive (c : Chip) (site : Nat) : Bool := c.site.state.get site 1 == 0

/-- A logical stable is active, in no other partition and not quarantined (check 0x02). -/
def Chip.stableFree (c : Chip) (p n : Nat) : Bool := match c.keyOf n with
  | some key => c.siteActive (key / 4) && !(c.eng key).quar && (c.others p).all fun q => !bit q.stables n
  | none => false

/-- A byte range of a hall window lies in the banks and lofts of own stables. -/
def ownRegion (m h : Nat) : (fuel off n : Nat) → Bool
  | 0, _, n => n == 0
  | fuel + 1, off, n =>
    if n = 0 then true
    else
      let s := if off < 0x800000 then some (off / 0x200000) else if within 0x1000000 0x17FFFFF off then some ((off - 0x1000000) / 0x200000) else none
      match s with
      | some s => let step := min n (0x200000 - off % 0x200000); bit m (4 * h + s) && ownRegion m h fuel (off + step) (n - step)
      | none => false

/-- A window lies wholly in DRAM or in the banks and lofts of the partition's own stables (check 0x04). -/
def Win.placed (w : Win) (stables : Nat) : Bool :=
  let n := w.pages * 4096
  decide (w.base + n ≤ 0x3600000000)
    || (decide (0x4000000000 ≤ w.base) && decide (w.base < 0x5000000000) && (let o := w.base - 0x4000000000; decide (n ≤ 0x2000000) && ownRegion stables (o / 0x10000000) 24 (o % 0x10000000) n))

/-- A section lies where its type must (R69; log 72): CODE in execute windows, any other outside them. -/
def Sect.inWins (s : Sect) (q : Part) : Bool :=
  let ps := (List.range (ceilDiv (s.addr % 4096 + s.size) 4096)).map fun i => s.addr / 4096 * 4096 + 4096 * i
  if s.typ = 1 then ps.all q.execAt else !ps.any q.execAt

/-- Window check 0x04. -/
def Chip.winsOk (c : Chip) (p : Nat) (q : Part) : Bool :=
  (c.sectsOf p).all (fun s => s.inWins q) && q.wins.all fun w => w.placed q.stables && (!w.x || (w.r && !w.w))
    && (!w.w || ((c.others p).all fun o => o.wins.all fun v => !Machine.overlap w.base (w.pages * 4096) v.base (v.pages * 4096)))

/-- Pages [a, a + n) lie in windows that `ok` admits. -/
def pagesIn (q : Part) (ok : Win → Bool) (a n : Nat) : Bool :=
  (List.range n).all fun i => q.wins.any fun w => ok w && decide (w.base ≤ a + 4096 * i) && decide (a + 4096 * i + 4096 ≤ w.base + w.pages * 4096)

/-- Local pages of the plain ranges of a context. -/
def CtxDesc.plain (d : CtxDesc) : List Nat := ((d.ranges.filter fun r => !r.2.2).map fun r => (List.range r.2.1).map (· + r.1)).flatten

/-- Local pages of the INBOUND ranges. -/
def CtxDesc.inbound (d : CtxDesc) : List Nat := ((d.ranges.filter fun r => r.2.2).map fun r => (List.range r.2.1).map (· + r.1)).flatten

/-- Total pages of all ranges. -/
def CtxDesc.livePages (d : CtxDesc) : Nat := (d.ranges.map fun r => r.2.1).sum

/-- Save footprint F (R272). -/
def CtxDesc.footprint (d : CtxDesc) : Nat := 4096 * d.livePages + 16384 * popCount 16 d.acclive + 64 * d.livePages + 24576

/-- Pending region of a context: base and bytes of its three sets (R246). -/
def CtxDesc.pend (d : CtxDesc) : Nat × Nat := (d.pendBase, 3 * d.pendPages * 4096)

/-- The context checks of one context (R272). `chk` says which stables are CHECKED. -/
def Chip.ctxOk (c : Chip) (p : Nat) (q : Part) (chk : Nat → Bool) (d : CtxDesc) (off : Nat × Nat) : Bool :=
  let live := match c.onlySect p 7 with
    | some s => decide (off.1 + 4 ≤ s.size) && (let n := fieldAt ((s.bytes c.boot.image).drop off.1) 0 2; within 1 64 n && decide (off.1 + 4 + 4 * n ≤ s.size))
    | none => false
  let wcet := match c.onlySect p 8 with
    | some s => decide (off.2 + 32 ≤ s.size)
    | none => false
  let rw := fun (w : Win) => w.w && !w.async && !w.x
  let job := q.jobs.find? fun j => j.job == d.job
  match c.homeKey d with
  | none => false
  | some key =>
    let dual := c.core.dual.contains key
    decide (d.hall < 64) && bit q.stables (4 * d.hall + d.stable) && within 1 16 d.nacc && decide (d.acclive < 2 ^ d.nacc) && live && wcet
      && d.pers == b2n dual && decide (d.mode ≤ 1) && (!dual || d.mode == 0) && (!((job.map Job.chkreq).getD false) || chk key)
      && d.ranges.all (fun r => decide (r.1 + r.2.1 ≤ 1024))
      && d.saveBase % 4096 == 0 && pagesIn q rw d.saveBase d.savePages
      && (if 0x800000000000 ≤ d.pendBase then d.pendBase % 4096 == 0 && (List.range (3 * d.pendPages)).all (fun i => d.plain.contains ((d.pendBase - 0x800000000000) / 4096 + i))
          else d.pendBase % 4096 == 0 && pagesIn q (fun w => rw w && w.r) d.pendBase (3 * d.pendPages))
      && decide (d.pendPages ≤ 512) && decide (ceilDiv d.footprint 4096 ≤ d.savePages) && (decide (d.umax ≤ 18000) || d.nopre || d.pinned)

/-- The device ranges of a context's pending region: where its base is local, page by page in its home stable. -/
def Chip.pendAreas (c : Chip) (d : CtxDesc) : List (Nat × Nat) :=
  if 0x800000000000 ≤ d.pendBase then
    (List.range (3 * d.pendPages)).map fun i => (c.devAddr (localKey ((c.homeKey d).getD 0) (d.pendBase - 0x800000000000 + 4096 * i)), 4096)
  else [d.pend]

/-- Save areas meet no save area, pending region or loaded section, and two contexts of one stable fit its tiles (R272). -/
def Chip.ctxsApart (c : Chip) (ds : List CtxDesc) : Bool :=
  let ps := pairs ds
  ps.all (fun q => !Machine.overlap q.1.saveBase (q.1.savePages * 4096) q.2.saveBase (q.2.savePages * 4096) && (q.1.hall != q.2.hall || q.1.stable != q.2.stable || decide (q.1.nacc + q.2.nacc ≤ 16)))
    && ds.all (fun a => ds.all (fun b => (c.pendAreas b).all fun r => !Machine.overlap a.saveBase (a.savePages * 4096) r.1 r.2) && c.sects.all fun s => !Machine.overlap a.saveBase (a.savePages * 4096) s.addr s.size)

/-- The landing start at which contexts start whose sections are loaded `wait` ns from now (R271, R281, R383): the first from then on, or
    frame 0's, estimated before it is fixed as the first multiple of 1 ms at least 5 ms from now. -/
def Chip.startingAt (c : Chip) (wait : Nat) : Nat :=
  if c.time.running then c.start (max (c.time.frame + 1) (ceilDiv (c.time.now + wait - c.time.start0) c.T))
  else if c.time.fixed then c.start 0 else alignUp (c.time.now + 5000000) 1000000

/-- The ONESHOT condition of R273 along contexts in DEADLINE order: `spare` in cycles × 10⁹. -/
def oneshotFits (spare t from' : Nat) : (sum : Nat) → List (Nat × Nat) → Bool
  | _, [] => true
  | sum, (dl, cyc) :: rest => let sum := sum + cyc * 1000000000; decide (sum ≤ spare * ((dl - from') / t)) && oneshotFits spare t from' sum rest

/-- Admission of one stable (R273); the contexts start at the first landing start at least `wait` ns from now. -/
def Chip.admits (c : Chip) (q : Part) (chk : Nat → Bool) (wait : Nat) (ds : List CtxDesc) (n : Nat) : Bool :=
  let own := ds.filter fun d => 4 * d.hall + d.stable == n
  match own, c.keyOf n with
  | [], _ => true
  | _, none => false
  | d :: _, some key =>
    let kind := fun (x : CtxDesc) => q.jobs.find? fun j => j.job == x.job
    let frame := (own.filter fun x => (kind x).map Job.kind != some 1).map CtxDesc.cycles
    let shots := (own.filterMap fun x => (kind x).bind fun j => if j.kind = 1 then some (j.deadline, x.cycles) else none)
    let cap := 995 * c.T * d.fclk
    let used := frame.sum * 1000000000
    own.all (fun x => x.fclk == d.fclk && (!chk key || x.mode == 1)) && decide (d.fclk ≤ c.topClk (key / 4)) && decide (used ≤ cap)
      && oneshotFits (cap - used) (max 1 c.T) (c.startingAt wait) 0 (sortBy Prod.fst shots)

/-- The restart figure does not exceed 250 ms (check 0x08), in units of 1/64 ns. -/
def Chip.figureOk (c : Chip) (q : Part) : Bool := decide (64 * (100000 + 2 * c.T + c.L) + q.dataBytes ≤ 64 * 250000000)

/-- Jobs that a restart refuses: those with CHKREQ when fewer than two stables are CHECKED (R281). -/
def refusedJobs (q : Part) (nchk : Nat) : List Nat := if nchk < 2 then (q.jobs.filter Job.chkreq).map Job.job else []

/-- CHECKED stables of a set. -/
def Chip.checkedOf (c : Chip) (chk : Nat → Bool) (stables : Nat) : List Nat := ((stableList stables).filterMap c.keyOf).filter chk

/-- The first failing check of R271; 0 where all pass. In a restart (`again`), checks 0x02 and 0x03 are left out, and so are
    the contexts of the jobs it will refuse. -/
def Chip.createCheck (c : Chip) (p : Nat) (d : Draft) (chk : Nat → Bool) (again : Bool) : Nat :=
  let q := d.part
  let nchk := (c.checkedOf chk q.stables).length
  let skip := if again then refusedJobs q nchk else []
  let kept := (q.ctxs.zip d.offs).filter fun x => !skip.contains x.1.job
  let ds := kept.map Prod.fst
  if !d.clean then 1
  else if !again && !((stableList q.stables).all (c.stableFree p) && q.landmap &&& q.stables == q.landmap) then 2
  else if !again && !((q.func == 0xFF || (c.others p).all fun o => o.func != q.func) && q.evq != 0 && (c.others p).all fun o => o.evq != q.evq) then 3
  else if !c.winsOk p q then 4
  else if !(kept.all (fun x => c.ctxOk p q chk x.1 x.2) && c.ctxsApart ds) then 5
  else if !(stableList q.stables).all (c.admits q chk (if again then ceilDiv q.dataBytes 64 else 0) ds) then 6
  else if q.chkreq && decide (nchk < 2) then 7
  else if !c.figureOk q then 8
  else if !((List.range 64).all fun h => !bit q.suhalls h || (bits q.stables (4 * h + 3) (4 * h) != 0 && (c.others p).all fun o => !bit o.suhalls h)) then 9
  else 0

/-! ## Domains (R386) -/

/-- Poison tags for blocks. -/
def Chip.poisonAll (c : Chip) (blks : List Nat) : Chip :=
  { c with mem := { c.mem with tags := c.mem.tags.setAll (blks.map fun b => (b, c.poisonTag)) } }

/-- Clear a stable's banks, accumulators and loft to zero under a valid word code, with the poison tag (R386); it comes out of reset, its producer count at zero (R166). -/
def Chip.clearStable (c : Chip) (key : Nat) : Chip :=
  let a := localKey key 0
  let b := localKey key 0x200000
  let inside := fun k => (decide (a ≤ k) && decide (k < a + 0x200000)) || (decide (b ≤ k) && decide (k < b + 0x200000))
  let c := { c with mem := { c.mem with cells := c.mem.cells.filter (fun x => !inside x.1), errs := c.mem.errs.filter (fun x => !inside (x.1 * 32)), wb := c.mem.wb.filter (fun x => !inside (x.1 * 32)), prodSeq := c.mem.prodSeq.del (0x10000 + key) } }
  let c := c.dropErrs (sramKey (key / 4) (0x800000 + key % 4 * 0x40000)) 0x40000
  let c := { c with core := { c.core with accClear := ((List.range 16).map fun t => (key, t)) ++ c.core.accClear.filter (fun (e : Nat × Nat) => e.1 != key), idleAcc := c.core.idleAcc.filter fun (e : Nat × W32) => e.1 / 65536 != key } }
  c.poisonAll ((List.range 512).map (· + a / 4096) ++ (List.range 512).map (· + b / 4096))

/-- Stable domains switch on where they are off, and are cleared; answers those that did (R386). -/
def Chip.domainsOn (c : Chip) (keys : List Nat) : Chip × List Nat :=
  let new := keys.filter fun k => !c.core.on.contains k
  (({ c with core := { c.core with on := new ++ c.core.on } }) |> new.foldl Chip.clearStable, new)

/-- Stable domains switch off while no partition holds the stable. -/
def Chip.domainsOff (c : Chip) (keys : List Nat) : Chip :=
  { c with core := { c.core with on := c.core.on.filter fun k => !(keys.contains k && (c.partOfStb k).isNone) } }

/-- A section lies in the banks or lofts of given stables. -/
def Chip.sectIn (c : Chip) (s : Sect) (keys : List Nat) : Bool :=
  !s.inDram && match c.devKey s.addr with
    | some k => keys.any fun key => within (localKey key 0) (localKey key 0x1FFFFF) k || within (localKey key 0x200000) (localKey key 0x3FFFFF) k
    | none => false

/-- Load sections of a partition from the copy of the image. -/
def Chip.loadSects (c : Chip) (ss : List Sect) : Chip := ss.foldl (fun c s => c.loadSect c.boot.image s) c

/-! ## Clearing and assignment -/

/-- The requests of a partition's halls that wait at their requesters are dropped: those held back, and those refused and not
    sent again (the happenings table of chapter 13). Accepted ones complete. -/
def Chip.dropWaiting (c : Chip) (p : Nat) : Chip :=
  let gone := c.rq.refused.filter fun r => decide (r.owner < 72) && r.row == p
  let left := fun (e : Nat × RqM) => if e.1 / 8 < 72 then (e.1, { e.2 with
      held := e.2.held.filter fun r => r.row != p,
      out := gone.foldl (fun o r => if 8 * r.owner + r.master = e.1 then o.upd r.stack 0 (· - 1) else o) e.2.out }) else e
  { c with rq := { c.rq with refused := c.rq.refused.filter (fun r => !(decide (r.owner < 72) && r.row == p)), masters := c.rq.masters.map left } }

/-- A partition's contexts have stopped: every header that is still retiring has done so, with its record (R203). -/
def Chip.scenesDone (c : Chip) (p : Nat) : Chip :=
  (c.part p).scenes.foldl (fun c e => if e.2.ret then c.post .SCENE_RETIRED (hallUnit ((c.siteOf (c.part p).home).getD 0) 4) (some p) 0 else c) c

/-- What a restart and a creation clear (R281 step 2, R271): the home's flags, barriers and scene slots, KVPT, the Search
    Units, and the save areas. -/
def Chip.clearPart (c : Chip) (p : Nat) : Chip :=
  let q := c.part p
  let keys := (stableList q.stables).filterMap c.keyOf
  let c := (c.dropWaiting p).scenesDone p
  let c := (List.range 72).foldl (fun c s => if c.suOwned s p then c.suClear s else c) c
  let c := c.updPart p fun q => { q with flags := 0, bars := [], scenes := [], doneFrames := [] }
  let c := keys.foldl (fun c k => c.setReg (stbK k 0x60) (c.reg (stbK k 0x60) / 2 * 2)) c
  { c with batch := c.batch.filter (fun e => !keys.contains e.1), nextBatch := c.nextBatch.filter (fun e => !keys.contains e.1), core := { c.core with saved := c.core.saved.filter (fun e => e.1.1 != p), pinWait := c.core.pinWait.filter fun e => e.1 != p } }

/-- Release a partition's Search Units (R220). -/
def Chip.suRelease (c : Chip) (p : Nat) (keep : Nat → Bool) : Chip :=
  (List.range 72).foldl (fun c s => if c.suOwned s p && !keep s then (c.suClear s).setReg (suK s 0) (p % 32) else c) c

/-- Assign the Search Units that SUHALLS names (R220). -/
def Chip.suTake (c : Chip) (p suhalls : Nat) : Chip :=
  let sites := ((List.range 64).filter (bit suhalls)).filterMap c.siteOf
  sites.foldl (fun c s => c.suAssign s p true) (c.suRelease p fun s => sites.contains s)

/-- Forget the contexts of a partition. -/
def Chip.dropCtxs (c : Chip) (p : Nat) : Chip :=
  { c with core := { c.core with slots := c.core.slots.filter (fun e => e.2.part != p), saved := c.core.saved.filter (fun e => e.1.1 != p), pinWait := c.core.pinWait.filter fun e => e.1 != p } }

/-! ## CREATE, RESTART, STOP (R271, R285) -/

/-- CREATE for a partition in FREE. -/
def Chip.createNow (c : Chip) (p : Nat) (boot : Bool) : Chip :=
  let base := bits (c.reg (dcuK (0x1000 + p * 0x20))) 47 9 * 512
  let c := c.senseDraft base 0
  let d := c.readDraft p base 0
  let rej := c.createCheck p d c.checkedMode false
  if rej ≠ 0 then (c.updPart p fun q => { q with state := 0, rej := rej }).post .PART_REJECT (dcuUnit) (some p) rej
  else
    let c := { c with parts := c.parts.set p { d.part with starting := true, atBoot := boot } }
    let c := c.clearPart p
    let (c, _) := c.domainsOn ((stableList d.part.stables).filterMap c.keyOf)
    let c := c.loadSects ((c.sectsOf p).filter fun s => !s.inDram)
    let c := c.suTake p d.part.suhalls
    [0, 8, 0x10, 0x18, 0x20].foldl (fun c o => c.setReg (dcuK (0x2000 + p * 0x40 + o)) 0) c

/-- DCU_PCMD CREATE (R285). -/
def Chip.partCreate (c : Chip) (p : Nat) : Chip :=
  if (c.part p).state = 0 then c.createNow p (!c.time.running) else c.countErr dcuErr

/-- DCU_PCMD RESTART: R281 as for a fault, with class 0x00 (R285). -/
def Chip.partRestart (c : Chip) (p : Nat) : Chip :=
  if (c.part p).state = 2 then c.dueResetAt p 0 (dcuUnit) 0 else c.countErr dcuErr

/-- DCU_PCMD STOP (R285). -/
def Chip.partStop (c : Chip) (p : Nat) : Chip :=
  let q := c.part p
  if q.state = 2 ∨ q.state = 5 then
    let keys := (stableList q.stables).filterMap c.keyOf
    let c := ((c.stopPart p).scenesDone p).dropCtxs p
    let c := c.suRelease p fun _ => false
    let r := c.mkEv .PART_STOPPED (dcuUnit) [(0x10, 1, p)]
    let c := (c.postTo q.evq r).postTo 0 r
    let c := { c with parts := c.parts.set p { resets := q.resets, lastCls := q.lastCls, pfault := q.pfault, rej := q.rej }, log := { c.log with noQueue := c.log.noQueue || bits (c.reg (dcuK 0x8000)) 5 0 == q.evq } }
    c.domainsOff keys
  else c.countErr dcuErr

/-! ## Partition reset (R281) -/

/-- Set a stable's live mode UNCHECKED at a restart, with its record (R264). -/
def Chip.endService (c : Chip) (p key : Nat) : Chip :=
  if c.checkedMode key then ((c.setReg (stbK key 0xA0) (c.reg (stbK key 0xA0) / 2 * 2)).hbOff key).post .CHK_SERVICE_END (stbUnit key) (some p) else c

/-- A variant's descriptor, its number and the code of its first failing check. -/
def Chip.variants (c : Chip) (p base : Nat) : (fuel v : Nat) → List (Draft × Nat)
  | 0, _ => []
  | fuel + 1, v =>
    let d := c.readDraft p base v
    let usable := (stableList d.part.stables).all (c.stableFree p)
    let lone := (c.checkedOf c.checkedMode d.part.stables).length == 1
    let code := if usable then c.createCheck p d (fun k => c.checkedMode k && !lone) true else 2
    (d, code) :: if d.next then Chip.variants c p base fuel (v + 1) else []

/-- STATE becomes FAILED (R281): nothing runs until STOP; the Search Units are released (R220). -/
def Chip.partFail (c : Chip) (p : Nat) : Chip :=
  let c := ((c.dropCtxs p).suRelease p fun _ => false).updPart p fun q => { q with state := 5, resetDue := none, reloading := false, starting := false }
  c.post .PART_FAILED (dcuUnit) (some p)

/-- The fourth reset within 1,000 frames. -/
def fourResets (fs : List Nat) (f : Nat) : Bool := decide (4 ≤ ((f :: fs).filter fun g => decide (f < g + 1000)).length)

/-- Step 2 of a partition reset (R281): the state is cleared; stables that are fenced, or quarantined, leave the mask, and those marked
    for retirement end service; a reset of a running partition is counted. -/
def Chip.resetClear (c : Chip) (p cls : Nat) : Chip :=
  let q := c.part p
  let count := q.state = 2
  let c := c.clearPart p
  let keys := (stableList q.stables).filterMap c.keyOf
  let gone := fun n => match c.keyOf n with
    | some k => !c.siteActive (k / 4) || (c.eng k).quar
    | none => true
  let left := ((stableList q.stables).filter fun n => !gone n).foldl (fun m n => m + 2 ^ n) 0
  let c := keys.foldl (fun c k => if (c.eng k).retire then c.endService p k else c) c
  let frames := if count then c.curFrame :: q.resetFrames.take 3 else q.resetFrames
  c.updPart p fun q => { q with stables := left, resetDue := none, resets := if count then min (q.resets + 1) 0xFFFF else q.resets, lastCls := if count then cls else q.lastCls, resetFrames := frames }

/-- Step 3 (R281) with the chosen variant's descriptor: the partition takes its stables, jobs and contexts, with the reload to come. `keys` are the stables
    it had. -/
def Chip.resetInto (c : Chip) (p : Nat) (n : Part) (keys : List Nat) : Chip :=
  let c := c.updPart p fun q => { q with state := 3, rej := 0, stables := n.stables, landmap := n.landmap, wins := n.wins, jobs := n.jobs, ctxs := n.ctxs, chkreq := n.chkreq, suhalls := n.suhalls, shard := n.shard, dataBytes := n.dataBytes, home := n.home, reloading := true, starting := false, refused := [] }
  let chk := c.checkedOf c.checkedMode n.stables
  let c := if chk.length = 1 then chk.foldl (fun c k => c.endService p k) c else c
  let (c, new) := c.domainsOn ((stableList n.stables).filterMap c.keyOf)
  let c := c.updPart p fun q => { q with fresh := new ++ q.fresh }
  (c.domainsOff keys).suTake p n.suhalls

/-- Steps 2 and 3 of a partition reset (R281). A cause that joins a reset in progress repeats the choice of the variant and
    is not counted. -/
def Chip.partReset (c : Chip) (p : Nat) : Chip :=
  let q := c.part p
  match q.resetDue with
  | none => c
  | some cls =>
    if ¬ (q.state = 2 ∨ q.state = 3) then c
    else
      let keys := (stableList q.stables).filterMap c.keyOf
      let c := c.resetClear p cls
      let vs := c.variants p q.descAddr 8 0
      let c := (List.range vs.length).foldl (fun c v => c.senseDraft q.descAddr v) c
      match vs.find? fun v => v.2 == 0 with
      | none => (c.updPart p fun q => { q with rej := (vs.getLast?.map Prod.snd).getD 1 }).partFail p
      | some (d, _) => if q.state = 2 ∧ fourResets q.resetFrames c.curFrame then c.partFail p else c.resetInto p d.part keys

/-- Steps 4 and 5 (R281): the reload ends, and the contexts are created but for refused jobs. -/
def Chip.reloadDone (c : Chip) (p : Nat) : Chip :=
  let q := c.part p
  if q.state = 3 ∧ q.reloading = true ∧ q.resetDue = none then
    let again := (c.sectsOf p).filter fun s => s.typ == 3 || s.typ == 4 || s.typ == 6 || c.sectIn s q.fresh
    let c := c.loadSects again
    let refused := refusedJobs q (c.checkedOf c.checkedMode q.stables).length
    let c := (c.dropCtxs p).updPart p fun q => { q with reloading := false, starting := true, refused := refused, fresh := [] }
    refused.foldl (fun c j => c.post .JOB_REFUSED (dcuUnit) (some p) j) c
  else c

end Sys2Proof.Machine
end

