-- ==== Sys2Proof/Machine/Regulation.lean ====
section
/-! DEFINITION. Bandwidth and latency regulation: requests, the base die queue and the system cache (R286-R289, R171), feedback and throttling (R290-R292), the slot wheel (R293, R294) and CH16 budgets (R295). -/

namespace Sys2Proof.Machine

/-! ## Requesters -/

/-- Die code of a requester. -/
def rqDie : RqOwner → Nat
  | .hall s => s.val
  | .iod i => 0x4E + i.val

/-- A register of a requester's block, by its offset there. -/
def rqK (die off : Nat) : RegKey := if die < 72 then ⟨.hall die, 0xEA00000 + off⟩ else ⟨.iod (die - 0x4E), 0x0A00000 + off⟩

/-- Unit path of a requester: the hall fabric, or the I/O die's buffers. -/
def rqUnit (die : Nat) : Nat := if die < 72 then hallUnit die 5 else iodUnit (die - 0x4E) 9

/-- A requester has this master. -/
def rqHas (die m : Nat) : Bool := decide (m < if die < 72 then 6 else 4)

/-- A requester's feedback state. -/
def Chip.rqo (c : Chip) (die : Nat) : RqO := c.rq.owners.get die {}

/-- Change a requester's feedback state. -/
def Chip.updRqo (c : Chip) (die : Nat) (f : RqO → RqO) : Chip := { c with rq := { c.rq with owners := c.rq.owners.upd die {} f } }

/-- A master's state. -/
def Chip.rqm (c : Chip) (die m : Nat) : RqM := c.rq.masters.get (8 * die + m) {}

/-- Change a master's state. -/
def Chip.updRqm (c : Chip) (die m : Nat) (f : RqM → RqM) : Chip := { c with rq := { c.rq with masters := c.rq.masters.upd (8 * die + m) {} f } }

/-- A base die's queue. -/
def Chip.baseQ (c : Chip) (s : Nat) : BaseQ := c.rq.dies.get s {}

/-- Change a base die's queue. -/
def Chip.updBase (c : Chip) (s : Nat) (f : BaseQ → BaseQ) : Chip := { c with rq := { c.rq with dies := c.rq.dies.upd s {} f } }

/-- The save engine of a hall. -/
def isSaver (die m : Nat) : Bool := decide (die < 72) && m == 4

/-- A master's configuration. -/
def Chip.rqCfg (c : Chip) (die m : Nat) : Nat := if isSaver die m then 0x47 else c.reg (rqK die (8 * m))

/-- CH16 is set; the save engine cannot be set to it (R295). -/
def Chip.ch16 (c : Chip) (die m : Nat) : Bool := !isSaver die m && bit (c.rqCfg die m) 3

/-- THR(level). -/
def Chip.thr (c : Chip) (die level : Nat) : Nat := bits (c.reg (rqK die 0x30)) (8 * level + 7) (8 * level)

/-- Mean latency L in ns (R292). -/
def RqM.lat (x : RqM) : Nat := if x.lats = [] then 0 else x.lats.sum / x.lats.length

/-- Current priority of a master (R292, R295, R286). -/
def Chip.rqPri (c : Chip) (die m : Nat) : Nat :=
  let v := c.rqCfg die m
  let base := bits v 2 0
  if isSaver die m then 7
  else if c.ch16 die m then if (c.rqm die m).excess then 0 else base
  else
    let tgt := bits v 27 16 * 10
    let l := (c.rqm die m).lat
    if tgt = 0 then base else min 7 (base + if 2 * l < tgt then 0 else if 4 * l < 3 * tgt then 1 else if l < tgt then 2 else 3)

/-- DL of a master's requests (R286, R292, R295). -/
def Chip.rqDl (c : Chip) (die m : Nat) : Nat := if isSaver die m then 4 else if c.ch16 die m then 0 else bits (c.rqCfg die m) 15 4

/-- Partition of the work that a request serves, or 32 (R286). `by'` names the partition of the saved context, the ingest
    channel or the PCIe function. -/
def Chip.rqRow (c : Chip) (die m by' : Nat) : Nat :=
  if die < 72 then
    if m < 4 then (c.partOfStb (4 * die + m)).getD 32
    else if m = 4 then by'
    else let o := c.reg (suK die 0); if bit o 8 then bits o 4 0 else 32
  else if m < 2 then bits (c.reg (iodK (die - 0x4E) (0x100000 + by' * 0x100))) 28 24
  else if m = 2 then ((c.parts.find? fun e => e.2.held && e.2.func == by').map Prod.fst).getD 32
  else 32

/-! ## Issue (R291, R294, R295) -/

/-- Wheel slot of a local DEVTIME, as an absolute number. -/
def wheelSlot (t : Nat) : Nat := t / 250

/-- A request may issue in the wheel now: its slot is not another partition's, it falls in the first 200 ns, and the master
    has issued fewer than THR(0) requests to the stack in this slot (R294). -/
def Chip.wheelOk (c : Chip) (r : Req) : Bool :=
  let t := c.localTime r.owner
  let s := wheelSlot t
  let e := bits (c.reg (dcuK (0x3000 + s % 64 / 8 * 8))) (s % 8 * 8 + 7) (s % 8 * 8)
  let x := c.rqm r.owner r.master
  (!bit e 7 || bits e 5 0 == r.row) && decide (t % 250 < 200) && decide ((if x.slot = s then x.inSlot.get r.stack 0 else 0) < c.thr r.owner 0)

/-- A request may issue now. -/
def Chip.mayIssue (c : Chip) (r : Req) : Bool :=
  if isSaver r.owner r.master || c.ch16 r.owner r.master then true
  else
    let o := c.rqo r.owner
    if bit o.tdm r.stack then c.wheelOk r
    else decide ((c.rqm r.owner r.master).out.get r.stack 0 < c.thr r.owner (if 6 ≤ c.rqPri r.owner r.master then 0 else o.level.get r.stack 0))

/-- Issue a request: its priority and deadline are fixed, and it leaves for the base die (R286). -/
def Chip.issueReq (c : Chip) (r : Req) : Chip :=
  let r := { r with id := c.rq.next, pri := c.rqPri r.owner r.master, dl := c.rqDl r.owner r.master, issued := c.time.now }
  let s := wheelSlot (c.localTime r.owner)
  let budget := bits (c.rqCfg r.owner r.master) 47 32 * 256
  let c := c.updRqm r.owner r.master fun x =>
    let n := if x.slot = s then x.inSlot else []
    { x with out := x.out.upd r.stack 0 (· + 1), bytes := if c.ch16 r.owner r.master then x.bytes + r.bytes else x.bytes, excess := x.excess || (c.ch16 r.owner r.master && decide (budget < x.bytes + r.bytes)), slot := s, inSlot := AMap.upd n r.stack 0 (· + 1) }
  { c with rq := { c.rq with next := c.rq.next + 1, flying := c.rq.flying ++ [r] } }

/-- A new request of a master at DEVTIME `t`: it issues, or it is held in order (R291); one of a CH16 master is never held (R295). -/
def Chip.newRequest (c : Chip) (die m by' addr : Nat) (wr : Bool) (bytes t : Nat) : Chip :=
  if rqHas die m && decide (addr < 0x3600000000) && within 1 256 bytes then
    let c := c.at t
    let g := addr / 4096
    let r : Req := { id := 0, owner := die, master := m, stack := g % 6, row := c.rqRow die m by', line := (g / 6 * 4096 + addr % 4096) / 256, wr := wr, bytes := bytes }
    let waiting := (c.rqm die m).held.any fun h => h.stack == r.stack
    if (c.ch16 die m || !waiting) && c.mayIssue r then c.issueReq r else c.updRqm die m fun x => { x with held := x.held ++ [r] }
  else c

/-- REQUEST_ISSUE of a held request: the oldest one to a stack, if it may issue now. The requests that the master holds to that stack
    have waited for `waited` cycles in all since this was last asked, which are counted while the stack's level holds them (R291). -/
def Chip.issueHeld (c : Chip) (die m stack waited t : Nat) : Chip :=
  let c := c.at t
  match (c.rqm die m).held.find? fun r => r.stack == stack with
  | none => c
  | some r =>
    let c := if bit (c.rqo die).tdm stack then c else c.bump (rqK die 0x80) waited
    if c.mayIssue r then (c.updRqm die m fun x => { x with held := x.held.erase r }).issueReq r else c

/-- A wheel slot begins (R294): the held requests that its owner may issue leave, at most THR(0) of each master and stack. -/
def Chip.tdmSlot (c : Chip) (die t : Nat) : Chip :=
  let c := c.at t
  (List.range 6).foldl (fun c m => (c.rqm die m).held.foldl (fun c r =>
    if bit (c.rqo die).tdm r.stack && c.mayIssue r then (c.updRqm die m fun x => { x with held := x.held.erase r }).issueReq r else c) c) c

/-- A CH16 window of HALL_RQ_WIN × 100 ns ends, and the next begins (R295). -/
def Chip.windowEnd (c : Chip) (die m t : Nat) : Chip :=
  let c := c.at t
  if rqHas die m && c.ch16 die m && decide ((c.rqm die m).winAt + bits (c.reg (rqK die 0x38)) 15 0 * 100 ≤ t) then c.updRqm die m fun x => { x with bytes := 0, excess := false, winAt := t } else c

/-! ## The base die queue (R287, R288) -/

/-- Reserved entries of a row. -/
def Chip.reserve (c : Chip) (s row : Nat) : Nat := 8 * bits (c.reg (mbK s (0x810 + row / 8 * 8))) (row % 8 * 8 + 7) (row % 8 * 8)

/-- Shared entries of a queue. -/
def Chip.sharedPool (c : Chip) (s : Nat) : Nat := 1024 - 64 - ((List.range 33).map (c.reserve s)).sum

/-- The entry that an arriving request takes, if any (R287): the queue has 1,024, however the shares have changed. In self-refresh
a base die takes no request (R398). -/
def Chip.entryFor (c : Chip) (r : Req) : Option Nat :=
  let q := (c.baseQ r.stack).q
  if 1024 ≤ q.length ∨ c.pm.cool = 2 then none else
  let mine := fun k => (q.filter fun e => e.entry == k && (k == 0 || e.row == r.row)).length
  let shared := (q.filter fun e => e.entry == 2).length
  let first := if isSaver r.owner r.master then (if mine 0 < 64 then some 0 else none) else if mine 1 < c.reserve r.stack r.row then some 1 else none
  match first with
  | some k => some k
  | none => if shared < c.sharedPool r.stack ∧ mine 2 + 1 ≤ bits (c.reg (mbK r.stack 0x800)) 41 32 then some 2 else none

/-- LEVEL of a queue (R290). -/
def Chip.levelOf (c : Chip) (s : Nat) : Nat := min 7 (8 * (c.baseQ s).q.length / 1024)

/-- A request reaches its base die: it takes an entry, or is refused and counted (R287). -/
def Chip.reqArrives (c : Chip) (id t : Nat) : Chip :=
  let c := c.at t
  match c.rq.flying.find? fun r => r.id == id with
  | none => c
  | some r =>
    let c := { c with rq := { c.rq with flying := c.rq.flying.erase r } }
    match c.entryFor r with
    | some k => c.updBase r.stack fun b => let q := b.q ++ [{ r with arrived := t, entry := k }]; { b with q := q, high := max b.high q.length }
    | none => ({ c with rq := { c.rq with refused := c.rq.refused ++ [r] } }).bump (mbK r.stack 0x888)

/-- The deadline of a queued request that is urgent, and whether the AGE rule makes it so (R288). -/
def Chip.urgent (c : Chip) (r : Req) (t : Nat) : Option (Nat × Bool) :=
  let v := c.reg (mbK r.stack 0x800)
  let age := r.arrived + bits v 31 16 * 10
  let dl := r.arrived + r.dl * 250
  if r.dl ≠ 0 ∧ dl ≤ t + bits v 15 4 * 10 then some (dl, false)
  else if age ≤ t then if r.dl = 0 then some (age, true) else some (dl, false)
  else none

/-- The request that the queue serves at `t` (R288). A die at 105 degrees serves only real-time and save-engine requests
    (R395). -/
def Chip.pickReq (c : Chip) (s t : Nat) : Option Req :=
  let q := (c.baseQ s).q.filter fun r => r.dl != 0 || c.pm.dieHot.get s 0 != 2
  let u := q.filterMap fun r => (c.urgent r t).map fun d => (d.1, r)
  match (sortBy (fun d => d.1 * 2 ^ 64 + d.2.arrived) u).head? with
  | some d => some d.2
  | none => (sortBy (fun r => (7 - r.pri) * 2 ^ 64 + r.arrived) q).head?

/-- Way mask of a row (R289). -/
def Chip.wayMask (c : Chip) (s row : Nat) : Nat := bits (c.reg (mbK s (0x838 + row / 4 * 8))) (row % 4 * 16 + 15) (row % 4 * 16)

/-- The line slot of the cache takes a request's line: a written line is dirty, and one that it replaces is written back (R171). -/
def BaseQ.take (b : BaseQ) (slot : Nat) (r : Req) (hit : Bool) : BaseQ :=
  let kept := if hit then b.dirty else b.dirty.filter (· ≠ slot)
  { b with lines := b.lines.set slot (r.line, b.uses + 1), uses := b.uses + 1, dirty := if r.wr && !kept.contains slot then slot :: kept else kept }

/-- Serve a request in the system cache: a hit in any way, or a miss that replaces the least recently used line of the
    partition's ways (R171, R289). -/
def Chip.cacheServe (c : Chip) (r : Req) : Chip :=
  let b := c.baseQ r.stack
  let set := r.line % 8192
  match (List.range 16).find? fun w => (b.lines.look (16 * set + w)).map Prod.fst == some r.line with
  | some w => (c.updBase r.stack fun b => b.take (16 * set + w) r true).bump (mbK r.stack 0x898)
  | none =>
    let c := c.bump (mbK r.stack 0x8A0)
    let ways := (List.range 16).filter (bit (c.wayMask r.stack r.row))
    match (sortBy (fun w => match b.lines.look (16 * set + w) with
      | some l => l.2 + 1
      | none => 0) ways).head? with
    | some w => c.updBase r.stack fun b => b.take (16 * set + w) r false
    | none => c

/-- The row that a request's data bytes are charged to (R284): the work of contexts, save engines, PCIe functions and the device; the
    records of ingest channels are charged to none. -/
def Req.memRow (r : Req) : Option Nat := if 72 ≤ r.owner ∧ r.master < 2 then none else some r.row

/-- One line slot of a stack: the queue serves a request (R288). -/
def Chip.queueService (c : Chip) (s t : Nat) : Chip :=
  let c := c.at t
  match c.pickReq s t with
  | none => c
  | some r =>
    let late := r.dl != 0 && decide (r.arrived + r.dl * 250 < t)
    let aged := match c.urgent r t with
      | some (_, a) => a
      | none => false
    let c := c.updBase s fun b => { b with q := b.q.erase r }
    let c := if late then (c.bump (mbK s 0x880)).bump (rqK r.owner 0x78) else c
    let c := if aged then c.bump (mbK s 0x890) else c
    let c := c.cacheServe r
    let c := match r.memRow with
      | some p => c.charged { row := p, mem := r.bytes }
      | none => c
    { c with rq := { c.rq with back := c.rq.back ++ [{ r with level := c.levelOf s }] } }

/-- A request completes at its requester (R290, R292): one fewer is outstanding, L is updated, and the response's level is
    applied. A response to a fenced hall is discarded. -/
def Chip.reqComplete (c : Chip) (id t : Nat) : Chip :=
  let c := c.at t
  match c.rq.back.find? fun r => r.id == id with
  | none => c
  | some r =>
    let c := { c with rq := { c.rq with back := c.rq.back.erase r } }
    if r.owner < 72 ∧ 2 ≤ c.site.state.get r.owner 1 then c
    else
      let c := c.updRqm r.owner r.master fun x => { x with out := x.out.upd r.stack 0 (· - 1), lats := ((t - r.issued) :: x.lats).take 16 }
      c.updRqo r.owner fun o => { o with level := o.level.set r.stack r.level }

/-- A fenced hall's requester is gone with it: requests that its base dies have not taken are dropped. -/
def Chip.rqForget (c : Chip) (site : Nat) : Chip :=
  { c with rq := { c.rq with masters := c.rq.masters.filter (fun e => e.1 / 8 != site), owners := c.rq.owners.filter (fun e => e.1 != site), refused := c.rq.refused.filter fun r => r.owner != site } }

/-! ## Feedback (R290, R293) -/

/-- Level messages of a stack are enabled. -/
def Chip.fben (c : Chip) (s : Nat) : Bool := bit (c.reg (mbK s 0x800)) 0

/-- A base die sends its level (R290). -/
def Chip.levelSend (c : Chip) (s t : Nat) : Chip :=
  let c := c.at t
  if c.fben s then c.updBase s fun b => { b with msgs := b.msgs + 1, lvl := c.levelOf s } else c

/-- A requester receives the last level message of a stack that it has not received; refused requests go out again where
    the level shows room (R287, R290). -/
def Chip.levelReceive (c : Chip) (die s t : Nat) : Chip :=
  let c := c.at t
  let b := c.baseQ s
  let o := c.rqo die
  if b.msgs = o.seen.get s 0 then c
  else
    let run := if o.at'.get s 0 + 4000 < t then 1 else o.run.get s 0 + 1
    let c := c.updRqo die fun o => { o with level := o.level.set s b.lvl, at' := o.at'.set s t, seen := o.seen.set s b.msgs, run := o.run.set s run, cur := o.cur ||| 2 ^ s }
    if b.lvl < 7 then
      let mine := fun (r : Req) => r.owner == die && r.stack == s
      { c with rq := { c.rq with flying := c.rq.flying ++ c.rq.refused.filter mine, refused := c.rq.refused.filter fun r => !mine r } }
    else c

/-- Feedback from a stack is lost (R293): no level message for 4 µs, or FBEN is 0. -/
def Chip.fbLost (c : Chip) (die s t : Nat) : Chip :=
  let c := c.at t
  let o := c.rqo die
  if !bit o.tdm s && (decide (o.at'.get s 0 + 4000 ≤ t) || !c.fben s) then
    let c := (c.updRqo die fun o => { o with tdm := o.tdm + 2 ^ s, cur := o.cur - (o.cur &&& 2 ^ s), run := o.run.set s 0 }).bump (rqK die 0x88)
    c.post .REG_FB_LOST (rqUnit die) none s
  else c

/-- Feedback is restored after 8 consecutive level messages (R293). -/
def Chip.fbRestored (c : Chip) (die s : Nat) : Chip :=
  let o := c.rqo die
  if bit o.tdm s && decide (8 ≤ o.run.get s 0) then
    let c := (c.updRqo die fun o => { o with tdm := o.tdm - 2 ^ s }).bump (rqK die 0x88)
    c.post .REG_FB_RESTORED (rqUnit die) none s
  else c

end Sys2Proof.Machine
end

