-- ==== Sys2Proof/Machine/Links.lean ====
section
/-! DEFINITION. The yard: ports and peers (R340), packets (R341, R342), link errors and replay (R343-R345), lane roles and steering (R346, R347), routes (R348-R350), and the loss of a hall or a stack (R351-R353). -/

namespace Sys2Proof.Machine

/-! ## Topology (R340) -/

/-- Key of a port. -/
def portKey (die port : Nat) : Nat := 16 * die + port

/-- The other end of a port. -/
def peerOf (die port : Nat) : Option (Nat × Nat) :=
  if die < 72 then
    let r := die / 9
    let col := die % 9
    match port with
    | 0 => if r = 0 then some (0x48 + col / 3, col % 3) else some (die - 9, 2)
    | 1 => if col = 8 then some (0x4F, r) else some (die + 1, 3)
    | 2 => if r = 7 then some (0x4B + col / 3, col % 3) else some (die + 9, 0)
    | 3 => if col = 0 then some (0x4E, r) else some (die - 1, 1)
    | _ => none
  else if die < 0x4E then
    let m := die - 0x48
    if port < 3 then some (if m < 3 then (3 * m + port, 0) else (63 + 3 * (m - 3) + port, 2)) else none
  else if die < 0x50 then
    let i := die - 0x4E
    if port < 8 then some (9 * port + 8 * i, if i = 0 then 3 else 1) else if port = 8 then some (0x50 + i, 0) else none
  else if die < 0x52 then
    if port = 0 then some (die - 2, 8) else if port = 1 then some (0xA1 - die, 1) else none
  else none

/-- Ports of a die. -/
def portsOf (die : Nat) : List Nat := (List.range 9).filter fun p => (peerOf die p).isSome

/-- Link register of a port; the island ends have none. -/
def lnkK (die port off : Nat) : Option RegKey :=
  if die < 72 then some ⟨.hall die, 0xEC00000 + port * 0x100 + off⟩
  else if die < 0x4E then some ⟨.mb (die - 0x48), 0x1000 + port * 0x100 + off⟩
  else if die < 0x50 then some ⟨.iod (die - 0x4E), 0x0C00000 + port * 0x100 + off⟩
  else none

/-- Unit path of a port. -/
def lnkUnit (die port : Nat) : Nat := unitPath 3 die 0 0 0 port

/-- A port's state. -/
def Chip.port (c : Chip) (die p : Nat) : Port := c.yard.ports.get (portKey die p) {}

/-- Change a port's state. -/
def Chip.updPort (c : Chip) (die p : Nat) (f : Port → Port) : Chip := { c with yard := { c.yard with ports := c.yard.ports.upd (portKey die p) {} f } }

/-- Count at a port. -/
def Chip.lnkBump (c : Chip) (die p off : Nat) : Chip := match lnkK die p off with
  | some k => c.bump k
  | none => c

/-- A narrow link: an island's, or an I/O die's port 8. -/
def narrow (die p : Nat) : Bool := decide (0x50 ≤ die) || (decide (0x4E ≤ die) && p == 8)

/-- A hall-I/O die port, which allows widths of 4, 2 and 1. -/
def ioPort (die p : Nat) : Bool := match peerOf die p with
  | some (d, _) => (decide (0x4E ≤ die) && decide (die < 0x50) && p != 8) || (decide (die < 72) && decide (0x4E ≤ d))
  | none => false

/-! ## Lane roles (R346) -/

/-- Cut a list into `n` groups of 36. -/
def groupsOf : (n : Nat) → List Nat → List (List Nat)
  | 0, _ => []
  | n + 1, l => l.take 36 :: groupsOf n (l.drop 36)

/-- Receive width for a count of good lanes. -/
def widthFor (io : Bool) (wmax good : Nat) : Nat :=
  (([4, 3, 2, 1].filter fun w => !(io && w == 3)).find? fun w => decide (36 * w ≤ good) && decide (w ≤ wmax)).getD 0

/-- Assign the receive roles of a direction from the lanes that test good. -/
def Port.train (x : Port) (thin io : Bool) (wmax : Nat) (good : Nat → Bool) : Port :=
  if thin then
    let ok := (List.range 12).all good
    { x with state := if ok then 2 else 4, groups := if ok then [List.range 12] else [], roles := (List.range 12).map fun l => (l, 0), spares := [], steer := [], failed := [], win := [] }
  else
    let g := (List.range 144).filter good
    let w := widthFor io wmax g.length
    let rest := g.drop (36 * w)
    let sp := rest.take 8
    let sb := (rest.drop 8).take 4
    let role := fun l => if !good l then 8 else if (g.take (36 * w)).contains l then (g.idxOf l) / 36 else if sp.contains l then 4 else if sb.contains l then 6 else 7
    { x with state := if w = 0 then 4 else 2, groups := groupsOf w g, roles := (List.range 144).map fun l => (l, role l), spares := sp, steer := [], failed := [], win := [] }

/-- Receive width. -/
def Port.rxw (x : Port) : Nat := x.groups.length

/-- Sideband lanes. -/
def Port.sideband (x : Port) : Nat := (x.roles.filter fun r => r.2 == 6).length

/-- Free spares. -/
def Port.freeSpares (x : Port) : Nat := x.spares.length - x.steer.length

/-- WMAX of a port. -/
def Chip.wmax (c : Chip) (die p : Nat) : Nat := match lnkK die p 0 with
  | some k => bits (c.reg k) 2 0
  | none => 1

/-- LTHR of a port; an island's end has no register, and uses the reset value. -/
def Chip.lthr (c : Chip) (die p : Nat) : Nat := match lnkK die p 0 with
  | some k => bits (c.reg k) 23 8
  | none => 1024

/-! ## Routes (R348, R349) -/

/-- Sites along a row or column, from one to the next, the first left out. -/
def legCols (r c0 c1 : Nat) : List Nat :=
  if c0 ≤ c1 then (List.range (c1 - c0)).map fun i => 9 * r + c0 + i + 1 else (List.range (c0 - c1)).map fun i => 9 * r + c0 - i - 1

/-- Sites along a column, the first left out. -/
def legRows (col r0 r1 : Nat) : List Nat :=
  if r0 ≤ r1 then (List.range (r1 - r0)).map fun i => 9 * (r0 + i + 1) + col else (List.range (r0 - r1)).map fun i => 9 * (r0 - i - 1) + col

/-- Paths of sites from `a` to `b`, by shape: XY, YX, and XYX by column; with the index from which VC is 1. -/
def shapes (a b : Nat) : List (Nat × List Nat × Nat) :=
  let ra := a / 9; let ca := a % 9; let rb := b / 9; let cb := b % 9
  let xy := a :: legCols ra ca cb ++ legRows cb ra rb
  let yx := a :: legRows ca ra rb ++ legCols rb ca cb
  (0, xy, 1000) :: (1, yx, 0) :: (List.range 9).map fun m => let head := a :: legCols ra ca m ++ legRows m ra rb; (2, head ++ legCols rb m cb, head.length - 1)

/-- Sites at which a die attaches to the mesh; a site attaches at itself. -/
def attach (die : Nat) : List Nat :=
  if die < 72 then [die] else (portsOf die).filterMap fun p => (peerOf die p).bind fun q => if q.1 < 72 then some q.1 else none

/-- The port of one die that leads to a neighbour. -/
def portTo (die next : Nat) : Option Nat := (portsOf die).find? fun p => (peerOf die p).map Prod.fst == some next

/-- Every hop of a path of dies leaves by an UP port and enters by one. -/
def hopsUp (up : Nat → Bool) : List Nat → Bool
  | a :: b :: rest => (match portTo a b, portTo b a with
      | some p, some q => up (portKey a p) && up (portKey b q)
      | _, _ => false) && hopsUp up (b :: rest)
  | _ => true

/-- The chosen route between two dies as dies in order, with the hop from which VC is 1 (R349): fewest links, then shape, then
    the lower attachment. An island is reached through its I/O die. -/
def routeFrom (cross : Nat → Bool) (up : Nat → Bool) (src dst : Nat) : Option (List Nat × Nat) :=
  let out := fun d => if 0x50 ≤ d ∧ d < 0x52 then d - 2 else d
  let s := out src
  let d := out dst
  let ends := ((attach s).map fun a => (attach d).map fun b => (a, b)).flatten
  let wrap := fun (l : List Nat) => (if src = s then [] else [src]) ++ (if s < 72 then [] else [s]) ++ l ++ (if d < 72 then [] else [d]) ++ if dst = d then [] else [dst]
  let pre := (if src = s then 0 else 1) + if s < 72 then 0 else 1
  let cands := (ends.map fun e => (shapes e.1 e.2).map fun q => (q.1, e.1, e.2, wrap q.2.1, if q.1 = 1 then 0 else q.2.2 + pre, q.2.1)).flatten
  let ok := cands.filter fun q => q.2.2.2.2.2.all cross && hopsUp up q.2.2.2.1
  let ranked := sortBy (fun q => ((q.2.2.2.1.length * 4 + q.1) * 128 + q.2.1) * 128 + q.2.2.1) ok
  if s = d then (if (s = src ∨ d = dst) ∧ hopsUp up (wrap' src s dst) = true then some (wrap' src s dst, 1000) else none)
  else (ranked.head?).map fun q => (q.2.2.2.1, q.2.2.2.2.1)
where
  /-- The hop between an island and its I/O die. -/
  wrap' (src s dst : Nat) : List Nat := if src = dst then [src] else if src = s then [src, dst] else if dst = s then [src, dst] else [src, s, dst]

/-- Sites that may be crossed: active or spare. -/
def Chip.crossable (c : Chip) (s : Nat) : Bool := let v := c.site.state.get s 1; decide (v ≤ 1)

/-- A port is UP for the routes; one that retrains counts as UP. -/
def Chip.portUp (c : Chip) (k : Nat) : Bool := let s := (c.yard.ports.get k {}).state; s == 2 || s == 3

/-- A route under the loaded tables. -/
def Chip.route' (c : Chip) (src dst : Nat) : Option (List Nat × Nat) := routeFrom c.yard.sites.contains c.yard.up.contains src dst

/-- A route exists as the yard now stands. -/
def Chip.reachable (c : Chip) (src dst : Nat) : Bool := (routeFrom c.crossable c.portUp src dst).isSome

/-! ## Fences and losses (R345, R350, R351) -/

/-- A failed site carries no traffic: its links are down at both ends, and a stack whose port enters it loses that port (R29). A
    fenced end stays fenced. -/
def Chip.siteDark (c : Chip) (site : Nat) : Chip :=
  let down := fun (x : Port) => if x.state = 4 then x else { x with state := 0, groups := [], txw := 0 }
  (portsOf site).foldl (fun c p => (match peerOf site p with
    | some (d, q) => c.updPort d q down
    | none => c).updPort site p fun x => { x with state := 0, groups := [], txw := 0 }) c

/-- Plan records that waited at an I/O die's island port for its retrain arrive, or are lost with the port (R345, R347). -/
def Chip.mailAt (c : Chip) (die p : Nat) : Chip :=
  if p = 8 then (if die = 0x4E then c.mailFlush .A else if die = 0x4F then c.mailFlush .B else c) else c

/-- Fence one port end, with its record (R345). -/
def Chip.fencePort (c : Chip) (die p : Nat) : Chip :=
  if (c.port die p).state = 4 then c
  else
    let c := c.updPort die p fun x => { x with state := 4, groups := [], txw := 0 }
    let c := { c with yard := { c.yard with due := some (c.yard.due.getD c.time.now) } }
    (c.mailAt die p).post .LINK_FENCED (lnkUnit die p) none

/-- A count or a site state has changed (R28). -/
def Chip.countsChanged (c : Chip) : Chip := c.post .COUNTS_CHANGED (dcuUnit) none

/-- Raise HALL_LOST in every partition with a stable in a hall (R281), with an error record even where no context is there (R45). -/
def Chip.hallLost (c : Chip) (h site : Nat) : Chip :=
  let ps := (c.parts.filter fun e => e.2.held && bits e.2.stables (4 * h + 3) (4 * h) != 0).map Prod.fst
  ps.foldl (fun c p =>
    let ks := (c.core.slots.filter fun x => x.2.part == p && x.2.state != 0 && x.2.state != 4).map Prod.fst
    let c := if ks = [] then c.sendErr { unit := hallUnit site 0, cls := HALL_LOST, part := p } else ks.foldl (fun c k => c.recordFault k { cls := HALL_LOST }) c
    c.dueResetAt p HALL_LOST (hallUnit site 0) (4 * h)) c

/-- Values staged at a unit are lost with it when it is fenced (R355). -/
def CfgSt.fenced (g : CfgSt) (site : Nat) : CfgSt :=
  let gone := g.staged.keys.filter fun k => decide (k.blk = .hall site)
  { g with staged := g.staged.filter fun e => decide (e.1.blk ≠ .hall site), lost := g.lost ++ gone.filter fun k => !g.lost.contains k }

/-- Values staged at a hall are lost when it is fenced. -/
def Chip.fenceStaged (c : Chip) (site : Nat) : Chip := { c with cfg := c.cfg.upd .dcu {} fun g => g.fenced site }

/-- Fence a hall that does not answer (R351): its ports, its site state, its logical ID, HALL_FENCED and HALL_LOST; its plan port sends nothing more (R238). Records
    that the DCU has not taken from it are lost (R410). -/
def Chip.fenceSite (c : Chip) (site : Nat) : Chip :=
  if 2 ≤ c.site.state.get site 1 then c
  else
    let c := { c with log := { c.log with inbox := c.log.inbox.filter fun r => !(decide (bits r.unit 31 28 ≤ 2) && bits r.unit 27 20 == site) } }
    let id := c.hallOf site
    let c := match id with
      | some h => (c.hallLost h site).errForget h
      | none => c
    let c := (portsOf site).foldl (fun c p => c.updPort site p fun x => { x with state := 4, groups := [], txw := 0 }) c
    let c := { c with yard := { c.yard with due := some (c.yard.due.getD c.time.now) } }
    let c := { c with site := { c.site with state := c.site.state.set site 3, hallmap := c.site.hallmap.filter fun e => e.2 != site } }
    let c := { c with core := { c.core with on := c.core.on.filter fun k => k / 4 != site, slots := c.core.slots.filter fun e => e.1 / 8 != site } }
    let c := (c.suClear site).setReg (suK site 0x200) (c.reg (suK site 0x200) / 2 * 2)
    (((c.fenceStaged site).rqForget site).post .HALL_FENCED (hallUnit site 0) none site).countsChanged

/-- A stack is lost (R350, R395): every partition stops with PART_FAILED, and both islands are asked to stop. -/
def Chip.stackLost (c : Chip) (m : Nat) : Chip :=
  if c.yard.lost.contains m then c
  else
    let c := { c with yard := { c.yard with lost := m :: c.yard.lost } }
    let c := c.post .STACK_LOST (mbUnit m 3) none m
    let ps := (c.parts.filter fun e => e.2.state == 2 || e.2.state == 3).map Prod.fst
    let c := ps.foldl (fun c p => (c.stopPart p).partFail p) c
    (c.stopReq .A 0).stopReq .B 0

/-- What the loss of ports and sites entails (R350): stacks without a port, and halls without a route. A stack or an I/O die that is itself
lost has its own outcome (R350, R372), and no hall is fenced for want of a route to it. -/
def Chip.yardLosses (c : Chip) : Chip :=
  let c := (List.range 6).foldl (fun c m => if (List.range 3).all fun p => !c.portUp (portKey (0x48 + m) p) then c.stackLost m else c) c
  (c.site.hallmap.map Prod.snd).foldl (fun c s =>
    let needs := (if c.boot.die0 then [0x4F] else [0x4E, 0x4F]) ++ ((List.range 6).filter fun m => !c.yard.lost.contains m).map (· + 0x48)
    if needs.all fun d => c.reachable s d then c else c.fenceSite s) c

/-- No flit for 2 µs and no announced retrain: a port fences itself (R345). -/
def Chip.portFence (c : Chip) (die p t : Nat) : Chip :=
  let c := c.at t
  let x := c.port die p
  if x.state = 2 ∧ x.told = false ∧ x.rxAt + 2000 ≤ t then (c.fencePort die p).yardLosses else c

/-- The probe of a site with a fenced port ends (R351). -/
def Chip.hallProbe (c : Chip) (site : Nat) (answers : Bool) : Chip :=
  let fenced := (portsOf site).filter fun p => (c.port site p).state == 4 || match peerOf site p with
    | some (d, q) => (c.port d q).state == 4
    | none => false
  if fenced = [] ∨ 2 ≤ c.site.state.get site 1 then c
  else if answers then fenced.foldl (fun c p => c.post .LINK_DOWN (lnkUnit site p) none) c
  else c.fenceSite site

/-! ## Packets (R342-R344) -/

/-- A header with no reserved value. -/
def hdrOk (h : Nat) : Bool :=
  decide (bits h 20 17 ≤ 8) && bits h 23 21 != 7 && decide (bits h 7 0 < 0x52) && decide (bits h 15 8 < 0x52) && bits h 31 24 == 0 && !bit h 63 && decide (bits h 69 64 ≤ 32) && bits h 79 70 == 0

/-- Put a packet on a link: into the replay buffer of 256 packets, or behind those that wait (R343); a fenced port discards and
    counts it (R352). -/
def Chip.sendOn (c : Chip) (die p : Nat) (k : Packet) : Chip :=
  let x := c.port die p
  if x.state = 4 then c.lnkBump die p 0x80
  else if x.replay.length < 256 ∧ x.wait = [] then
    c.updPort die p fun x => { x with replay := x.replay ++ [{ k with hdr := setBits k.hdr 143 128 x.txSeq }], txSeq := (x.txSeq + 1) % 65536, txAt := c.time.now }
  else c.updPort die p fun x => { x with wait := x.wait ++ [k] }

/-- TYPE of a packet. -/
def Packet.typ (k : Packet) : Nat := bits k.hdr 23 21

/-- TAG of a packet. -/
def Packet.tag (k : Packet) : Nat := bits k.hdr 47 32

/-- A read request, a write or an atomic, which waits for a response. -/
def Packet.request (k : Packet) : Bool := k.typ == 0 || k.typ == 1 || k.typ == 4

/-- A request leaves its source: it is outstanding until its response arrives. -/
def Chip.outstanding (c : Chip) (src : Nat) (k : Packet) : Chip :=
  if k.request && !((c.yard.out.get src []).any fun q => q.tag == k.tag) then { c with yard := { c.yard with out := c.yard.out.upd src [] (· ++ [k]) } } else c

/-- A response ends the request of its TAG. -/
def Chip.answered (c : Chip) (die : Nat) (k : Packet) : Chip :=
  if k.typ = 2 ∨ k.typ = 3 then
    { c with yard := { c.yard with out := c.yard.out.upd die [] (·.filter fun q => !(q.tag == k.tag && bits q.hdr 7 0 == bits k.hdr 15 8)) } }
  else c

/-- The packet arrives at its destination die; an atomic whose TAG is among the last 256 of its source is recognised (R352). -/
def Chip.deliver (c : Chip) (die : Nat) (k : Packet) : Chip :=
  let src := bits k.hdr 15 8
  let tags := c.yard.atomics.get (die, src) []
  if k.typ = 4 ∧ tags.contains k.tag then c
  else
    let c := if k.typ = 4 then { c with yard := { c.yard with atomics := c.yard.atomics.set (die, src) ((k.tag :: tags).take 256) } } else c
    let c := c.answered die k
    { c with yard := { c.yard with inbox := c.yard.inbox.upd die [] (· ++ [k]) } }

/-- Forward a packet one hop by the loaded routes, on the VC of that hop, or deliver it. -/
def Chip.forward (c : Chip) (die : Nat) (k : Packet) : Chip :=
  let dst := bits k.hdr 7 0
  if dst = die then c.deliver die k
  else match c.route' (bits k.hdr 15 8) dst with
    | none => c
    | some (path, turn) =>
      let i := path.idxOf die
      match path[i + 1]? with
      | none => c
      | some next => match portTo die next with
        | some p => c.sendOn die p { k with hdr := setBits k.hdr 16 16 (b2n (decide (turn ≤ i))) }
        | none => c

/-- At t_r a requester sends an outstanding request again if its pair has a new route (R352). -/
def Chip.sendAgain (old c : Chip) (src : Nat) (k : Packet) : Chip :=
  let route := c.route' src (bits k.hdr 7 0)
  if route = old.route' src (bits k.hdr 7 0) then c
  else match route with
    | none => c
    | some (path, turn) => match path[1]?.bind (portTo src) with
      | some p => c.sendOn src p { k with hdr := setBits k.hdr 16 16 (b2n (decide (turn = 0))) }
      | none => c

/-- Every requester sends again in the original order; a request without a route, as to a lost hall, is dropped (R352). -/
def Chip.resend (old c : Chip) : Chip :=
  let c := c.yard.out.foldl (fun c e => e.2.foldl (fun c k => old.sendAgain c e.1 k) c) c
  { c with yard := { c.yard with out := (c.yard.out.map fun e => (e.1, e.2.filter fun k => (c.route' e.1 (bits k.hdr 7 0)).isSome)).filter fun e => !e.2.isEmpty } }

/-- New routes take effect at t_r (R351, R352). -/
def Chip.routeSwitch (c : Chip) (t : Nat) : Chip :=
  let c := c.at t
  match c.yard.due with
  | none => c
  | some _ =>
    let c := c.yardLosses
    c.resend { c with yard := { c.yard with sites := (List.range 72).filter c.crossable, up := (c.yard.ports.map Prod.fst).filter c.portUp, gen := (c.yard.gen + 1) % 2 ^ 64, tick := t, due := none } }

/-- Count a corrected symbol on the lane that carried it, in the window of 1 ms and since reset (R344, R347). -/
def Port.corrected (x : Port) (grp sym t : Nat) : Port :=
  match (x.groups[grp]?).bind fun g => g[if g.length = 36 then sym else sym / 3]? with
  | none => x
  | some l =>
    let fresh := x.winAt / 1000000 ≠ t / 1000000
    let win := if fresh then [] else x.win
    { x with lanes := x.lanes.upd l 0 (fun n => sat64 n 1), win := AMap.upd win l 0 (· + 1), winAt := t }

/-- A packet on the first hop from its source is a request that its source has sent. -/
def Chip.firstHop (c : Chip) (die p : Nat) (k : Packet) : Chip := if (peerOf die p).map Prod.fst = some (bits k.hdr 15 8) then c.outstanding (bits k.hdr 15 8) k else c

/-- A packet that arrives has been sent: it stands in the replay buffer of the port at the other end, where a source's own packet is
    entered by this first sight of it; `none` where that buffer is full and the packet must wait (R343). -/
def Chip.wasSent (c : Chip) (die p : Nat) (k : Packet) : Option Chip :=
  match peerOf die p with
  | none => some c
  | some (d, q) =>
    let seq := bits k.hdr 143 128
    let y := c.port d q
    if y.replay.any fun r => bits r.hdr 143 128 == seq then some c
    else if y.replay.length < 256 ∧ y.wait = [] then some (c.updPort d q fun y => { y with replay := y.replay ++ [k], txSeq := (seq + 1) % 65536, txAt := c.time.now })
    else none

/-- A packet's flits arrive at a port with their error patterns (R344). `grp` is the flit group of the first flit. A packet with
    an uncorrectable flit or a reserved value is discarded, counted and NAKed; one out of sequence is discarded. -/
def Chip.packetIn (c : Chip) (die p grp : Nat) (k : Packet) (errs : List Nat) (t : Nat) : Chip :=
  let c := c.at t
  let x := c.port die p
  if x.state ≠ 2 then (if x.state = 4 then c.lnkBump die p 0x80 else c)
  else match c.wasSent die p k with
  | none => match peerOf die p with
    | some (d, q) => c.sendOn d q k
    | none => c
  | some c =>
    let seq := bits k.hdr 143 128
    let w := max 1 x.rxw
    let c := c.updPort die p fun x => { x with rxAt := t, told := false }
    let seen := (errs.take 9).zipIdx.map fun e => (classify e.1, (grp + e.2) % w)
    let c := seen.foldl (fun c e => match e.1 with
      | .corrected s _ => (c.lnkBump die p 0x60).updPort die p fun x => x.corrected e.2 s t
      | _ => c) c
    let bad := seen.any fun e => match e.1 with
      | .uncorrectable _ => true
      | _ => false
    if bad || !hdrOk k.hdr || k.data.length != bits k.hdr 20 17 then
      (c.lnkBump die p 0x68).updPort die p fun x => { x with acks := x.acks ++ [(true, seq)] }
    else if seq ≠ x.rxSeq then c
    else ((c.charged { row := bits k.hdr 69 64, lnk := 32 * (1 + k.data.length) }).updPort die p fun x => { x with rxSeq := (seq + 1) % 65536, acks := x.acks ++ [(false, seq)] }).firstHop die p k |>.forward die k

/-- LSEQ of a packet in a replay buffer. -/
def Packet.lseq (k : Packet) : Nat := bits k.hdr 143 128

/-- Move waiting packets into the replay buffer as far as it has room (R343). -/
def Chip.refill (c : Chip) (die p : Nat) : Chip :=
  let x := c.port die p
  let n := 256 - x.replay.length
  (x.wait.take n).foldl (fun c k => c.sendOn die p k) (c.updPort die p fun x => { x with wait := [] }) |> fun c => c.updPort die p fun y => { y with wait := y.wait ++ x.wait.drop n }

/-- A flit reaches a port that is UP: the peer is heard (R345). -/
def Chip.heardAt (c : Chip) (die p : Nat) : Chip := c.updPort die p fun x => { x with rxAt := c.time.now, told := false }

/-- The peer of a port has recorded an acknowledgement or a NAK of this LSEQ. -/
def Chip.peerSent (c : Chip) (die p : Nat) (nak : Bool) (seq : Nat) : Bool := match peerOf die p with
  | some (d, q) => (c.port d q).acks.contains (nak, seq)
  | none => false

/-- The peer's acknowledgements and NAKs up to this one have left. -/
def Chip.peerLeft (c : Chip) (die p : Nat) (nak : Bool) (seq : Nat) : Chip := match peerOf die p with
  | some (d, q) => c.updPort d q fun y => { y with acks := (y.acks.dropWhile fun a => a != (nak, seq)).drop 1, txAt := c.time.now }
  | none => c

/-- A cumulative acknowledgement that the peer has sent frees the packets up to its LSEQ (R343). -/
def Chip.linkAck (c : Chip) (die p seq : Nat) : Chip :=
  if (c.port die p).state = 2 ∧ c.peerSent die p false seq = true then
    let c := (c.heardAt die p).peerLeft die p false seq
    if (c.port die p).replay.any fun k => k.lseq == seq then
      (c.updPort die p fun x => { x with replay := (x.replay.dropWhile fun k => k.lseq != seq).drop 1, nakRun := 0 }).refill die p
    else c
  else c

/-- Start a retrain, announced to the peer (R347). -/
def Chip.retrain (c : Chip) (die p : Nat) : Chip :=
  let c := (c.updPort die p fun x => { x with state := 3, reAt := c.time.now, nakRun := 0 }).lnkBump die p 0x78
  match peerOf die p with
  | some (d, q) => c.updPort d q fun x => { x with told := true, state := if x.state = 2 then 3 else x.state, reAt := c.time.now }
  | none => c

/-- A NAK that the peer has sent: the sender replays from that packet, which stays in the buffer with those behind it, and retrains after
    the 8th in succession for one LSEQ (R344). -/
def Chip.nakIn (c : Chip) (die p seq t : Nat) : Chip :=
  let c := c.at t
  if (c.port die p).state = 2 ∧ c.peerSent die p true seq = true then
    let c := (c.heardAt die p).peerLeft die p true seq
    let x := c.port die p
    if x.replay.any fun k => k.lseq == seq then
      let run := if x.nakRun ≠ 0 ∧ x.nak = seq then x.nakRun + 1 else 1
      let c := (c.updPort die p fun x => { x with nak := seq, nakRun := run }).lnkBump die p 0x70
      if run = 8 then c.retrain die p else c
    else c
  else c

/-- An idle link sends an idle flit: 256 ns after its last packet or flit, its peer hears from it (R343). -/
def Chip.idleFlit (c : Chip) (die p t : Nat) : Chip :=
  let c := c.at t
  let x := c.port die p
  if x.state = 2 ∧ x.txAt + 256 ≤ t then
    let c := c.updPort die p fun x => { x with txAt := t }
    match peerOf die p with
    | some (d, q) => if (c.port d q).state = 2 then c.updPort d q fun y => { y with rxAt := t } else c
    | none => c
  else c

/-- A failing lane (R347), with its LINK_LANE record (R408): a free spare is steered onto it, or it runs on unreplaced. -/
def Chip.laneFailing (c : Chip) (die p lane t : Nat) : Chip :=
  let c := c.at t
  let x := c.port die p
  if x.state = 2 ∧ x.winAt / 1000000 = t / 1000000 ∧ c.lthr die p ≤ x.win.get lane 0 ∧ x.groups.any (·.contains lane) then
    match x.spares.zipIdx.find? fun s => (x.steer.look s.2).isNone with
    | some (s, i) =>
      let c := (c.updPort die p fun x => { x with steer := x.steer.set i lane, roles := (x.roles.set lane 8).set s 5, groups := x.groups.map fun g => g.map fun l => if l = lane then s else l, win := x.win.del lane }).lnkBump die p 0x78
      let c := c.sendErr { unit := lnkUnit die p, cls := 0x1A, synd := lane }
      match peerOf die p with
      | some (d, q) => c.updPort d q fun y => { y with rxAt := max y.rxAt t }
      | none => c
    | none =>
      let c' := c.updPort die p fun x => { x with failed := x.failed.filter (· ≠ lane) ++ [lane], win := x.win.del lane }
      let c' := c'.sendErr { unit := lnkUnit die p, cls := 0x1A, synd := lane + 256 }
      if x.failed.contains lane then c' else c'.post .LINK_DEGRADED (lnkUnit die p) none lane
  else c

/-- A retrain ends (R347): the receive roles are assigned again from the lanes that test good; after 20 µs, or with too few
    lanes, both ends fence the port. -/
def Chip.retrainDone (c : Chip) (die p : Nat) (good : Nat → Bool) (t : Nat) : Chip :=
  let c := c.at t
  let x := c.port die p
  if x.state ≠ 3 then c
  else
    let y := x.train (narrow die p) (ioPort die p) (c.wmax die p) good
    match peerOf die p with
    | none => c
    | some (d, q) =>
      if x.reAt + 20000 < t ∨ y.state = 4 then ((c.fencePort die p).fencePort d q).yardLosses
      else
        let c := c.updPort die p fun _ => { y with rxAt := t, told := false }
        (c.updPort d q fun z => { z with txw := y.rxw }).mailAt die p

/-- Train a port from DOWN at start-up or for a prepared site (R346, R376): fenced where its lanes do not suffice. -/
def Chip.trainPort (c : Chip) (die p : Nat) (good : Nat → Bool) : Chip :=
  let y := (c.port die p).train (narrow die p) (ioPort die p) (c.wmax die p) good
  let c := c.updPort die p fun _ => { y with rxAt := c.time.now, txAt := c.time.now, replay := [], wait := [], txSeq := 0, rxSeq := 0, acks := [], nakRun := 0, told := false }
  let c := if y.state = 4 then (c.updPort die p fun x => { x with state := 2 }).fencePort die p else c
  match peerOf die p with
  | some (d, q) => c.updPort d q fun z => { z with txw := y.rxw }
  | none => c

end Sys2Proof.Machine
end

