-- ==== Sys2Proof/Machine/Power.lean ====
section
/-! DEFINITION. Power, thermal and coolant management: budgets (R387-R389), points and zone voltages (R390-R392), sensors and thresholds (R393-R395), the coolant (R396-R399), ageing (R400) and the reference run (R404). -/

namespace Sys2Proof.Machine

/-- Change a hall's power state. -/
def Chip.updPwr (c : Chip) (site : Nat) (f : HallPwr → HallPwr) : Chip := { c with pwr := c.pwr.upd site {} f }

/-- Change the power manager's state. -/
def Chip.updPm (c : Chip) (f : PwrSt → PwrSt) : Chip := { c with pm := f c.pm }

/-- Key of a die in the power manager's tables: base die m, I/O die 8 + i. -/
def dieN : PwrDie → Nat
  | .hall s => 16 + s.val
  | .mb m => m.val
  | .iod i => 8 + i.val

/-- Power manager path of a die. -/
def dieUnit : PwrDie → Nat
  | .hall s => hallUnit s.val 6
  | .mb m => mbUnit m.val 1
  | .iod i => iodUnit i.val 1

/-- Sites in state active. -/
def Chip.activeSites (c : Chip) : List Nat := (List.range 72).filter c.siteActive

/-! ## Points (R390-R392, R402) -/

/-- The bin of a hall's validated reading. -/
def HallPwr.bin (h : HallPwr) : Nat := tempBin h.hot

/-- A hall holds a CHECKED stable. -/
def Chip.checkedHall (c : Chip) (site : Nat) : Bool := (List.range 4).any fun s => c.checkedMode (4 * site + s)

/-- A point that a hall may run at: usable in its bin, at or below the zone voltage, and CHKOK where the hall holds a CHECKED
    stable (R390, R391, R402). -/
def Chip.pointOk (c : Chip) (site i : Nat) : Bool :=
  let h := c.hallPwr site
  let r := c.siteRec site
  r.use i h.bin && decide (r.mv i h.bin ≤ h.vzone) && (!c.checkedHall site || r.chkok i h.bin)

/-- The grant in force at a time: a message is for a period to come (R389). -/
def HallPwr.grantAt (h : HallPwr) (t : Nat) : Nat := if t / 1000000 < h.period then h.prev else h.grant

/-- The ceiling of a hall: from its grant, the thermal thresholds and the supply; FMIN in a trip, with both pair sensors
    suspect, or idle (R391, R394, R395, R398, R443); a silent regulator keeps it (R438). -/
def Chip.ceilOf (c : Chip) (site : Nat) : Nat :=
  let h := c.hallPwr site
  let low := h.low && match h.lowEnd with
    | some e => decide (c.time.now < e)
    | none => true
  if h.idle || h.trip || !h.hotOk || low then 0 else min (h.frozen.getD (Config.ceilPoint site (h.grantAt c.time.now)).toNat) h.tceil

/-- Bring a hall's point below its ceiling; one that is not CHKOK in its bin goes to the highest that is (R402), and any other never rises here. -/
def Chip.settlePoint (c : Chip) (site : Nat) : Chip :=
  let h := c.hallPwr site
  let top := if c.checkedHall site && !(c.siteRec site).chkok h.point h.bin then c.ceilOf site else min h.point (c.ceilOf site)
  let ok := fun i => c.pointOk site i
  c.updPwr site fun h => { h with ceil := c.ceilOf site, point := (highest ok (top + 1)).getD 0 }

/-! ## Budgets (R387-R389) -/

/-- Sustained and peak budgets in mW (R388, R397). -/
def Chip.sustPeak (c : Chip) : Nat × Nat :=
  let v := c.reg (dcuK 0x7008)
  let s := bits v 15 0 * 100
  if c.pm.cool = 1 then let s' := s * c.pm.flow / max 1 (bits (c.reg (dcuK 0x7020)) 15 0); (s', s' * 11 / 10) else (s, bits v 31 16 * 100)

/-- Spares among the sites. -/
def Chip.spares (c : Chip) : Nat := ((List.range 72).filter fun s => c.site.state.get s 1 == 1).length

/-- The voltage that a zone needs: the highest of any hall of the row at the ceiling its grant allows, in its bin; a re-plan
    that rises is set before it takes effect (R391, R401). -/
def Chip.zoneNeed (c : Chip) (row : Nat) (grant : Nat → Nat) : Nat :=
  ((List.range 9).map (· + 9 * row)).foldl (fun v s =>
    if c.siteActive s then
      let i := min (Config.ceilPoint s (grant s)).toNat (c.hallPwr s).tceil
      let b := (c.hallPwr s).bin
      max v (max ((c.siteRec s).mv i b) ((((c.pm.planNext.map Margin.sites).getD []).get s ({} : SiteRec)).mv i b))
    else v) 0

/-- Grants of a period in mW from the available power and the demands (R388). -/
def grantOf (avail total n : Int) (d : Nat) : Nat :=
  let f : Int := 600
  if total ≤ avail then max 600 (min d 8000) else max 600 ((f + ((d : Int) - f) * (avail - n * f) / (total - n * f)).toNat)

/-- What the device does on a sudden coolant stop (R398). -/
def Chip.coolStop (c : Chip) : Chip :=
  let c := c.activeSites.foldl (fun c s => c.updPwr s fun h => { h with idle := true, point := 0, ceil := 0 }) c
  let c := ((c.stopReq .A 0).stopReq .B 0).updPm fun m => { m with cool := 2, okFrom := none }
  (c.post .COOLING_STOPPED (unitPath 8 0xFF 0 0 0 1) none).bump (dcuK 0x7030)

/-- H rose by more than 2 degrees within the period (R398). -/
def HallPwr.rose (h : HallPwr) : Bool := match h.hotWas with
  | some w => h.hotOk && decide (w + 32 < h.hot)
  | none => false

/-- The end of a period at DEVTIME `t` with measured package power `p` in mW: the debt, the next budget, the grants and the
    zone voltages (R388, R391), the points under the grants of the period that begins, and the recognition of a sudden stop (R398). -/
def Chip.budgetPeriod (c : Chip) (t p : Nat) : Chip :=
  let c := c.at t
  let (s, peak) := c.sustPeak
  let pk := bits (c.reg (dcuK 0x7008)) 39 32
  let debt := c.pm.debt + p - s
  let run := if s < p then c.pm.run + 1 else 0
  let b := if run < pk ∧ debt + (peak - s) ≤ (peak - s) * pk then peak else s - debt / 20
  let iod := fun i => min (c.pm.iodDem.get i 0) 22000
  let mb := fun m => min (c.pm.mbDem.get m 0) 16000
  let fixed := 5000 + 50 * c.spares + iod 0 + iod 1 + ((List.range 6).map mb).sum
  let act := c.activeSites
  let total := (act.map fun h => (c.hallPwr h).demand).sum
  let grant := fun h => grantOf ((b : Int) - fixed) total act.length (c.hallPwr h).demand
  let rose := (act.filter fun h => (c.hallPwr h).rose).length
  let stop := c.pm.cool ≠ 2 ∧ (3 ≤ rose ∨ (c.pm.flowValid t = true ∧ c.pm.reading < 500))
  let zones := (List.range 8).map fun r => (r, c.zoneNeed r grant)
  let c := act.foldl (fun c h => c.updPwr h fun x => { x with granted := grant h, hotWas := if x.hotOk then some x.hot else none }) c
  let c := c.updPm fun m => { m with debt := debt, run := run, budget := b, power := p, zone := zones, dieSent := ((List.range 6).map fun m => (m, mb m)) ++ [(8, iod 0), (9, iod 1)] }
  let c := act.foldl Chip.settlePoint c
  if stop then c.coolStop else c

/-- The period that begins the landing of a frame, or the last before one. -/
def Chip.periodKind (c : Chip) (t : Nat) : Nat :=
  let next := c.start (c.time.frame + 1)
  if c.time.running = false then 0 else if next / 1000000 = t / 1000000 + 1 then 1 else if c.start c.time.frame / 1000000 = t / 1000000 then 2 else 0

/-- A stable moves with the landing (LANDMAP). -/
def Chip.landsWith (c : Chip) (key : Nat) : Bool := match c.logStb key with
  | some n => c.parts.any fun e => e.2.held && bit e.2.landmap n
  | none => false

/-- The row of what a master has done (R284): its partition, or 32 for device work. -/
def Chip.workRow (c : Chip) (d : PwrDie) (a : Activity) : Nat := if a.dev then 32 else match d with
  | .hall s => c.rqRow s.val a.m.val a.by'
  | .mb _ => 32
  | .iod i => c.rqRow (0x4E + i.val) a.m.val a.by'

/-- A die's activity report reaches the DCU: it is charged at the next update, and a hall's banks have counted their waits (R155, R283). -/
def Chip.reported (c : Chip) (d : PwrDie) (rep : List Activity) : Chip :=
  rep.foldl (fun c a =>
    let c := c.charged { row := c.workRow d a, stb := a.stb, uj := a.uj }
    match d with
    | .hall s => a.waits.foldl (fun c w => c.bump (hallMemK s.val (0x1000 + w.1.val * 0x40 + w.2.1.val * 8)) w.2.2) c
    | _ => c) c

/-- A die's demand and activity report reaches the DCU (R387, R283). A hall sends its idle power, the demand of each stable
    from its queued work, and the power that each stable drew in the period. -/
def Chip.hallDemand (c : Chip) (d : PwrDie) (idle : Nat) (want drew : List Nat) (rep : List Activity) (t : Nat) : Chip :=
  let c := (c.at t).reported d rep
  match d with
  | .hall s =>
    let kind : Nat := c.periodKind t
    let h := c.hallPwr s.val
    let one : Nat → Nat := fun j => if kind == 1 && c.landsWith (4 * s.val + j) then h.landUse.get j (want.getD j 0) else want.getD j 0
    c.updPwr s.val fun h => { h with demand := min 65535 (idle + ((List.range 4).map one).sum), landUse := if kind = 2 then (List.range 4).map fun j => (j, drew.getD j 0) else h.landUse }
  | .mb m => c.updPm fun p => { p with mbDem := p.mbDem.set m.val (if p.dieHot.get m.val 0 = 0 then idle else min idle (p.mbDem.get m.val 0 * 9 / 10)) }
  | .iod i => c.updPm fun p => { p with iodDem := p.iodDem.set i.val (if p.dieHot.get (8 + i.val) 0 = 0 then idle else min idle (p.iodDem.get i.val 0 * 9 / 10)) }

/-- A budget message reaches its die (R389, R391). -/
def Chip.budgetMessage (c : Chip) (d : PwrDie) (t : Nat) : Chip :=
  let c := c.at t
  match d with
  | .hall s => (c.updPwr s.val fun h => { h with prev := h.grantAt t, grant := h.granted, period := t / 1000000 + 1, lost := false }).settlePoint s.val
  | d => c.updPm fun p => { p with dieGrant := p.dieGrant.set (dieN d) (p.dieSent.get (dieN d) 0), dieAt := p.dieAt.set (dieN d) (t / 1000000 + 1), dieLost := p.dieLost.filter fun x => x != dieN d }

/-- Three periods without a message: the die takes its floor (R389). -/
def Chip.budgetLost (c : Chip) (d : PwrDie) (t : Nat) : Chip :=
  let c := c.at t
  match d with
  | .hall s =>
    let h := c.hallPwr s.val
    if h.lost = false ∧ h.period + 4 ≤ t / 1000000 then
      ((c.updPwr s.val fun h => { h with prev := 600, grant := 600, lost := true }).settlePoint s.val).post .PWR_BUDGET_LOST (dieUnit d) none
    else c
  | d =>
    if !c.pm.dieLost.contains (dieN d) ∧ c.pm.dieAt.get (dieN d) 0 + 4 ≤ t / 1000000 then
      (c.updPm fun p => { p with dieLost := dieN d :: p.dieLost }).post .PWR_BUDGET_LOST (dieUnit d) none
    else c

/-- A zone voltage settles (R391): halls whose point needs more have lowered it before. -/
def Chip.zoneSettled (c : Chip) (row : Nat) : Chip :=
  match c.pm.zone.look row with
  | none => c
  | some v => ((List.range 9).map (· + 9 * row)).foldl (fun c s => (c.updPwr s fun h => { h with vzone := v }).settlePoint s) c

/-- A hall evaluates its energy (R392): `e` µJ since the last check, against the grant prorated to this point of the period that `t`
    ends or lies in. It steps to the next point below or above that it may run at. -/
def Chip.energyCheck (c : Chip) (site e t : Nat) : Chip :=
  let c := c.at t
  let h := c.hallPwr site
  let n := (t - 1) / 1000000
  let spent := (if h.spentIn = n then h.spent else 0) + e
  let pro := h.grantAt (t - 1) * (t - n * 1000000)
  let c := c.updPwr site fun h => { h with energy := (h.energy + e) % 2 ^ 64, spent := spent, spentIn := n }
  if 102 * pro < 100 * spent * 1000000 then
    if h.point = 0 then c else (c.updPwr site fun x => { x with point := (highest (c.pointOk site) h.point).getD 0 }).bump (pwrK site 0x28)
  else if 100 * spent * 1000000 < 95 * pro then match (List.range (c.ceilOf site + 1)).find? fun i => decide (h.point < i) && c.pointOk site i with
    | some i => c.updPwr site fun x => { x with point := i }
    | none => c
  else c

/-- A die refits the coefficients of its activity counters (R392). -/
def Chip.refit (c : Chip) (d : PwrDie) (coefs : List Nat) : Chip :=
  let m := coefs.zipIdx.map fun e => (e.2, e.1)
  match d with
  | .hall s => c.updPwr s.val fun h => { h with coef := m }
  | d => c.updPm fun p => { p with dieCoef := p.dieCoef.setAll (m.map fun e => (64 * dieN d + e.1, e.2)) }

/-! ## Temperature (R393-R395) -/

/-- A reading that R393 keeps. -/
def readingOk (v : Int) (self : Bool) : Bool := self && decide (-880 ≤ v) && decide (v ≤ 2400)

/-- One sensor is read at `t` (R393). -/
def Sens.read (h : Sens) (n : Nat) (v : Int) (ok : Bool) (t : Nat) : Sens :=
  if ok then
    let h := { h with temps := h.temps.set n v, seen := h.seen.set n t }
    if bit h.long n then
      let from' := h.goodAt.get n t
      if from' + 1000000000 ≤ t then { h with long := h.long - 2 ^ n, sus := h.sus - (h.sus &&& 2 ^ n), goodAt := h.goodAt.del n } else { h with goodAt := h.goodAt.set n from' }
    else { h with sus := h.sus - (h.sus &&& 2 ^ n) }
  else { h with sus := h.sus ||| 2 ^ n, goodAt := h.goodAt.del n }

/-- Form H (R394), and note since when the pair differs by more than 5 degrees, or does not; a suspect reading interrupts either. -/
def HallPwr.validate (h : HallPwr) (t : Nat) : HallPwr :=
  let a := h.temps.get 0 0
  let b := h.temps.get 1 0
  let oa := !bit h.sus 0 && (h.temps.look 0).isSome
  let ob := !bit h.sus 1 && (h.temps.look 1).isSome
  let d := oa && ob && decide (80 < (a - b).natAbs)
  let hot := if oa && ob then (if h.pair then max a b else (a + b) / 2) else if oa then a else if ob then b else h.hot
  { h with hot := hot, hotOk := oa || ob, pairD := if oa && ob then d else h.pairD, pairT := if oa && ob && d == h.pairD then h.pairT else t }

/-- The highest reading that the thresholds of a hall see: H and sensors 2 and 3 where valid (R395). -/
def HallPwr.hottest (h : HallPwr) : Option Int :=
  let rs := (if h.hotOk then [h.hot] else []) ++ ([2, 3].filterMap fun n => if bit h.sus n then none else h.temps.look n)
  rs.foldl (fun m v => some (max v (m.getD v))) none

/-- The thermal thresholds of a hall (R395). -/
def Chip.hallHeat (c : Chip) (site t : Nat) : Chip :=
  let h := c.hallPwr site
  match h.hottest with
  | none => c.settlePoint site
  | some v =>
    if 1840 ≤ v then c.fenceSite site
    else
      let due := h.tceilAt + 1000000 ≤ t
      let tceil := if 1520 ≤ v ∧ due then h.tceil - 1 else if v < 1440 ∧ due then min 15 (h.tceil + 1) else h.tceil
      let trip := decide (1680 ≤ v) || (h.trip && decide (1520 ≤ v))
      let c := c.updPwr site fun h => { h with tceil := tceil, tceilAt := if tceil = h.tceil then h.tceilAt else t, warn := decide (1520 ≤ v) || decide (tceil < 15), trip := trip }
      let c := c.settlePoint site
      if trip && !h.trip then c.post .THERMAL_TRIP (hallUnit site 6) none else c

/-- Error record of a discarded reading (R408). -/
def Chip.sensorErr (c : Chip) (unit : Nat) (v : Int) : Chip := c.sendErr { unit := unit, cls := 0x1B, synd := toBits 8 (v + 880) }

/-- A hall's four sensors are read at `t`: value in 1/16 degree, and self-check passed. -/
def Chip.hallSensors (c : Chip) (site : Nat) (rs : List (Int × Bool)) (t : Nat) : Chip :=
  let rs := (rs.take 4).zipIdx
  let c := rs.foldl (fun c r =>
    let ok := readingOk r.1.1 r.1.2
    let c := c.updPwr site fun h => { h with toSens := h.toSens.read r.2 r.1.1 ok t }
    if ok then c else c.sensorErr (hallUnit site (0x100 + r.2)) r.1.1) c
  (c.updPwr site fun h => h.validate t).hallHeat site t

/-- The sensors of a base die (m), an I/O die (8 + i) or an island (10 + x). -/
def Chip.sens (c : Chip) (n : Nat) : Sens := c.pm.heat.get n {}

/-- Change them. -/
def Chip.updSens (c : Chip) (n : Nat) (f : Sens → Sens) : Chip := c.updPm fun m => { m with heat := m.heat.upd n {} f }

/-- Sensors of a base die or an I/O die: the highest valid one meets the thresholds (R395). -/
def Chip.dieSensors (c : Chip) (n unit : Nat) (rs : List (Int × Bool)) (t : Nat) : Chip :=
  let rs := (rs.take (if n < 8 then 4 else 8)).zipIdx
  let c := rs.foldl (fun c r =>
    let ok := readingOk r.1.1 r.1.2
    let c := c.updSens n fun x => x.read r.2 r.1.1 ok t
    if ok then c else c.sensorErr unit r.1.1) c
  let top := (rs.filterMap fun r => if bit (c.sens n).sus r.2 then none else (c.sens n).temps.look r.2).foldl (fun m v => some (max v (m.getD v))) (none : Option Int)
  match top with
  | none => c
  | some v =>
    let was := c.pm.dieHot.get n 0
    let now := if 1680 ≤ v ∨ (was = 2 ∧ 1520 ≤ v) then 2 else if 1520 ≤ v ∨ (1 ≤ was ∧ 1440 ≤ v) then 1 else 0
    let c := c.updPm fun m => { m with dieHot := m.dieHot.set n now }
    let c := if now = 2 ∧ was ≠ 2 then c.post .THERMAL_TRIP unit none else c
    if 1840 ≤ v ∧ n < 8 then c.stackLost n else c

/-- TEMPERATURE_SAMPLE of a die at `t` (R393-R395). -/
def Chip.temperature (c : Chip) (d : PwrDie) (rs : List (Int × Bool)) (t : Nat) : Chip :=
  let c := c.at t
  match d with
  | .hall s => c.hallSensors s.val rs t
  | d => c.dieSensors (dieN d) (dieUnit d) rs t

/-- SI_TEMP as the island's sensors stand. -/
def Chip.showTemp (c : Chip) (i : Isl) : Chip := let x := c.sens (10 + islN i); c.setReg (siK i 0xD0) (x.fld 0 + x.fld 1 * 2 ^ 16)

/-- An island's two sensors (R393): SI_TEMP, and trap CLOCK at 125 degrees. -/
def Chip.islTemperature (c : Chip) (i : Isl) (rs : List (Int × Bool)) (t : Nat) : Chip :=
  let c := c.at t
  let n := 10 + islN i
  let c := ((rs.take 2).zipIdx.foldl (fun c r => c.updSens n fun x => x.read r.2 r.1.1 (readingOk r.1.1 r.1.2) t) c).showTemp i
  if [0, 1].any fun j => !bit (c.sens n).sus j && ((c.sens n).temps.look j).any fun v => decide (2000 ≤ v) then c.islTrap i 0x22 else c

/-- A sensor that has given no valid reading for 10 ms. -/
def Sens.silent (s : Sens) (n t : Nat) : Bool := decide (s.seen.get n 0 + 10000000 ≤ t)

/-- It stays suspect until 1 s of valid readings (R393). -/
def Sens.suspect (s : Sens) (n : Nat) : Sens := { s with long := s.long ||| 2 ^ n, sus := s.sus ||| 2 ^ n }

/-- SENSOR_SUSPECT: a die's sensor has given no valid reading for 10 ms (R393). A hall and a base die have 4 sensors, an I/O die 8 and an
    island 2. -/
def Chip.sensorSuspect (c : Chip) (d : HeatDie) (n t : Nat) : Chip :=
  let c := c.at t
  match d with
  | .die (.hall s) => if n < 4 ∧ (c.hallPwr s.val).silent n t = true then c.updPwr s.val fun h => { h with toSens := h.toSens.suspect n } else c
  | .die d => if n < (if dieN d < 8 then 4 else 8) ∧ (c.sens (dieN d)).silent n t = true then c.updSens (dieN d) fun x => x.suspect n else c
  | .isl i => if n < 2 ∧ (c.sens (10 + islN i)).silent n t = true then (c.updSens (10 + islN i) fun x => x.suspect n).showTemp i else c

/-- PAIRFLAG sets after more than 10 ms above 5 degrees, and clears after 1 s within them (R394). -/
def Chip.pairFlag (c : Chip) (site t : Nat) : Chip :=
  let c := c.at t
  let h := c.hallPwr site
  if (h.pair = false ∧ h.pairD = true ∧ h.pairT + 10000000 < t) ∨ (h.pair = true ∧ h.pairD = false ∧ h.pairT + 1000000000 ≤ t) then
    (c.updPwr site fun h => { h with pair := !h.pair }).post .THM_SENSOR (hallUnit site 6) none
  else c

/-! ## Coolant (R396-R399) -/

/-- Thresholds NOMFLOW, DEGFLOW, RESFLOW. -/
def Chip.coolCfg (c : Chip) : Nat × Nat × Nat := let v := c.reg (dcuK 0x7020); (bits v 15 0, bits v 31 16, bits v 47 32)

/-- The flow estimate at `t` (R396): means over 10 s of the flow reading (mL/min), the package power (mW) and the outlet's
    excess over the inlet (1/16 degree). -/
def Chip.flowEstimate (c : Chip) (mflow mp : Nat) (mdt : Int) (t : Nat) : Chip :=
  let c := c.at t
  let est := if c.pm.coolAt + 1000000000 ≤ t then c.coolCfg.1 * 80 / 100
    else if c.pm.flowValid t then mflow
    else if mdt ≤ 0 then (Config.flowNoDelta mp).toNat
    else min 65535 (mp * 16 * 4000 * 10 / (1000 * 2609 * mdt.toNat))
  c.updPm fun m => { m with flow := est, okFrom := if c.coolCfg.2.2 ≤ est then some (m.okFrom.getD t) else none }

/-- Entry into DEGRADED, and each 60 s within it (R397). -/
def Chip.coolDegraded (c : Chip) (t : Nat) : Chip :=
  let c := c.at t
  let rec' := fun (c : Chip) => (c.updPm fun m => { m with degAt := t }).post .COOLING_DEGRADED (unitPath 8 0xFF 0 0 0 1) none c.pm.flow
  if c.pm.cool = 0 ∧ c.pm.flow < c.coolCfg.2.1 then rec' ((c.updPm fun m => { m with cool := 1 }).bump (dcuK 0x7028))
  else if c.pm.cool = 1 ∧ c.pm.degAt + 60000000000 ≤ t then rec' c
  else c

/-- 60 s at or above RESFLOW (R397). -/
def Chip.coolRestored (c : Chip) (t : Nat) : Chip :=
  let c := c.at t
  match c.pm.okFrom with
  | some o => if c.pm.cool = 1 ∧ o + 60000000000 ≤ t then (c.updPm fun m => { m with cool := 0 }).post .COOLING_RESTORED (unitPath 8 0xFF 0 0 0 1) none else c
  | none => c

/-- THM_COOLCTL.RESUME (R399). -/
def Chip.coolResume (c : Chip) : Chip :=
  if c.pm.cool = 2 ∧ c.coolCfg.2.2 ≤ c.pm.flow then
    let c := c.activeSites.foldl (fun c s => (c.updPwr s fun h => { h with idle := false }).settlePoint s) c
    let ps := (c.parts.filter fun e => e.2.state == 2).map Prod.fst
    let c := ps.foldl Chip.partRestart c
    ((c.updPm fun m => { m with cool := 1, degAt := c.time.now, okFrom := some c.time.now }).post .COOLING_DEGRADED (unitPath 8 0xFF 0 0 0 1) none c.pm.flow).bump (dcuK 0x7028)
  else c.bump (dcuK 0x70D0)

/-! ## Ageing and efficiency (R400, R404) -/

/-- The largest drop of slack against the factory slack over 24 monitors. -/
def shiftOf (site : Nat) (slack : List Nat) : Nat := (slack.take 24).zipIdx.foldl (fun m s => max m (Config.slackFactory site s.2 - s.1)) 0

/-- A ring oscillator more than 3 % below its factory frequency. -/
def slowRo (site : Nat) (ro : List Nat) : Bool := (ro.take 8).zipIdx.any fun f => decide (100 * f.1 < 97 * Config.roFactory site f.2)

/-- The measurement of one hall, corrected to the factory point (R400): the re-plan, or a suspect measurement. -/
def Chip.ageing (c : Chip) (site : Nat) (slack ro : List Nat) : Chip :=
  let shift := shiftOf site slack
  let c := c.updPwr site fun h => { h with slack := (slack.take 24).zipIdx.map fun s => (s.2, s.1), ro := (ro.take 8).zipIdx.map fun f => (f.2, f.1) }
  if shift = 0 ∧ slowRo site ro = true then c.post .AGEING_SUSPECT (hallUnit site 6) none
  else c.replan site fun r => r.aged site shift c.minutes

/-- AGEING_MEASUREMENT at `t`: every 15 min of operating time, during a landing, on an active hall (R400). -/
def Chip.ageingDue (c : Chip) (site : Nat) (slack ro : List Nat) (t : Nat) : Chip :=
  let c := c.at t
  let s := c.start c.time.frame
  if c.siteActive site && c.time.running && decide (s ≤ t) && decide (t < s + c.L) && decide ((c.planBase.sites.get site {}).measured + 15 ≤ c.minutes) then c.ageing site slack ro else c

/-- THM_EFFCTL.GO (R404). -/
def Chip.effRun (c : Chip) (t : Nat) : Chip :=
  let c := c.at t
  if c.parts.all fun e => e.2.state == 0 then c.updPm fun m => { m with effEnd := some (t + 1000000000) } else c.bump (dcuK 0x70D0)

/-- The reference run ends with its measured factors × 10,000 (R404). -/
def Chip.effDone (c : Chip) (fs : List Nat) (t : Nat) : Chip :=
  let c := c.at t
  match c.pm.effEnd with
  | some e => if e ≤ t then c.updPm fun m => { m with effEnd := none, eff := (fs.take 4).zipIdx.map fun f => (f.2, (f.1, t / 1000000)) } else c
  | none => c

end Sys2Proof.Machine
end

