-- ==== Sys2Proof/Machine/Scheduler.lean ====
section
/-! DEFINITION. The hall scheduler: residency (R276), saves and restores (R277-R279, R254), the cycle budget (R274), the start of contexts (R271, R281), and accounting (R283, R284). -/

namespace Sys2Proof.Machine

/-! ## Saves (R278, R279) -/

/-- A save that R278 cancels an arbiter pass for: the requesting block returns to ARB_WAIT (R260). -/
def Chip.cancelServing (c : Chip) (stb : Nat) : Chip := match (c.eng stb).serving with
  | none => c
  | some r => (c.updEng stb fun e => { e with serving := none }).updCtx r fun x => { x with blk := x.blk.map fun b => if b.state = 5 then { b with state := 4, arbiter := none, arbDone := false } else b }

/-- An open CHECKED block of a context to be saved is discarded; the context goes back to the CHKB with the registers it
    had there (R254). A CHKB that waits for a heartbeat is issued again. -/
def Chip.rewind (c : Chip) (k : Nat) : Chip :=
  let x := c.ctx k
  let c := match x.wait with
    | .chkb _ => c.updCtx k fun x => { x with wait := .none, ia := x.ia - 8 }
    | _ => c
  match x.chk with
  | some b => (c.discard k).updCtx k fun x => { x.load b.start with ia := b.chkbIa, wait := .none }
  | none => c

/-- Take a context out of its slot into its save area; the scheduler reconsiders the stable (R276). `all`: INBOUND ranges too (R282). -/
def Chip.takeOut (c : Chip) (k : Nat) (all : Bool) : Chip :=
  let stb := k / 2
  let c := ((c.cancelServing stb).rewind k).applyMove k
  let x := c.ctx k
  let d := c.descOf x
  let ps := d.plain ++ if all then d.inbound else []
  let x : Ctx := { x with state := 5, image := some ps, since := if x.wait = Wait.none then c.time.now else x.since, saving := none }
  let c := c.saveTo stb x d ps
  let x : Ctx := { x with tiles := [], acc := [], accNeg := [], lost := ((List.range d.nacc).filter fun t => !bit d.acclive t).map fun t => (t, 0) }
  let c := { c with core := { c.core with slots := c.core.slots.del k, saved := c.core.saved.set (x.part, x.idx) x } }
  (c.yieldTo k).reconsider stb

/-- A save of slot `k` that took `dur` ns: the stable counts it, keeps the longest, and the partition is charged with it (R279, R283). -/
def Chip.saveSlot (c : Chip) (k dur : Nat) (all : Bool) : Chip :=
  let stb := k / 2
  let p := (c.ctx k).part
  let c := (c.takeOut k all).bump (stbK stb 0x168)
  let c := c.setReg (stbK stb 0x170) (max (c.reg (stbK stb 0x170)) dur)
  c.charged { row := p, sav := 1 }

/-- A save of slot `k` ends after `dur` ns: only one that the scheduler has requested or now chooses, and not while a block is in COMPARE or
    COMMITTING (R254, R276, R279). -/
def Chip.saveDone (c : Chip) (k dur : Nat) : Chip :=
  let wanted := match c.chosen (k / 2) with
    | some (_, _, r) => r.contains k
    | none => false
  let busy := match (c.ctx k).blk with
    | some b => b.state == 3 || b.state == 6
    | none => false
  if (wanted || (c.ctx k).saving.isSome) && !busy && !(c.hallPwr (k / 8)).idle then c.saveSlot k dur false else c

/-! ## Restores and starts (R277, R281) -/

/-- The lowest free physical tiles of a stable, for a context that becomes resident (R34). -/
def Chip.freeTiles (c : Chip) (stb n : Nat) : List Nat :=
  let used := ((c.residents stb).map fun k => (c.ctx k).tiles).flatten
  ((List.range 16).filter fun t => !used.contains t).take n

/-- Put a context that is not resident into a free slot: ranges, tags, live tiles and register image (R277). -/
def Chip.putIn (c : Chip) (k : Nat) (key : Nat × Nat) (x : Ctx) : Chip :=
  let stb := k / 2
  let d := c.descOf x
  let (c, x) := match x.image with
    | some ps => c.loadFrom stb x d ps
    | none => (c, x)
  let c := { c with core := { c.core with saved := c.core.saved.del key, pinWait := c.core.pinWait.filter fun e => !(e == key) } }
  let ts := c.freeTiles stb d.nacc
  let c := { c with core := { c.core with accClear := c.core.accClear.filter (fun (e : Nat × Nat) => !(e.1 == stb && ts.contains e.2)), idleAcc := c.core.idleAcc.filter fun (e : Nat × W32) => !(e.1 / 65536 == stb && ts.contains (e.1 % 16384 / 1024)) } }
  let c := c.setCtx k { x with tiles := ts, lost := x.lost.map fun t => (t.1, c.time.now), state := 3 }
  match x.wait with
  | .kv 0 r a => c.resumeWith k 0x52 (allocNow k r a)
  | .kv _ r a => c.resumeWith k 0x52 (cowNow k r a)
  | .none => c.resume k
  | _ => c

/-- A free slot of a stable. -/
def Chip.freeSlot (c : Chip) (stb : Nat) : Option Nat := [2 * stb, 2 * stb + 1].find? fun k => !(c.residents stb).contains k

/-- A restore into slot `k` ends: the scheduler's choice, once no save is needed for it (R276, R277). -/
def Chip.restoreDone (c : Chip) (k : Nat) : Chip :=
  match c.chosen (k / 2) with
  | some (key, x, []) => if (c.residents (k / 2)).contains k || (c.hallPwr (k / 8)).idle then c else c.putIn k key x
  | _ => c

/-- A context as it starts (R35, R271): S1 holds ARG, every other register is zero. -/
def freshCtx (p i : Nat) (d : CtxDesc) (frame now : Nat) : Ctx :=
  { part := p, idx := i, state := 5, ia := d.entry, lfc := frame, s := if d.arg = 0 then [] else [(1, BitVec.ofNat 64 d.arg)], since := now }

/-- Restore what fits at a stable without a save, twice at most. -/
def Chip.fillStable (c : Chip) (stb : Nat) : Chip :=
  let once' := fun (c : Chip) => match c.chosen stb, c.freeSlot stb with
    | some (key, x, []), some k => c.putIn k key x
    | _, _ => c
  once' (once' c)

/-- Step 6 of a landing start: the contexts of partitions created or restarted for it begin (R35, R281 step 6, R447). -/
def Chip.startContexts (c : Chip) (frame : Nat) : Chip :=
  let ps := (c.parts.filter fun e => e.2.starting && e.2.resetDue.isNone).map Prod.fst
  let c := ps.foldl (fun c p =>
    let q := c.part p
    let xs := q.ctxs.zipIdx.filter fun d => !q.refused.contains d.1.job
    let c := { c with core := { c.core with saved := c.core.saved.setAll (xs.map fun (d : CtxDesc × Nat) => ((p, d.2), freshCtx p d.2 d.1 frame c.time.now)) } }
    let c := c.updPart p fun q => { q with starting := false, state := 2 }
    let c := ((stableList q.stables).filterMap c.keyOf).foldl Chip.fillStable c
    if q.state = 3 then c.post .PART_RESTARTED (dcuUnit) (some p) q.resets else c) c
  c

/-! ## Budget (R274) -/

/-- A running slot's cycles have come to `n`: the count is kept, and above CYCLES the context raises BUDGET. -/
def Chip.budgetExceeded (c : Chip) (k n : Nat) : Chip :=
  match c.ctx? k with
  | none => c
  | some x =>
    if x.state = 2 ∧ (c.descOf x).cycles < n then (c.updCtx k fun x => { x with budget := n }).takeFault k { cls := BUDGET }
    else if x.state = 2 ∧ x.budget ≤ n then c.updCtx k fun x => { x with budget := n }
    else c

/-! ## Waits of contexts that are not resident (R142, R276) -/

/-- The slot of a resident context. -/
def Chip.slotOf (c : Chip) (p i : Nat) : Option Nat := (c.core.slots.find? fun e => e.2.part == p && e.2.idx == i && e.2.state != 0).map Prod.fst

/-- DEVTIME has reached the target of a context's WAITT, resident or saved. -/
def Chip.timeReached (c : Chip) (p i : Nat) : Chip :=
  match c.slotOf p i with
  | some k => c.waittResume k
  | none => match c.core.saved.look (p, i) with
    | some x => match x.wait, c.homeKey (c.descOf x) with
      | .time t d, some stb => if t ≤ c.localTime (stb / 4) then c.updSaved (p, i) fun x => { x.ws d (BitVec.ofNat 64 (c.localTime (stb / 4))) with wait := .none } else c
      | _, _ => c
    | none => c

/-! ## Accounting (R283, R284) -/

/-- Add to a counter of a row, which saturates. -/
def Chip.charge (c : Chip) (row off n : Nat) : Chip := c.bump (dcuK (0x2000 + row * 0x40 + off)) n

/-- A counter of a row. -/
def Chip.rowCount (c : Chip) (row off : Nat) : Nat := c.reg (dcuK (0x2000 + row * 0x40 + off))

/-- One activity in its row's counters: its energy is what its units report and 0.25 pJ/bit of its link bytes, each times the links crossed
    (R17, R284), in whole µJ of the row's total. -/
def Chip.account (c : Chip) (r : Charge) : Chip :=
  let l := c.rowCount r.row 0x10
  let link := 2 * (l + r.lnk) / 1000000 - 2 * l / 1000000
  ((((c.charge r.row 0 r.stb).charge r.row 8 r.mem).charge r.row 0x10 r.lnk).charge r.row 0x18 (r.uj + link)).charge r.row 0x20 r.sav

/-- Energy of every row in µJ. -/
def Chip.energyKnown (c : Chip) : Nat := ((List.range 33).map fun p => c.rowCount p 0x18).sum

/-- One update of every row at DEVTIME `t`: the activity since the last; the device row takes the energy that no row's activity explains of
    the package's `uj` over the update. -/
def Chip.accountingUpdate (c : Chip) (t uj : Nat) : Chip :=
  let c := c.at t
  let was := c.energyKnown
  let c := c.acct.foldl Chip.account c
  let c := c.charge 32 0x18 (uj - (c.energyKnown - was))
  { c with acct := [] }.setReg (dcuK 0x2840) t

end Sys2Proof.Machine
end

