-- ==== Sys2Proof/Machine/Capacity.lean ====
section
/-! DEFINITION. Capacity at run time (R282, R353): the preparation of a spare or a fenced site, and promotion, migration and removal of a hall at a landing start. -/

namespace Sys2Proof.Machine

/-- A site's stores as its march test leaves them (R377): every word zero, every tag slot poisoned; its stables come out of reset (R166). -/
def Chip.clearSite (c : Chip) (site : Nat) : Chip :=
  let inside := fun k => decide (sramKey site 0 ≤ k) && decide (k < sramKey site 0x2000000)
  let m := { c.mem with cells := c.mem.cells.filter (fun x => !inside x.1), errs := c.mem.errs.filter (fun x => !inside (x.1 * 32)), wb := c.mem.wb.filter (fun x => !inside (x.1 * 32)), tags := c.mem.tags.filter (fun x => !inside (x.1 * 4096)), poisonAt := c.mem.poisonAt.set site c.time.now, prodSeq := c.mem.prodSeq.filter fun x => !within (0x10000 + 4 * site) (0x10003 + 4 * site) x.1 }
  { c with mem := m }

/-- A site's personalities from an image's map (R31, R381); CHK where there is no image. -/
def Chip.setPers (c : Chip) (img : List Byte) (site : Nat) : Chip :=
  let duals := (List.range 4).filter fun s => img != [] && imgPers img site (4 * s)
  { c with core := { c.core with dual := (c.core.dual.filter fun k => k / 4 != site) ++ duals.map (4 * site + ·) } }

/-- The retirements, quarantines and bars that a plan holds for a site (R380). -/
def Chip.takeService (c : Chip) (site : Nat) (r : SiteRec) : Chip :=
  (List.range 4).foldl (fun c s => c.updEng (4 * site + s) fun e =>
    { e with retired := e.retired ||| bits r.retired (5 * s + 4) (5 * s), retire := e.retire || bits r.retired (5 * s + 4) (5 * s) != 0, quar := e.quar || bit r.quar s, barred := e.barred || bit r.barred s }) c

/-- GO to DCU_SPARECTL (R282, R353): for a spare or a fenced site, while no preparation runs. -/
def Chip.sparePrepare (c : Chip) (site : Nat) : Chip :=
  let v := c.site.state.get site 1
  if c.spare.state = 1 ∨ ¬ (v = 1 ∨ v = 3) then c
  else { c with spare := { c.spare with site := site, state := 1, ready := c.spare.ready.filter (· ≠ site) } }

/-- The die at the other end of a port can train: a site that is active or spare, or another die that is there. -/
def Chip.peerAlive (c : Chip) (die p : Nat) : Bool := match peerOf die p with
  | some (d, _) => if d < 72 then c.crossable d else !(d == 0x4E && c.boot.die0)
  | none => false

/-- Preparation ends: `ok` tells whether the site's links, start-up test and margins passed, `bars` the stables whose injection was
    not flagged, with the position (R267). -/
def Chip.spareDone (c : Chip) (ok : Bool) (bars : List (Nat × Nat)) (bad : List (Nat × Nat × Nat)) : Chip :=
  if c.spare.state ≠ 1 then c
  else
    let site := c.spare.site
    let old := c.site.state.get site 1
    let state := fun (c : Chip) v => { c with site := { c.site with state := c.site.state.set site v } }
    if ok then
      let down := (portsOf site).filter fun p => (c.port site p).state != 2 && c.peerAlive site p
      let c := down.foldl (fun c p => match peerOf site p with
        | some (d, q) => (c.trainPort site p fun l => !bad.contains (site, p, l)).trainPort d q fun l => !bad.contains (d, q, l)
        | none => c) c
      let c := if down.isEmpty then c else { c with yard := { c.yard with due := some (c.yard.due.getD c.time.now) } }
      let c := ((c.clearSite site).setPers c.boot.image site).takeService site (c.siteRec site)
      let c := bars.foldl (fun c b => c.injectionDone (4 * site + b.1 % 4) (some b.2)) c
      let c := { state c 1 with spare := { c.spare with state := 2, ready := c.spare.ready ++ [site] } }
      let c := c.post .SPARE_READY (dcuUnit) none site
      if old = 1 then c else c.countsChanged
    else
      let c := { state c 2 with spare := { c.spare with state := 3 } }
      (c.siteDark site).countsChanged

/-! ## Assignment at a landing start (R282) -/

/-- The stables of a site that a partition holds are powered (R386). -/
def Chip.powerHeld (c : Chip) (site : Nat) : Chip := (c.domainsOn (((List.range 4).map (4 * site + ·)).filter fun k => (c.partOfStb k).isSome)).1

/-- A logical ID moves to a site. -/
def Chip.mapHall (c : Chip) (id site : Nat) : Chip :=
  { c.errForget id with site := { c.site with hallmap := c.site.hallmap.set id site, state := c.site.state.set site 0 }, spare := { c.spare with ready := c.spare.ready.filter (· ≠ site) } }

/-- PROMOTE. -/
def Chip.promote (c : Chip) (id site : Nat) : Chip := ((c.mapHall id site).powerHeld site).countsChanged

/-- The Search Unit registers that a migration copies. -/
def suCopied : List Nat := [0, 8, 0x38, 0x100, 0x108, 0x110, 0x118, 0x120, 0x128, 0x130]

/-- The Search Unit of a migrating hall: ownership and settings are copied; queues, node store and an armed stop are not. -/
def Chip.suMigrate (c : Chip) (old new : Nat) : Chip :=
  let o := c.reg (suK old 0)
  let c := suCopied.foldl (fun c f => c.setReg (suK new f) (c.reg (suK old f))) (c.suClear new)
  let c := if (c.suSt old).arm.isSome then c.post .STOP_DISARMED (hallUnit old 3) (if bit o 8 then some (bits o 4 0) else none) else c
  (c.suClear old).setReg (suK old 0) 0

/-- What a removed site becomes: a spare, or with OFF fenced. -/
def Chip.retireSite (c : Chip) (id site : Nat) (off : Bool) : Chip :=
  let c := { c with site := { c.site with state := c.site.state.set site (if off then 3 else 1) }, core := { c.core with on := c.core.on.filter fun k => k / 4 != site } }
  let c := if off then (portsOf site).foldl (fun c p => c.fencePort site p) (c.fenceStaged site) else c
  (c.post .HALL_REMOVED (dcuUnit) none id site).countsChanged

/-- REMOVE with SITE: the resident contexts are saved with their INBOUND ranges, a COMMITTING block having finished (R254; log 76), the
    ID moves, and they are restored onto the slots of the same index. -/
def Chip.migrate (c : Chip) (id old new : Nat) (off : Bool) : Chip :=
  let c := (List.range 8).foldl (fun c j => c.blockCommit (8 * old + j) false) c
  let ks := (List.range 8).filter fun j => (c.ctx? (8 * old + j)).isSome && (c.ctx (8 * old + j)).state != 0 && (c.ctx (8 * old + j)).state != 4
  let names := ks.map fun j => (j, (c.ctx (8 * old + j)).part, (c.ctx (8 * old + j)).idx)
  let c := ks.foldl (fun c j => c.saveSlot (8 * old + j) (Config.saveNs c.time.now (8 * old + j)) true) c
  let c := { c with core := { c.core with slots := c.core.slots.filter fun e => e.1 / 8 != old } }
  let c := (c.mapHall id new).powerHeld new
  let c := names.foldl (fun c n => match c.core.saved.look n.2 with
    | some x => c.putIn (8 * new + n.1) n.2 x
    | none => c) c
  (c.suMigrate old new).retireSite id old off

/-- An applied DCU_HALLASGN (R282). -/
def Chip.hallAssign (c : Chip) (v : Nat) : Chip :=
  let id := bits v 7 0
  let site := bits v 14 8
  match bits v 17 16 with
  | 1 => if id < 64 ∧ site < 72 then c.promote id site else c
  | 2 => match c.siteOf id with
    | none => c
    | some old =>
      if site < 72 then c.migrate id old site (bit v 18)
      else ({ c.errForget id with site := { c.site with hallmap := c.site.hallmap.del id } }).retireSite id old (bit v 18)
  | _ => c

end Sys2Proof.Machine
end

