-- ==== Sys2Proof/Machine/LoopEngine.lean ====
section
/-! DEFINITION. Loop Engine channels (R317-R322): the sample, the two laws and their second evaluation, trips, commands, and the staging rules 0x08 and 0x09. -/

namespace Sys2Proof.Machine

/-! ## A channel's registers -/

/-- Register of channel `n`. -/
def chK (i : Isl) (n off : Nat) : RegKey := leK i (0x1000 + n * 0x1000 + off)

/-- PER of a CFG value, in µs. -/
def chPer (cfg : Nat) : Nat := bits cfg 45 32

/-- PHASE of a CFG value, in µs. -/
def chPhase (cfg : Nat) : Nat := bits cfg 61 48

/-- LE_CTL.EN. -/
def Chip.leOn (c : Chip) (i : Isl) : Bool := bit (c.reg (leK i 0)) 0

/-- NSTATE of a bank, at most 8 (log 43). -/
def LeCh.nstate (h : LeCh) (bank : Nat) : Nat := min 8 (h.word bank 20)

/-- Bank words that hold FP32 values. -/
def fpWords : List Nat := (List.range 20).filter (· ≠ 13) ++ (List.range 99).map (· + 29)

/-- A bank value is not finite, or its limits are out of order (R318 step 3). -/
def LeCh.limitsBad (h : LeCh) (bank : Nat) : Bool :=
  let w := h.word bank
  fpWords.any (fun j => !fin32 (w j)) || flt32 (w 7) (w 6) || !flt32 (w 10) (w 11)

/-! ## The laws (R318 step 6) -/

/-- Exact clamp of a pattern between two patterns. -/
def clamp32 (u lo hi : Nat) : Nat := if flt32 u lo then lo else if flt32 hi u then hi else u

/-- `lo <= u <= hi`. -/
def inside32 (u lo hi : Nat) : Bool := (f32 lo).le (f32 u) && (f32 u).le (f32 hi)

/-- Products of two lists added in ascending index. -/
def dot32 : List Nat → List Nat → Nat
  | [], _ => 0
  | _, [] => 0
  | a :: as, b :: bs => (List.zip as bs).foldl (fun s p => fadd32 s (fmul32 p.1 p.2)) (fmul32 a b)

/-- The operands of a law and its results: u, I, D, x. -/
structure LawIn where
  y : Nat
  r : Nat
  e : Nat
  ff : Nat
  i : Nat
  d : Nat
  x : List Nat
  yprev : Nat
  umin : Nat
  umax : Nat

/-- What a law answers. -/
structure LawOut where
  u : Nat
  i : Nat
  d : Nat
  x : List Nat
deriving DecidableEq

/-- PID by the words of a bank. -/
def pidLaw (w : Nat → Nat) (q : LawIn) : LawOut :=
  let d := fadd32 (fmul32 (w 3) q.d) (fmul32 (w 2) (fsub32 q.yprev q.y))
  let kie := fmul32 (w 1) q.e
  let pe := fmul32 (w 0) q.e
  let kff := fmul32 (w 4) q.ff
  let u0 := fadd32 (fadd32 (fadd32 pe (fadd32 q.i kie)) d) kff
  if inside32 u0 q.umin q.umax then { u := u0, i := fadd32 q.i kie, d := d, x := q.x }
  else { u := clamp32 (fadd32 (fadd32 (fadd32 pe q.i) d) kff) q.umin q.umax, i := q.i, d := d, x := q.x }

/-- The state-space law of `n` states. -/
def ssLaw (w : Nat → Nat) (n : Nat) (q : LawIn) : LawOut :=
  let v := [q.e, q.r, q.ff]
  let xs := q.x.take n
  let row := fun b k => (List.range k).map fun j => w (b + j)
  let u0 := fadd32 (dot32 (row 120 n) xs) (dot32 (row 29 3) v)
  let u := clamp32 u0 q.umin q.umax
  if inside32 u0 q.umin q.umax then
    { u := u, i := q.i, d := q.d, x := (List.range 8).map fun s => if s < n then fadd32 (dot32 (row (32 + 8 * s) n) xs) (dot32 (row (96 + 3 * s) 3) v) else q.x.getD s 0 }
  else { u := u, i := q.i, d := q.d, x := q.x }

/-- Operands of the second evaluation: negated, with the limits exchanged (R319). -/
def LawIn.mirror (q : LawIn) : LawIn :=
  { y := fneg32 q.y, r := fneg32 q.r, e := fneg32 q.e, ff := fneg32 q.ff, i := fneg32 q.i, d := fneg32 q.d, x := q.x.map fneg32, yprev := fneg32 q.yprev, umin := fneg32 q.umax, umax := fneg32 q.umin }

/-- Its result negated back. -/
def LawOut.mirror (o : LawOut) : LawOut := { u := fneg32 o.u, i := fneg32 o.i, d := fneg32 o.d, x := o.x.map fneg32 }

/-! ## Sources and outputs -/

/-- The CAN controller and slot that an index of a route names: 16 slots each (log 44). -/
def routeCan (i : Isl) (idx : Nat) : CanRef × Nat := (.isl i (if idx / 16 % 2 = 0 then 0 else 1), idx % 16)

/-- The FP32 pattern of an integer. -/
def ofInt32 (v : Int) : Nat := rne32Rat v

/-- The measurement that a channel latches (ROUTE.YKIND). -/
def Chip.leSource (c : Chip) (i : Isl) (n route : Nat) : Nat :=
  let s := c.isl i
  let idx := bits route 11 4
  match bits route 3 0 with
  | 1 => ofInt32 (s.enc.get idx (0, 0, 0)).1
  | 2 => ofW (Config.encoderRate (s.enc.get idx (0, 0, 0)).2.1)
  | 3 => ofInt32 (s.adc.get idx (0, 0)).1
  | 4 => let (r, k) := routeCan i idx; bits (c.reg (canK r (0x108 + 32 * k))) 31 0
  | _ => bits (c.reg (chK i n 0x30)) 31 0

/-- The CAN slot of the source is older than 2 x PER (LE_CHn_STAT, SRCLOST). -/
def Chip.srcLost (c : Chip) (i : Isl) (route per t : Nat) : Bool :=
  bits route 3 0 == 4 && (let (r, k) := routeCan i (bits route 11 4); decide (c.reg (canK r (0x110 + 32 * k)) + 2 * per * 1000 < t))

/-- The set-point source (ROUTE.SKIND). -/
def Chip.leTarget (c : Chip) (i : Isl) (n route : Nat) : Nat :=
  let idx := bits route 23 16
  match bits route 15 12 with
  | 1 => (c.isl i).sp.getD idx 0
  | 2 => ((c.isl i).ch idx).u
  | _ => bits (c.reg (chK i n 0x28)) 31 0

/-- The duty of clamp(u, 0, 1) in 1/65,536: which way a value between two duties rounds is free, and 1 saturates at 65,535 (log 26). -/
def dutyOf (u : Nat) : Nat :=
  let w := (Config.pwmDuty (BitVec.ofNat 32 u)).toNat
  match f32 u with
  | .nan => w
  | .inf s => if s then 0 else 65535
  | .fin s _ _ =>
    let x := ratOr0 u * 65536
    let lo := min 65535 x.floor.toNat
    if s then 0 else if x = (lo : Rat) ∨ lo = 65535 then lo else if w = lo ∨ w = lo + 1 then w else lo

/-- Drive a channel's output with `u` (ROUTE.OKIND): a PWM's duty, a transmit slot's bytes 0-3, another channel's
    set-point. -/
def Chip.leDrive (c : Chip) (i : Isl) (route u : Nat) : Chip :=
  let idx := bits route 35 28
  match bits route 27 24 with
  | 1 =>
    let duty := dutyOf u
    let k := sioK i (0x100 + 8 * (idx % 8))
    (c.setReg k (setBits (c.reg k) 31 16 duty)).updIsl i fun s => { s with pwmOut := s.pwmOut.set (idx % 8) duty }
  | 2 => let (r, k) := routeCan i idx; c.canTxWrite r k (setBits (c.reg (canK r (0x308 + 32 * k))) 31 0 u)
  | 3 => let k := chK i (idx % 32) 0x28; c.setReg k (setBits (c.reg k) 31 0 u)
  | _ => c

/-! ## Trips and states (R320) -/

/-- A trip: TRIPPED, the output at SAFE, the LE_TRIP record, flag 3, and for CRIT the STOP trigger (R310). -/
def Chip.leTrip (c : Chip) (i : Isl) (n cause : Nat) : Chip :=
  let h := (c.isl i).ch n
  let safe := h.word h.bankact 5
  let c := c.updCh i n fun h => { h with st := 4, cause := cause, u := safe, due := none }
  let c := ((c.leDrive i (c.reg (chK i n 8)) safe).islEvent i .LE_TRIP cause n).islFlag i 3
  if bit (c.reg (chK i n 0)) 1 then c.updIsl i fun s => { s with trig := s.trig ++ [4] } else c

/-- A channel goes OFF with its output at SAFE. -/
def Chip.leOff (c : Chip) (i : Isl) (n : Nat) : Chip :=
  let c := c.updCh i n LeCh.off
  c.leDrive i (c.reg (chK i n 8)) ((c.isl i).ch n).u

/-- The new bank is active: states at or beyond the old NSTATE start at zero (R322). -/
def LeCh.swap (h : LeCh) (bank : Nat) : LeCh :=
  if bank = h.bankact then h else { h with bankact := bank, x := h.x.take (h.nstate h.bankact) ++ List.replicate (8 - h.nstate h.bankact) 0 }

/-- CFG or ROUTE of a channel holds a staged value: decided by the island's staging controller (R322). -/
def stagedCh (staged : List RegKey) (i : Isl) (n : Nat) : Bool := staged.contains (chK i n 0) || staged.contains (chK i n 8)

/-- The command taken at a snapshot (R320); `held` tells that CFG or ROUTE is staged and checked (R322). -/
def Chip.leCommand (c : Chip) (i : Isl) (n y : Nat) (held : Bool) : Chip :=
  let h := (c.isl i).ch n
  match h.cmd with
  | none => c
  | some k =>
    let c := c.updCh i n fun h => { h with cmd := none }
    let bad := c.bump (leK i 0x28)
    match k with
    | 1 => if (h.st = 0 ∨ h.st = 4) ∧ held = false then
        c.updCh i n fun h => { h with st := 1, cause := 0, i := h.word h.bankact 18, d := 0, x := List.replicate 8 0, fet := 0, late := 0, r := y }
      else bad
    | 2 => c.leOff i n
    | 3 => if h.st = 1 ∨ h.st = 2 then c.updCh i n fun h => { h with held := h.st, st := 3 } else bad
    | _ => if h.st = 3 then c.updCh i n fun h => { h with st := h.held } else bad

/-- Move a set-point towards its target by at most a rate per second over PER µs. -/
def towards (r target rate per : Nat) : Nat :=
  let m := fmul32 rate (f32c per 1000000)
  let gap := fsub32 target r
  if (f32 (fabs32 gap)).le (f32 m) then target else if flt32 r target then fadd32 r m else fsub32 r m

/-- Step 7 of a channel's sample, at t_k + 10 µs (R318): the result is applied; a late one holds the previous output, and the third in
    succession trips (R319). -/
def Chip.leApply (c : Chip) (i : Isl) (n : Nat) (q : LeDue) : Chip :=
  if q.late then
    let run := ((c.isl i).ch n).late + 1
    let c := (c.bump (leK i 0x20)).updCh i n fun h => { h with late := run, st := q.st, due := none }
    if run ≥ 3 then c.leTrip i n 5 else c
  else
    let c := c.updCh i n fun h => { h with st := q.st, r := q.r, u := q.u, i := q.i, d := q.d, x := q.x, yprev := q.y, late := 0, samples := (h.samples + 1) % 2 ^ 32, due := none }
    c.leDrive i (c.reg (chK i n 8)) q.u

/-- The results whose time the island's DEVTIME has reached are applied, in ascending channel order (R317). -/
def Chip.leSettle (c : Chip) (i : Isl) : Chip :=
  (List.range 32).foldl (fun c n => match ((c.isl i).ch n).due with
    | some q => if q.at' ≤ c.localTime (islDie i) then c.leApply i n q else c
    | none => c) c

/-- Steps 4 to 6 of the sample at `t` that has passed its checks, with step 7 to come (R318, R319). -/
def Chip.leEval (c : Chip) (i : Isl) (n t y : Nat) (ev : LeEval) (late : Bool) : Chip :=
  let h := (c.isl i).ch n
  let w := h.word h.bankact
  let cfg := c.reg (chK i n 0)
  let route := c.reg (chK i n 8)
  let per := chPer cfg
  let target := fadd32 (fmul32 (w 16) (c.leTarget i n route)) (w 17)
  let r := if h.st = 1 then towards h.r target (w 14) per else if h.st = 2 then towards h.r target (w 15) per else h.r
  let st := if h.st = 1 ∧ r = target then 2 else h.st
  let e := fsub32 r y
  let fet := if w 13 ≠ 0 ∧ flt32 (w 12) (fabs32 e) then h.fet + per else 0
  let c := c.updCh i n fun h => { h with e := e, fet := fet }
  if w 13 ≠ 0 ∧ fet ≥ w 13 then c.leTrip i n 3
  else if h.st = 3 then c
  else
    let q : LawIn := { y := y, r := r, e := e, ff := bits (c.reg (chK i n 0x28)) 63 32, i := h.i, d := h.d, x := h.x, yprev := h.yprev, umin := w 6, umax := w 7 }
    let law := if bit cfg 0 then ssLaw w (h.nstate h.bankact) else pidLaw w
    let o := law q
    let second := (law q.mirror).mirror
    if ev = .unsettled then (((c.islErr i (0x100 + n) 0x19 (n + 32)).leTrip i n 4).islTrap i 0x21)
    else
      let c := if ev = .settled ∨ o ≠ second then (c.bump (leK i 0x18)).islErr i (0x100 + n) 0x19 n else c
      c.updCh i n fun h => { h with due := some { at' := t + 10000, late := late, st := st, y := y, r := r, u := o.u, i := o.i, d := o.d, x := o.x } }

/-- A channel's sample at DEVTIME `t`, in ns (R317-R320). `ev` and `late` are what its arithmetic and clock do in this sample;
    `held` tells that the island's staged set holds its CFG or ROUTE (R322). -/
def Chip.chSampleAt (c : Chip) (i : Isl) (n t : Nat) (ev : LeEval) (late held : Bool) : Chip :=
  let cfg := c.reg (chK i n 0)
  let route := c.reg (chK i n 8)
  let per := chPer cfg
  let later := match ((c.isl i).ch n).last with
    | some u => decide (u < t)
    | none => true
  if !(c.isl i).up || (c.isl i).safe || !c.leOn i || !later || per = 0 || t / 1000 % per ≠ chPhase cfg then c
  else
    let c := c.updCh i n fun h => { h with last := some t }
    let raw := c.leSource i n route
    let lost := c.srcLost i route per t
    let c := c.updCh i n fun h => h.swap (bits (c.reg (chK i n 0x10)) 0 0)
    let h := (c.isl i).ch n
    let w := h.word h.bankact
    let y := fadd32 (fmul32 (w 8) raw) (w 9)
    let c := c.leCommand i n y held
    if ((c.isl i).ch n).st = 0 ∨ ((c.isl i).ch n).st = 4 then c
    else if lost then c.leTrip i n 6
    else if !fin32 y || flt32 y (w 10) || flt32 (w 11) y then c.leTrip i n 1
    else if h.limitsBad h.bankact then c.leTrip i n 2
    else c.leEval i n t y ev late

/-- A channel's sample, where the island's own DEVTIME copy stands at a microsecond. -/
def Chip.channelSample (c : Chip) (i : Isl) (n : Nat) (ev : LeEval) (late held : Bool) : Chip := match c.instant (islDie i) 1000 with
  | some t => c.chSampleAt i n t ev late held
  | none => c

/-- A write of a channel's command register (R320): it waits for the next snapshot, a later one replacing it. -/
def Chip.leCmd (c : Chip) (i : Isl) (n k : Nat) : Chip := c.updCh i n fun h => { h with cmd := some k }

/-- A write of LE_CTL.EN (R357): 0 sets every channel OFF. -/
def Chip.leCtl (c : Chip) (i : Isl) (en : Bool) : Chip :=
  let c := c.setReg (leK i 0) (b2n en)
  if en then c else (List.range 32).foldl (fun c n => if ((c.isl i).ch n).st = 0 then c else c.leOff i n) c

/-- Write the words of a bank that a register access covers (R321): one or two, at word `w`. -/
def Chip.coefWrite (c : Chip) (i : Isl) (n bank w : Nat) (vs : List Nat) : Chip :=
  c.updCh i n fun h => { h with words := vs.zipIdx.foldl (fun m v => m.set (128 * bank + w + v.2) (v.1 % 2 ^ 32)) h.words }

/-! ## Load and staging rules (R317, R322) -/

/-- Cycles of one sample of a channel (R317). -/
def sampleCost (ss : Bool) (nstate : Nat) : Nat := if ss then 16 + 2 * (24 + nstate * (nstate + 4)) else 16 + 2 * 48

/-- Channels with an output, as a view of the registers shows them. -/
def routedChs (rd : RegKey → Nat) (i : Isl) : List Nat := (List.range 32).filter fun n => bits (rd (chK i n 8)) 27 24 != 0

/-- A channel that counts for the load: not OFF, or with CFG or ROUTE away from its reset value (log 42). -/
def Chip.chUsed (c : Chip) (rd : RegKey → Nat) (i : Isl) (n : Nat) : Bool :=
  within 1 3 ((c.isl i).ch n).st || rd (chK i n 0) != 0x3E800000000 || rd (chK i n 8) != 0

/-- The worst instant's cycles of the 10 ms repeat (R317). -/
def Chip.leLoad (c : Chip) (rd : RegKey → Nat) (i : Isl) : Nat :=
  let chs := ((List.range 32).filter fun n => c.chUsed rd i n).map fun n =>
    let cfg := rd (chK i n 0)
    (chPer cfg, chPhase cfg, sampleCost (bit cfg 0) (((c.isl i).ch n).nstate (bits (rd (chK i n 0x10)) 0 0)))
  let at' := fun t => (chs.map fun q => if t % q.1 = q.2.1 then q.2.2 else 0).sum
  let instants := (chs.map fun q => (List.range (10000 / q.1)).map fun k => q.2.1 + k * q.1).flatten.eraseDups
  (instants.map at').foldl max 0

/-- A bank that may become active (R322). -/
def LeCh.bankOk (h : LeCh) (bank : Nat) (ss : Bool) : Bool :=
  !h.limitsBad bank && (List.range 8).all (fun j => h.word bank (21 + j) == 0) && (!ss || within 1 8 (h.word bank 20))

/-- Set-point routes from channel `n` form a loop: `fuel` steps along SKIND 2 and OKIND 3 do not end. -/
def routeLoops (next : Nat → List Nat) : (fuel : Nat) → List Nat → Bool
  | 0, ns => !ns.isEmpty
  | f + 1, ns => !ns.isEmpty && routeLoops next f ((ns.map next).flatten.eraseDups)

/-- The channels that take channel `n`'s output as a set-point. -/
def feeds (rd : RegKey → Nat) (i : Isl) (n : Nat) : List Nat :=
  let own := rd (chK i n 8)
  (if bits own 27 24 = 3 then [bits own 35 28 % 32] else [])
    ++ (List.range 32).filter fun m => bits (rd (chK i m 8)) 15 12 == 2 && bits (rd (chK i m 8)) 23 16 == n

/-- Registers of an island that break rule 0x08, under a view of the staged values (R322). -/
def Chip.leRule8 (c : Chip) (rd : RegKey → Nat) (i : Isl) (staged : List RegKey) : List RegKey :=
  let banks := (List.range 32).filter fun n =>
    (staged.contains (chK i n 0x10)) && bits (rd (chK i n 0x10)) 0 0 != ((c.isl i).ch n).bankact
      && !((c.isl i).ch n).bankOk (bits (rd (chK i n 0x10)) 0 0) (bit (rd (chK i n 0)) 0)
  let live := (List.range 32).filter fun n => ((c.isl i).ch n).st != 0 && [chK i n 0, chK i n 8].any fun k => staged.contains k && rd k != c.reg k
  let phase := (List.range 32).filter fun n => staged.contains (chK i n 0) && !decide (chPhase (rd (chK i n 0)) < chPer (rd (chK i n 0)))
  -- eight PWM outputs and 32 CAN slots, as `leDrive` names them
  let outs := (routedChs rd i).map fun n => let kind := bits (rd (chK i n 8)) 27 24; (n, kind, bits (rd (chK i n 8)) 35 28 % (if kind = 1 then 8 else 32))
  let twice := (outs.filter fun a => (a.2.1 == 1 || a.2.1 == 2) && outs.any fun b => b.1 != a.1 && b.2 == a.2).map Prod.fst
  let loop := (List.range 32).filter fun n => routeLoops (feeds rd i) 32 (feeds rd i n)
  banks.map (chK i · 0x10) ++ live.map (chK i · 0) ++ phase.map (chK i · 0) ++ twice.map (chK i · 8) ++ loop.map (chK i · 8)

/-- Rule 0x09: the load of any instant exceeds its limit (R317). -/
def Chip.leRule9 (c : Chip) (rd : RegKey → Nat) (i : Isl) (staged : List RegKey) : List RegKey :=
  if 1800 < c.leLoad rd i then staged.take 1 else []

end Sys2Proof.Machine
end

