-- ==== Sys2Proof/Machine/Staging.lean ====
section
/-! DEFINITION. Staged Configuration (R354-R362): locks, staged values, the consistency rules, and the three phases of an apply. -/

namespace Sys2Proof.Machine

/-- A controller's state. -/
def Chip.ctl (c : Chip) (x : Ctl) : CfgSt := c.cfg.get x {}

/-- Change a controller's state. -/
def Chip.updCtl (c : Chip) (x : Ctl) (f : CfgSt → CfgSt) : Chip := { c with cfg := c.cfg.upd x {} f }

/-- A controller's access-error counter. -/
def ctlErr : Ctl → RegKey
  | .dcu => dcuK 0x5058
  | .isl i => siK i 0x258

/-- Count a refused write. -/
def Chip.ctlBad (c : Chip) (x : Ctl) : Chip := c.bump (ctlErr x)

/-- Requester codes (R354). -/
def reqCode : Master → Nat
  | .fn f => f.val
  | .dcu => 16
  | .isl _ => 17

/-- A requester can write a controller: an island's own firmware writes only its own island's. -/
def reaches (m : Master) (x : Ctl) : Bool := match m, x with
  | .isl i, .isl j => i == j
  | .isl _, .dcu => false
  | _, _ => true

/-- The requester owns the set. -/
def Chip.ownsSet (c : Chip) (m : Master) (x : Ctl) : Bool := reaches m x && (c.ctl x).owner == some (reqCode m)

/-- DEVTIME as a controller reads it. -/
def Chip.ctlTime (c : Chip) : Ctl → Nat
  | .dcu => c.time.now
  | .isl i => c.localTime (islDie i)

/-- A controller writes an event record: the DCU's for a partition where it concerns one, an island's in its ring (R359,
    R449). -/
def Chip.ctlPost (c : Chip) (x : Ctl) (e : Ev) (part : Option Nat) (v1 v2 : Nat) : Chip := match x with
  | .dcu => c.post e (dcuUnit 1) part v1 v2
  | .isl i => c.islEvent i e v1 v2

/-! ## The lock (R354, R356) -/

/-- The partition bound to a function. -/
def Chip.boundPart (c : Chip) (f : Nat) : Option Nat := (c.parts.find? fun e => e.2.held && e.2.func == f).map Prod.fst

/-- The partition of a set's owner. -/
def Chip.ownerPart (c : Chip) (x : Ctl) : Option Nat := ((c.ctl x).owner.filter (· < 16)).bind c.boundPart

/-- Drop the staged values of a set (R355). -/
def CfgSt.drop (g : CfgSt) : CfgSt := { g with staged := [], lost := [], state := 0, rule := 0, nfail := 0, unit := 0 }

/-- Claim the set. -/
def Chip.cfgClaim (c : Chip) (x : Ctl) (m : Master) (owner : Nat) : Chip :=
  if (c.ctl x).owner.isNone && owner == reqCode m && reaches m x then c.updCtl x fun g => { g with owner := some owner } else c.ctlBad x

/-- The lock is released, whoever releases it (R356): an ARMED set still applies, any other is dropped with its record. -/
def Chip.cfgFree (c : Chip) (x : Ctl) : Chip :=
  match (c.ctl x).owner with
  | none => c
  | some o =>
    let g := c.ctl x
    let part := c.ownerPart x
    if g.state = 0 ∨ g.state = 5 then c.updCtl x fun g => { g with owner := none }
    else (c.updCtl x fun g => { g.drop with owner := none }).ctlPost x .CFG_ABORTED part o 0

/-- A write of HELD = 0. -/
def Chip.cfgRelease (c : Chip) (x : Ctl) (m : Master) : Chip :=
  let may := c.ownsSet m x || (match m, x with
    | .dcu, .dcu => true
    | .isl i, .isl j => i == j
    | _, _ => false)
  if may then c.cfgFree x else c.ctlBad x

/-- Release the locks that a function holds (R356, R422). -/
def Chip.freeLocksOf (c : Chip) (f : Nat) : Chip :=
  [Ctl.dcu, .isl .A, .isl .B].foldl (fun c x => if (c.ctl x).owner = some f then c.cfgFree x else c) c

/-! ## Staged values (R355) -/

/-- DCU_PLMAP: its partition and word. -/
def mapKey (k : RegKey) : Option (Nat × Nat) := if k.blk = .dcu ∧ 0x1400 ≤ k.off ∧ k.off < 0x1800 then some ((k.off - 0x1400) / 0x20, (k.off - 0x1400) % 0x20 / 8) else none

/-- DCU_PLMAP: the live landing map of a partition that holds stables. -/
def Chip.plmap (c : Chip) (p w : Nat) : Nat := let q := c.part p; if q.held then bits q.landmap (64 * w + 63) (64 * w) else 0

/-- The live value of a WS register. -/
def Chip.wsLive (c : Chip) (k : RegKey) : Nat := match mapKey k with
  | some (p, w) => c.plmap p w
  | none => c.reg k

/-- The value that a register would hold after an apply: its staged value, else its live one. -/
def Chip.ctlView (c : Chip) (x : Ctl) (k : RegKey) : Nat := ((c.ctl x).staged.look k).getD (c.wsLive k)

/-- The controller of a register. -/
def ctlOf (k : RegKey) : Ctl := match k.blk with
  | .isl i => .isl i
  | _ => .dcu

/-- A write to a WS register (R354, R355): by the owner, outside ARMED, with no reserved encoding (R6). -/
def Chip.wsWrite (c : Chip) (m : Master) (k : RegKey) (row : RegRow) (v : Nat) : Chip :=
  let x := ctlOf k
  if !c.ownsSet m x || (c.ctl x).state = 5 then c.ctlBad x
  else if !row.ok v then c.countErr k
  else c.updCtl x fun g => { g with staged := g.staged.set k (Nat.land v row.mask), lost := g.lost.filter (· ≠ k), state := 1, rule := 0, nfail := 0, unit := 0 }

/-- CFG_DISCARD (R355). -/
def Chip.cfgDiscard (c : Chip) (x : Ctl) (m : Master) : Chip :=
  if c.ownsSet m x && (c.ctl x).state != 5 then c.updCtl x CfgSt.drop else c.ctlBad x

/-! ## The consistency rules (R357) -/

/-- Unit path that a register's rule failure names. -/
def keyUnit (k : RegKey) : Nat := match k.blk with
  | .dcu => dcuUnit 1
  | .hall s =>
    if within 0xE400000 0xE43FFFF k.off then stbUnit (4 * s + (k.off - 0xE400000) / 0x10000)
    else if within 0xE800000 0xE9FFFFF k.off then hallUnit s 1
    else if within 0xEA00000 0xEBFFFFF k.off then hallUnit s 5
    else hallUnit s 0
  | .iod i => iodUnit i 0
  | .mb m => mbUnit m 1
  | .isl i => if within 0x101000 0x120FFF k.off then islUnit i (0x100 + (k.off - 0x101000) / 0x1000) else islUnit i

/-- STB_MODE of the stable that a register belongs to, if it is one. -/
def modeKey (k : RegKey) : Option Nat := match k.blk with
  | .hall s => if within 0xE400000 0xE43FFFF k.off && (k.off - 0xE400000) % 0x10000 == 0xA0 then some (4 * s + (k.off - 0xE400000) / 0x10000) else none
  | _ => none

/-- DCU_HALLASGN. -/
def asgnKey : RegKey := dcuK 0x1810

/-- Rule 0x01: values that change only at a landing start, in a set armed for a tick. -/
def Chip.rule1 (c : Chip) (x : Ctl) (tick : Bool) : List RegKey :=
  if tick then (c.ctl x).staged.filterMap fun e => if (modeKey e.1).isSome ∧ e.2 ≠ c.reg e.1 ∨ (mapKey e.1).isSome ∧ e.2 ≠ c.wsLive e.1 ∨ e.1 = asgnKey then some e.1 else none else []

/-- A stable is CHECKED after the apply. -/
def Chip.checkedAfter (c : Chip) (x : Ctl) (key : Nat) : Bool := bit (c.ctlView x (stbK key 0xA0)) 0

/-- Rule 0x02 (R244). -/
def Chip.rule2 (c : Chip) (x : Ctl) : List RegKey :=
  (c.ctl x).staged.filterMap fun e => match modeKey e.1 with
    | some key =>
      let g := c.eng key
      let lone := match c.partOfStb key with
        | some p => (((stableList (c.part p).stables).filterMap c.keyOf).filter (c.checkedAfter x)).length == 1
        | none => false
      if bit e.2 0 && (c.core.dual.contains key || g.barred || g.quar || g.retire || lone) then some e.1 else none
    | none => none

/-- Rule 0x03 (R275). -/
def Chip.rule3 (c : Chip) (x : Ctl) : List RegKey :=
  (c.ctl x).staged.filterMap fun e => match modeKey e.1 with
    | some key =>
      let homed := match c.partOfStb key with
        | some p => (c.part p).ctxs.any fun d => c.homeKey d == some key && d.mode == 0
        | none => false
      if bit e.2 0 && !c.checkedMode key && homed then some e.1 else none
    | none => none

/-- Rule 0x04 (R280). -/
def Chip.rule4 (c : Chip) (x : Ctl) : List RegKey :=
  (c.ctl x).staged.filterMap fun e => match mapKey e.1 with
    | some (p, w) => let own := bits (c.part p).stables (64 * w + 63) (64 * w); if Nat.land e.2 own ≠ e.2 then some e.1 else none
    | none => none

/-- Rule 0x05 (R282). -/
def Chip.rule5 (c : Chip) (x : Ctl) : List RegKey :=
  match (c.ctl x).staged.look asgnKey with
  | none => []
  | some v =>
    let id := bits v 7 0
    let site := bits v 14 8
    let ready := c.spare.ready.contains site
    let used := c.parts.any fun e => e.2.held && bits e.2.stables (4 * id + 3) (4 * id) != 0
    let plans := match c.siteOf id with
      | some s => bit (c.reg (suK s 0x200)) 0
      | none => false
    let bad := match bits v 17 16 with
      | 1 => (c.siteOf id).isSome || !ready
      | 2 => (site == 0x7F && used) || plans || (site != 0x7F && !ready)
      | _ => false
    if bad then [asgnKey] else []

/-- The limits of R230 in order. -/
def limitsGood (l : Array Nat) : Bool :=
  let v := lim l
  (List.range 13).all (fun j => fin32 (v j)) && [0, 1, 2, 3, 4, 5, 6, 7].all (fun j => flt32 0 (v j)) && [8, 9, 10, 12].all (fun j => !flt32 (v j) 0)
    && (match rat32 (v 3), rat32 (v 8) with
      | some d, some g => decide (980665 * g < 100000 * d)
      | _, _ => false)

/-- Rule 0x06 (R230). -/
def Chip.rule6 (c : Chip) (x : Ctl) : List RegKey :=
  let of' := fun (k : RegKey) => match k.blk with
    | .hall s => if within 0xE800100 0xE800137 k.off then some s else none
    | _ => none
  (c.ctl x).staged.filterMap fun e => match of' e.1 with
    | some s =>
      let ws := (List.range 7).map fun i => c.ctlView x (suK s (0x100 + 8 * i))
      if limitsGood (ws.map fun w => [bits w 31 0, bits w 63 32]).flatten.toArray then none else some e.1
    | none => none

/-- Rule 0x07 (R296). -/
def Chip.rule7 (c : Chip) (x : Ctl) : List RegKey :=
  (c.ctl x).staged.filterMap fun e =>
    let rq := fun off =>
      if off = 0x30 then
        let b := (List.range 8).map fun n => bits e.2 (8 * n + 7) (8 * n)
        b.any (· == 0) || (b.zip (b.drop 1)).any fun q => decide (q.1 < q.2)
      else if off = 0x38 then bits e.2 15 0 == 0
      else off < 0x30 && bit e.2 3 && (bits e.2 15 4 != 0 || bits e.2 27 16 != 0)
    let bad := match e.1.blk with
      | .mb m =>
        if e.1.off = 0x800 then decide (bits e.2 31 16 ≤ bits e.2 15 4) || bits e.2 15 4 == 0 || bits e.2 31 16 == 0 || bits e.2 41 32 == 0
        else if within 0x810 0x830 e.1.off then
          decide (896 < 8 * ((List.range 33).map fun p => bits (c.ctlView x (mbK m (0x810 + p / 8 * 8))) (p % 8 * 8 + 7) (p % 8 * 8)).sum)
        else false
      | .hall _ => within 0xEA00000 0xEA0003F e.1.off && rq (e.1.off - 0xEA00000)
      | .iod _ => within 0xA00000 0xA0003F e.1.off && rq (e.1.off - 0xA00000)
      | _ => false
    if bad then some e.1 else none

/-- Rule 0x0A: a staged value whose unit was fenced or reset after it was written. -/
def Chip.rule10 (c : Chip) (x : Ctl) : List RegKey :=
  (c.ctl x).lost ++ (c.ctl x).staged.keys.filter fun k => !(c.ctl x).lost.contains k && (match k.blk with
    | .hall s => c.site.state.get s 1 == 3
    | _ => false)

/-- Every rule of a controller with the registers that break it, `tick` for a set armed in MODE 1. -/
def Chip.rules (c : Chip) (x : Ctl) (tick : Bool) : List (Nat × List RegKey) := match x with
  | .dcu => [(1, c.rule1 x tick), (2, c.rule2 x), (3, c.rule3 x), (4, c.rule4 x), (5, c.rule5 x), (6, c.rule6 x), (7, c.rule7 x), (10, c.rule10 x)]
  | .isl i => let s := (c.ctl x).staged.keys
    [(8, c.leRule8 (c.ctlView x) i s), (9, c.leRule9 (c.ctlView x) i s), (10, c.rule10 x)]

/-- The failing rules, and the unit of the first failing register of the lowest. -/
def Chip.failing (c : Chip) (x : Ctl) (tick : Bool) : List Nat × Nat :=
  let bad := (c.rules x tick).filter fun r => !r.2.isEmpty
  (bad.map Prod.fst, match bad with
    | r :: _ => (r.2.head?.map keyUnit).getD 0
    | [] => 0)

/-- Hold the outcome of an evaluation. -/
def CfgSt.judge (g : CfgSt) (bad : List Nat × Nat) : CfgSt :=
  { g with state := if bad.1.isEmpty then 3 else 4, rule := bad.1.headD 0, nfail := min 255 bad.1.length, unit := bad.2 }

/-- GO to CFG_CHECK (R357): CHECKING until the result; discarded while ARMED (R358). -/
def Chip.cfgCheck (c : Chip) (x : Ctl) (m : Master) : Chip :=
  if c.ownsSet m x && (c.ctl x).state != 5 then c.updCtl x fun g => { g with state := 2 } else c.ctlBad x

/-- The result of a check appears. -/
def Chip.cfgCheckDone (c : Chip) (x : Ctl) : Chip :=
  if (c.ctl x).state = 2 then let bad := c.failing x false; c.updCtl x fun g => g.judge bad else c

/-! ## Applying (R358-R361) -/

/-- Units that hold a staged value. -/
def CfgSt.units (g : CfgSt) : List Blk := (g.staged.map fun e => e.1.blk).eraseDups

/-- Arm a set. -/
def CfgSt.arm (g : CfgSt) (mode now : Nat) : CfgSt := { g with state := 5, mode := mode, armAt := now, armTo := g.tick, prepared := g.units, acks := [], again := none, sent := false }

/-- CFG_APPLY MODE 1 (R358). -/
def Chip.cfgTick (c : Chip) (x : Ctl) (m : Master) : Chip :=
  let g := c.ctl x
  let now := c.ctlTime x
  if !c.ownsSet m x || g.state ≠ 3 then c.ctlBad x
  else if now + 200000 ≤ g.tick ∧ g.tick ≤ now + 60000000000 then c.updCtl x fun g => g.arm 1 now
  else c.updCtl x fun g => { g with last := 4 }

/-- CFG_APPLY MODE 2 (R358). -/
def Chip.cfgLanding (c : Chip) (x : Ctl) (m : Master) : Chip :=
  if c.ownsSet m x && (c.ctl x).state == 3 then c.updCtl x fun g => g.arm 2 (c.ctlTime x) else c.ctlBad x

/-- The first landing start of a schedule at or after a time; start(0) is the first of all. -/
def Sched.landingFrom (s : Sched) (t : Nat) : Nat :=
  let first := ((s.base : Int) - s.fb * s.t).toNat
  if t ≤ first then first else first + ceilDiv (t - first) (max 1 s.t) * s.t

/-- The tick for which a set is armed, once it is known (R358). -/
def Chip.armTick (c : Chip) (x : Ctl) : Option Nat :=
  let g := c.ctl x
  if g.state ≠ 5 then none
  else if g.mode = 1 then some g.armTo
  else match x with
    | .dcu => c.schedule.map fun s => s.landingFrom (g.armAt + 200000)
    | .isl i => (c.isl i).fs.map fun s => s.landingFrom (g.armAt + 200000)

/-- CFG_APPLY MODE 3 (R361). -/
def Chip.cfgCancel (c : Chip) (x : Ctl) (m : Master) : Chip :=
  let early := match c.armTick x with
    | some t => decide (c.ctlTime x + 20000 < t)
    | none => true
  if c.ownsSet m x && (c.ctl x).state == 5 && early then c.updCtl x fun g => { g with state := 3, last := 3 } else c.ctlBad x

/-- A unit's register space. -/
def unitBlk : CfgUnit → Blk
  | .dcu => .dcu
  | .hall s => .hall s.val
  | .mb m => .mb m.val
  | .iod i => .iod i.val

/-- A unit acknowledges its prepare message (R359): a fenced one does not, and none is sent before the tick is known. -/
def Chip.prepareAck (c : Chip) (u : CfgUnit) : Chip :=
  let g := c.ctl .dcu
  let b := unitBlk u
  let gone := match u with
    | .hall s => c.site.state.get s.val 1 == 3
    | _ => false
  if (c.armTick .dcu).isSome && g.prepared.contains b && !g.acks.contains b && !gone then c.updCtl .dcu fun g => { g with acks := b :: g.acks } else c

/-- The rules are evaluated again at t - 20 µs (R359). -/
def Chip.cfgAgain (c : Chip) (x : Ctl) : Chip :=
  match c.armTick x with
  | some t => if t ≤ c.ctlTime x + 20000 ∧ (c.ctl x).sent = false then let bad := c.failing x ((c.ctl x).mode == 1); c.updCtl x fun g => { g with again := some bad } else c
  | none => c

/-- An armed set is aborted (R360). -/
def Chip.cfgAbort (c : Chip) (x : Ctl) (bad : List Nat × Nat) : Chip :=
  let part := c.ownerPart x
  (c.updCtl x fun g => { g.judge bad with state := 4, last := 2, again := none, sent := false }).ctlPost x .CFG_ABORTED part 0 0

/-- The commit is sent at t - 10 µs, or the apply is aborted (R359, R360). -/
def Chip.cfgCommit (c : Chip) (x : Ctl) : Chip :=
  match c.armTick x with
  | none => c
  | some t =>
    let g := c.ctl x
    if g.sent || decide (c.ctlTime x + 10000 < t) then c
    else
      let missing := if x = .dcu then g.prepared.filter (fun b => !g.acks.contains b) else []
      let bad := g.again.getD (c.failing x (g.mode == 1))
      match bad.1, missing with
      | [], [] => c.updCtl x fun g => { g with sent := true }
      | [], b :: _ => c.cfgAbort x ([10], ((g.staged.find? fun e => e.1.blk = b).map fun e => keyUnit e.1).getD 0)
      | _, _ => c.cfgAbort x bad

/-- A unit that holds a prepare message without a commit discards it at t (R360). -/
def Chip.prepareDrop (c : Chip) (u : CfgUnit) : Chip := c.updCtl .dcu fun g => if g.sent = true ∨ g.state = 5 then g else { g with prepared := g.prepared.filter (· ≠ unitBlk u) }

/-- The island whose SI_PLANSRC a key names: a change resets its FRAME and SEQ checks (R306). -/
def planSrcOf (k : RegKey) : Option Isl := [Isl.A, .B].find? fun i => k == siK i 0x20

/-- One staged value becomes live. A fenced hall's values are lost with it. -/
def Chip.applyReg (c : Chip) (e : RegKey × Nat) : Chip :=
  let gone := match e.1.blk with
    | .hall s => c.site.state.get s 1 == 3
    | _ => false
  if gone then c
  else match mapKey e.1 with
  | some (p, w) => c.updPart p fun q => if q.held then { q with landmap := setBits q.landmap (64 * w + 63) (64 * w) e.2 } else q
  | none =>
    let c := match modeKey e.1 with
      | some key => if bit e.2 0 && !c.checkedMode key then c.updEng key fun g => { g with hb := if g.hb = 0 then 1 else g.hb } else c
      | none => c
    let was := c.reg e.1
    let c := c.setReg e.1 e.2
    let c := match modeKey e.1 with
      | some key => if bit e.2 0 then c else c.hbOff key
      | none => c
    let c := match planSrcOf e.1 with
      | some i => if e.2 = was then c else c.updIsl i fun s => { s with lastAcc := none }
      | none => c
    if e.1 = asgnKey then c.hallAssign e.2 else c

/-- Every unit switches (R359): the staged values in order, then the controller's status and its record. -/
def Chip.cfgApply (c : Chip) (x : Ctl) (t : Nat) : Chip :=
  let g := c.ctl x
  let c := c.updCtl x fun g => { g with staged := [], lost := [], state := 0, rule := 0, nfail := 0, unit := 0, applied := t, gen := (g.gen + 1) % 2 ^ 64, last := 1, prepared := [], acks := [], again := none, sent := false }
  let c := g.staged.foldl Chip.applyReg c
  c.ctlPost x .CFG_APPLIED none t ((g.gen + 1) % 2 ^ 64)

/-- CFG_TICK_APPLY: the DCU's set at a tick, an island's set at its tick or landing start. -/
def Chip.cfgTickApply (c : Chip) (x : Ctl) : Chip :=
  match c.armTick x with
  | some t => if (c.ctl x).sent && decide (t ≤ c.ctlTime x) && !(x == .dcu && (c.ctl x).mode == 2) then c.cfgApply x t else c
  | none => c

/-- Step 1 of a landing start: the DCU's set armed for it (R447). -/
def Chip.cfgLand (c : Chip) (start : Nat) : Chip :=
  match c.armTick .dcu with
  | some t => if (c.ctl .dcu).sent && (c.ctl .dcu).mode == 2 && t == start then c.cfgApply .dcu t else c
  | none => c

/-- A Loop Engine reset loses the values staged for it (R357, rule 0x0A). -/
def Chip.leReset (c : Chip) (i : Isl) (en : Bool) : Chip :=
  let c := if en then c else c.updCtl (.isl i) fun g => { g with lost := g.staged.keys.filter fun k => within 0x100000 0x1FFFFF k.off }
  c.leCtl i en

/-- A START to a channel is discarded while its CFG or ROUTE is staged, from CFG_CHECK to the apply (R322): CHECKING, PASSED or ARMED. -/
def Chip.chHeld (c : Chip) (i : Isl) (n : Nat) : Bool :=
  let g := c.ctl (.isl i)
  (g.state == 2 || g.state == 3 || g.state == 5) && stagedCh g.staged.keys i n

/-- CFG_STATUS. -/
def CfgSt.status (g : CfgSt) : Nat := g.unit * 2 ^ 32 + g.nfail * 2 ^ 16 + g.rule * 2 ^ 8 + g.last * 16 + g.state

end Sys2Proof.Machine
end

