-- ==== Sys2Proof/Machine/StartUp.lean ====
section
/-! DEFINITION. Start-up (R363-R384): resets, firmware and image verification, link training, the stair walk, memory, margins, Fensan RT and frame 0; the islands' own boot (R373-R375); and the standby DCU (R369-R371). -/

namespace Sys2Proof.Machine

/-! ## nRESET (R364, R368, R374) -/

/-- Keys of stores that keep their content through nRESET: the islands, flash and the host's memory. -/
def keepsKey (k : Nat) : Bool := decide (0x5200000000 ≤ k)

/-- Registers of the islands, which nRESET does not reach. -/
def keepsReg (k : RegKey) : Bool := match k.blk with
  | .isl _ => true
  | _ => false

/-- The main package after nRESET: what it governs is as at power-up; the islands, the flash, revoked key slots and the islands'
    time stay (R364, R367, R374). -/
def Chip.mainReset (c : Chip) : Chip :=
  { time := { now := c.time.now, offs := c.time.offs.filter fun e => decide (0x50 ≤ e.1), floors := c.time.floors.filter fun e => decide (0x50 ≤ e.1) },
    mem := { cells := c.mem.cells.filter (fun x => keepsKey x.1), errs := c.mem.errs.filter (fun x => keepsKey (x.1 * 32)), wb := c.mem.wb.filter fun x => keepsKey (x.1 * 32) },
    regs := c.regs.filter (fun e => keepsReg e.1), islA := c.islA, islB := c.islB, boot := { held := true, rev := c.boot.rev }, cfg := c.cfg.filter fun e => e.1 != .dcu, fleet := { pkgs := c.fleet.pkgs },
    yard := { ports := c.yard.ports.filter fun e => e.1 == 0x501 || e.1 == 0x511 } }

/-- A low level on nRESET that lasts `dur` ns. -/
def Chip.nreset (c : Chip) (dur : Nat) : Chip := if 5000 ≤ dur then c.mainReset else c

/-- DEVTIME is moved to `t`; copies of the dies listed keep their own value. -/
def Chip.rebase (c : Chip) (t : Nat) : Chip :=
  { c with time := { c.time with now := t, offs := c.time.offs.map fun e => (e.1, e.2 + (c.time.now : Int) - t) } }

/-- nRESET is released: DEVTIME counts from 0; a copy that an island keeps goes on by itself. -/
def Chip.nresetRelease (c : Chip) : Chip := if c.boot.held && !c.boot.rail then { (c.rebase 0) with boot := { c.boot with held := false } } else c

/-- Start-up may take the end of step `n`. -/
def Chip.canEnd (c : Chip) (n : Nat) : Bool := !c.boot.held && !c.boot.halted && (c.boot.step + 1 == n || (n == 2 && c.boot.step == 0))

/-- A step ends (R368). -/
def Chip.stepEnd (c : Chip) (n : Nat) : Chip := { c with boot := { c.boot with step := n, times := c.boot.times.set n c.time.now } }

/-- ERR at a step (R384); `stop` where start-up stops. -/
def Chip.bootErr (c : Chip) (err step : Nat) (stop : Bool) : Chip := { c with boot := { c.boot with err := err, errstep := step, halted := c.boot.halted || stop } }

/-! ## Step 2 (R366, R367, R369, R383) -/

/-- Where copy A (1) or B (2) of a TYPE lies in flash: offset and length (R436). -/
def Chip.copyAt (c : Chip) (typ slot : Nat) : List (Nat × Nat) := match c.directory with
  | some d => ((dirTries d typ).filter fun q => q.1 == slot).map fun q => (q.2.off, q.2.len)
  | none => []

/-- Event records of rejected copies (R68). -/
def Chip.rejects (c : Chip) (codes : List Nat) : Chip := codes.foldl (fun c k => c.post .IMAGE_REJECT (dcuUnit) none k) c

/-- FIRMWARE_VERIFY_DONE at `t`: what the ROM self-test and the flash answered, then the directory and the firmware copies. -/
def Chip.firmware (c : Chip) (t : Nat) (rom flash : Bool) : Chip :=
  if !c.canEnd 2 then c
  else
    let c := c.at t
    if !rom then c.bootErr 1 2 true
    else if !flash then c.bootErr 2 2 true
    else match c.directory with
      | none => c.bootErr 3 2 true
      | some d =>
        let (codes, got) := c.tryImages c.boot.rev fwForm (dirTries d 1)
        let c := c.rejects codes
        match got with
        | none => c.bootErr 4 2 true
        | some (slot, img) =>
          let c := c.frameCfg (fieldAt d 8 4 + fieldAt d 0xC 4 * 2 ^ 32)
          { c with boot := { c.boot with fwslot := slot, fwkey := fieldAt img 0x1C 4, prot := c.copyAt 1 slot } }.stepEnd 2

/-! ## Step 3 (R374, R376) -/

/-- Every die and port of the yard. -/
def allPorts : List (Nat × Nat) := ((List.range 82).map fun d => (portsOf d).map fun p => (d, p)).flatten

/-- An island holds a valid DEVTIME copy and its link is up. -/
def Chip.heard (c : Chip) (i : Isl) : Bool := (c.isl i).up && (c.port (0x4E + islN i) 8).state == 2

/-- The island whose copy the DCU adopts: A before B (R374). -/
def Chip.adopts (c : Chip) : Option Isl := [Isl.A, .B].find? fun i => c.heard i && (c.isl i).timed

/-- LINK_TRAINING_DONE at `t`: ports train on the lanes that are not listed bad (die, port, lane), and an island's DEVTIME is adopted. -/
def Chip.linkTraining (c : Chip) (t : Nat) (bad : List (Nat × Nat × Nat)) : Chip :=
  if !c.canEnd 3 then c
  else
    let c := c.at t
    let c := allPorts.foldl (fun c q => c.trainPort q.1 q.2 fun l => !bad.contains (q.1, q.2, l)) c
    let c := if c.heard .A && c.heard .B then { c with boot := { c.boot with times := c.boot.times.set 1 c.time.now } } else c
    let c := c.stepEnd 3
    match c.adopts with
    | none => c
    | some i =>
      let old := c.time.now
      let new := max old (c.localTime (islDie i))
      let c := c.rebase new
      let c := { c with boot := { c.boot with times := c.boot.times.map (fun e => (e.1, e.2 + (new - old))), base := c.boot.base + (new - old) } }
      [Isl.A, .B].foldl (fun c i => if c.heard i && (c.isl i).timed then (c.setOffset (islDie i) 0).updIsl i fun s => { s with timeAt := c.localTime (islDie i) } else c) c

/-- STANDBY_FIRMWARE_VERIFY_DONE (R369). The standby DCU itself writes STANDBY_FAIL, with its own unit path (R405). -/
def Chip.standbyVerify (c : Chip) (ok : Bool) : Chip :=
  if c.boot.held || decide (c.boot.step < 3) || c.boot.acting = 1 || c.boot.standby then c
  else if ok then { c with boot := { c.boot with standby := true, ackAt := c.time.now, gotAt := c.time.now, msgAt := c.time.now } }
  else c.post .STANDBY_FAIL (unitPath 7 0x4F 0 0 0 0) none

/-! ## Step 4: the stair walk (R15, R377, R378) -/

/-- Site of a stair position (R15). -/
def siteOfPos (p : Nat) : Nat := p / 9 * 9 + if p / 9 % 2 = 0 then p % 9 else 8 - p % 9

/-- A site that fails its test: 0b10, with every domain off (R29). -/
def Chip.siteFails (c : Chip) (site code : Nat) : Chip :=
  { c with site := { c.site with state := c.site.state.set site 2 }, boot := { c.boot with tests := c.boot.tests.set site code } }.siteDark site

/-- STAIR_ROW_TEST_DONE: the codes of row `g` in stair order. -/
def Chip.stairRow (c : Chip) (g : Nat) (codes : List Nat) : Chip :=
  if !c.canEnd 4 || g ≠ c.boot.rows || 8 ≤ g then c
  else
    let c := (List.range 9).foldl (fun c j =>
      let site := siteOfPos (9 * g + j)
      let code := codes.getD j 6
      if code = 0 then c.clearSite site else c.siteFails site code) c
    { c with boot := { c.boot with rows := g + 1 } }

/-- The passing sites in stair order. -/
def Chip.passing (c : Chip) : List Nat := ((List.range 72).map siteOfPos).filter fun s => c.boot.tests.get s 0 == 0

/-- STAIR_DONE at `t`. -/
def Chip.stairDone (c : Chip) (t : Nat) : Chip :=
  if !c.canEnd 4 || c.boot.rows ≠ 8 then c
  else
    let c := c.at t
    let ok := c.passing
    if ok.isEmpty then c.bootErr 5 4 true
    else
      let ids := (ok.take 64).zipIdx
      let st : AMap Nat Nat := (ids.map fun (q : Nat × Nat) => (q.1, 0)) ++ (ok.drop 64).map (fun s => (s, 1)) ++ c.site.state.filter fun e => e.2 == 2
      let c := { c with site := { c.site with hallmap := ids.map (fun (q : Nat × Nat) => (q.2, q.1)), state := st } }
      let c := { c with yard := { c.yard with sites := (List.range 72).filter c.crossable, up := (c.yard.ports.map Prod.fst).filter c.portUp, gen := 1, tick := c.time.now, due := none } }
      ((c.post .STAIR_DONE (dcuUnit 3) none ids.length (ok.drop 64).length).countsChanged).stepEnd 4

/-! ## Steps 5 to 8 (R379, R267, R380, R381) -/

/-- DRAM after initialisation: zero under a valid code, every tag slot poisoned. -/
def Chip.clearDram (c : Chip) : Chip :=
  let out := fun k => decide (0x3600000000 ≤ k)
  { c with mem := { c.mem with cells := c.mem.cells.filter (fun x => out x.1), errs := c.mem.errs.filter (fun x => out (x.1 * 32)), wb := c.mem.wb.filter (fun x => out (x.1 * 32)), tags := c.mem.tags.filter (fun x => out (x.1 * 4096)), poisonAt := c.mem.poisonAt.setAll ((List.range 6).map fun m => (72 + m, c.time.now)) } }

/-- MEMORY_TRAINING_DONE at `t` with the stacks that failed. -/
def Chip.memoryTraining (c : Chip) (t : Nat) (failed : List Nat) : Chip :=
  if !c.canEnd 5 then c
  else
    let c := c.at t
    match failed.filter (· < 6) with
    | [] => c.clearDram.stepEnd 5
    | ms => (ms.foldl Chip.stackLost c).bootErr 6 5 true

/-- COMPARATOR_INJECTION_DONE at `t`: stables of active sites of which an injection (by its position) was not flagged. -/
def Chip.injection (c : Chip) (t : Nat) (bad : List (Nat × Nat)) : Chip :=
  if !c.canEnd 6 then c
  else ((bad.filter fun b => c.siteActive (b.1 / 4)).foldl (fun c b => c.injectionDone b.1 (some b.2)) (c.at t)).stepEnd 6

/-- The zone voltages that the active halls need are set through PMBus. -/
def Chip.zonesOn (c : Chip) : Chip :=
  let need := fun r => (((List.range 9).map (· + 9 * r)).filter c.siteActive).foldl (fun v s => max v ((c.siteRec s).mv ((c.siteRec s).top.getD 0) (c.hallPwr s).bin)) 0
  c.updPm fun m => { m with zone := (List.range 8).map fun r => (r, need r) }

/-- MARGIN_PLAN_DONE at `t`: per active site its measured slacks and ring oscillator frequencies; what the flash write did. -/
def Chip.marginPlan (c : Chip) (t : Nat) (meas : List (Nat × List Nat × List Nat)) (ok : Bool) : Chip :=
  if !c.canEnd 7 then c
  else
    let c := c.at t
    let c := match c.planStored with
      | some m => m.sites.foldl (fun (c : Chip) r => c.takeService r.1 r.2) { c with pm := { c.pm with plan := m } }
      | none => c.post .MARGIN_RESET (dcuUnit 2) none
    let c := (meas.filter fun q => c.siteActive q.1).foldl (fun c q => c.ageing q.1 q.2.1 q.2.2) c
    let c := ((List.range 72).foldl (fun (c : Chip) s => c.replan s fun r => r) c).planLand
    let c := (c.activeSites.foldl Chip.settlePoint c).zonesOn
    ((c.planWritten ok).post .MARGIN_UPDATED (dcuUnit 2) none).stepEnd 7

/-- The live mode of a stable as step 8 sets it (R381). -/
def Chip.bootMode (c : Chip) (key : Nat) : Chip :=
  let g := c.eng key
  let on := !c.core.dual.contains key && !g.barred && !g.quar && !g.retire
  (c.updEng key fun g => { g with hb := 0, hbPos := 0 }).setReg (stbK key 0xA0) (b2n on)

/-- BOOT_IMAGE_VERIFY_DONE at `t`. -/
def Chip.bootImage (c : Chip) (t : Nat) : Chip :=
  if !c.canEnd 8 then c
  else
    let c := c.at t
    let (codes, got) := match c.directory with
      | some d => c.tryImages c.boot.rev (fun _ => true) (dirTries d 2)
      | none => ([], none)
    let c := c.rejects codes
    let c := match got with
      | some (slot, img) =>
        { c with boot := { c.boot with imgslot := slot, image := img, prot := c.boot.prot ++ c.copyAt 2 slot } }
      | none => c.bootErr 7 8 false
    let c := c.activeSites.foldl (fun c s => c.setPers c.boot.image s) c
    ((c.activeSites.map fun s => (List.range 4).map (4 * s + ·)).flatten.foldl Chip.bootMode c).stepEnd 8

/-! ## Steps 9 and 10 (R382, R383) -/

/-- Major number of CAPS_VERSION (R52). -/
def capsMajor : Nat := 1

/-- FENSAN_START at `t`: the image's DRAM sections, then the partitions in ascending index. -/
def Chip.fensan (c : Chip) (t : Nat) : Chip :=
  if !c.canEnd 9 then c
  else
    let c := c.at t
    if c.boot.image = [] then c.stepEnd 9
    else if fieldAt c.boot.image 6 2 ≠ capsMajor then ((({ c with boot := { c.boot with refused := true } }).post .CAPS_REFUSED (dcuUnit) none).bootErr 8 9 false).stepEnd 9
    else
      let c := c.loadSects ((imgSects c.boot.image).filter Sect.inDram)
      let c := (List.range 32).foldl (fun c p => match c.onlySect p 9 with
        | some s => (c.setReg (dcuK (0x1000 + p * 0x20)) s.addr).createNow p true
        | none => c) c
      c.stepEnd 9

/-- FRAME_ZERO_SCHEDULE at `t`: start(0), which counts from the end of step 9 (R383), the islands' schedules and their restart notices. -/
def Chip.frameZero (c : Chip) (t : Nat) : Chip :=
  if c.boot.step ≠ 9 || c.boot.held || c.boot.halted || c.time.fixed then c
  else
    let c := c.at t
    let s0 := alignUp (c.boot.times.get 9 0 + 5000000) 1000000
    let c := { c with time := { c.time with fixed := true, start0 := s0, frame := 0 } }
    let c := { c with core := { c.core with eng := c.core.eng.map fun e => (e.1, { e.2 with hbLast := s0 }) } }
    [Isl.A, .B].foldl (fun c i => if c.heard i then c.updIsl i fun s => { s with fs := some { base := s0, fb := 0, t := c.T, l := c.L }, notice := true } else c) c

/-- RESTART_NOTICE at an island (R375). -/
def Chip.restartNotice (c : Chip) (i : Isl) : Chip :=
  if (c.isl i).notice && (c.isl i).up then c.updIsl i fun s => { s with notice := false, lastAcc := none, pend := [], mine := [], peers := [], decided := none, restarts := min 255 (s.restarts + 1) } else c

/-! ## The islands' own boot (R364, R365, R373) -/

/-- nRESET_SIA or nRESET_SIB held low for `dur` ns. -/
def Chip.islReset (c : Chip) (i : Isl) (dur : Nat) : Chip :=
  if dur < 5000 then c
  else
    let c := { c with regs := c.regs.filter (fun e => !(e.1.blk == Blk.isl i)), cfg := c.cfg.del (Ctl.isl i), time := { c.time with offs := c.time.offs.del (islDie i), floors := c.time.floors.del (islDie i) } }
    c.updIsl i fun _ => {}

/-- Load the sections of an island's image (R373). -/
def Chip.islLoad (c : Chip) (i : Isl) (img : List Byte) : Chip := (imgSects img).foldl (fun c s => c.putRaw (islKey i (0x28000 + s.load)) (s.bytes img)) c

/-- An island image that its ROM accepts: R68, and every section within the island's code and data (log 46). -/
def islAccepts (i : Isl) (img : List Byte) : Bool := imgReject (1 + islN i) 0 img == 0 && (imgSects img).all fun s => decide (0x28000 + s.load + s.size ≤ 0x400000)

/-- The island's reset pin is released: its ROM tries copy A, then copy B, of its own flash, unless that is silent. -/
def Chip.islRelease (c : Chip) (i : Isl) (silent : Bool) (a b : List Byte) : Chip :=
  if !(c.isl i).held then c
  else
    let c := c.updIsl i fun s => { s with held := false, dthold := true }
    let fail := fun (err : Nat) => (c.updIsl i fun s => { s with berr := err }).islEvent i .ISLAND_BOOT_FAIL err
    let start := fun (slot : Nat) (img : List Byte) => (c.islLoad i img).updIsl i fun s => { s with up := true, bslot := slot, ia := 0x28000, wdtAt := c.localTime (islDie i), timeAt := c.localTime (islDie i) }
    if silent then fail 1 else if islAccepts i a then start 1 a else if islAccepts i b then start 2 b else fail 2

/-- An island's I/O die link carries traffic: up or in a retrain at the I/O die, and not fenced at the island (R345, R350). -/
def Chip.islLink (c : Chip) (i : Isl) : Bool := c.portUp (portKey (0x4E + islN i) 8) && (c.port (islDie i) 0).state != 4

/-- The island's link first delivers time: it is loaded without slew. -/
def Chip.islTimeFirst (c : Chip) (i : Isl) : Chip :=
  let s := c.isl i
  if s.held || s.timed || c.boot.held || !c.islLink i then c
  else
    let c := { c with time := { c.time with offs := c.time.offs.set (islDie i) 0, floors := c.time.floors.del (islDie i) } }
    let c := c.updIsl i fun s => { s with timed := true, dthold := false, timeAt := c.time.now, wdtAt := c.time.now, sampled := none }
    if (c.isl .A).up && (c.isl .B).up && (c.boot.times.get 1 0) == 0 then { c with boot := { c.boot with times := c.boot.times.set 1 c.time.now } } else c

/-! ## The standby DCU (R370, R371) and keys (R367) -/

/-- STATE_MESSAGE_SEND at `t`. -/
def Chip.stateSend (c : Chip) (t : Nat) : Chip :=
  let c := c.at t
  if c.boot.standby then { c with boot := { c.boot with msgAt := c.time.now, msg := c.log.pidx, msgSeq := c.log.seq } } else c

/-- STATE_MESSAGE_RECEIVE: the standby takes the message and acknowledges it. -/
def Chip.stateReceive (c : Chip) : Chip :=
  if c.boot.standby then { c with boot := { c.boot with gotAt := c.boot.msgAt, got := c.boot.msg, gotSeq := c.boot.msgSeq, ackAt := c.time.now } } else c

/-- STANDBY_FAIL at `t`: no acknowledgement for 500 µs. -/
def Chip.standbyFail (c : Chip) (t : Nat) : Chip :=
  let c := c.at t
  if c.boot.standby && decide (c.boot.ackAt + 500000 ≤ c.time.now) then ({ c with boot := { c.boot with standby := false } }).post .STANDBY_FAIL (dcuUnit) none else c

/-- The takeover itself, `cause` 0 silence and 1 a self-check report (R370, R371). -/
def Chip.takeover (c : Chip) (cause : Nat) : Chip :=
  let last := c.boot.gotAt
  let c := c.rebase (max c.time.now (c.localTime 0x4F))
  let c := { c with boot := { c.boot with acting := 1, standby := false, cause := cause, tookAt := c.time.now }, log := { c.log with seq := c.boot.gotSeq }, yard := { c.yard with due := some (c.yard.due.getD c.time.now) } }
  let lost := ((List.range 64).filter fun q => bit (c.reg (dcuK (0x9008 + q * 0x40))) 8 && c.log.pidx.get q 0 != c.boot.got.get q 0)
  let c := lost.foldl (fun c q => c.postTo q (c.mkEv .EVQ_OVERFLOW (dcuUnit) [(0x10, 4, 0xFFFFFFFF)])) c
  let g : CfgSt := c.ctl .dcu
  let c := if g.state = 5 ∧ g.sent = false then c.cfgAbort .dcu ([10], dcuUnit 1) else c
  let c := if g.owner = some 16 then c.cfgFree .dcu else c
  c.post .DCU_FAILOVER (dcuUnit) none cause last

/-- DCU_FAILOVER at `t`: 500 µs of silence, or a self-check report. -/
def Chip.failover (c : Chip) (t : Nat) (report : Bool) : Chip :=
  let c := c.at t
  if c.boot.standby && (report || decide (c.boot.gotAt + 500000 ≤ c.time.now)) then c.takeover (b2n report) else c

/-- A write of DCU_KEYREV (R367): the slot of the running firmware is refused. -/
def Chip.keyRevoke (c : Chip) (v : Nat) : Chip :=
  if bit v c.boot.fwkey && c.boot.fwslot != 0 then c.countErr dcuErr else { c with boot := { c.boot with rev := Nat.lor c.boot.rev (v % 16) } }

end Sys2Proof.Machine
end

