-- ==== Sys2Proof/Machine/Fleet.lean ====
section
/-! DEFINITION. Fleet test-pattern packages (R412-R417): their form, the checks of a load, the store and its flash copies. -/

namespace Sys2Proof.Machine

/-- A pattern entry's field. -/
def patField (img : List Byte) (i o n : Nat) : Nat := fieldAt img (128 + 64 * i + o) n

/-- PKG_BYTES of a package. -/
def pkgBytes (img : List Byte) : Nat := fieldAt img 0x18 8

/-- NEXT of an opcode that a pattern's stream may contain: scalar and control, MOV, tensor, vector and elementwise, attention and
    geometry instructions (R413). -/
def patNext (opc : Nat) : Option Nat :=
  if opc = 4 then some 1
  else if within 1 0xC opc || opc == 0xE || opc == 0x10 then some 0
  else if within 0x20 0x28 opc || opc == 0x48 then some 1
  else if within 0x40 0x47 opc then some 0
  else if opc = 0x50 ∨ opc = 0x51 then some 2
  else if opc = 0x52 then some 0
  else if within 0x60 0x63 opc then some 1
  else none

/-- Every instruction of a stream may stand in a pattern: no other group, no MFS.DEVTIME and no MFS.PLACE (R413). -/
def streamOk : List Nat → Bool
  | [] => true
  | w :: ws =>
    let opc := bits w 63 56
    match patNext opc, ws with
    | some 0, ws => bits w 55 54 == 0 && !(opc == 0xC && (bits w 47 40 == 2 || bits w 47 40 == 4)) && streamOk ws
    | some 1, _ :: ws => bits w 55 54 == 1 && streamOk ws
    | some 2, _ :: _ :: ws => bits w 55 54 == 2 && streamOk ws
    | _, _ => false

/-- The 64-bit words of a byte string. -/
def wordsOf (bs : List Byte) : List Nat := (List.range (bs.length / 8)).map fun i => fieldAt bs (8 * i) 8

/-- A pattern entry within the limits of R412 and R413. -/
def patOk (img : List Byte) (i : Nat) : Bool :=
  let n := pkgBytes img - 128
  decide (patField img i 4 4 ≤ 15000) && decide (patField img i 0xC 4 ≤ 16384) && patField img i 0xC 4 % 8 == 0 && decide (patField img i 8 4 + patField img i 0xC 4 ≤ n)
    && decide (patField img i 0x14 4 ≤ 98304) && decide (patField img i 0x10 4 + patField img i 0x14 4 ≤ n)

/-- The first of checks 0x01 to 0x05 that a package fails; 0 where all pass (R414, R415). -/
def pkgReject (rev : Nat) (img : List Byte) : Nat :=
  let n := pkgBytes img
  let k := fieldAt img 0x14 4
  let is := List.range (min 256 k)
  if !signedOk 0 rev (fieldAt img 0x20 4) img n then 1
  else if fieldAt img 0 4 != 0x4B505446 || fieldAt img 4 2 != 1 || fieldAt img 0x13 1 != 0 || fieldAt img 0x24 92 != 0 || leNat ((img.drop (n - 32)).take 32) != 0
      || is.any (fun i => patField img i 0x18 8 != 0 || patField img i 0x30 16 != 0) then 2
  else if fieldAt img 0x10 2 != 0x64 || fieldAt img 0x12 1 != 0xB0 || fieldAt img 6 2 != capsMajor then 3
  else if !(within 1 256 k && fieldAt img 8 4 != 0 && n % 4096 == 0 && decide (n ≤ 4194304) && decide (256 + 64 * k ≤ n) && is.all (patOk img)
      && (pairs (is.map fun i => patField img i 0 4)).all fun q => q.1 != q.2) then 4
  else if !is.all (fun i => streamOk (wordsOf ((img.drop (patField img i 8 4)).take (patField img i 0xC 4)))) then 5
  else 0

/-- A package as the store holds it. -/
def pkgOf (img : List Byte) : Pkg := { id := fieldAt img 8 4, ver := fieldAt img 0xC 4, img := img }

/-- Bytes of the store in use. -/
def FleetSt.used (f : FleetSt) : Nat := (f.pkgs.map fun p => pkgBytes p.img).sum

/-- The store with a package in place of an older one of its PKG_ID (R415). -/
def FleetSt.with' (f : FleetSt) (p : Pkg) : List Pkg := f.pkgs.filter (fun q => q.id != p.id) ++ [p]

/-- Flash regions of the packages, in the order in which they are tried (R366). -/
def Chip.pkgRegions (c : Chip) : List DirEnt := match c.directory with
  | some d => (dirTries d 4).map Prod.snd
  | none => []

/-- A flash region takes the packages one after another; the rest of it reads zero (log 47). -/
def Chip.pkgStore (c : Chip) (ps : List Pkg) : Chip :=
  let bs := (ps.map Pkg.img).flatten
  c.pkgRegions.foldl (fun (c : Chip) e =>
    let inside := fun k => decide (flashKey e.off ≤ k) && decide (k < flashKey (e.off + e.len))
    { c with mem := { c.mem with cells := Memory.writeBytes (c.mem.cells.filter fun x => !inside x.1) (flashKey e.off) (bs.take e.len) } }) c

/-- The packages that a region's bytes hold. -/
def pkgsIn : (fuel : Nat) → List Byte → List (List Byte)
  | 0, _ => []
  | f + 1, bs =>
    let n := pkgBytes bs
    if fieldAt bs 0 4 = 0x4B505446 ∧ 0 < n ∧ n ≤ bs.length then bs.take n :: pkgsIn f (bs.drop n) else []

/-- A package operation ends rejected. -/
def Chip.pkgRefuse (c : Chip) (code id : Nat) : Chip :=
  ({ c with fleet := { c.fleet with state := 3, rej := code, last := id } }).post .PKG_REJECT (dcuUnit) none code id

/-- LOAD (R414): discarded and counted while an operation runs (R417). -/
def Chip.pkgLoad (c : Chip) : Chip :=
  if c.fleet.state = 1 then c.countErr dcuErr
  else { c with fleet := { c.fleet with state := 1, rej := 0, addr := bits (c.reg (dcuK 0x8100)) 47 12 * 4096 } }

/-- The checks of a LOAD end; `flash` tells whether both flash copies took the write (R414). -/
def Chip.pkgChecked (c : Chip) (flash : Bool) : Chip :=
  if c.fleet.state ≠ 1 then c
  else
    let hdr := c.devRead c.fleet.addr 128
    let img := c.devRead c.fleet.addr (pkgBytes hdr)
    let c := c.devSense c.fleet.addr (max 128 (pkgBytes hdr))
    let p := pkgOf img
    let code := pkgReject c.boot.rev img
    let ps := c.fleet.with' p
    let size := (ps.map fun q => pkgBytes q.img).sum
    if code ≠ 0 then c.pkgRefuse code p.id
    else if c.fleet.pkgs.any (fun q => q.id == p.id && decide (p.ver ≤ q.ver)) then c.pkgRefuse 6 p.id
    else if 32 < ps.length ∨ 16777216 < size then c.pkgRefuse 7 p.id
    else if !flash || c.boot.die0 || c.pkgRegions.isEmpty || c.pkgRegions.any (fun e => decide (e.len < size)) then c.pkgRefuse 8 p.id
    else { c.pkgStore ps with fleet := { c.fleet with pkgs := ps, state := 2, rej := 0, last := p.id } }

/-- Delete a package from the store and from both flash copies. -/
def Chip.pkgDrop (c : Chip) (id : Nat) : Chip :=
  let ps := c.fleet.pkgs.filter fun q => q.id != id
  { c.pkgStore ps with fleet := { c.fleet with pkgs := ps } }

/-- REMOVE (R415, R417). -/
def Chip.pkgRemove (c : Chip) (id : Nat) : Chip :=
  if c.fleet.state = 1 ∨ !(c.fleet.pkgs.any fun q => q.id == id) then c.countErr dcuErr
  else
    let c := c.pkgDrop id
    { c with fleet := { c.fleet with state := 2, rej := 0, last := id } }

/-- At start-up the store is read from flash and verified again (R415). A package that the DCU has known keeps its probation
    (log 47). -/
def Chip.pkgBoot (c : Chip) : Chip :=
  let found := (c.pkgRegions.map fun e => pkgsIn 32 (c.flash e.off e.len)).flatten
  let good := found.filter fun g => pkgReject c.boot.rev g == 0
  let old := c.fleet.pkgs
  let ps := good.foldl (fun (ps : List Pkg) g =>
    let p := pkgOf g
    if ps.any fun q => q.id == p.id then ps else ps ++ [(old.find? fun q => q.id == p.id && q.ver == p.ver).getD p]) []
  let lost := ((found.filter fun g => pkgReject c.boot.rev g != 0).map pkgOf).foldl (fun (ls : List Pkg) p => if (ps ++ ls).any fun q => q.id == p.id then ls else ls ++ [p]) []
  let c := { c with fleet := { c.fleet with pkgs := ps } }
  lost.foldl (fun c p => c.post .PKG_REJECT (dcuUnit) none (pkgReject c.boot.rev p.img) p.id) c

/-- FENSAN_START: the package store, then the image and its partitions (R382, R415). -/
def Chip.fensanStart (c : Chip) (t : Nat) : Chip := if c.canEnd 9 then c.pkgBoot.fensan t else c

end Sys2Proof.Machine
end

