-- ==== Sys2Proof/Machine/EventQueues.lean ====
section
/-! DEFINITION. Event queues: writing records, free slots, interrupts (R427-R429). -/

namespace Sys2Proof.Machine

/-- Register of an event queue. -/
def evqK (q off : Nat) : RegKey := dcuK (0x9000 + q * 0x40 + off)

/-- PIDX and CIDX of a queue. -/
def Chip.evqIdx (c : Chip) (q : Nat) : Nat × Nat := (c.log.pidx.get q 0, c.log.cidx.get q 0)

/-- Slots of a queue: 2^LOG2N. -/
def Chip.evqN (c : Chip) (q : Nat) : Nat := 2 ^ bits (c.reg (evqK q 8)) 4 0

/-- Unconsumed slots: PIDX - CIDX. -/
def Chip.evqUsed (c : Chip) (q : Nat) : Nat := let (p, i) := c.evqIdx q; (p + 2 ^ 32 - i) % 2 ^ 32

/-- The function of a queue's vector: DCU_EVQ_CFG0.FUNC for queue 0; for another queue, that of the partition that holds it, and
    function 0 where it has none (R419). -/
def Chip.evqFunc (c : Chip) (q : Nat) : Nat :=
  if q = 0 then bits (c.reg (evqK 0 8)) 15 12
  else match c.parts.find? fun e => e.2.held && e.2.evq == q with
    | some e => if e.2.func < 16 then e.2.func else 0
    | none => 0

/-- Raise a queue's MSI-X vector unless it has been raised since the last write to CIDX (R429). -/
def Chip.evqRaise (c : Chip) (q : Nat) : Chip :=
  if c.log.raised.contains q then c
  else { c with log := { c.log with raised := q :: c.log.raised, msix := c.log.msix ++ [(c.evqFunc q, bits (c.reg (evqK q 8)) 55 48)] } }

/-- The first condition of R429: PIDX - CIDX has reached THRESH. -/
def Chip.evqThresh (c : Chip) (q : Nat) : Chip := if bits (c.reg (evqK q 8)) 31 16 ≤ c.evqUsed q ∧ 0 < c.evqUsed q then c.evqRaise q else c

/-- Write slots, then advance PIDX and its copy in host memory (R427). -/
def Chip.evqPut (c : Chip) (q : Nat) (slots : List (List Byte)) : Chip :=
  let base := bits (c.reg (evqK q 0)) 63 12 * 4096
  let p := (c.evqIdx q).1
  let m := slots.zipIdx.foldl (fun (m : Memory) s => m.writeBytes (hostKey (base + (p + s.2) % c.evqN q * 64)) s.1) c.mem.cells
  let p' := (p + slots.length) % 2 ^ 32
  let at' := bits (c.reg (evqK q 0x10)) 63 3 * 8
  let m := if at' = 0 then m else m.writeBytes (hostKey at') (leBytes 8 p')
  let ts := c.log.times.get q [] ++ List.replicate slots.length c.time.now
  ({ c with mem := { c.mem with cells := m }, log := { c.log with pidx := c.log.pidx.set q p', times := c.log.times.set q ts } }).evqThresh q

/-- A record is refused (R428, R429). -/
def Chip.evqRefuse (c : Chip) (q : Nat) : Chip :=
  let c := c.bump (evqK q 0x28)
  { c with log := { c.log with lost := c.log.lost.upd q 0 (· + 1) } }

/-- The Gallery's packet of a record: an event record as it stands, or the error record in it, where IOD_GAL_CFG enables that kind; one
    that finds no room is dropped and counted, and holds nothing back (R438). A record for two queues makes one packet. Whether there is
    room is free (log 66). -/
def Chip.gallery (c : Chip) (q : Nat) (r : EvtRec) : Chip :=
  if bit (c.reg (iodK 1 0x0700000)) (if r.err.isEmpty then 8 else 9) && (q == 0 || decide (r.typ / 4096 < 2))
      && !Config.galleryRoom c.time.now q (c.evqIdx q).1 (c.log.lost.get q 0) then c.bump (iodK 1 0x0700008)
  else c

/-- Write one record to its queue: EVQ_OVERFLOW first where records have been refused (R428). -/
def Chip.evqRecord (c : Chip) (q : Nat) (r : EvtRec) : Chip :=
  let c := c.gallery q r
  if bit (c.reg (evqK q 8)) 8 = false then c.evqRefuse q
  else
    let lost := c.log.lost.get q 0
    let c := if 0 < lost ∧ c.evqUsed q < c.evqN q then
        let o := c.mkEv .EVQ_OVERFLOW (dcuUnit) [(0x10, 4, min lost 0xFFFFFFFF)]
        { c with log := { c.log with lost := c.log.lost.set q 0 } }.evqPut q [o.bytes (c.evqIdx q).1]
      else c
    let slots := r.bytes (c.evqIdx q).1 :: (if r.err.isEmpty then [] else [r.err])
    if c.evqUsed q + slots.length ≤ c.evqN q then c.evqPut q slots else c.evqRefuse q

/-- EVENT_RECORD_WRITE: the oldest record on its way to a queue. -/
def Chip.evqWrite (c : Chip) (q : Nat) : Chip := match c.log.outbox.find? fun r => r.1 == q with
  | none => c
  | some r => ({ c with log := { c.log with outbox := c.log.outbox.erase r } }).evqRecord q r.2

/-- A write to CIDX (R427, R429): discarded and counted where it moves backwards or beyond PIDX. -/
def Chip.evqCidx (c : Chip) (q v : Nat) : Chip :=
  let (_, i) := c.evqIdx q
  let d := (v % 2 ^ 32 + 2 ^ 32 - i) % 2 ^ 32
  if c.evqUsed q < d then c.countErr (evqK q 0x20)
  else
    let c := { c with log := { c.log with cidx := c.log.cidx.set q (v % 2 ^ 32), raised := c.log.raised.filter (· ≠ q), times := c.log.times.set q ((c.log.times.get q []).drop d) } }
    if bit (c.reg (evqK q 8)) 8 then c.evqThresh q else c

/-- TIMER µs since the oldest unconsumed record (R429). -/
def Chip.evqTimer (c : Chip) (q t : Nat) : Chip :=
  let c := c.at t
  match c.log.times.get q [] with
  | [] => c
  | o :: _ => if bit (c.reg (evqK q 8)) 8 ∧ o + bits (c.reg (evqK q 8)) 47 32 * 1000 ≤ c.time.now then c.evqRaise q else c

/-- Bits of DCU_EVQ_CFG that a write can change. -/
def evqMask (q : Nat) : Nat := maskOf 4 0 + maskOf 8 8 + (if q = 0 then maskOf 15 12 else 0) + maskOf 55 16

/-- A write to DCU_EVQ_CFG (R427): LOG2N does not change while EN = 1; EN = 1 asks for LOG2N 4 to 16 and a THRESH. Writing
    EN = 1 sets PIDX and CIDX to 0. -/
def Chip.evqCfg (c : Chip) (q v : Nat) : Chip :=
  let old := c.reg (evqK q 8)
  let v := Nat.land v (evqMask q)
  if (bit old 8 = true ∧ bits v 4 0 ≠ bits old 4 0) ∨ (bit v 8 = true ∧ !(within 4 16 (bits v 4 0) && bits v 31 16 != 0) = true) then c.countErr (evqK q 8)
  else
    let c := c.setReg (evqK q 8) v
    if bit v 8 then { c with log := { c.log with pidx := c.log.pidx.set q 0, cidx := c.log.cidx.set q 0, times := c.log.times.set q [], raised := c.log.raised.filter (· ≠ q) } }
    else c

/-- EVQ_ENABLE: a write of DCU_EVQ_CFG with EN = 1. -/
def Chip.evqEnable (c : Chip) (q v : Nat) : Chip := c.evqCfg q (setBits v 8 8 1)

/-- DCU_EVQ_STAT: the interrupt is armed while the queue is enabled and has not raised it since the last write to CIDX (R429). -/
def Chip.evqStat (c : Chip) (q : Nat) : Nat := b2n (decide (0 < c.log.lost.get q 0)) + 2 * b2n (bit (c.reg (evqK q 8)) 8 && !c.log.raised.contains q)

end Sys2Proof.Machine
end

