-- ==== Sys2Proof/Machine/Ingest.lean ====
section
/-! DEFINITION. Ingest channels and their rings (R430-R432), and the sources that fill them: CSI-2, Ethernet, CAN, GNSS and SENT (R433, R434, R437). -/

namespace Sys2Proof.Machine

/-- Register of an ingest channel. -/
def ichK (i ch off : Nat) : RegKey := iodK i (0x0100000 + ch * 0x100 + off)

/-- A channel. -/
def Chip.chan (c : Chip) (i ch : Nat) : Chan := c.io.chans.get (64 * i + ch) {}

/-- Change a channel. -/
def Chip.updChan (c : Chip) (i ch : Nat) (f : Chan → Chan) : Chip := { c with io := { c.io with chans := c.io.chans.upd (64 * i + ch) {} f } }

/-- Camera and Ethernet channels write block rings (R430). -/
def blockRing (ch : Nat) : Bool := decide (ch < 48)

/-- Address of a channel's ring header. -/
def Chip.ringAddr (c : Chip) (i ch : Nat) : Nat := bits (c.reg (ichK i ch 8)) 47 6 * 64

/-- Slots in use: PIDX - CIDX. -/
def Chan.used (x : Chan) : Nat := (x.pidx + 2 ^ 32 - x.cidx) % 2 ^ 32

/-- INGEST_BACKPRESSURE or INGEST_OVERRUN of a channel (R426, R449). -/
def Chip.ingestEvent (c : Chip) (i ch : Nat) (e : Ev) : Chip :=
  let x := c.chan i ch
  c.route (c.mkEv e (iodUnit i 0) [(0x10, 1, ch), (0x11, 1, i), (0x14, 4, min x.run 0xFFFFFFFF), (0x18, 4, x.pidx)]) (some (bits (c.reg (ichK i ch 0)) 28 24))

/-- A record finds no room (R432): a flow-controlled source is held at its sender; a sampled one loses the record. -/
def Chip.ingestLost (c : Chip) (i ch : Nat) : Chip :=
  if bit (c.reg (ichK i ch 0)) 1 then c.updChan i ch fun x => { x with pause := true }
  else
    let was := (c.chan i ch).full
    let c := (c.bump (ichK i ch 0x20)).updChan i ch fun x => { x with gap := x.gap + 1, run := x.run + 1, full := true }
    let at' := c.ringAddr i ch + 0x10
    let c := c.devWrite at' (leBytes 8 (c.chan i ch).gap)
    if was then c else c.ingestEvent i ch .INGEST_OVERRUN

/-- A record's header (R431). -/
def Chip.recHeader (c : Chip) (i ch kind len t flags : Nat) (spec : List (Nat × Nat × Nat)) : List Byte :=
  let x := c.chan i ch
  bodyBytes 64 ([(0, 1, ch), (1, 1, i), (2, 2, kind), (4, 4, len), (8, 8, t), (0x10, 8, x.rseq), (0x18, 4, min x.run 0xFFFFFFFF), (0x1C, 4, flags)] ++ spec)

/-- Write a record of `n` slots at PIDX, advance PIDX in the header, and report a crossing of the high-water mark (R432). -/
def Chip.ingestPut (c : Chip) (i ch n t : Nat) (bs : List Byte) : Chip :=
  let x := c.chan i ch
  let ring := c.ringAddr i ch
  let c := if blockRing ch then
      let a := bits (c.reg (ichK i ch 0x10)) 47 12 * 4096 + x.pidx % max 1 x.nslot * x.slotb
      (devPieces a x.slotb).foldl (fun (c : Chip) q => match c.devKey q.1 with
        | some k => c.tagBlock (k / 4096) (0x2000 + 2 * ch + i)
        | none => c) (c.devWrite a bs)
    else (List.range n).foldl (fun (c : Chip) j =>
      c.devWrite (ring + 64 + (x.pidx + j) % max 1 x.nslot * 128) ((bs.drop (128 * j)).take 128)) c
  let c := c.updChan i ch fun x => { x with pidx := (x.pidx + n) % 2 ^ 32, rseq := x.rseq + 1, run := 0 }
  let c := c.devWrite ring (leBytes 4 (c.chan i ch).pidx)
  let c := (c.devWrite (ring + 0x10) (leBytes 8 x.gap)).devWrite (ring + 0x18) (leBytes 8 t)
  let y := c.chan i ch
  if y.above = false ∧ bits (c.reg (ichK i ch 0)) 23 8 ≤ y.used then (c.updChan i ch fun x => { x with above := true }).ingestEvent i ch .INGEST_BACKPRESSURE else c

/-- An I/O die at 105 degrees drops records under the full policy (R395). -/
def Chip.ingestHot (c : Chip) (i : Nat) : Bool := c.pm.dieHot.get (8 + i) 0 == 2

/-- Deliver a record to an enabled channel (R431, R432). A payload beyond the slot is truncated. While the coolant is stopped no record is
    taken (R398): it is counted as lost. -/
def Chip.ingest (c : Chip) (i ch kind t flags : Nat) (spec : List (Nat × Nat × Nat)) (payload : List Byte) : Chip :=
  if bit (c.reg (ichK i ch 0)) 0 = false then c
  else
    let x := c.chan i ch
    let n := if blockRing ch then 1 else 1 + ceilDiv (payload.length - 64) 128
    if c.pm.cool = 2 then (c.bump (ichK i ch 0x20)).updChan i ch fun x => { x with gap := x.gap + 1, run := x.run + 1 }
    else if x.nslot < x.used + n ∨ c.ingestHot i = true then c.ingestLost i ch
    else
      let room := if blockRing ch then x.slotb - 64 else payload.length
      let body := payload.take room
      let flags := flags + (if room < payload.length then 2 else 0)
      c.ingestPut i ch n t (c.recHeader i ch kind body.length t flags spec ++ body)

/-- INGEST_CIDX_POLL (R432): the die reads CIDX; a value beyond PIDX is left unread. -/
def Chip.ingestPoll (c : Chip) (i ch : Nat) : Chip :=
  if bit (c.reg (ichK i ch 0)) 0 = false then c
  else
    let v := leNat (c.devRead (c.ringAddr i ch + 4) 4)
    let c := c.devSense (c.ringAddr i ch + 4) 4
    let x := c.chan i ch
    if (x.pidx + 2 ^ 32 - v) % 2 ^ 32 ≤ x.nslot then
      c.updChan i ch fun x =>
        let y := { x with cidx := v }
        let full := decide (y.nslot ≤ y.used) || c.ingestHot i
        { y with full := y.full && full, pause := y.pause && full, above := y.above && decide (bits (c.reg (ichK i ch 0)) 23 8 ≤ y.used) }
    else c

/-- A byte range lies in one window of a partition that satisfies `p`. -/
def Part.inWin (q : Part) (a n : Nat) (p : Win → Bool) : Bool := q.wins.any fun w => decide (w.base ≤ a) && decide (a + n ≤ w.base + w.pages * 4096) && p w

/-- INGEST_CHANNEL_ENABLE: a write of IOD_ICH_CFG with EN = 1 (R432), refused where the ring does not serve. -/
def Chip.ingestEnable (c : Chip) (i ch v : Nat) : Chip :=
  let v := Nat.land (setBits v 0 0 1) (maskOf 1 0 + maskOf 28 8 + maskOf 47 32)
  let q := c.part (bits v 28 24)
  let ring := c.ringAddr i ch
  let hdr := c.devRead ring 64
  let nslot := fieldAt hdr 8 4
  let slotb := fieldAt hdr 0xC 4
  let c := c.devSense ring 64
  let size := 64 + (if blockRing ch then 0 else 128 * nslot)
  let ok := !bit (c.reg (ichK i ch 0)) 0 && decide (ch < 54) && !(ch == 53 && i == 1) && (!bit v 1 || within 32 47 ch) && q.held
    && q.inWin ring size (fun w => w.r && w.w && w.async) && nslot != 0 && slotb != 0 && decide (bits v 23 8 ≤ nslot)
    && (!blockRing ch || (slotb % 4096 == 0 && q.inWin (bits (c.reg (ichK i ch 0x10)) 47 12 * 4096) (nslot * slotb) (fun w => w.r && w.w && !w.async && !w.x)))
  if ok then
    (c.setReg (ichK i ch 0) v).updChan i ch fun x => { x with pidx := fieldAt hdr 0 4, cidx := fieldAt hdr 4 4, nslot := nslot, slotb := slotb, gap := fieldAt hdr 0x10 8, run := 0, full := false, above := false, pause := false, slot := none }
  else c.countErr (ichK i ch 0)

/-- IOD_ICH_STAT. -/
def Chip.ichStat (c : Chip) (i ch : Nat) : Nat :=
  let x := c.chan i ch
  let en := bit (c.reg (ichK i ch 0)) 0
  x.pidx + b2n (en && decide (x.nslot ≤ x.used)) * 2 ^ 32 + b2n (en && decide (bits (c.reg (ichK i ch 0)) 23 8 ≤ x.used)) * 2 ^ 33

/-! ## Cameras (R431, R433) -/

/-- The payload of a camera slot: the line start times, then the lines from the next 32-byte boundary. -/
def CamSlot.payload (s : CamSlot) : List Byte :=
  let times := (s.lines.map fun l => leBytes 8 l.1).flatten
  times ++ List.replicate (alignUp times.length 32 - times.length) 0
    ++ (s.lines.map fun l => l.2.take s.stride ++ List.replicate (s.stride - l.2.length) 0).flatten

/-- A camera slot closes. -/
def Chip.camClose (c : Chip) (i ch : Nat) : Chip :=
  let x := c.chan i ch
  match x.slot with
  | none => c
  | some s =>
    let cut := s.lines.any fun l => decide (s.stride < l.2.length)
    let spec := [(0x20, 4, s.frame), (0x24, 2, s.line0), (0x26, 2, s.lines.length), (0x28, 1, s.dt), (0x29, 1, ch % 4), (0x2A, 2, s.stride)]
    let flags := b2n s.err + b2n cut * 2
    let c := c.updChan i ch fun x => { x with slot := none }
    let body := s.payload
    let room := x.slotb - 64
    c.ingest i ch 0 s.t (if room < body.length then b2n s.err else flags) spec body

/-- CSI2_PACKET_RECEIVE at `t` (R433). -/
def Chip.csiPacket (c : Chip) (i p v t : Nat) (k : CsiPkt) : Chip :=
  let ch := 4 * p + v
  let c := c.at t
  if bit (c.reg (ichK i ch 0)) 0 = false then c
  else match k with
    | .frameStart n => (c.camClose i ch).updChan i ch fun x => { x with frame := n.toNat, line := 0 }
    | .frameEnd => c.camClose i ch
    | .line dt data good =>
      let x := c.chan i ch
      let now := c.localTime (0x4E + i)
      let s : CamSlot := x.slot.getD { t := now, frame := x.frame, line0 := x.line, dt := dt.toNat, stride := alignUp data.length 32 }
      let s := { s with lines := s.lines ++ [(now, data)], err := s.err || !good }
      let c := c.updChan i ch fun x => { x with slot := some s, line := x.line + 1 }
      if bits (c.reg (ichK i ch 0)) 47 32 ≤ s.lines.length then c.camClose i ch else c

/-! ## Ethernet (R433) -/

/-- A big-endian field of a frame. -/
def beField (bs : List Byte) (o n : Nat) : Nat := ((bs.drop o).take n).foldl (fun a b => a * 256 + b.toNat) 0

/-- VLAN TCI of a frame, where it carries one, and its EtherType. -/
def vlanOf (f : List Byte) : Option Nat × Nat := if beField f 12 2 = 0x8100 then (some (beField f 14 2), beField f 16 2) else (none, beField f 12 2)

/-- A filter of a die matches a frame that arrives at a MAC. -/
def Chip.ethMatch (c : Chip) (i mac k : Nat) (f : List Byte) : Bool :=
  let w0 := c.reg (iodK i (0x0310000 + 16 * k))
  let w1 := c.reg (iodK i (0x0310008 + 16 * k))
  let (tci, typ) := vlanOf f
  bit w1 15 && bit w1 (16 + mac) && (!bit w1 13 || beField f 0 6 == bits w0 47 0) && (!bit w1 14 || typ == bits w0 63 48)
    && (!bit w1 12 || (tci.map fun v => v % 4096) == some (bits w1 11 0))

/-- ETHERNET_FRAME_RECEIVE at `t`: to the channel of the lowest matching filter, or dropped; an island sets its flag 6. -/
def Chip.ethFrame (c : Chip) (r : EthRef) (t : Nat) (f : List Byte) (good : Bool) : Chip :=
  let c := c.at t
  match r with
  | .isl i => if (c.isl i).up && bit (c.reg (sioK i 0x3000)) 0 then c.islFlag i 6 else c
  | .iod i n =>
    if bit (c.reg (iodK i.val (0x0300000 + 0x1000 * n.val))) 0 = false then c
    else match (List.range 16).find? fun k => c.ethMatch i.val n.val k f with
      | none => c.bump (iodK i.val 0x0310100)
      | some k => c.ingest i.val (32 + k) 1 (c.localTime (0x4E + i.val)) (b2n !good) [(0x20, 1, n.val), (0x21, 1, k), (0x22, 2, ((vlanOf f).1).getD 0)] f

/-- ETHERNET_LINK_CHANGE. -/
def Chip.ethLink (c : Chip) (r : EthRef) (up : Bool) (speed : Nat) : Chip :=
  let v := if up then 1 + speed % 8 * 2 else 0
  match r with
  | .iod i n => c.setReg (iodK i.val (0x0300008 + 0x1000 * n.val)) v
  | .isl i => c.setReg (sioK i 0x3008) v

/-! ## CAN, GNSS and SENT (R434, R437) -/

/-- The SPEC field of a CAN frame. -/
def canSpec (f : CanFrame) : List (Nat × Nat × Nat) :=
  [(0x20, 4, f.id.toNat + b2n f.ide * 2 ^ 29 + b2n f.fdf * 2 ^ 30 + b2n f.xlf * 2 ^ 31), (0x24, 1, b2n f.brs + b2n f.esi * 2 + b2n f.rtr * 4),
    (0x25, 1, f.sdt.toNat), (0x26, 1, f.vcid.toNat), (0x27, 1, f.sec.toNat), (0x28, 4, f.af.toNat)]

/-- CAN_FRAME_RECEIVE at `t` (R434): receive slots latch a good frame, the ring takes it, and an island sets its flag 5. -/
def Chip.canFrame (c : Chip) (r : CanRef) (t : Nat) (f : CanFrame) : Chip :=
  let c := c.at t
  let mode := bits (c.reg (canK r 0)) 1 0
  let alive := match r with
    | .iod _ _ => true
    | .isl i _ => (c.isl i).up
  if mode = 0 || (f.xlf && mode != 2) || !alive then c
  else
    let hit := (List.range 16).any fun s => c.canMatch r s f.id.toNat f.ide
    let c := if f.err then c else (c.canLatch r f.id.toNat f.ide f.data).1
    match r with
    | .iod i n => if hit then c.ingest i.val (48 + n.val) 2 (c.localTime (canDie r)) (b2n f.err) (canSpec f) f.data else c
    | .isl i _ => c.islFlag i 5

/-- GNSS_UART_RECEIVE at `t`: bytes for channel 52 of I/O die 0. -/
def Chip.gnss (c : Chip) (t : Nat) (bs : List Byte) : Chip := let c := c.at t; c.ingest 0 52 3 (c.localTime 0x4E) 0 [] bs

/-- scale * raw + offset of a SENT value, to the nearest whole unit; none where scale or offset is not finite. -/
def Chip.sentValue (c : Chip) (map raw : Nat) : Option Int :=
  let m := c.reg (iodK 0 map)
  match rat32 (bits m 31 0), rat32 (bits m 63 32) with
  | some a, some b => some (a * (raw : Rat) + b + 1 / 2).floor
  | _, _ => none

/-- SENT_MESSAGE_RECEIVE at `t` (R437). -/
def Chip.sent (c : Chip) (t : Nat) (m : SentMsg) : Chip :=
  let c := c.at t
  let cfg := c.reg (iodK 0 0x0600000)
  if bit cfg 24 = false then c
  else if !m.good then c.bump (iodK 0 0x0600020)
  else
    let now := c.time.now
    let c := match c.sentValue 0x0600008 m.fast1.toNat with
      | some v => if 0 ≤ v ∧ v ≤ 20000 then { c with pm := { c.pm with reading := v.toNat, flowOk := true, flowAt := now, coolAt := now } } else { c with pm := { c.pm with flowOk := false } }
      | none => { c with pm := { c.pm with flowOk := false } }
    let temp := fun (map raw : Nat) => (c.sentValue map raw).filter fun v => decide (-880 ≤ v) && decide (v ≤ 2400)
    let inlet := temp 0x0600010 m.fast2.toNat
    let outlet := match m.serial with
      | some (id, v) => if id.toNat = bits cfg 23 16 then temp 0x0600018 v.toNat else none
      | none => none
    let c := match inlet with
      | some v => { c with pm := { c.pm with inlet := v, coolAt := now } }
      | none => c
    let c := match outlet with
      | some v => { c with pm := { c.pm with outlet := v, coolAt := now } }
      | none => c
    c.ingest 0 53 4 (c.localTime 0x4E) 0 [] m.raw

end Sys2Proof.Machine
end

