-- ==== Sys2Proof/Machine/IoDie.lean ====
section
/-! DEFINITION. Boot flash commands (R436), PMBus (R438, R442), time references (R435), the PCIe link (R418, R422), supply faults (R443), and the loss of I/O die 0 (R372). -/

namespace Sys2Proof.Machine

/-- Change the interface state. -/
def Chip.updIo (c : Chip) (f : IoSt → IoSt) : Chip := { c with io := f c.io }

/-! ## Flash (R436) -/

/-- The flash offset that IOD_FLASH_ADDR names. -/
def Chip.flashAddr (c : Chip) : Nat := bits (c.reg (iodK 0 0x0800008)) 31 12 * 4096

/-- Offset of the directory copy in use. -/
def Chip.dirAt (c : Chip) : Option Nat := match c.directory with
  | none => none
  | some d => if d == c.flash 0 4096 then some 0 else some 0x10000

/-- A sector that the running firmware protects. -/
def Chip.flashGuard (c : Chip) (a : Nat) : Bool :=
  let ents := match c.directory with
    | some d => ((dirEnts d 3).take 2 ++ (dirEnts d 4).take 2).map fun e => (e.off, e.len)
    | none => []
  let dir := c.dirAt.toList.map fun o => (o, 4096)
  c.boot.fwslot != 0 && (c.boot.prot ++ ents ++ dir).any fun r => Machine.overlap a 4096 r.1 r.2

/-- A flash command is written (1 READ, 2 ERASE, 3 PROGRAM): discarded and counted while STATE is busy; ERASE and PROGRAM refused
    in protected regions. -/
def Chip.flashCmd (c : Chip) (op : Nat) : Chip :=
  if c.boot.die0 then c
  else if c.io.fstate = 1 then c.countErr (iodK 0 0x0800000)
  else if op ≠ 1 && c.flashGuard c.flashAddr then c.updIo fun s => { s with fstate := 3, fcode := 1 }
  else c.updIo fun s => { s with fstate := 1, fcode := 0, fcmd := some (op, c.flashAddr) }

/-- The flash buffer. -/
def Chip.flashBuf (c : Chip) : List Byte := (List.range 4096).map fun i => c.io.buf.get i 0

/-- FLASH_COMMAND_DONE; `ok` tells whether the flash performed the command. -/
def Chip.flashDone (c : Chip) (ok : Bool) : Chip := match c.io.fcmd with
  | none => c
  | some (op, a) =>
    let c := c.updIo fun s => { s with fcmd := none, fstate := if ok then 2 else 3, fcode := if ok then 0 else 2 }
    if !ok then c
    else if op = 1 then c.updIo fun s => { s with buf := (c.flash a 4096).zipIdx.map fun q => (q.2, q.1) }
    else
      let bs := if op = 2 then (List.range 4096).map fun i => Config.erasedByte (a + i) else c.flashBuf
      { c with mem := { c.mem with cells := c.mem.cells.writeBytes (flashKey a) bs } }

/-! ## PMBus (R438) -/

/-- Sites of hall zone `r` (R441). -/
def zoneSites (r : Nat) : List Nat := (List.range 9).map (· + 9 * r)

/-- PMBUS_POLL of rail `k` at `t`: the regulator's answer in mV, if it answers. -/
def Chip.pmbusPoll (c : Chip) (k t : Nat) (mv : Option Nat) : Chip :=
  let c := c.at t
  if c.boot.die0 then c
  else match mv with
    | none => c
    | some v =>
      let c := { c with rails := c.rails.set k (v % 65536), io := { c.io with pmbAt := c.io.pmbAt.set k c.time.now, silent := c.io.silent.filter (· ≠ k) } }
      if k < 8 then (zoneSites k).foldl (fun c s => c.updPwr s fun h => { h with frozen := none }) c else c

/-- The halls of a silent zone keep their ceiling. -/
def Chip.freezeZone (c : Chip) (k : Nat) : Chip := (zoneSites k).foldl (fun c s => let e := c.ceilOf s; c.updPwr s fun h => { h with frozen := some e }) c

/-- PMBUS_LOST at `t`: 10 ms without an answer. -/
def Chip.pmbusLost (c : Chip) (k t : Nat) : Chip :=
  let c := c.at t
  if c.io.silent.contains k || c.boot.die0 || decide (c.time.now < c.io.pmbAt.get k 0 + 10000000) then c
  else
    let c := c.updIo fun s => { s with silent := k :: s.silent }
    (if k < 8 then c.freezeZone k else c).post .PMBUS_LOST (iodUnit 0 0) none k

/-! ## Time references (R435) -/

/-- DCU_TSRC.SRC. -/
def Chip.timeSrc (c : Chip) : Nat := bits (c.reg (dcuK 0xB000)) 1 0

/-- A reference is accepted: its offset, and the rate correction that the discipline takes, at most 200 ppm. -/
def Chip.timeRef (c : Chip) (off corr : Int) : Chip :=
  c.updIo fun s => { s with refAt := c.time.now, lock := true, off := off, corr := max (-20000) (min 20000 corr) }

/-- PPS_EDGE at `t`: `off` is the reference time of the edge minus DEVTIME, in ns. -/
def Chip.ppsEdge (c : Chip) (t : Nat) (off corr : Int) : Chip :=
  let c := c.at t
  if c.timeSrc ≠ 1 ∨ c.boot.die0 = true then c
  else if 1000000 < off.natAbs then (c.bump (dcuK 0xB018)).post .PPS_REJECT (dcuUnit) none
  else c.timeRef off corr

/-- PTP_MESSAGE at `t` on MAC `port` (0-11) from the grandmaster. -/
def Chip.ptp (c : Chip) (port t : Nat) (off corr : Int) : Chip :=
  let c := c.at t
  let cfg := c.reg (iodK (port / 6) (0x0300000 + 0x1000 * (port % 6)))
  if c.timeSrc = 2 ∧ bits (c.reg (dcuK 0xB000)) 7 4 = port ∧ bit cfg 0 = true ∧ bit cfg 2 = true then c.timeRef off corr else c

/-- TIME_LOST at `t`: no accepted reference for 2 s. -/
def Chip.timeLost (c : Chip) (t : Nat) : Chip :=
  let c := c.at t
  if c.io.lock && decide (c.io.refAt + 2000000000 ≤ c.time.now) then (c.updIo fun s => { s with lock := false }).post .TIME_LOST (dcuUnit) none else c

/-- DCU_TSTAT. -/
def Chip.tstat (c : Chip) : Nat := b2n c.io.lock + toBits 16 c.io.corr * 65536

/-! ## The PCIe link and function reset (R418, R422) -/

/-- Commands of a queue that have started: those before the first FENCE that still waits (R424). -/
def startedCmds : List HostCmd → List HostCmd
  | [] => []
  | x :: xs => x :: xs.takeWhile fun y => !bit y.flags 0

/-- FUNCTION_LEVEL_RESET of function `f`. -/
def Chip.flr (c : Chip) (f : Nat) : Chip :=
  let own := fun (k : RegKey) => k.blk == .dcu && within (0xA000 + 0x100 * f) (0xA0FF + 0x100 * f) k.off
  let c := c.freeLocksOf f
  let c := { c with regs := c.regs.filter fun e => !own e.1 }
  c.updIo fun s => { s with heads := s.heads.filter (fun e => e.1 / 4 ≠ f), cmds := s.cmds.map fun e => if e.1 / 4 = f then (e.1, (startedCmds e.2).map fun x => { x with quiet := true }) else e }

/-- PCIE_LINK_DOWN: a link-down or hot reset. -/
def Chip.linkDown (c : Chip) : Chip := ((List.range 16).foldl Chip.flr c).updIo fun s => { s with rate := 0, width := 0, low := false }

/-- PCIE_LINK_UP: a link that trains below Gen4 only is held in training (R418). -/
def Chip.linkUp (c : Chip) (gen width : Nat) : Chip :=
  if c.boot.die0 then c
  else c.updIo fun s => if within 4 6 gen && (width == 4 || width == 8 || width == 16) then { s with rate := gen, width := width, low := false } else if gen < 4 then { s with rate := 0, width := 0, low := true } else s

/-- DCU_FN_PCIE. -/
def Chip.fnPcie (c : Chip) : Nat := c.io.rate + c.io.width * 8 + b2n c.io.low * 256

/-! ## Supply faults (R443) -/

/-- VDD_HALLr is more than 5 % low. -/
def Chip.zoneLow (c : Chip) (r : Nat) : Chip := (zoneSites r).foldl (fun c s => (c.updPwr s fun h => { h with low := true, lowEnd := none }).settlePoint s) c

/-- VDD_HALLr is below 0.45 V: the halls stop and are fenced. -/
def Chip.zoneCollapse (c : Chip) (r : Nat) : Chip := (zoneSites r).foldl Chip.fenceSite c

/-- A memory rail is out of range for 10 µs. -/
def Chip.memRailFault (c : Chip) : Chip := (List.range 6).foldl Chip.stackLost c

/-- An I/O rail is out of range for 10 µs: internal reset as for nRESET. -/
def Chip.ioRailFault (c : Chip) : Chip := let c := c.mainReset; { c with boot := { c.boot with rail := true } }

/-- An island rail is out of range: that island stops, as in its own reset. -/
def Chip.islRailFault (c : Chip) (i : Isl) : Chip := c.islReset i 5000

/-- SUPPLY_RECOVERY at `t`: of hall zone `r`, or of the I/O rails. -/
def Chip.supplyBack (c : Chip) (zone : Option Nat) (t : Nat) : Chip :=
  let c := c.at t
  match zone with
  | some r => (zoneSites r).foldl (fun (c : Chip) s => c.updPwr s fun h => if h.low then { h with lowEnd := some (h.lowEnd.getD (c.time.now + 1000000)) } else h) c
  | none => if c.boot.rail then { c with boot := { c.boot with rail := false } }.nresetRelease else c

/-! ## The loss of I/O die 0 (R372) -/

/-- What lies on I/O die 0 is lost with it. -/
def Chip.loseDie0 (c : Chip) : Chip :=
  let c := c.linkDown
  let c := (portsOf 0x4E).foldl (fun (c : Chip) p =>
    let c := c.updPort 0x4E p fun x => { x with state := 0, groups := [], txw := 0 }
    match peerOf 0x4E p with
    | some (d, q) => c.fencePort d q
    | none => c) c
  let c := (List.range 8).foldl Chip.freezeZone c
  let c := { c with regs := c.regs.filter (fun e => e.1.blk != Blk.iod 0), boot := { c.boot with die0 := true }, log := { c.log with slots := [] }, pm := { c.pm with flowOk := false } }
  let c := c.updIo fun s => { s with chans := s.chans.filter fun e => 64 ≤ e.1 }
  c.post .PMBUS_LOST (iodUnit 0 0) none

/-- DCU_FAILOVER at `t` (R370-R372): by silence or a self-check report, and with the loss of the whole of I/O die 0. -/
def Chip.failoverRow (c : Chip) (t : Nat) (report die0 : Bool) : Chip :=
  let ok := c.boot.standby
  let c := c.failover t report
  if ok && !c.boot.standby && die0 then c.loseDie0 else c

end Sys2Proof.Machine
end

