-- ==== Sys2Proof/Machine/SelfTest.lean ====
section
/-! DEFINITION. Golden self-test of the stables (R332-R337, R416): rotations, slots and outcomes. -/

namespace Sys2Proof.Machine

/-- Slot length S (R332). -/
def Chip.stS (c : Chip) : Nat := c.T / 200

/-- Slots of a rotation in a landing at most: Q. -/
def Chip.stQ (c : Chip) : Nat := max 1 (c.L / max 1 c.stS - 1)

/-- The stables of active halls in ascending logical hall and stable. -/
def Chip.stablesInOrder (c : Chip) : List Nat := ((List.range 256).filter fun n => (c.keyOf n).isSome)

/-- A rotation's stables in order (R332): those of a partition, or those in none for the device row. -/
def Chip.rotOrder (c : Chip) (row : Nat) : List Nat :=
  let ns := c.stablesInOrder.filter fun n => match c.ownerOf n with
    | some p => p == row
    | none => row == 32
  ns.filterMap c.keyOf

/-- A rotation. -/
def Chip.rot (c : Chip) (row : Nat) : StRot := c.rots.get row {}

/-- Change a rotation. -/
def Chip.updRot (c : Chip) (row : Nat) (f : StRot → StRot) : Chip := { c with rots := c.rots.upd row {} f }

/-- The slots that a landing assigns to a rotation (R332): those carried, then its next stables, at most Q together (log 48). -/
def Chip.rotAssign (c : Chip) (row : Nat) : Chip :=
  let order := c.rotOrder row
  let n := order.length
  if n = 0 then c.updRot row fun r => { r with queue := [], pos := 0, n := 0 }
  else
    let r := c.rot row
    let fresh := decide (n ≤ r.pos) && r.queue.isEmpty && r.run.isNone
    let start := fresh || r.pos == 0
    let pos := if fresh then 0 else min r.pos n
    let own := ((order.drop pos).take (c.stQ - r.queue.length))
    let all := r.queue.map StSlot.stable ++ own
    let q := all.zipIdx.map fun x => ({ stable := x.1, j := x.2, m := all.length } : StSlot)
    c.updRot row fun r => { r with pos := pos + own.length, n := n, queue := q, pkgs := if start then c.fleet.pkgs.map Pkg.id else r.pkgs }

/-- The self-test part of a landing start: the slots, or SELFTEST_OFF (R332, R337). -/
def Chip.stLanding (c : Chip) : Chip :=
  if bit (c.reg (dcuK 0x3800)) 0 then (List.range 33).foldl Chip.rotAssign c else c.post .SELFTEST_OFF (dcuUnit) none

/-- The stable may start a slot: no heartbeat runs, and no block of it is in COMPARE, ARBITRATING or COMMITTING (R333). -/
def Chip.stFree (c : Chip) (key : Nat) : Bool :=
  (c.eng key).hb != 2 && [2 * key, 2 * key + 1].all fun k => match (c.ctx k).blk with
    | some b => !(b.state == 3 || b.state == 5 || b.state == 6)
    | none => true

/-- A context of the stable has CSW.STATE 0x2. -/
def Chip.stBusy (c : Chip) (key : Nat) : Bool := [2 * key, 2 * key + 1].any fun k => match c.ctx? k with
  | some x => bits (c.csw k x) 3 0 == 2
  | none => false

/-- Change bits of STB_ST_STAT that the slots keep: LASTPASS, PKGS, CARRY, LATE, LASTFAIL. -/
def Chip.stSet (c : Chip) (key hi lo v : Nat) : Chip := c.setReg (stbK key 0x180) (setBits (c.reg (stbK key 0x180)) hi lo v)

/-- SELFTEST_SLOT_START at `t` (R333, R334): the first assigned slot of a rotation. -/
def Chip.slotStart (c : Chip) (row t : Nat) : Chip :=
  let c := c.at t
  let r := c.rot row
  match r.queue with
  | [] => c
  | s :: q =>
    let stop := c.start c.curFrame + c.L
    let last := stop - ((s.m - s.j) * c.stS + 20000)
    let busy := c.stBusy s.stable
    if !c.time.running || !bit (c.reg (dcuK 0x3800)) 0 || r.run.isSome || decide (stop ≤ c.time.now) || !c.stFree s.stable || (busy && decide (c.time.now < last)) then c
    else
      let (c, _) := c.domainsOn [s.stable]
      let c := c.updRot row fun r => { r with queue := q, run := some (s.stable, c.time.now + c.stS) }
      let c := { c with core := { c.core with testing := s.stable :: c.core.testing } }
      let c := c.stSet s.stable 3 3 (b2n (decide (last < c.time.now)))
      if busy then c.bump (stbK s.stable 0x198) else c

/-- The SELFTEST record of a failed pattern (R335, R408). -/
def Chip.stRecord (c : Chip) (key : Nat) (r : StRun) (prob : Bool) : Chip :=
  c.sendErr { unit := stbUnit key, cls := 0x16, flags := b2n prob * 2, part := (c.partOfStb key).getD 0xFF, synd := r.pat.toNat + r.pkg.toNat * 2 ^ 32 + (if r.res == StRes.failed && !prob then 2 ^ 64 else 0) }

/-- A pattern failed in its package's probation (R416): the third stable withdraws the package. -/
def Chip.probFail (c : Chip) (key : Nat) (r : StRun) (p : Pkg) : Chip :=
  let c := (c.bump (stbK key 0x190)).stRecord key r true
  let fails := if p.fails.contains (r.pat.toNat, key) then p.fails else (r.pat.toNat, key) :: p.fails
  if 3 ≤ (fails.filter fun f => f.1 == r.pat.toNat).length then (c.pkgDrop p.id).post .PKG_WITHDRAWN (dcuUnit) none p.id
  else { c with fleet := { c.fleet with pkgs := c.fleet.pkgs.map fun q => if q.id = p.id then { q with fails := fails } else q } }

/-- The outcome of one pattern (R335, R416): a quarantine restarts the partition, or joins its reset in progress (R281). -/
def Chip.stOutcome (c : Chip) (key : Nat) (r : StRun) : Chip :=
  let pkg := c.fleet.pkgs.find? fun p => p.id == r.pkg.toNat && p.prob
  match r.res, pkg with
  | .passed, _ => c
  | _, some p => c.probFail key r p
  | .passedAgain, none => (c.bump (stbK key 0x190)).stRecord key r false
  | .failed, none =>
    let c := (c.bump (stbK key 0x190) 2).updEng key fun e => { e with quar := true }
    let c := (c.stRecord key r false).post .SELFTEST_FAIL (stbUnit key) (c.partOfStb key) r.pat.toNat r.pkg.toNat
    let c := c.bump (dcuK 0x3808)
    match c.partOfStb key with
    | some p => if (c.part p).state = 3 then c.dueResetAt p 0 dcuUnit 0 else if (c.part p).state = 2 then c.partRestart p else c
    | none => c

/-- A rotation has completed (R332, R416): packages on probation count the row, and leave probation with the last row. -/
def Chip.rotDone (c : Chip) (row : Nat) : Chip :=
  let joined := (c.rot row).pkgs
  let c := c.updRot row fun r => { r with done := c.time.now }
  let rows := (List.range 33).filter fun r => !(c.rotOrder r).isEmpty
  let step := fun (p : Pkg) =>
    if p.prob && joined.contains p.id then
      let got := if p.rows.contains row then p.rows else row :: p.rows
      if rows.all (fun r => got.contains r) then { p with prob := false, rows := [], fails := [] } else { p with rows := got }
    else p
  { c with fleet := { c.fleet with pkgs := c.fleet.pkgs.map step } }

/-- SELFTEST_SLOT_END at `t` (R334, R335): `runs` are the patterns that ran, in order, with what the comparison found; `whole`
    tells that all the content has run. -/
def Chip.slotEnd (c : Chip) (row t : Nat) (runs : List StRun) (whole : Bool) : Chip :=
  let c := c.at t
  let r := c.rot row
  match r.run with
  | none => c
  | some (key, due) =>
    if c.time.now < due then c
    else
      let c := c.updRot row fun r => { r with run := none }
      let c := { c with core := { c.core with testing := c.core.testing.filter (· ≠ key) } }
      let runs := runs.filter fun x => x.pkg.toNat == 0 || (r.pkgs.contains x.pkg.toNat && c.fleet.pkgs.any fun p => p.id == x.pkg.toNat)
      let good := runs.all fun x => x.res == StRes.passed
      let c := if good then c.bump (stbK key 0x188) else c
      let c := match runs.getLast? with
        | some x => c.stSet key 2 2 (b2n (x.res == StRes.failed))
        | none => c
      let c := c.stSet key 4 4 (b2n !whole)
      let n := (r.pkgs.filter fun i => c.fleet.pkgs.any fun p => p.id == i).length
      let c := if whole then (c.stSet key 63 32 (c.time.now / 1000000)).stSet key 15 8 n else c
      let c := runs.foldl (fun c x => c.stOutcome key x) c
      let c := c.domainsOff [key]
      let q : StRot := Chip.rot c row
      if q.queue.isEmpty && decide (q.n ≤ q.pos) && decide (0 < q.n) then c.rotDone row else c

/-- STB_ST_STAT as it reads. -/
def Chip.stStat (c : Chip) (key : Nat) : Nat :=
  let run := c.core.testing.contains key
  let due := c.rots.any fun e => e.2.run.isNone && (e.2.queue.head?.map StSlot.stable) == some key
  setBits (setBits (c.reg (stbK key 0x180)) 1 1 (b2n run)) 0 0 (b2n due)

/-- DCU_STROT of a row as it reads; a row without stables has no quota. -/
def Chip.strot (c : Chip) (row : Nat) : Nat :=
  let r := c.rot row
  let n := (c.rotOrder row).length
  (r.done / 1000000 % 2 ^ 32) * 2 ^ 32 + min 255 (ceilDiv n c.stQ) * 2 ^ 24 + (if n = 0 then 0 else min 255 c.stQ) * 2 ^ 16 + (if n ≤ r.pos then 0 else r.pos) % 256

end Sys2Proof.Machine
end

