-- ==== Sys2Proof/Machine/RegRead.lean ====
section
/-! DEFINITION. What each register reads as: the live state behind the registers that a mechanism owns, and the stored value of every other. -/

namespace Sys2Proof.Machine

/-- A number made of fields: (lowest bit, width, value). -/
def pack (fs : List (Nat × Nat × Nat)) : Nat := fs.foldl (fun n f => n + f.2.2 % 2 ^ f.2.1 * 2 ^ f.1) 0

/-- One field per index, `w` bits each. -/
def packAll (n w : Nat) (f : Nat → Nat) : Nat := pack ((List.range n).map fun i => (i * w, w, f i))

/-! ## Stables -/

/-- STB_CHK_STAT. -/
def Chip.chkStat (c : Chip) (key : Nat) : Nat :=
  let e := c.eng key
  let st := fun s => match (c.ctx (2 * key + s)).blk with
    | some b => b.state
    | none => 0
  pack [(0, 1, b2n (c.checkedMode key)), (1, 1, b2n e.barred), (2, 1, b2n e.quar), (3, 1, b2n e.retire), (4, 5, e.retired), (9, 3, st 0), (12, 3, st 1),
    (15, 1, b2n (e.hb != 0)), (16, 8, e.hbPos), (24, 1, b2n e.serving.isSome)]

/-- STB_KVSTAT: zero while no table is registered. -/
def Chip.kvStat (c : Chip) (key : Nat) : Nat :=
  if !c.kvOn key then 0
  else
    let res := ((List.range (c.kvEntries key)).filter fun i => i != 0 && (c.kvEnt key i).st == 2).length
    pack [(0, 16, c.kvFreeCount key), (16, 16, c.kvPendCount key), (32, 16, res), (48, 16, ((c.batches key).map KvBatch.count).sum)]

/-- STB_DLY_STAT. -/
def Chip.dlyStat (c : Chip) (key : Nat) : Nat :=
  let occ := fun s => match (c.ctx (2 * key + s)).blk with
    | some b => b.recBytes / 16
    | none => 0
  pack [(0, 12, occ 0), (12, 12, occ 1), (24, 12, (c.eng key).hwm)]

/-- An attribution register. -/
def attrReg (l : List (Nat × Nat)) (i : Nat) : Nat := match l[i]? with
  | some (t, b) => b % 2 ^ 32 + t % 2 ^ 32 * 2 ^ 32
  | none => 0

/-- STB_CTXID. -/
def Chip.ctxId (c : Chip) (key : Nat) : Nat :=
  let x := c.ctx? (2 * key)
  let y := c.ctx? (2 * key + 1)
  pack [(0, 10, (x.map Ctx.idx).getD 0), (16, 10, (y.map Ctx.idx).getD 0), (32, 5, ((x.orElse fun _ => y).map Ctx.part).getD 0), (40, 1, b2n x.isSome), (41, 1, b2n y.isSome)]

/-- A register of a stable's block. -/
def Chip.readStb (c : Chip) (key off : Nat) : Nat :=
  let slot := 2 * key + off / 8 % 2
  if off ≤ 0x08 then (c.ctx? slot).elim 0 (c.csw slot)
  else if off ≤ 0x18 then (c.ctx slot).ia % 2 ^ 48
  else if off ≤ 0x28 then (c.ctx slot).lfc
  else if off = 0x30 then b2n (c.core.dual.contains key)
  else if off = 0x68 then c.kvStat key
  else if off = 0xB0 then c.chkStat key
  else if off = 0xB8 then (c.eng key).seq % 2 ^ 64
  else if off = 0xE8 then c.dlyStat key
  else if within 0x100 0x120 off then attrReg ((c.eng key).attr.get ((off - 0x100) / 8) []) 0
  else if within 0x128 0x148 off then attrReg ((c.eng key).attr.get ((off - 0x128) / 8) []) 1
  else if off = 0x150 then packAll 5 2 fun n => ((c.eng key).attr.get n []).length
  else if off = 0x158 then (c.ctx (2 * key)).budget
  else if off = 0x160 then (c.ctx (2 * key + 1)).budget
  else if off = 0x178 then c.ctxId key
  else if off = 0x180 then c.stStat key
  else c.reg (stbK key off)

/-! ## The other blocks of a hall -/

/-- HALL_LANDSTAT. -/
def Chip.landReg (c : Chip) (p : Nat) : Nat := let (f, m, n) := c.landStat p; pack [(0, 32, f), (32, 16, n), (48, 16, m)]

/-- A register of a partition's synchronisation block: zero away from its home (R144). -/
def Chip.readSync (c : Chip) (site p off : Nat) : Nat :=
  let q := c.part p
  let sc := fun b => q.scenes.get ((off - b) / 8) {}
  if off = 0x148 then c.reg (syncK site p off)
  else if !c.isHome site p then 0
  else if off ≤ 0x38 then bits q.flags (off / 8 % 4 * 64 + 63) (off / 8 % 4 * 64)
  else if off ≤ 0x138 then let (g, a, n) := q.bar ((off - 0x40) / 8); pack [(0, 10, n), (16, 16, a), (32, 32, g)]
  else if off = 0x140 then c.landReg p
  else if off ≤ 0x238 then (sc 0x200).addr
  else if off ≤ 0x278 then (sc 0x240).staged + b2n (sc 0x240).v
  else if off ≤ 0x2B8 then let s := sc 0x280; pack [(0, 32, s.epoch), (32, 1, b2n s.valid), (40, 4, s.rej)]
  else let s := sc 0x2C0; if s.ret then s.retAddr + 1 + c.sceneBusy p ((off - 0x2C0) / 8) * 2 ^ 48 else 0

/-- Bytes 0 to 7 of a block's tag slot. -/
def Chip.tagBits (c : Chip) (key : Nat) : Nat := let t := c.tagOf (key / 4096); t.crc + leNat t.tail * 2 ^ 32

/-- The key of the block that HALL_TAG_ADDR names, if it lies in this hall's tagged stores. -/
def Chip.hallTagKey (c : Chip) (site : Nat) : Option Nat :=
  match c.target (c.reg (hallMemK site 0x20)) with
  | .store k => if sramKey site 0 ≤ k ∧ k < sramKey site 0x2000000 then some k else none
  | _ => none

/-- The key of the block that MB_TAG_ADDR names, if this stack holds it. -/
def Chip.mbTagKey (c : Chip) (m : Nat) : Option Nat :=
  match c.target (c.reg (mbK m 0x418)) with
  | .store k => if k < 0x3600000000 ∧ stackOf k = m then some k else none
  | _ => none

/-- A register of a Search Unit. -/
def Chip.readSu (c : Chip) (site off : Nat) : Nat :=
  let u := c.suSt site
  if within 0x10 0x28 off then (u.queues.get ((off - 0x10) / 8) []).length
  else if off = 0x30 then u.nalloc
  else if off = 0x208 then u.stat
  else if off = 0x210 then u.sent.getD 0
  else if off = 0x218 then u.arm.elim 0 fun a => a.frame % 2 ^ 32 + 2 ^ 32
  else c.reg (suK site off)

/-- A register of a requester's block. -/
def Chip.readRq (c : Chip) (die off : Nat) : Nat :=
  if within 0x40 0x68 off then
    let m := (off - 0x40) / 8
    let x := c.rqm die m
    pack [(0, 16, min 65535 x.lat), (16, 3, c.rqPri die m), (19, 1, b2n x.excess), (32, 32, x.bytes / 256)]
  else if off = 0x70 then let o := c.rqo die; pack [(0, 6, o.cur), (8, 6, o.tdm)]
  else c.reg (rqK die off)

/-- A register of a port's block. -/
def Chip.readLnk (c : Chip) (die p off : Nat) : Nat :=
  let x := c.port die p
  let stored := (lnkK die p off).elim 0 c.reg
  if off = 0x08 then
    pack [(0, 3, x.state), (4, 3, x.rxw), (8, 3, x.txw), (12, 4, x.freeSpares), (16, 3, x.sideband), (20, 1, b2n !x.failed.isEmpty), (32, 8, if x.state = 0 then 0 else ((peerOf die p).map Prod.fst).getD 0)]
  else if within 0x10 0x50 off then packAll 16 4 fun j => x.roles.get ((off - 0x10) / 8 * 16 + j) 0
  else if off = 0x58 then packAll 8 8 fun s => (x.steer.look s).getD 0xFF
  else if off = 0x90 then x.lanes.get (((lnkK die p 0x88).elim 0 c.reg) % 256) 0
  else stored

/-- A register of a hall's power block. -/
def Chip.readPwr (c : Chip) (site off : Nat) : Nat :=
  let h := c.hallPwr site
  let r := c.siteRec site
  let i := (off - 0x100) / 8
  let j := (off - 0x180) / 8
  let mon := c.reg (pwrK site 0x30)
  if off = 0x00 then pack [(0, 4, h.point), (4, 1, b2n h.idle), (5, 4, h.ceil), (13, 10, h.vzone), (23, 3, h.bin), (26, 4, r.top.getD 0)]
  else if off = 0x08 then pack [(0, 16, h.grant), (16, 16, h.demand), (32, 32, h.period)]
  else if off = 0x10 then h.energy % 2 ^ 64
  else if off = 0x18 then packAll 4 16 h.fld
  else if off = 0x20 then
    pack [(0, 4, h.sus), (4, 1, b2n (bit h.sus 0 && bit h.sus 1)), (5, 1, b2n h.warn), (6, 1, b2n h.trip), (7, 1, b2n h.pair), (16, 16, tempPat h.hot)]
  else if off = 0x38 then pack [(0, 16, h.slack.get mon 0), (16, 16, Config.slackFactory site mon)]
  else if within 0x100 0x178 off then pack [(0, 10, r.mv i h.bin), (10, 1, b2n (r.use i h.bin)), (11, 1, b2n (r.chkok i h.bin)), (16, 16, pointKHz i / 1000)]
  else if within 0x180 0x1B8 off then pack [(0, 32, h.ro.get j 0), (32, 32, Config.roFactory site j)]
  else c.reg (pwrK site off)

/-- A hall register. -/
def Chip.readHall (c : Chip) (site off : Nat) : Nat :=
  if within 0xE400000 0xE43FFFF off then c.readStb (4 * site + (off - 0xE400000) / 0x10000) ((off - 0xE400000) % 0x10000)
  else if within 0xE600000 0xE61FFFF off then c.readSync site ((off - 0xE600000) / 0x1000) ((off - 0xE600000) % 0x1000)
  else if within 0xE800000 0xE9FFFFF off then c.readSu site (off - 0xE800000)
  else if within 0xEA00000 0xEBFFFFF off then c.readRq site (off - 0xEA00000)
  else if within 0xEC00000 0xEC003FF off then c.readLnk site ((off - 0xEC00000) / 0x100) ((off - 0xEC00000) % 0x100)
  else if within 0xEE00000 0xEFFFFFF off then c.readPwr site (off - 0xEE00000)
  else if off = 0xE200028 then (c.hallTagKey site).elim 0 c.tagBits
  else c.reg ⟨.hall site, off⟩

/-! ## The DCU -/

/-- DCU_COUNTS (R28). -/
def Chip.counts (c : Chip) : Nat :=
  let n := c.site.hallmap.length
  pack [(0, 8, n), (8, 8, 72), (16, 8, c.spares), (24, 4, 6), (28, 4, 2), (32, 4, 2), (36, 1, b2n (decide (n < 64)))]

/-- Domain d is on (R385, R386); domains that no rule switches read 1 (log 50). -/
def Chip.domainOn (c : Chip) (d : Nat) : Bool :=
  if d < 432 then
    let s := d / 6
    let st := c.site.state.get s 1
    if d % 6 < 4 then c.core.on.contains (4 * s + d % 6) else if d % 6 = 4 then st == 0 else decide (st ≤ 1)
  else if d < 444 then !c.boot.die0
  else decide (d < 488)

/-- Partition status. -/
def Chip.pstat (c : Chip) (p : Nat) : Nat :=
  let q := c.part p
  pack [(0, 3, q.state), (8, 8, q.rej), (16, 16, min 65535 q.resets), (32, 9, popCount 256 q.stables), (56, 8, q.lastCls)]

/-- DCU_LNKSITE. -/
def Chip.lnkSite (c : Chip) (s : Nat) : Nat :=
  pack (((List.range 4).map fun n => let x := c.port s n; [(n, 1, b2n (x.state == 2)), (4 + n, 1, b2n (x.state == 4)), (3 * n + 8, 3, x.rxw)]).flatten)

/-- A count of the event groups at a point and bin (R411). -/
def Chip.histAt (c : Chip) (h g i b : Nat) : Nat :=
  ((c.log.groups.filter fun e => e.1 == (h, g, i, b) && decide (c.minutes < e.2.1 + 1440)).map fun e => e.2.2).sum

/-- A register of an event queue. -/
def Chip.readEvq (c : Chip) (q off : Nat) : Nat :=
  let v := c.reg (evqK q off)
  if off = 0x08 then (if q = 0 then v else setBits v 15 12 (c.evqFunc q))
  else if off = 0x18 then c.log.pidx.get q 0
  else if off = 0x20 then c.log.cidx.get q 0
  else if off = 0x30 then c.evqStat q
  else v

/-- A register of a function's block, without the mirror. -/
def Chip.readFn (c : Chip) (f off : Nat) : Nat :=
  if off = 0x20 then (c.boundPart f).getD 0x3F
  else if off = 0x28 then c.fnPcie
  else if 0x40 ≤ off ∧ off % 32 = 0x18 then c.io.heads.get (4 * f + (off - 0x40) / 32) 0
  else c.reg (dcuK (0xA000 + f * 0x100 + off))

/-- A register of a staging controller, except its data window. -/
def Chip.readCfg (c : Chip) (x : Ctl) (off : Nat) : Nat :=
  let g := c.ctl x
  match off with
  | 0x00 => pack [(0, 5, g.owner.getD 0), (8, 1, b2n g.owner.isSome)]
  | 0x18 => g.tick
  | 0x20 => g.status
  | 0x28 => g.applied
  | 0x30 => g.gen
  | 0x38 => g.peek
  | 0x48 => g.staged.length
  | 0x58 => c.reg (ctlErr x)
  | _ => 0

/-- A DCU register. -/
def Chip.readDcu (c : Chip) (off : Nat) : Nat :=
  let v := c.reg (dcuK off)
  let k := fun b => (off - b) / 8
  let b := c.boot
  let m := c.pm
  let ms := fun t => t / 1000000
  if off < 0x1000 then
    if off = 0x08 then c.counts
    else if off = 0x10 then c.site.capsBase
    else if within 0x20 0x58 off then packAll 8 8 fun j => c.site.hallmap.get (8 * k 0x20 + j) 0xFF
    else if within 0x60 0x70 off then packAll 32 2 fun i => let s := 32 * k 0x60 + i; if s < 72 then c.site.state.get s 1 else 0
    else v
  else if off < 0x1400 then
    let p := (off - 0x1000) / 0x20
    if off % 0x20 = 0x10 then c.pstat p else if off % 0x20 = 0x18 then (c.part p).pfault else v
  else if off < 0x1800 then c.plmap ((off - 0x1400) / 0x20) (off % 0x20 / 8)
  else if off = 0x1808 then pack [(0, 7, c.spare.site), (8, 2, c.spare.state)]
  else if within 0x3840 0x3940 off then c.strot (k 0x3840)
  else if within 0x4000 0x4238 off then c.lnkSite (k 0x4000)
  else if off = 0x4240 then c.yard.gen
  else if off = 0x4248 then c.yard.tick
  else if within 0x5000 0x505F off then c.readCfg .dcu (off - 0x5000)
  else if within 0x6000 0x6FFF off then
    if off = 0x6000 then pack [(0, 4, b.step), (4, 1, b2n b.done), (8, 8, b.err), (20, 4, b.errstep), (32, 2, b.fwslot), (34, 2, b.imgslot)]
    else if off ≤ 0x6050 then b.times.get (k 0x6000) 0
    else if off = 0x6058 then pack [(0, 4, packAll 4 1 fun s => b2n (Config.keyProvisioned 0 s)), (4, 4, packAll 4 1 fun s => b2n (Config.keyRevoked 0 s || bit b.rev s))]
    else if off = 0x6060 then packAll 4 1 fun s => b2n (Config.keyRevoked 0 s || bit b.rev s)
    else if within 0x6068 0x6088 off then packAll 16 4 fun j => b.tests.get (16 * k 0x6068 + j) 0
    else if off = 0x6098 then pack [(0, 1, b.acting), (1, 1, b2n b.standby), (2, 1, b.cause), (32, 32, ms b.tookAt)]
    else v
  else if within 0x7000 0x7FFF off then
    if off = 0x7000 then pack [(0, 16, m.power / 100), (16, 16, m.budget / 100), (32, 16, m.debt / 1000), (48, 8, m.run)]
    else if off = 0x7010 then pack [(0, 16, m.flow), (16, 16, tempPat m.inlet), (32, 16, tempPat m.outlet), (48, 3, m.cool), (51, 1, b2n (m.flowValid c.time.now))]
    else if within 0x7040 0x7058 off then
      let i := k 0x7040 / 2
      packAll 4 16 fun n => let s := k 0x7040 % 2 * 4 + n; (m.heat.get (8 + i) {}).fld s
    else if within 0x7060 0x7088 off then packAll 4 16 (m.heat.get (k 0x7060) {}).fld
    else if off = 0x70A0 then m.plan.gen % 2 ^ 32 + c.minutes % 2 ^ 32 * 2 ^ 32
    else if within 0x70B0 0x70C8 off then let e := m.eff.get (k 0x70B0) (0, 0); pack [(0, 16, e.1), (32, 32, e.2)]
    else if within 0x7100 0x7138 off then packAll 64 1 fun i => b2n (c.domainOn (64 * k 0x7100 + i))
    else v
  else if within 0x8000 0x8FFF off then
    let f := c.fleet
    if off = 0x8008 then c.log.seq
    else if off = 0x8018 then pack [(0, 12, c.log.logged % 4096), (32, 32, c.log.logged)]
    else if within 0x8028 0x8060 off then fieldAt (c.log.slots.get (c.reg (dcuK 0x8020)) []) (8 * k 0x8028) 8
    else if within 0x8080 0x80F8 off then
      let sel := c.reg (dcuK 0x8068)
      packAll 8 8 fun t => if (c.siteOf (bits sel 5 0)).isSome then min 255 (c.histAt (bits sel 5 0) (bits sel 9 8) (k 0x8080) t) else 0
    else if off = 0x8110 then pack [(0, 2, f.state), (8, 8, f.rej), (16, 8, f.pkgs.length), (24, 8, (f.pkgs.filter Pkg.prob).length), (32, 32, f.last)]
    else if off = 0x8118 then f.used
    else v
  else if within 0x9000 0x9FFF off then c.readEvq ((off - 0x9000) / 0x40) (off % 0x40)
  else if within 0xA000 0xAFFF off then c.readFn ((off - 0xA000) / 0x100) (off % 0x100)
  else if off = 0xB008 then c.tstat
  else if off = 0xB010 then toBits 64 c.io.off
  else v

/-! ## Base dies, I/O dies and islands -/

/-- A memory base die register. -/
def Chip.readMb (c : Chip) (m off : Nat) : Nat :=
  if within 0x1000 0x12FF off then c.readLnk (0x48 + m) ((off - 0x1000) / 0x100) ((off - 0x1000) % 0x100)
  else if off = 0x420 then (c.mbTagKey m).elim 0 c.tagBits
  else if off = 0x428 then packAll 3 1 fun p => b2n ((c.port (0x48 + m) p).state == 2)
  else if off = 0x808 then let b := c.baseQ m; pack [(0, 11, b.q.length), (16, 3, c.levelOf m), (32, 11, b.high)]
  else c.reg (mbK m off)

/-- An I/O die register. -/
def Chip.readIod (c : Chip) (i off : Nat) : Nat :=
  if within 0x0100000 0x0103FFF off && off % 0x100 == 0x18 then c.ichStat i ((off - 0x0100000) / 0x100)
  else if off = 0x0800010 then pack [(0, 2, c.io.fstate), (8, 8, c.io.fcode)]
  else if within 0x0A00000 0x0A000FF off then c.readRq (0x4E + i) (off - 0x0A00000)
  else if within 0x0C00000 0x0C008FF off then c.readLnk (0x4E + i) ((off - 0x0C00000) / 0x100) ((off - 0x0C00000) % 0x100)
  else c.reg (iodK i off)

/-- SI_STAT. -/
def Chip.siStat (c : Chip) (i : Isl) : Nat :=
  let s := c.isl i
  pack [(0, 4, if s.trap = 0 then 1 else 2), (4, 2, s.pmode), (6, 1, b2n s.peer), (7, 1, b2n s.dthold), (8, 8, s.cause), (16, 8, s.trap), (24, 8, s.badrun), (32, 7, s.bad100),
    (39, 1, b2n (s.outs.head?.getD false))]

/-- SI_PLANRX. -/
def IslSt.planRx (s : IslSt) : Nat :=
  pack [(0, 2, s.wbuf), (2, 2, s.active.getD 0), (4, 1, b2n s.active.isSome), (8, 2, s.pend.head?.getD 0), (10, 1, b2n (s.pend != []))]

/-- A register of a Loop Engine channel. -/
def Chip.readLe (c : Chip) (i : Isl) (n off : Nat) : Nat :=
  let h := (c.isl i).ch n
  let pair := fun a b => a % 2 ^ 32 + b % 2 ^ 32 * 2 ^ 32
  if off = 0x20 then pack [(0, 3, h.st), (3, 1, h.bankact), (8, 4, h.cause), (12, 4, h.late), (32, 32, h.samples)]
  else if off = 0x38 then pair h.u h.r
  else if off = 0x40 then pair h.e h.fet
  else if off = 0x48 then pair h.i h.d
  else if within 0x50 0x68 off then pair (h.x.getD ((off - 0x50) / 4) 0) (h.x.getD ((off - 0x50) / 4 + 1) 0)
  else if 0x400 ≤ off then let w := (off - 0x400) % 0x400 / 4; pair (h.word ((off - 0x400) / 0x400) w) (h.word ((off - 0x400) / 0x400) (w + 1))
  else c.reg (chK i n off)

/-- An island register, by offset from island address 0x100_0000. -/
def Chip.readIsl (c : Chip) (i : Isl) (off : Nat) : Nat :=
  let s := c.isl i
  let fs := s.fs.getD { base := 0, fb := 0, t := 0, l := 0 }
  if within 0x200 0x25F off then c.readCfg (.isl i) (off - 0x200)
  else if within 0x101000 0x120FFF off then c.readLe i ((off - 0x101000) / 0x1000) ((off - 0x101000) % 0x1000)
  else if off = 0x10 then c.siStat i
  else if off = 0x28 then fs.base
  else if off = 0x30 then fs.fb
  else if off = 0x38 then fs.t + fs.l * 2 ^ 32
  else if off = 0x40 then s.planRx
  else if off = 0x48 then s.active.elim 0 fun b => c.bufFrame i b % 2 ^ 32 + fieldAt (c.planBuf i b) 0x28 4 * 2 ^ 32
  else if within 0x80 0x98 off then packAll 2 32 fun j => s.sp.getD ((off - 0x80) / 4 + j) 0
  else if off = 0xC8 then pack [(0, 2, s.bslot), (4, 1, b2n s.timed), (8, 8, s.berr), (24, 8, min 255 s.restarts)]
  else if off = 0x100008 then pack (((List.range 32).map fun n => let st := (s.ch n).st; [(n, 1, b2n (within 1 3 st)), (32 + n, 1, b2n (st == 4))]).flatten)
  else if off = 0x100010 then pack [(0, 16, c.leLoad c.reg i), (16, 16, 1800)]
  else if off = 0x200010 then
    let driven := fun j => bit (c.reg (sioK i 0)) j || (s.safe && bit (c.reg (siK i 0xB0)) (16 + j))
    packAll 16 1 fun j => b2n (if driven j then bit s.gpioOut j else (Config.gpioPins (islN i) (c.localTime (islDie i))).getLsbD j)
  else if within 0x200200 0x200238 off then let e := s.enc.get ((off - 0x200200) / 8) (0, 0, 0); toBits 32 e.1 + e.2.1 % 2 ^ 32 * 2 ^ 32
  else if within 0x200308 0x200380 off then let a := s.adc.get ((off - 0x200308) / 8) (0, 0); pack [(0, 16, a.1), (32, 32, a.2)]
  else c.reg (siK i off)

/-- What a named register reads as, its access code apart. -/
def Chip.live (c : Chip) (k : RegKey) : Nat := match k.blk with
  | .dcu => c.readDcu k.off
  | .hall s => c.readHall s k.off
  | .mb m => c.readMb m k.off
  | .iod i => c.readIod i k.off
  | .isl i => c.readIsl i k.off

end Sys2Proof.Machine
end

