-- ==== Sys2Proof/Machine/RegWrite.lean ====
section
/-! DEFINITION. Register accesses (R4-R8): size and alignment, access codes, reserved encodings, and what a write of each register with a mechanism behind it does. -/

namespace Sys2Proof.Machine

/-- An access of the wrong size or alignment (R7). -/
def sizeBad (off n : Nat) : Bool := !((n == 4 || n == 8) && off % n == 0)

/-- A function block's mirror of the event queue that its DCU_FN_EVQ names (R422), in the queue's own place. -/
def Chip.unmirror (c : Chip) (k : RegKey) : RegKey :=
  if k.blk = .dcu ∧ 0xA000 ≤ k.off ∧ k.off < 0xB000 ∧ 0xC0 ≤ k.off % 0x100 ∧ k.off % 0x100 < 0xF8 then
    dcuK (0x9000 + bits (c.reg (dcuK (k.off / 0x100 * 0x100 + 0x30))) 5 0 * 0x40 + (k.off % 0x100 - 0xC0))
  else k

/-- The register of 8 bytes that an access lies in. -/
def RegKey.whole (k : RegKey) : RegKey := { k with off := k.off / 8 * 8 }

/-- An access that R7 answers with zero or discards. -/
def regBad (k : RegKey) (n : Nat) : Bool := sizeBad k.off n || (regRow k.whole).isNone

/-! ## Reads -/

/-- The WS register that CFG_PEEK_ADDR names. -/
def Chip.peekKey (c : Chip) (x : Ctl) : Option RegKey :=
  let a := (c.ctl x).peek
  let k : Option RegKey := match x with
    | .isl i => if 0x1000000 ≤ a then some ⟨.isl i, a - 0x1000000⟩ else none
    | .dcu => match c.target a with
      | .reg k => some k
      | _ => none
  k.filter fun k => (regRow k).any fun r => r.acc == Acc.ws

/-- The controller whose data window a register is. -/
def peekCtl (k : RegKey) : Option Ctl := match k.blk with
  | .dcu => if k.off = 0x5040 then some .dcu else none
  | .isl i => if k.off = 0x240 then some (.isl i) else none
  | _ => none

/-- A whole register, with what reading it counts: a data window that names no WS register, a tag of no block here. -/
def Chip.readWhole (c : Chip) (k : RegKey) : Chip × Nat :=
  match peekCtl k with
  | some x => match c.peekKey x with
    | some r => (c, ((c.ctl x).staged.look r).getD (c.live r))
    | none => (c.ctlBad x, 0)
  | none =>
    let noTag := match k.blk with
      | .hall s => k.off == 0xE200028 && (c.hallTagKey s).isNone
      | .mb m => k.off == 0x420 && (c.mbTagKey m).isNone
      | _ => false
    let staged := match k.blk with
      | .dcu => k.off == 0x5038 && ((c.peekKey .dcu).bind (c.ctl .dcu).staged.look).isSome
      | .isl i => k.off == 0x238 && ((c.peekKey (.isl i)).bind (c.ctl (.isl i)).staged.look).isSome
      | _ => false
    if noTag then (c.countErr k, 0) else (c, c.live k + b2n staged * 2 ^ 63)

/-- An access to an island's registers meets the Loop Engine results whose time has come (R318). -/
def Chip.settleFor (c : Chip) (k : RegKey) : Chip := match k.blk with
  | .isl i => c.leSettle i
  | _ => c

/-- A register read of `n` bytes (R4, R6, R7). -/
def Chip.regRead (c : Chip) (k : RegKey) (n : Nat) : Chip × Nat :=
  let c := c.settleFor k
  let k := c.unmirror k
  if regBad k n then (c.countErr k, 0)
  else if (regRow k.whole).any fun r => r.acc == .wo then (c.countErr k, 0)
  else
    let (c, v) := c.readWhole k.whole
    (c, if n = 8 then v else bits v (k.off % 8 * 8 + 31) (k.off % 8 * 8))

/-! ## Writes -/

/-- Store the writable bits of a value, keeping the others. -/
def Chip.keepWrite (c : Chip) (k : RegKey) (mask v : Nat) : Chip :=
  let old := c.reg k
  c.setReg k (Nat.land v mask + (old - Nat.land old mask))

/-- DCU_PCMD STOP with what stopping unbinds: the function's locks, and its commands that run (R285, R356, R424). -/
def Chip.partStopAll (c : Chip) (p : Nat) : Chip :=
  let q := c.part p
  let c := if (q.state = 2 ∨ q.state = 5) ∧ q.func < 16 then
      (c.freeLocksOf q.func).updIo fun s => { s with cmds := s.cmds.map fun e => if e.1 / 4 = q.func then (e.1, e.2.map fun h => { h with gone := true }) else e }
    else c
  c.partStop p

/-- A write of DCU_PCMD. -/
def Chip.pcmdWrite (c : Chip) (p v : Nat) : Chip := match bits v 2 0 with
  | 1 => c.partCreate p
  | 2 => c.partRestart p
  | _ => c.partStopAll p

/-- A write of a staging controller's register (R354-R361). -/
def Chip.cfgWrite (c : Chip) (x : Ctl) (m : Master) (off v : Nat) : Chip := match off with
  | 0x00 => if bit v 8 then c.cfgClaim x m (bits v 4 0) else c.cfgRelease x m
  | 0x08 => if bit v 0 || !c.ownsSet m x || (c.ctl x).state == 5 then c.cfgCheck x m else c
  | 0x10 => match bits v 1 0 with
    | 1 => c.cfgTick x m
    | 2 => c.cfgLanding x m
    | _ => c.cfgCancel x m
  | 0x18 => if c.ownsSet m x then c.updCtl x fun g => { g with tick := v } else c.ctlBad x
  | 0x38 => c.updCtl x fun g => { g with peek := v % 2 ^ 48 }
  | 0x50 => if bit v 0 || !c.ownsSet m x || (c.ctl x).state == 5 then c.cfgDiscard x m else c
  | _ => c

/-- A master may write an event queue's registers: function 0, the DCU, and the queue's own function (R429). -/
def Chip.evqMay (c : Chip) (m : Master) (q : Nat) : Bool := match m with
  | .fn f => f.val == 0 || f.val == c.evqFunc q
  | .dcu => true
  | .isl _ => false

/-- A write of an event queue's register (R427-R429). -/
def Chip.evqRegWrite (c : Chip) (m : Master) (q off mask v : Nat) : Chip :=
  let k := evqK q off
  if !c.evqMay m q then c.countErr k
  else if off = 0x08 then c.evqCfg q v
  else if off = 0x20 then c.evqCidx q (v % 2 ^ 32)
  else if (off = 0x00 ∨ off = 0x10) ∧ bit (c.reg (evqK q 8)) 8 = true then c.countErr k
  else c.keepWrite k mask v

/-- The partition that a virtual function serves holds a stable of the hall. -/
def Part.inHall (q : Part) (h : Nat) : Bool := bits q.stables (4 * h + 3) (4 * h) != 0

/-- A base that a function may place a register window at (R420). -/
def Chip.winBaseOk (c : Chip) (f base : Nat) : Bool :=
  f == 0 || (base % 0x10000000 == 0xE000000 && within 0x4000000000 0x43FFFFFFFF base
    && match c.boundPart f with
      | some p => (c.part p).inHall ((base - 0x4000000000) / 0x10000000)
      | none => false)

/-- A write of DCU_FN_SQTAIL (R423). -/
def Chip.sqTail (c : Chip) (f q v : Nat) : Chip :=
  let base := 0xA000 + f * 0x100 + 0x40 + 32 * q
  let n := 2 ^ bits (c.reg (dcuK (base + 8))) 4 0
  let v := v % 65536
  if (v + 65536 - c.io.heads.get (4 * f + q) 0) % 65536 ≥ n then c.countErr (dcuK (base + 0x10)) else c.setReg (dcuK (base + 0x10)) v

/-- A write of a function block's register (R420, R422, R423). -/
def Chip.fnWrite (c : Chip) (f off mask v : Nat) : Chip :=
  let k := dcuK (0xA000 + f * 0x100 + off)
  let en := bit (c.reg (dcuK (0xA000 + f * 0x100 + (off - 0x40) / 32 * 32 + 0x48))) 8
  if within 0x08 0x18 off then (if c.winBaseOk f (Nat.land v mask) then c.keepWrite k mask v else c.countErr k)
  else if off = 0x30 then
    (if f == 0 || (c.boundPart f).any fun p => (c.part p).evq == bits v 5 0 then c.keepWrite k mask v else c.countErr k)
  else if off < 0x40 then c.keepWrite k mask v
  else if off % 32 = 0x10 then c.sqTail f ((off - 0x40) / 32) v
  else if en || (off % 32 == 8 && bit v 8 && !within 4 16 (bits v 4 0)) then c.countErr k
  else c.keepWrite k mask v

/-- A write of a DCU register that is not WS. -/
def Chip.writeDcu (c : Chip) (m : Master) (off mask v : Nat) : Chip :=
  let k := dcuK off
  if within 0x5000 0x505F off then c.cfgWrite .dcu m (off - 0x5000) v
  else if within 0x9000 0x9FFF off then c.evqRegWrite m ((off - 0x9000) / 0x40) (off % 0x40) mask v
  else if within 0xA000 0xAFFF off then c.fnWrite ((off - 0xA000) / 0x100) (off % 0x100) mask v
  else if within 0x1000 0x13FF off then
    let p := (off - 0x1000) / 0x20
    if off % 0x20 = 8 then c.pcmdWrite p v
    else if (c.part p).state = 0 then c.keepWrite k mask v else c.countErr k
  else match off with
  | 0x1800 => let c := c.keepWrite k 0x7F v; if bit v 8 then c.sparePrepare (bits v 6 0) else c
  | 0x6060 => c.keyRevoke (bits v 3 0)
  | 0x6090 => if c.boot.done then c.countErr k else c.frameCfg v
  | 0x7018 => if bit v 0 then c.coolResume else c
  | 0x70A8 => if bit v 0 then c.effRun c.time.now else c
  | 0x8000 => let c := c.keepWrite k mask v; { c with log := { c.log with noQueue := false } }
  | 0x8108 => if bits v 1 0 = 1 then c.pkgLoad else c.pkgRemove (bits v 63 32)
  | _ => c.keepWrite k mask v

/-- A write of a hall register that is not WS. -/
def Chip.writeHall (c : Chip) (m : Master) (site off mask v : Nat) : Chip :=
  let k : RegKey := ⟨.hall site, off⟩
  if within 0xE400000 0xE43FFFF off then
    let key := 4 * site + (off - 0xE400000) / 0x10000
    let o := (off - 0xE400000) % 0x10000
    if o = 0x60 then c.kvptWrite key v
    else if o = 0xA8 ∧ ((c.ctx (2 * key)).blk.isSome || (c.ctx (2 * key + 1)).blk.isSome) = true then c.countErr k
    else c.keepWrite k mask v
  else if within 0xE600000 0xE61FFFF off then
    let p := (off - 0xE600000) / 0x1000
    let o := (off - 0xE600000) % 0x1000
    if o < 0x40 then c.hallEvtWrite site p (o / 8 % 4) v (decide (0x20 ≤ o))
    else if o < 0x140 then c.barCountWrite site p ((o - 0x40) / 8) v
    else c.sceneWrite site p ((o - 0x240) / 8) v
  else match off with
  | 0xE800000 => c.suOwnerWrite site v (m == .dcu)
  | 0xE800008 => c.suQcfgWrite site v
  | 0xE800200 => c.planCtlWrite site v
  | _ => c.keepWrite k mask v

/-- A write of IOD_CAN_CFG or IOD_ETH_CFG: while the block is on, only the enable or mode field changes, and any other change
    is discarded and counted. -/
def Chip.onlyEnable (c : Chip) (k : RegKey) (fld' mask v : Nat) : Chip :=
  let old := c.reg k
  if Nat.land old fld' = 0 then c.keepWrite k mask v
  else
    let c := c.keepWrite k fld' v
    if Nat.land old (mask - fld') = Nat.land v (mask - fld') then c else c.countErr k

/-- A write of a CAN controller's register. -/
def Chip.canWrite (c : Chip) (r : CanRef) (off mask v : Nat) : Chip :=
  if off = 0 then c.onlyEnable (canK r 0) 3 mask v
  else if 0x300 ≤ off ∧ off % 32 = 8 then c.canTxWrite r ((off - 0x300) / 32) v
  else c.keepWrite (canK r off) mask v

/-- A write of an I/O die register that is not WS. Flash commands are accepted from function 0 only (R436). -/
def Chip.writeIod (c : Chip) (i : Nat) (m : Master) (off mask v : Nat) : Chip :=
  let k := iodK i off
  if within 0x0100000 0x0103FFF off then
    let ch := (off - 0x0100000) / 0x100
    if off % 0x100 = 0x20 then c.keepWrite k mask v
    else if bit (c.reg (ichK i ch 0)) 0 then c.countErr k
    else if off % 0x100 = 0 ∧ bit v 0 = true then c.ingestEnable i ch v
    else if off % 0x100 = 0 ∧ bit v 1 = true ∧ within 32 47 ch = false then c.countErr k
    else c.keepWrite k mask v
  else if within 0x0200000 0x0203FFF off then c.canWrite (.iod (Fin.ofNat 2 i) (Fin.ofNat 4 ((off - 0x0200000) / 0x1000))) (off % 0x1000) mask v
  else if within 0x0300000 0x0305FFF off && off % 0x1000 == 0 then c.onlyEnable k 1 mask v
  else if off = 0x0800000 then if m = .fn 0 then c.flashCmd (bits v 1 0) else c.countErr k
  else c.keepWrite k mask v

/-- A write of an island register that is not WS. -/
def Chip.writeIsl (c : Chip) (i : Isl) (m : Master) (off mask v : Nat) : Chip :=
  let k := siK i off
  if within 0x200 0x25F off then c.cfgWrite (.isl i) m (off - 0x200) v
  else if within 0x201000 0x202FFF off then c.canWrite (.isl i (Fin.ofNat 2 ((off - 0x201000) / 0x1000))) (off % 0x1000) mask v
  else if off = 0x203000 then c.onlyEnable k 1 mask v
  else if within 0x101000 0x120FFF off && off % 0x1000 == 0x18 then c.leCmd i ((off - 0x101000) / 0x1000) (bits v 2 0)
  else if within 0x200100 0x200138 off then
    let c := c.keepWrite k mask v
    if (c.isl i).trap = 0 then c.updIsl i fun s => { s with pwmOut := s.pwmOut.set ((off - 0x200100) / 8) (bits v 31 16) } else c
  else match off with
  | 0x08 => let c := c.keepWrite k (mask - 0x10000) v; if bit v 16 then c.siResume i else c
  | 0x18 => c.setReg k (Nat.lor (c.reg k) (Nat.land v mask))
  | 0xA0 => c.watchdogKey i (bits v 7 0)
  | 0x100000 => c.leReset i (bit v 0)
  | 0x200008 => let c := c.keepWrite k mask v; if (c.isl i).trap = 0 then c.updIsl i fun s => { s with gpioOut := bits v 15 0 } else c
  | _ => c.keepWrite k mask v

/-- Bits of SI_STOPREQ that a master from outside may set (R300). -/
def stopBits : Master → Nat
  | .dcu => 1
  | .fn _ => 2
  | .isl _ => 7

/-- A bank word of a Loop Engine: its channel, bank and word. -/
def bankWord (off : Nat) : Option (Nat × Nat × Nat) :=
  if within 0x101000 0x120FFF off && within 0x400 0xBFF (off % 0x1000) then some ((off - 0x101000) / 0x1000, (off % 0x1000 - 0x400) / 0x400, off % 0x400 / 4) else none

/-- A master may write an island's register (R300). -/
def Chip.islMay (c : Chip) (i : Isl) (m : Master) (acc : Acc) (off v : Nat) : Bool :=
  if off / 8 * 8 = 0x50 then false
  else match m with
  | .isl j => i == j
  | _ =>
    if within 0x200 0x25F off then true
    else if off = 0x18 then Nat.land v 7 == Nat.land v (stopBits m)
    else match bankWord off with
      | some (n, b, _) => bit (c.reg (siK i 8)) 9 && ((c.isl i).ch n).bankact != b
      | none => acc == .ws

/-- A register write of `n` bytes (R4-R8): the half that a 32-bit access does not name keeps its value, or is zero in a register
    that is not a plain one. -/
def Chip.regWrite (c : Chip) (m : Master) (k : RegKey) (n v : Nat) : Chip :=
  let c := c.settleFor k
  let k := c.unmirror k
  if regBad k n then c.countErr k
  else match regRow k.whole with
  | none => c.countErr k
  | some row =>
    let w := k.whole
    let merge := fun (old : Nat) => if n = 8 then v % 2 ^ 64 else setBits old (k.off % 8 * 8 + 31) (k.off % 8 * 8) v
    let barred := match w.blk with
      | .isl i => !c.islMay i m row.acc k.off v
      | _ => false
    if barred then (match w.blk with
      | .isl i => c.bump (siK i 0xC0)
      | _ => c)
    else match row.acc with
    | .ro => c.countErr w
    | .ws => c.wsWrite m w row (merge (c.ctlView (ctlOf w) w))
    | acc =>
      let whole := merge (if acc = .rw then c.live w else 0)
      if !row.ok whole then c.countErr w
      else match w.blk with
      | .dcu => c.writeDcu m w.off row.mask whole
      | .hall s => c.writeHall m s w.off row.mask whole
      | .iod i => c.writeIod i m w.off row.mask whole
      | .mb _ => c.keepWrite w row.mask whole
      | .isl i => match bankWord k.off with
        | some (ch, b, x) => c.coefWrite i ch b x (if n = 8 then [v % 2 ^ 32, bits v 63 32] else [v % 2 ^ 32])
        | none => c.writeIsl i m w.off row.mask whole

end Sys2Proof.Machine
end

