-- ==== Sys2Proof/Machine/Bus.lean ====
section
/-! DEFINITION. Accesses of the host and the DCU by device address (R172, R173): stores, aliases, accumulators, registers, CAPS and the islands' mailbox windows. -/

namespace Sys2Proof.Machine

/-- How an access ended. -/
inductive BusSt where
  | ok
  /-- An uncorrectable word was read, or a merged write met one (R163). -/
  | bad
  /-- Outside the map, or a range that this master does not reach (R172, R300). -/
  | unmapped
  /-- The window of a logical hall that is not assigned (R172, R352). -/
  | lost
deriving DecidableEq, Repr

/-- The worse of two. -/
def BusSt.and (a b : BusSt) : BusSt := if a = .ok then b else a

/-! ## CAPS (R51) -/

/-- The defined entries of the CAPS block, in order from offset 0. -/
def capsEntries : List Nat :=
  [ 0x100, 0xD0, 0x200020, 32, 64, 524288, 0x200010, 2097152, 4, 4, 2, 65536, 4096, 16, 0x203000010000, 0x4000008000, 256, 32, 64, 6, 0x10201020,
    0x3F0FFE, 0x196, 1250000, 4096, 256 ]

/-- Bytes of the CAPS block. -/
def capsRead (off n : Nat) : List Byte :=
  (List.range n).map fun i => let a := off + i; BitVec.ofNat 8 (bits (capsEntries.getD (a / 8) 0) (a % 8 * 8 + 7) (a % 8 * 8))

/-! ## Accumulators (R160) -/

/-- The stable whose stall owns an accumulator offset (from 0x080_0000). -/
def accStb (site o : Nat) : Nat := 4 * site + o / 0x40000

/-- Neither resident context of a stable runs. -/
def Chip.accOpen (c : Chip) (key : Nat) : Bool := [2 * key, 2 * key + 1].all fun k => (c.ctx k).state != 2

/-- The resident context that holds a physical tile, with the tile's index there. -/
def Chip.tileHolder (c : Chip) (key tile : Nat) : Option (Nat × Nat) :=
  [2 * key, 2 * key + 1].findSome? fun k => ((c.ctx k).tiles.zipIdx.find? fun t => t.1 == tile).map fun t => (k, t.2)

/-- A word of an accumulator array, by word number from 0x080_0000. A tile that no resident context holds reads zero
    after the clearing of R386, and once a context has held it has no stated content (log 38). -/
def Chip.accWord (c : Chip) (site w : Nat) : W32 :=
  let key := accStb site (4 * w)
  let stall := w / 16384 % 4
  let tile := w % 16384 / 1024
  match c.tileHolder key tile with
  | some (k, t) => (c.ctx k).acc.get ((t * 4 + stall) * 1024 + w % 1024) 0
  | none => match c.core.idleAcc.look (2 ^ 18 * site + w) with
    | some v => v
    | none => if c.core.accClear.contains (key, tile) then 0 else Config.deadTile c.time.now (2 ^ 18 * site + w)

/-- Write a word of an accumulator array. -/
def Chip.setAccWord (c : Chip) (site w : Nat) (v : W32) : Chip :=
  let key := accStb site (4 * w)
  match c.tileHolder key (w % 16384 / 1024) with
  | some (k, t) => let key := (t * 4 + w / 16384 % 4) * 1024 + w % 1024; c.updCtx k fun x => { x with acc := x.acc.set key v, accNeg := x.accNeg.del key }
  | none => { c with core := { c.core with idleAcc := c.core.idleAcc.set (2 ^ 18 * site + w) v } }

/-- Read bytes of an accumulator array, by offset from 0x080_0000, as the word code leaves them. -/
def Chip.accRead (c : Chip) (site o n : Nat) : List Byte :=
  (List.range n).map fun i => let a := o + i; BitVec.ofNat 8 ((c.accWord site (a / 4)).toNat / 256 ^ (a % 4)) ^^^ c.errByte (sramKey site (0x800000 + a))

/-- Write bytes of an accumulator array. -/
def Chip.accWrite (c : Chip) (site o : Nat) (bs : List Byte) : Chip :=
  bs.zipIdx.foldl (fun c b =>
    let a := o + b.2
    c.setAccWord site (a / 4) (setFld (c.accWord site (a / 4)) (a % 4 * 8 + 7) (a % 4 * 8) b.1.toNat)) c

/-- A read of an accumulator array by the host or the DCU (R160, R162). -/
def Chip.accLoad (c : Chip) (site off n : Nat) : Chip × List Byte × BusSt :=
  if c.accOpen (accStb site (off - 0x800000)) then let (d, ue) := c.sense (sramKey site off) n; (d, c.accRead site (off - 0x800000) n, if ue then .bad else .ok)
  else (c.bump (hallMemK site 0x10), List.replicate n 0, .ok)

/-- A write of an accumulator array by the host or the DCU (R160, R163). -/
def Chip.accStore (c : Chip) (site off : Nat) (bs : List Byte) : Chip × BusSt :=
  if c.accOpen (accStb site (off - 0x800000)) then
    let (c, ue) := c.senseParts (sramKey site off) bs.length
    if ue = [] then ((c.accWrite site (off - 0x800000) bs).dropErrs (sramKey site off) bs.length, .ok) else (c.bump (hallMemK site 0x10), .bad)
  else (c.bump (hallMemK site 0x10), .ok)

/-! ## Island memory (R161, R162) -/

/-- Sense words of an island's own memory: a corrected one is recorded and written back, an uncorrectable one recorded. -/
def Chip.islSense (c : Chip) (i : Isl) (a n : Nat) : Chip × Bool :=
  let ws := c.badWords (islKey i a) n
  let synd := fun (e : Nat) => match classify e with
    | .corrected j v => j + v * 256
    | .uncorrectable s => leNat (s.map (BitVec.ofNat 8))
    | .clean => 0
  (ws.foldl (fun c w => if isUE w.2 then c.islErr i 0 0x11 (synd w.2) (w.1 * 32) else (c.settleWord w.1).islErr i 0 0x10 (synd w.2) (w.1 * 32)) c, ws.any fun w => isUE w.2)

/-! ## Where an access goes -/

/-- A register that is out of reach: one of I/O die 0 while the die is lost (R372). -/
def Chip.regGone (c : Chip) (k : RegKey) : Bool := k.blk == .iod 0 && c.boot.die0

/-- Read `n` bytes that lie in one 4 KiB page. -/
def Chip.busReadPage (c : Chip) (a n : Nat) : Chip × List Byte × BusSt :=
  let zeros := List.replicate n (0 : Byte)
  match c.target a with
  | .store key => let (c, ue) := c.sense key n; (c, c.bytesAt key n, if ue then .bad else .ok)
  | .accum site off => c.accLoad site off n
  | .aliased kind site off => let (c, bs, ue) := c.aliasRead kind site off n; (c, bs, if ue then .bad else .ok)
  | .reg k =>
    if k.blk = .iod 0 ∧ within 0x0810000 0x0810FFF k.off = true ∧ c.boot.die0 = false then (c, (c.flashBuf.drop (k.off - 0x0810000)).take n, .ok)
    else if c.regGone k then (c.countErr dcuErr, zeros, .unmapped)
    else let (c, v) := c.regRead k n; (c, leBytes n v, .ok)
  | .caps off => (c, capsRead off n, .ok)
  | .mailbox i off =>
    if off < 0x400000 then let (d, ue) := c.islSense i off n; (d, c.bytesAt (islKey i off) n, if ue then .bad else .ok)
    else if within 0x1000000 0x12FFFFF off then let (c, v) := c.regRead ⟨.isl i, off - 0x1000000⟩ n; (c, leBytes n v, .ok)
    else (c.countErr dcuErr, zeros, .unmapped)
  | .unmapped => (c.countErr dcuErr, zeros, if within 0x4000000000 0x43FFFFFFFF a then .lost else .unmapped)
  | .hallHole site => (c.bump (hallMemK site 0x10), zeros, .unmapped)

/-- A flash buffer write (the buffer lies at I/O die 0 + 0x81_0000). -/
def Chip.flashBufWrite (c : Chip) (o : Nat) (bs : List Byte) : Chip :=
  c.updIo fun s => { s with buf := bs.zipIdx.foldl (fun m b => m.set ((o + b.2) % 4096) b.1) s.buf }

/-- Write bytes that lie in one 4 KiB page. -/
def Chip.busWritePage (c : Chip) (m : Master) (a : Nat) (bs : List Byte) : Chip × BusSt :=
  let n := bs.length
  match c.target a with
  | .store key =>
    let (c, ok) := c.putBus key bs
    (c, if ok then .ok else .bad)
  | .accum site off => c.accStore site off bs
  | .aliased kind site off =>
    let (c, _, ue) := c.aliasWrite kind site off bs
    if ue then (c.bump (hallMemK site 0x10), .bad) else (c, .ok)
  | .reg k =>
    if k.blk = .iod 0 ∧ within 0x0810000 0x0810FFF k.off = true ∧ c.boot.die0 = false then (c.flashBufWrite (k.off - 0x0810000) bs, .ok)
    else if c.regGone k then (c.countErr dcuErr, .unmapped)
    else (c.regWrite m k n (leNat bs), .ok)
  | .caps _ => (c.countErr dcuErr, .ok)
  | .mailbox i off =>
    if off < 0x400000 then
      if 0x18000 ≤ off ∧ off + n ≤ 0x28000 then
        let (c, ok) := c.putBus (islKey i off) bs
        if ok then (c, .ok) else (c.bump (siK i 0xC0), .bad)
      else (c.bump (siK i 0xC0), .ok)
    else if within 0x1000000 0x12FFFFF off then (c.regWrite m ⟨.isl i, off - 0x1000000⟩ n (leNat bs), .ok)
    else (c.bump (siK i 0xC0), .unmapped)
  | .unmapped => (c.countErr dcuErr, if within 0x4000000000 0x43FFFFFFFF a then .lost else .unmapped)
  | .hallHole site => (c.bump (hallMemK site 0x10), .unmapped)

/-- The pieces of an access: a short one that does not begin in a store is a single access, whatever it crosses. -/
def Chip.busPieces (c : Chip) (a n : Nat) : List (Nat × Nat) :=
  match c.target a with
  | .store _ => devPieces a n
  | _ => if n ≤ 8 then [(a, n)] else devPieces a n

/-- Read a range by device address. -/
def Chip.busRead (c : Chip) (a n : Nat) : Chip × List Byte × BusSt :=
  (c.busPieces a n).foldl (fun r q => let (c, bs, st) := r.1.busReadPage q.1 q.2; (c, r.2.1 ++ bs, r.2.2.and st)) (c, [], .ok)

/-- Write a range by device address. -/
def Chip.busWrite (c : Chip) (m : Master) (a : Nat) (bs : List Byte) : Chip × BusSt :=
  (cutBytes (c.busPieces a bs.length) bs).foldl (fun r q =>
    let (c, st) := r.1.busWritePage m (a + r.2.2) q.2; (c, r.2.1.and st, r.2.2 + q.2.length)) (c, BusSt.ok, 0) |> fun r => (r.1, r.2.1)

/-! ## Rows -/

/-- A virtual function's BAR0 holds its own function block and nothing else that this access could name (R419): other offsets are
    unmapped, counted at the function. -/
def bar0Only (m : Master) (a : Nat) : Option Nat := match m with
  | .fn f => if f.val = 0 ∨ (0x530000A000 + 0x100 * f.val ≤ a ∧ a < 0x530000A100 + 0x100 * f.val) then none else some f.val
  | _ => none

/-- An access by device address that reaches no register is counted where it ends: in DCU_ACC_ERR at CAPS and at an unmapped range, at
    the hall of a hole, at the island whose space it misses (R51, R172, R173, R300). -/
def Chip.missed (c : Chip) (a : Nat) : Chip := match c.target a with
  | .caps _ | .unmapped => c.countErr dcuErr
  | .hallHole site => c.bump (hallMemK site 0x10)
  | .mailbox i off => if decide (off < 0x400000) || within 0x1000000 0x12FFFFF off then c else c.bump (siK i 0xC0)
  | _ => c

/-- REGISTER_WRITE: a write of 4 or 8 bytes to a register by device address; an island's own processor writes by island address
    (R4, R7, R300). -/
def Chip.registerWrite (c : Chip) (m : Master) (a : Nat) (wide : Bool) (v : Nat) : Chip :=
  let n := if wide then 8 else 4
  if let some f := bar0Only m a then c.bump (dcuK (0xA038 + f * 0x100))
  else match m with
  | .isl i => if within 0x1000000 0x12FFFFF a then c.regWrite m ⟨.isl i, a - 0x1000000⟩ n v else c
  | _ => match c.target a with
    | .reg k => if c.regGone k then c.countErr dcuErr else c.regWrite m k n v
    | .mailbox i off => if within 0x1000000 0x12FFFFF off then c.regWrite m ⟨.isl i, off - 0x1000000⟩ n v else c.missed a
    | _ => c.missed a

/-- BAD_REGISTER_ACCESS: an access that R7 answers with zero or discards is counted in its owner's counter. One that R7 permits is
    not this command. -/
def Chip.badAccess (c : Chip) (m : Master) (a n : Nat) : Chip :=
  let act := fun (k : RegKey) => if regBad (c.unmirror k) n then c.countErr (c.unmirror k) else c
  if let some f := bar0Only m a then c.bump (dcuK (0xA038 + f * 0x100))
  else match m with
  | .isl i => if within 0x1000000 0x12FFFFF a then act ⟨.isl i, a - 0x1000000⟩ else c
  | _ => match c.target a with
    | .reg k => if c.regGone k then c.countErr dcuErr else act k
    | .mailbox i off => if within 0x1000000 0x12FFFFF off then act ⟨.isl i, off - 0x1000000⟩ else c.missed a
    | .caps _ => c
    | _ => c.missed a

/-- SMBUS_READ: eight bytes of a DCU_, THM_ or IOD_ register by a 6-byte device address (R438); what the read counts is its only
    effect on the device. -/
def Chip.smbusRead (c : Chip) (a : Nat) : Chip := match c.target a with
  | .reg k => match k.blk with
    | .dcu | .iod _ => if c.regGone k then c.countErr dcuErr else (c.regRead k 8).1
    | _ => c
  | .unmapped => c.countErr dcuErr
  | .hallHole site => c.bump (hallMemK site 0x10)
  | _ => c

end Sys2Proof.Machine
end

