-- ==== Sys2Proof/Machine/Host.lean ====
section
/-! DEFINITION. The PCIe host: BAR2 (R421), the register windows (R420) and the commands of submission queues (R423, R424). -/

namespace Sys2Proof.Machine

/-- Count an access error of a function. -/
def Chip.fnErr (c : Chip) (f : Nat) : Chip := c.bump (dcuK (0xA038 + f * 0x100))

/-! ## What a function may reach -/

/-- A virtual function may read or write a device range: every page lies in a window of its partition that permits it; an X window is
    read-only (R421). -/
def Chip.fnMay (c : Chip) (f a n : Nat) (wr : Bool) : Bool :=
  match c.boundPart f with
  | none => false
  | some p => (devPieces a n).all fun q => (c.part p).permits q.1 wr

/-- A register of the blocks that a virtual function reaches in a hall (R420). -/
def Chip.fnRegMay (c : Chip) (f a : Nat) : Bool :=
  match c.boundPart f, c.target a with
  | some p, .reg ⟨.hall s, off⟩ =>
    if within 0xE400000 0xE43FFFF off then c.partOfStb (4 * s + (off - 0xE400000) / 0x10000) == some p
    else if within 0xE600000 0xE61FFFF off then (off - 0xE600000) / 0x1000 == p
    else if within 0xE800000 0xE9FFFFF off then bits (c.reg (suK s 0)) 4 0 == p
    else false
  | _, _ => false

/-- Tag the blocks that a host write touches with the function as producer (R165, R169). -/
def Chip.hostTag (c : Chip) (f a n : Nat) : Chip :=
  (devPieces a n).foldl (fun c q => match c.target q.1 with
    | .store k => c.tagBlock (k / 4096) (0x6000 + f)
    | .aliased kind site off => if aliasBad kind off q.2 || !hallStore off then c else c.tagBlock (sramKey site off / 4096) (0x6000 + f)
    | _ => c) c

/-! ## BAR2 -/

/-- The device address of offset `x` in a function's BAR2. -/
def Chip.bar2Addr (c : Chip) (f x : Nat) : Nat := bits (c.reg (dcuK (0xA000 + f * 0x100))) 46 32 * 2 ^ 32 + x % 2 ^ 36

/-- BAR2_READ of `n` bytes: what it counts and senses; a read outside the ranges that the function reaches counts in DCU_FN_ERR. -/
def Chip.bar2Read (c : Chip) (f x n : Nat) : Chip :=
  let a := c.bar2Addr f x
  if f ≠ 0 && !c.fnMay f a n false then c.fnErr f
  else
    let (c, _, st) := c.busRead a n
    if st = .unmapped then c.fnErr f else c

/-- A host write of device memory by address, where it is permitted: each block that it touches is written and re-tagged (R169). -/
def Chip.hostWrite (c : Chip) (f : Fin 16) (a : Nat) (bs : List Byte) : Chip × BusSt :=
  if f.val ≠ 0 && !c.fnMay f.val a bs.length true then (c, .unmapped)
  else
    let r := (cutBytes (c.busPieces a bs.length) bs).foldl (fun (r : Chip × BusSt × Nat) q =>
      let (c, st) := r.1.busWritePage (.fn f) (a + r.2.2) q.2
      (if st = .ok ∨ st = .bad then c.hostTag f.val (a + r.2.2) q.2.length else c, r.2.1.and st, r.2.2 + q.2.length)) (c, BusSt.ok, 0)
    (r.1, r.2.1)

/-- BAR2_WRITE. -/
def Chip.bar2Write (c : Chip) (f : Fin 16) (x : Nat) (bs : List Byte) : Chip :=
  let (d, st) := c.hostWrite f (c.bar2Addr f.val x) bs
  if st = .unmapped then d.fnErr f.val else d

/-! ## Register windows -/

/-- Device address of offset `x` in window `w` of a function. -/
def Chip.winAddr (c : Chip) (f w x : Nat) : Nat := c.reg (dcuK (0xA008 + f * 0x100 + 8 * w)) + x % 2 ^ 24

/-- REGISTER_WINDOW_ACCESS: a read, or a write of a value, of `n` bytes (R420). -/
def Chip.windowAccess (c : Chip) (f : Fin 16) (w x n : Nat) (wr : Option Nat) : Chip :=
  let a := c.winAddr f.val w x
  if f.val ≠ 0 && !(c.winBaseOk f.val (a - x % 2 ^ 24) && c.fnRegMay f.val a) then c.fnErr f.val
  else match c.target a with
  | .reg _ | .mailbox _ _ => (match wr with
    | some v => (c.busWrite (.fn f) a (leBytes n v)).1
    | none => (c.busRead a n).1)
  | _ => if sizeBad x n then c.fnErr f.val else match wr with
    | some v => (c.busWrite (.fn f) a (leBytes n v)).1
    | none => (c.busRead a n).1

/-! ## Submission queues -/

/-- Commands of a queue. -/
def Chip.hostCmds (c : Chip) (f q : Nat) : List HostCmd := c.io.cmds.get (4 * f + q) []

/-- The status that an entry's form gives, if it does not run. -/
def cmdForm (e : List Byte) : Option Nat :=
  let opc := fieldAt e 0 1
  let len := fieldAt e 4 4
  if !within 1 7 opc then some 1
  else if fieldAt e 1 1 / 4 ≠ 0 ∨ fieldAt e 0x20 32 ≠ 0 ∨ (opc = 4 ∧ len % 8 ≠ 0) ∨ (opc ≠ 2 ∧ opc ≠ 3 ∧ opc ≠ 4 ∧ len ≠ 0) then some 2
  else none

/-- COMMAND_FETCH: the device takes the next entry of a ring, whose 64 bytes come with the command (R423). -/
def Chip.commandFetch (c : Chip) (f q : Nat) (e : List Byte) : Chip :=
  let base := 0xA000 + f * 0x100 + 0x40 + 32 * q
  let head := c.io.heads.get (4 * f + q) 0
  if bit (c.reg (dcuK (base + 8))) 8 = false ∨ head = c.reg (dcuK (base + 0x10)) ∨ e.length ≠ 64 then c
  else
    let x : HostCmd := { opc := fieldAt e 0 1, flags := fieldAt e 1 1, cid := fieldAt e 2 2, len := fieldAt e 4 4, haddr := fieldAt e 8 8, daddr := fieldAt e 0x10 8, value := fieldAt e 0x18 8, done := cmdForm e }
    c.updIo fun s => { s with heads := s.heads.set (4 * f + q) ((head + 1) % 65536), cmds := s.cmds.set (4 * f + q) (c.hostCmds f q ++ [x]) }

/-- The first command of a list that satisfies `p`, changed. -/
def updFirst {α : Type} (p : α → Bool) (g : α → α) : List α → List α
  | [] => []
  | x :: xs => if p x then g x :: xs else x :: updFirst p g xs

/-- Run a started command: the oldest of its queue with this opcode and CID that has not run. `act` answers the state, the status,
    the value and the bytes completed. A command of an unbound virtual function, other than NOP, ends with ACCESS, and one whose
    partition has stopped with ABORTED (R419, R424). -/
def Chip.hostRun (c : Chip) (f q opc cid : Nat) (act : Chip → HostCmd → Chip × Nat × Nat × Nat) : Chip :=
  let mine := fun (x : HostCmd) => x.opc == opc && x.cid == cid && x.done.isNone
  match (startedCmds (c.hostCmds f q)).find? mine with
  | none => c
  | some x =>
    let (c, st, v, n) := if x.gone then (c, 5, 0, 0) else if opc ≠ 1 ∧ f ≠ 0 ∧ (c.boundPart f).isNone then (c, 3, 0, 0) else act c x
    c.updIo fun s => { s with cmds := s.cmds.upd (4 * f + q) [] (updFirst mine fun x => { x with done := some st, val := v, bytes := n }) }

/-- HOST_NOP. -/
def Chip.hostNop (c : Chip) (f q cid : Nat) : Chip := c.hostRun f q 1 cid fun c _ => (c, 0, 0, 0)

/-- Write a list of pieces until one fails: status and bytes written. -/
def Chip.hostStore (c : Chip) (f : Fin 16) (a : Nat) (bs : List Byte) : Chip × Nat × Nat × Nat :=
  let n := bs.length
  let open' := (f.val == 0 && (devPieces a n).all fun q => match c.target q.1 with
    | .unmapped => within 0x4000000000 0x43FFFFFFFF q.1
    | .hallHole _ => false
    | _ => true) || c.fnMay f.val a n true
  if !open' then (c, 3, 0, 0)
  else
    let r := (cutBytes (c.busPieces a n) bs).foldl (fun (r : Chip × Bool × Nat) q =>
      if r.2.1 then
        let (c, st) := r.1.busWrite (.fn f) (a + r.2.2) q.2
        if st = .ok then (c.hostTag f.val (a + r.2.2) q.2.length, true, r.2.2 + q.2.length) else (c, false, r.2.2)
      else r) (c, true, 0)
    (r.1, if r.2.1 then 0 else 4, 0, r.2.2)

/-- COPY_H2D; the bytes that the device reads from host memory come with the command. -/
def Chip.copyH2D (c : Chip) (f : Fin 16) (q cid : Nat) (data : List Byte) : Chip :=
  if (startedCmds (c.hostCmds f.val q)).any fun x => x.opc == 2 && x.cid == cid && x.done.isNone && x.len != data.length then c
  else c.hostRun f.val q 2 cid fun c x => c.hostStore f x.daddr data

/-- HOST_FILL. -/
def Chip.hostFill (c : Chip) (f : Fin 16) (q cid : Nat) : Chip :=
  c.hostRun f.val q 4 cid fun c x => c.hostStore f x.daddr (List.replicate (x.len / 8) (leBytes 8 x.value)).flatten

/-- COPY_D2H: device bytes to host memory, with no tag verified (R424). An uncorrectable word or a lost hall ends it. -/
def Chip.copyD2H (c : Chip) (f : Fin 16) (q cid : Nat) : Chip :=
  c.hostRun f.val q 3 cid fun c x =>
    let open' := (f.val == 0 && (devPieces x.daddr x.len).all fun q => match c.target q.1 with
      | .unmapped => within 0x4000000000 0x43FFFFFFFF q.1
      | .hallHole _ => false
      | _ => true) || c.fnMay f.val x.daddr x.len false
    if !open' then (c, 3, 0, 0)
    else
      let r := (c.busPieces x.daddr x.len).foldl (fun (r : Chip × Bool × Nat) q =>
        if r.2.1 then
          let (c, bs, st) := r.1.busRead q.1 q.2
          if st = .ok then ({ c with mem := { c.mem with cells := c.mem.cells.writeBytes (hostKey (x.haddr + r.2.2)) bs } }, true, r.2.2 + bs.length) else (c, false, r.2.2)
        else r) (c, true, 0)
      (r.1, if r.2.1 then 0 else 4, 0, r.2.2)

/-- A command may reach the register at a device address. -/
def Chip.cmdReg (c : Chip) (f a : Nat) : Bool :=
  (match c.target a with
    | .reg k => !c.regGone k
    | .mailbox _ off => within 0x1000000 0x12FFFFF off
    | .caps _ => f == 0
    | _ => false) && (f == 0 || c.fnRegMay f a)

/-- REG_WR. -/
def Chip.hostRegWr (c : Chip) (f : Fin 16) (q cid : Nat) : Chip :=
  c.hostRun f.val q 5 cid fun c x => if c.cmdReg f.val x.daddr then ((c.busWritePage (.fn f) x.daddr (leBytes 8 x.value)).1, 0, 0, 0) else (c, 3, 0, 0)

/-- REG_RD. -/
def Chip.hostRegRd (c : Chip) (f : Fin 16) (q cid : Nat) : Chip :=
  c.hostRun f.val q 6 cid fun c x =>
    if c.cmdReg f.val x.daddr then let (c, bs, _) := c.busReadPage x.daddr 8; (c, 0, leNat bs, 0) else (c, 3, 0, 0)

/-- HOST_EVT_SET: a flag of the partition that the function serves. -/
def Chip.hostEvtSet (c : Chip) (f : Fin 16) (q cid : Nat) : Chip :=
  c.hostRun f.val q 7 cid fun c x => match c.boundPart f.val with
    | some p => (c.evtSet p (x.value % 256), 0, 0, 0)
    | none => (c, 3, 0, 0)

/-- CMD_DONE: the oldest command of a queue with this CID that has run is complete; its record is written when NOTIFY = 1 or the
    status is not OK, and never after an FLR of its function (R422, R424). -/
def Chip.cmdDone (c : Chip) (f q cid : Nat) : Chip :=
  let mine := fun (x : HostCmd) => x.cid == cid && (x.done.isSome || x.gone)
  match (startedCmds (c.hostCmds f q)).find? mine with
  | none => c
  | some x =>
    let st := x.done.getD 5
    let c := c.updIo fun s => { s with cmds := s.cmds.upd (4 * f + q) [] fun l => l.eraseP mine }
    if x.quiet || (!bit x.flags 1 && st == 0) then c
    else c.postTo (bits (c.reg (dcuK (0xA030 + f * 0x100))) 5 0) (c.mkEv .CMD_DONE (dcuUnit) [(0x10, 2, x.cid), (0x12, 1, f), (0x13, 1, q), (0x14, 1, st), (0x18, 8, x.val), (0x20, 8, x.bytes)])

end Sys2Proof.Machine
end

