-- ==== Sys2Proof/Machine/IslandCore.lean ====
section
/-! DEFINITION. The islands' Eflia-S processors (R67, R152, R300-R303): issue and traps, memory and registers by island address, event flags, and check blocks. -/

namespace Sys2Proof.Machine

/-- An island instruction's effect: a next state, or a trap with its code and the state it leaves (R301). -/
abbrev IEx := StateT Chip (Except (Nat × Chip))

/-- Trap. -/
def itrap {α : Type} (code : Nat) : IEx α := fun c => .error (code, c)

/-- Require a condition, else trap. -/
def ineed (b : Bool) (code : Nat) : IEx Unit := if b then pure () else itrap code

/-- Trap with the lowest of the codes whose condition holds. -/
def ichecks (l : List (Bool × Nat)) : IEx Unit := match lowest ((l.filter Prod.fst).map Prod.snd) with
  | none => pure ()
  | some (code, _) => itrap code

/-- The island. -/
def iget (i : Isl) : IEx IslSt := return (← get).isl i

/-- Change the island. -/
def iset (i : Isl) (f : IslSt → IslSt) : IEx Unit := modify fun c => c.updIsl i f

/-- Read S[n]; S0 is zero. -/
def igetS (i : Isl) (n : Nat) : IEx W64 := do
  let s ← iget i
  return if n = 0 then 0 else s.file.s.get n 0

/-- Write S[n]; writes to S0 are discarded. -/
def isetS (i : Isl) (n : Nat) (v : W64) : IEx Unit := if n = 0 then pure () else iset i fun s => { s with file := { s.file with s := s.file.s.set n v } }

/-- Read P[n]; P0 is 1. -/
def IslSt.rp (s : IslSt) (n : Nat) : Bool := n == 0 || s.file.p.getLsbD n

/-- Write P[n]. -/
def isetP (i : Isl) (n : Nat) (b : Bool) : IEx Unit := iset i fun s => { s with file := { s.file with p := setPred s.file.p n b } }

/-! ## Issue -/

/-- The processor may issue an instruction: its firmware has started, it is not in FAULT, it has not ended and does not wait. -/
def Chip.islIssues (c : Chip) (i : Isl) : Bool := let s := c.isl i; s.up && s.trap == 0 && !s.ended && s.wait == .none

/-- Instruction words lie in code and data (R300). -/
def islFetchOk (ia next : Nat) : Bool := decide (0x28000 ≤ ia) && decide (ia + 8 * (1 + next) ≤ 0x400000)

/-- The pass that runs. -/
def IBlock.cur (b : IBlock) : IPass := b.passes.getLast?.getD {}

/-- Change the pass that runs. -/
def IBlock.updCur (b : IBlock) (f : IPass → IPass) : IBlock := { b with passes := b.passes.dropLast ++ [f b.cur] }

/-- Change the open block. -/
def iblk (i : Isl) (f : IBlock → IBlock) : IEx Unit := iset i fun s => { s with blk := s.blk.map f }

/-- The checks before an instruction's own effect; answers whether it executes (R41, R55, R301, R302). -/
def iprologue (i : Isl) (d : IDesc) (e : Enc) : IEx Bool := do
  let s ← iget i
  ichecks [(s.ia % 8 != 0, ALIGNMENT), (!islFetchOk s.ia 0, ACCESS)]
  let go := s.rp e.pred.toNat != e.pneg
  ichecks [(!d.decodes e, ILLEGAL_INSTRUCTION), (go && e.alt.isNone && e.next.toNat == d.fmt.next && !islFetchOk s.ia d.fmt.next, ACCESS)]
  match s.blk with
  | some b => do
    ineed (!go || b.cur.insns < 4096) CHECK_SCOPE
    iblk i fun b => b.updCur fun p => { p with insns := p.insns + 1 }
  | none => pure ()
  iset i fun s => { s with ia := s.ia + 8 * (1 + d.fmt.next) }
  pure go

/-- One instruction of an island's processor. -/
def Chip.islInstr (c : Chip) (i : Isl) (d : IDesc) (e : Enc) (body : Isl → IEx Unit) : Chip :=
  if c.islIssues i then
    match (do if ← iprologue i d e then body i else pure () : IEx Unit) c with
    | .ok ((), c') => c'
    | .error (code, c') => c'.islTrap i code
  else c

/-- An instruction that an Eflia-S processor does not decode (R67). -/
def Chip.islIllegal (c : Chip) (i : Isl) : Chip :=
  if c.islIssues i then
    let s := c.isl i
    c.islTrap i (if !islFetchOk s.ia 0 then ACCESS else if s.ia % 8 ≠ 0 then ALIGNMENT else ILLEGAL_INSTRUCTION)
  else c

/-! ## Records (R302) -/

/-- Record an outcome; beyond 4 KiB the block traps CHECK_SCOPE. -/
def irecord (i : Isl) (val : Nat) : IEx Unit := do
  match (← iget i).blk with
  | none => pure ()
  | some b => do
    ineed (16 * (b.recs.length + 1) ≤ 4096) CHECK_SCOPE
    iset i fun s => s.note 16 val

/-- A value that the primary pass obtains and the later passes replay. -/
def irecorded (i : Isl) (act : IEx Nat) : IEx Nat := do
  match (← iget i).blk with
  | none => act
  | some b =>
    if b.state = 1 then do
      let v ← act
      irecord i v
      pure v
    else do
      iblk i fun b => { b with recPos := b.recPos + 1 }
      pure ((b.recs[b.recPos]?.map DlyRec.val).getD 0)

/-- A pass that replays: waits do not wait. -/
def IslSt.later (s : IslSt) : Bool := match s.blk with
  | some b => b.state != 1
  | none => false

/-! ## Memory and registers by island address -/

/-- An address that a load reads: memory, or a register block. -/
def islMapped (a n : Nat) : Bool := decide (a + n ≤ 0x400000) || (decide (0x1000000 ≤ a) && decide (a + n ≤ 0x1300000))

/-- An asynchronous input (R302): I/O registers, SI_SP0 to SI_SP3, the message area and the plan buffers. -/
def islAsync (a : Nat) : Bool := decide (a < 0x28000) || decide (0x1200000 ≤ a) || within 0x1000080 0x100009F a

/-- Read `n` bytes as they stand: a corrected word is recorded and written back, an uncorrectable one traps. -/
def islBytes (i : Isl) (a n : Nat) : IEx (List Byte) := do
  let c ← get
  if a < 0x400000 then do
    let (d, ue) := c.islSense i a n
    set d
    if ue then itrap DATA_UNCORRECTABLE else return d.bytesAt (islKey i a) n
  else do
    let (c, v) := c.regRead ⟨.isl i, a - 0x1000000⟩ n
    set c
    pure (leBytes n v)

/-- Bytes as the running pass sees them: its own pending writes lie over them. -/
def IPass.overlay (p : IPass) (a : Nat) (bs : List Byte) : List Byte :=
  p.writes.foldl (fun bs w => bs.zipIdx.map fun b => if w.1 ≤ a + b.2 ∧ a + b.2 < w.1 + w.2.length then w.2.getD (a + b.2 - w.1) 0 else b.1) bs

/-- Load `n` bytes. -/
def iload (i : Isl) (a n : Nat) : IEx Nat := do
  ineed (islMapped a n) ACCESS
  let see : IEx Nat := do
    let bs ← islBytes i a n
    match (← iget i).blk with
    | some b => return leNat (b.cur.overlay a bs)
    | none => return leNat bs
  if islAsync a && (← iget i).blk.isSome then irecorded i see else see

/-- An address that the firmware may store to (R300): the message area, code and data, and registers. -/
def islStorable (a n : Nat) : Bool := (decide (0x18000 ≤ a) && decide (a + n ≤ 0x400000)) || (decide (0x1000000 ≤ a) && decide (a + n ≤ 0x1300000))

/-- Perform a store. -/
def Chip.islStoreNow (c : Chip) (i : Isl) (a : Nat) (bs : List Byte) : Chip :=
  if a < 0x400000 then c.putRaw (islKey i a) bs else c.regWrite (.isl i) ⟨.isl i, a - 0x1000000⟩ bs.length (leNat bs)

/-- Pending words that a pass holds. -/
def IPass.words (p : IPass) : Nat := ((p.writes.map fun w => (List.range ((w.1 + w.2.length - 1) / 8 - w.1 / 8 + 1)).map (· + w.1 / 8)).flatten.eraseDups).length

/-- Feed bytes to the running pass's signature (R250). -/
def ifeed (i : Isl) (bs : List Byte) : IEx Unit :=
  iblk i fun b => b.updCur fun p => { p with sigLo := crc64Run sigPolyLo p.sigLo bs, sigHi := crc64Run sigPolyHi p.sigHi bs }

/-- A store that covers a word of memory in part merges into it: an uncorrectable one traps (R163). -/
def islMerge (i : Isl) (a n : Nat) : IEx Unit := do
  if a < 0x400000 ∧ (a % 32 ≠ 0 ∨ n % 32 ≠ 0) then
    let (d, ue) := (← get).islSense i a n
    set d
    ineed (!ue) DATA_UNCORRECTABLE
  else pure ()

/-- Store bytes: at once, or pending in a block (R302). -/
def istore (i : Isl) (a : Nat) (bs : List Byte) : IEx Unit := do
  ineed (islStorable a bs.length) ACCESS
  islMerge i a bs.length
  match (← iget i).blk with
  | none => modify fun c => c.islStoreNow i a bs
  | some b => do
    ineed (({ b.cur with writes := b.cur.writes ++ [(a, bs)] } : IPass).words ≤ 2048) CHECK_SCOPE
    iblk i fun b => b.updCur fun p => { p with writes := p.writes ++ [(a, bs)] }
    ifeed i (sigEntries (islKey i a) bs)

/-! ## Scalar instructions -/

/-- S[D] ← A op B. -/
def ialu (sub : Nat) (e : Enc) (i : Isl) : IEx Unit := do isetS i e.d (aluOp sub (← igetS i e.a) (← igetS i e.b))
/-- S[D] ← A op IMM30. -/
def ialui (sub : Nat) (e : Enc) (i : Isl) : IEx Unit := do isetS i e.d (aluOp sub (← igetS i e.a) e.imm30)
/-- S[D] ← IMM64. -/
def ili (e : Enc) (i : Isl) : IEx Unit := isetS i e.d e.x0
/-- LD. -/
def ild (sub : Nat) (e : Enc) (i : Isl) : IEx Unit := do
  let v ← iload i ((← igetS i e.a) + e.imm30).toNat (ldBytes sub)
  isetS i e.d (ldExtend sub v)
/-- ST. -/
def ist (sub : Nat) (e : Enc) (i : Isl) : IEx Unit := do
  istore i ((← igetS i e.a) + e.imm30).toNat (leBytes (2 ^ (sub % 4)) (← igetS i e.d).toNat)
/-- CMP. -/
def icmp (sub : Nat) (e : Enc) (i : Isl) : IEx Unit := do isetP i e.d (cmpOp sub (← igetS i e.a) (← igetS i e.b))
/-- CMPI. -/
def icmpi (sub : Nat) (e : Enc) (i : Isl) : IEx Unit := do isetP i e.d (cmpOp sub (← igetS i e.a) e.imm30)
/-- PLOG. -/
def iplog (sub : Nat) (e : Enc) (i : Isl) : IEx Unit := do
  let s ← iget i
  isetP i e.d (plogOp sub (s.rp e.a) (s.rp e.b))

/-- A branch taken to an address (R60, R147). -/
def ibranch (i : Isl) (a : Nat) : IEx Unit := do
  let s ← iget i
  ineed (a % 8 == 0) ALIGNMENT
  ineed (match s.blk with
    | some b => decide (b.ia + 8 ≤ a)
    | none => true) CHECK_SCOPE
  iset i fun s => { s with ia := a }

/-- BR. -/
def ibr (e : Enc) (i : Isl) : IEx Unit := do ibranch i (brTarget ((← iget i).ia - 8) e)
/-- CALL. -/
def icall (e : Enc) (i : Isl) : IEx Unit := do
  let ia := (← iget i).ia
  isetS i 31 (BitVec.ofNat 64 ia)
  ibranch i (brTarget (ia - 8) e)
/-- JR. -/
def ijr (e : Enc) (i : Isl) : IEx Unit := do ibranch i (← igetS i e.a).toNat
/-- JRL. -/
def ijrl (e : Enc) (i : Isl) : IEx Unit := do
  let t ← igetS i e.a
  isetS i e.d (BitVec.ofNat 64 (← iget i).ia)
  ibranch i t.toNat

/-- The island status word of MFS.CSW. -/
def IslSt.csw (s : IslSt) : Nat :=
  pack [(0, 4, if s.trap = 0 then 1 else 2), (5, 1, b2n s.blk.isSome), (12, 1, b2n s.dthold), (13, 1, b2n s.peer), (14, 2, s.pmode), (16, 8, s.trap)]

/-- MFS.CSW (R67). -/
def imfsCsw (e : Enc) (i : Isl) : IEx Unit := do isetS i e.d (BitVec.ofNat 64 (← iget i).csw)
/-- MFS.DEVTIME: the island's local copy, recorded (R64, R67). -/
def imfsDevtime (e : Enc) (i : Isl) : IEx Unit := do
  let v ← irecorded i (return (← get).localTime (islDie i))
  isetS i e.d (BitVec.ofNat 64 v)
/-- MFS.IADDR. -/
def imfsIaddr (e : Enc) (i : Isl) : IEx Unit := do isetS i e.d (BitVec.ofNat 64 ((← iget i).ia - 8))
/-- END: the processor halts; inside a block it traps CHECK_SCOPE (R148). -/
def iend (i : Isl) : IEx Unit := do
  ineed (← iget i).blk.isNone CHECK_SCOPE
  iset i fun s => { s with ended := true }

/-! ## Events (R303) -/

/-- The flag that an EVT names: reserved flags, and numbers beyond the 32 flags, trap. -/
def iflag (i : Isl) (e : Enc) : IEx Nat := do
  let f := (← igetS i e.a).toNat % 256
  ineed (f < 7 || within 16 31 f) ILLEGAL_INSTRUCTION
  pure f

/-- Hold an operation until the block commits. -/
def ihold (i : Isl) (sub : Nat) (ops : List W64) : IEx Unit := do
  let h : Held := { opc := 0x72, sub := sub, ops := ops }
  iblk i fun b => b.updCur fun p => { p with held := p.held ++ [h] }
  ifeed i h.bytes

/-- A held or immediate EVT: SET 0, CLR 2, POST 3. -/
def Chip.islHeld (c : Chip) (i : Isl) (h : Held) : Chip :=
  let f := (h.ops.getD 0 0).toNat
  match h.sub with
  | 0 => c.islFlag i f
  | 2 => c.updIsl i fun s => { s with flags := if bit s.flags f then s.flags - 2 ^ f else s.flags }
  | _ => c.ringPut i (.evt { c.mkEv .USER (islUnit i) [(0x10, 4, f % 2 ^ 32), (0x18, 8, (h.ops.getD 1 0).toNat)] with time := c.localTime (islDie i) })

/-- Do an EVT now, or hold it. -/
def ievtDo (i : Isl) (sub : Nat) (ops : List W64) : IEx Unit := do
  if (← iget i).blk.isSome then ihold i sub ops else modify fun c => c.islHeld i { opc := 0x72, sub := sub, ops := ops }

/-- EVT.SET and EVT.CLR. -/
def ievtSet (clr : Bool) (e : Enc) (i : Isl) : IEx Unit := do
  let f ← iflag i e
  ievtDo i (if clr then 2 else 0) [BitVec.ofNat 64 f]
/-- EVT.POST: a record in the island's ring. -/
def ievtPost (e : Enc) (i : Isl) : IEx Unit := do ievtDo i 3 [← igetS i e.a, ← igetS i e.b]
/-- EVT.WAIT. -/
def ievtWait (e : Enc) (i : Isl) : IEx Unit := do
  let f ← iflag i e
  let s ← iget i
  if s.later || bit s.flags f then let _ ← irecorded i (pure 1)
  else do
    ineed (match s.blk with
      | some b => decide (16 * (b.recs.length + 1) ≤ 4096)
      | none => true) CHECK_SCOPE
    iset i fun s => { s with wait := .evt f false }

/-- WAITT against the island's local copy. -/
def iwaitt (e : Enc) (i : Isl) : IEx Unit := do
  let t := (← igetS i e.a).toNat
  let c ← get
  let s := c.isl i
  if s.later || decide (t ≤ c.localTime (islDie i)) then isetS i e.d (BitVec.ofNat 64 (← irecorded i (pure (c.localTime (islDie i)))))
  else do
    ineed (match s.blk with
      | some b => decide (16 * (b.recs.length + 1) ≤ 4096)
      | none => true) CHECK_SCOPE
    iset i fun s => { s with wait := .time t e.d }

/-- WAITT_RESUME at an island. -/
def Chip.islWaittResume (c : Chip) (i : Isl) : Chip :=
  let now := c.localTime (islDie i)
  match (c.isl i).wait with
  | .time t d => if t ≤ now then c.updIsl i fun s => let s := { s.note 16 now with wait := .none }; if d = 0 then s else { s with file := { s.file with s := s.file.s.set d (BitVec.ofNat 64 now) } } else c
  | _ => c

/-! ## Check blocks (R302) -/

/-- CHKB. -/
def ichkb (e : Enc) (i : Isl) : IEx Unit := do
  let s ← iget i
  ineed s.blk.isNone CHECK_SCOPE
  iset i fun s => { s with blk := some { cbid := fld e.body 15 0, ia := s.ia - 8, start := s.file } }

/-- The bytes that the final registers add to a signature: the processor holds no TD registers. -/
def RegImg.islBytes (r : RegImg) : List Byte :=
  ((List.range 31).map fun n => leBytes 8 (r.s.get (n + 1) 0).toNat).flatten ++ (List.range 15).map fun n => BitVec.ofNat 8 (b2n (r.p.getLsbD (n + 1)))

/-- A pass's result. -/
def IPass.sig (p : IPass) : Nat × Nat := (p.sigLo, p.sigHi)

/-- A pass commits: its pending writes in order, its held operations, and its registers. -/
def Chip.islCommit (c : Chip) (i : Isl) (b : IBlock) (p : IPass) : Chip :=
  let c := c.updIsl i fun s => { s with blk := none, file := p.fin, ia := b.nextIa }
  let c := p.writes.foldl (fun c w => c.islStoreNow i w.1 w.2) c
  p.held.foldl (fun c h => c.islHeld i h) c

/-- CHKE. -/
def ichke (i : Isl) : IEx Unit := do
  let s ← iget i
  ineed s.blk.isSome CHECK_SCOPE
  ifeed i s.file.islBytes
  iblk i fun b => b.updCur fun p => { p with fin := s.file }
  match (← iget i).blk with
  | none => pure ()
  | some b =>
    let again := fun (st : Nat) => iset i fun s => { s with ia := b.ia + 8, file := b.start, blk := some { b with state := st, nextIa := if st = 2 then s.ia else b.nextIa, recPos := 0, passes := b.passes ++ [{}] } }
    match b.passes with
    | [_] => again 2
    | [p, q] => if p.sig == q.sig then modify fun c => c.islCommit i b p else again 3
    | p :: q :: r :: _ =>
      if r.sig == p.sig || r.sig == q.sig then modify fun c => (c.bump (siK i 0xB8)).islCommit i b r else itrap CHECK_FAIL
    | [] => pure ()

/-! ## Either processor -/

/-- An instruction of a context, or of an island's processor where Eflia-S has it. -/
def Chip.either (c : Chip) (x : Exr) (d : IDesc) (e : Enc) (body : Nat → Ex Unit) (isl : Option (Isl → IEx Unit)) : Chip := match x with
  | .ctx r => c.instr r d e body
  | .isl i => match isl with
    | some f => c.islInstr i d e f
    | none => c.islIllegal i

end Sys2Proof.Machine
end

