-- ==== Sys2Proof/Machine/Landing.lean ====
section
/-! DEFINITION. The landing (R24-R26, R447): the landing start's actions in their fixed order, the moves of contexts (R50, R280), the commit deadline (R25, R46), and the distribution of the frame schedule and of DEVTIME (R21, R238). -/

namespace Sys2Proof.Machine

/-- The home stable of a context has its LANDMAP bit set (R280). -/
def Chip.mapped (c : Chip) (x : Ctx) : Bool := let d := c.descOf x; bit (c.part x.part).landmap (4 * d.hall + d.stable)

/-- A context that the map moves to frame `n`: it has a state in which it works, and an earlier frame. -/
def Chip.movesTo (c : Chip) (x : Ctx) (n : Nat) : Bool := (x.state == 1 || x.state == 2 || x.state == 3 || x.state == 5) && decide (x.lfc < n) && c.mapped x

/-- Step 5 of R447, first part: the moves of R280. A context that runs, or has a block open, moves at its next instruction
    boundary or when the block ends (R50); every other one moves now. -/
def Chip.moveContexts (c : Chip) (n : Nat) : Chip :=
  let c := (c.core.slots.map Prod.fst).foldl (fun c k =>
    let x := c.ctx k
    if c.movesTo x n then
      let c := c.updCtx k fun x => { x with moveTo := some n }
      if x.state = 2 ∨ x.blk.isSome then c else c.applyMove k
    else c) c
  (c.core.saved.map Prod.fst).foldl (fun c key => match c.core.saved.look key with
    | some x => if c.movesTo x n then (c.updSaved key fun x => { x with lfc := n, moveTo := none, budget := c.lfcBudget x }).frameDone key.1 else c
    | none => c) c

/-- The frame that starts next. -/
def Chip.nextFrame (c : Chip) : Nat := if c.time.running then c.time.frame + 1 else 0

/-- A frame starts: DEVTIME stands at its landing-start tick; frame 0 ends start-up (R383). -/
def Chip.frameStarts (c : Chip) (n : Nat) : Chip :=
  let c := c.at (c.start n)
  let c := if c.time.running then c else { c with boot := { c.boot with step := 10, done := true, times := c.boot.times.set 10 (c.start 0) } }
  { c with time := { c.time with running := true, frame := n } }

/-- The DCU writes the frame schedule to an island that it reaches (R306). -/
def Chip.scheduleIsl (c : Chip) (i : Isl) : Chip := if c.heard i then c.updIsl i fun s => { s with fs := c.schedule } else c

/-- Step 4 of R447: every walker detaches its reclaim batch (R182). -/
def Chip.detachAll (c : Chip) (n : Nat) : Chip := (List.range 288).foldl (fun c stb => c.kvDetach stb n) c

/-- LANDING_START: the landing start of the next frame, with the actions of R447 in their order. -/
def Chip.landingStart (c : Chip) : Chip :=
  if c.time.fixed && !c.boot.held then
    let n := c.nextFrame
    let c := c.frameStarts n
    let c := (c.cfgLand (c.start n)).planLand
    let c := c.scenesLand
    let c := c.disarmStale
    let c := c.detachAll n
    let c := (c.moveContexts n).landResume n
    let c := c.startContexts n
    let c := c.stLanding
    ((c.keepGuards n).scheduleIsl .A).scheduleIsl .B
  else c

/-- CONTEXT_LANDING_MOVE: a slot is at an instruction boundary or its block has ended (R50). -/
def Chip.landingMove (c : Chip) (k : Nat) : Chip := if (c.ctx? k).isSome then c.applyMove k else c

/-- A saved context still works for a frame at its commit deadline: FRAME_OVERRUN and the frame abandon (R46). -/
def Chip.overrunSaved (c : Chip) (key : Nat × Nat) : Chip := match c.core.saved.look key with
  | none => c
  | some x =>
    let d := c.descOf x
    let stb := (c.homeKey d).getD 0
    let c := (c.sendErr { unit := stbUnit stb, cls := FRAME_OVERRUN, part := x.part }).post .PART_FAULT (stbUnit stb) (some x.part)
    (c.updSaved key fun x => { x with v := [], acc := [], accNeg := [], lost := [], p := x.p &&& 1, overrun := true, fault := FRAME_OVERRUN, multi := false, ia := d.fentry, lfc := c.curFrame, wait := .none, blk := none, colls := [], joins := [], moveTo := none, budget := c.lfcBudget x }).frameDone key.1

/-- COMMIT_DEADLINE of frame `n`: every context that still works for it raises FRAME_OVERRUN (R25, R46). -/
def Chip.commitDeadline (c : Chip) (n : Nat) : Chip :=
  if c.time.running && decide (n < c.time.frame) && !c.boot.held then
    let c := c.at (c.start (n + 1) + c.L)
    let late := fun (x : Ctx) => x.lfc == n && (x.state == 1 || x.state == 2 || x.state == 3 || x.state == 5)
    let ks := (c.core.slots.filter fun e => late e.2).map Prod.fst
    let sv := (c.core.saved.filter fun e => late e.2).map Prod.fst
    sv.foldl Chip.overrunSaved (ks.foldl Chip.frameOverrun c)
  else c

/-- FRAME_SCHEDULE_DELIVERY at a hall's plan port: an active hall, or a spare in preparation (R238). -/
def Chip.scheduleDelivery (c : Chip) (site : Nat) : Chip := if c.crossable site then c.scheduleTo site else c

/-- DEVTIME_DISTRIBUTION to a die, whose copy then lies `off` ns from the acting DCU's (R21). An island takes it over its I/O
    die link once that has first delivered time; in DTHOLD its copy runs on (R298). -/
def Chip.devtimeTo (c : Chip) (die : Nat) (off : Int) : Chip :=
  if c.boot.held || die == 0x4E + c.boot.acting then c
  else if die = 0x50 ∨ die = 0x51 then
    let i : Isl := if die = 0x50 then .A else .B
    let s := c.isl i
    if s.held || !s.timed || !c.islLink i || (die == 0x50 && c.boot.die0) then c
    else (if s.dthold || (die == 0x51 && c.islA.dthold) then c else c.setOffset die off).timeToIsl i
  else c.setOffset die off

end Sys2Proof.Machine
end

