-- ==== Sys2Proof/Machine/Scrub.lean ====
section
/-! DEFINITION. Write-back of corrected words and the patrol scrubbers (R162, R164). -/

namespace Sys2Proof.Machine

/-- Mark the records of a delay buffer word with the word's error (R259). -/
def Chip.markDly (c : Chip) (w : Nat) : Chip :=
  let off := w * 32 % 0x10000000
  if within 0x900000 0x93FFFF off then
    let k := 8 * ((w * 32 - 0x4000000000) / 0x10000000) + (off - 0x900000) / 0x8000
    let lo := (off - 0x900000) % 0x8000
    let e := c.mem.errs.get w 0
    let mark := fun (r : DlyRec) => match classify e with
      | .clean => { r with bad := false, fixed := false, synd := 0 }
      | .corrected i v => { r with bad := false, fixed := true, synd := i + v * 256 }
      | .uncorrectable s => { r with bad := true, fixed := false, synd := leNat (s.map (BitVec.ofNat 8)) }
    let go := fun (p : Nat × List DlyRec) (r : DlyRec) => (p.1 + r.bytes, p.2 ++ [if p.1 < lo + 32 ∧ lo < p.1 + r.bytes then mark r else r])
    match c.ctx? k with
    | some x => c.setCtx k { x with blk := x.blk.map fun b => { b with recs := (b.recs.foldl go (0, [])).2 } }
    | none => c
  else c

/-- CORRECTED_WORD_WRITEBACK of store word `w` (key / 32): where a read corrected it and no master has written it since. -/
def Chip.writeBack (c : Chip) (w : Nat) : Chip := if (c.mem.wb.look w).isSome then (c.settleWord w).markDly w else c

/-- Words that a scrubber of a hall's SRAM reads in a pass: the banks, the accumulators, the delay buffers, the lofts and the Search Unit
    store (R153, R173). -/
def hallWords : Nat := (0x940000 + 0xA00000) / 32

/-- Words of a stack that its scrubber reads in a pass (R170). -/
def stackWords : Nat := 0x3600000000 / 6 / 32

/-- Words of a system cache, which the scrubber reads after those of the stack (R164, R171). -/
def cacheWords : Nat := 0x2000000 / 32

/-- Store word at a position of hall site `site`'s pass. -/
def hallWord (site p : Nat) : Nat := (sramKey site 0) / 32 + if p < 0x4A000 then p else 0x80000 + (p - 0x4A000)

/-- Store word at a position of stack `m`'s pass: its pages are every sixth page of DRAM. -/
def stackWord (m p : Nat) : Nat := (p / 128 * 6 + m) * 128 + p % 128

/-- Store word that a word of stack `m`'s system cache holds a copy of, by position: line slot 16 * set + way, word of the line. -/
def Chip.cacheWord (c : Chip) (m p : Nat) : Option Nat := ((c.rq.dies.get m {}).lines.look (p / 8)).map fun l => stackWord m (l.1 * 8 + p % 8)

/-- The store word at a position of a scrubber's pass; a cache word that holds no line has none. -/
def Chip.scrubWord (c : Chip) (who p : Nat) : Option Nat :=
  if who < 72 then some (hallWord who p) else if p < stackWords then some (stackWord (who - 72) p) else c.cacheWord (who - 72) (p - stackWords)

/-- Words of a scrubber's pass. -/
def scrubWords (who : Nat) : Nat := if who < 72 then hallWords else stackWords + cacheWords

/-- Scrubber `who`: hall site 0-71, or 72 + memory base die. Its control register. -/
def scrubKey (who : Nat) : RegKey := if who < 72 then hallMemK who 0x18 else mbK (who - 72) 0x410

/-- The unit of a scrubber runs. -/
def Chip.scrubbed (c : Chip) (who : Nat) : Bool := if who < 72 then decide (c.site.state.get who 1 ≤ 1) else !c.yard.lost.contains (who - 72)

/-- PATROL_SCRUB: an enabled scrubber reads its next word. `upset` is what the word's cells have changed by since it was written, as
    an error vector over the 36 symbols: a fact of the hardware. -/
def Chip.patrolScrub (c : Chip) (who : Nat) (upset : Nat) : Chip :=
  let r := c.reg (scrubKey who)
  if !bit r 0 || !c.scrubbed who then c
  else
    let n := scrubWords who
    let p := c.mem.scrubPos.get who 0
    let next := { c with mem := { c.mem with scrubPos := c.mem.scrubPos.set who ((p + 1) % n) } }
    let c := match c.scrubWord who p with
      | none => next
      | some w =>
        let c := next.writeBack w
        let e := Nat.xor (c.mem.errs.get w 0) (upset % 2 ^ 288)
        let c := { c with mem := { c.mem with errs := if e = 0 then c.mem.errs.del w else c.mem.errs.set w e } }
        (c.senseWord true w e).markDly w
    if p + 1 = n then c.setReg (scrubKey who) (setBits r 63 32 (bits r 63 32 + 1)) else c

end Sys2Proof.Machine
end

