-- ==== Sys2Proof/Machine/Commands.lean ====
section
/-! DEFINITION. What a command's operands select, where one row serves several units: waits in WAITT, new and held requests, temperature sensors, the islands' clock monitor and record rings, and writes of WS registers. -/

namespace Sys2Proof.Machine

/-- WAITT_RESUME at `t`: of a context, resident or saved, or of an island's processor (R142, R152). -/
def Chip.timeFor (c : Chip) (w : Waiter) (t : Nat) : Chip := match w with
  | .ctx p i => (c.at t).timeReached p.val i
  | .isl i => (c.at t).islWaittResume i

/-- REQUEST_ISSUE at `t` of a requester on `die` (R291). -/
def Chip.requestIssue (c : Chip) (die : Nat) (q : ReqIssue) (t : Nat) : Chip := match q with
  | .fresh m by' addr wr bytes => c.newRequest die m.val by' addr.toNat wr bytes t
  | .held m stack waited => c.issueHeld die m.val stack.val waited t

/-- TEMPERATURE_SAMPLE of a die or an island (R393, R395). -/
def Chip.heatSample (c : Chip) (d : HeatDie) (rs : List (Int × Bool)) (t : Nat) : Chip := match d with
  | .die d => c.temperature d rs t
  | .isl i => c.islTemperature i rs t

/-- The crystal monitor of an island that runs finds the clock outside its range: trap CLOCK (R301). -/
def Chip.clockTrap (c : Chip) (i : Isl) : Chip := if (c.isl i).up && (c.isl i).trap == 0 then c.islTrap i 0x22 else c

/-- The DCU reaches an island over its I/O die link. -/
def Chip.linkHears (c : Chip) (i : Isl) : Bool := (c.port (0x4E + islN i) 8).state == 2 && !(i == .A && c.boot.die0)

/-- The register that an access of a master names by its address: an island's own processor uses island addresses (R172, R300). -/
def Chip.regAt (c : Chip) (m : Master) (a : Nat) : Option RegKey := match m with
  | .isl i => if within 0x1000000 0x12FFFFF a then some ⟨.isl i, a - 0x1000000⟩ else none
  | _ => match c.target a with
    | .reg k => some k
    | .mailbox i off => if within 0x1000000 0x12FFFFF off then some ⟨.isl i, off - 0x1000000⟩ else none
    | _ => none

/-- WS_REGISTER_WRITE: a write that names a WS register (R354, R355). -/
def Chip.wsRow (c : Chip) (m : Master) (a : Nat) (wide : Bool) (v : Nat) : Chip := match c.regAt m a with
  | some k => if (regRow (c.unmirror k).whole).any fun r => r.acc == .ws then c.registerWrite m a wide v else c
  | none => c

end Sys2Proof.Machine
end

