-- ==== Sys2Proof/Machine/State.lean ====
section
/-! DEFINITION. The state of the block: everything the spec gives it (`Chip`), and the queue of the commands that wait. Every field of `Chip` and of its parts stands at its reset value by default. -/

namespace Sys2Proof.Machine

/-- The state. -/
structure State extends Chip where
  /-- Commands that wait, first in, first out. -/
  pending : List Instr := []
deriving DecidableEq, Repr

/-- Reasons to stop with a fault. The block has none: an error of a command is a counter, a record, a status or a fault of a context,
    all of which are state. -/
inductive Fault where
deriving DecidableEq, Repr

/-- Reasons to refuse a command. -/
inductive Refusal where
  /-- A command of the opcode table that has no meaning yet. No arm raises it. Safe: the model stops where the hardware goes on. -/
  | notModelled (mnemonic : String)
deriving DecidableEq, Repr

/-- The block right after reset: registers, stores and queues at their reset values (R4, R364), no command waiting. -/
def State.reset : State := {}

end Sys2Proof.Machine
end

