-- ==== Sys2Proof/Machine/Lift.lean ====
section
/-! DEFINITION. A command's effect on the block as the outcome of a step: it completes, and leaves the queue as it is. -/

namespace Sys2Proof.Machine

/-- Apply an effect to everything but the queue. -/
def State.on (s : State) (f : Chip → Chip) : Host.Outcome State Fault Refusal := .next { s with toChip := f s.toChip }

end Sys2Proof.Machine
end

