-- ==== Sys2Proof/Machine/BasicRows.lean ====
section
/-! DEFINITION. The meanings of the commands REGISTER_WRITE to COMMIT_DEADLINE, in the order of the opcode table: one definition per row over the shared operations. -/

namespace Sys2Proof.Machine

/-- REGISTER_WRITE (R4): A write to a register that has no row of its own acts according to the register's access code (RW, WO, W1C, W1S or WS). -/
def execRegisterWrite (m : Master) (a : BitVec 48) (wide : Bool) (v : W64) (s : State) : Host.Outcome State Fault Refusal := s.on fun c => c.registerWrite m a.toNat wide v.toNat

/-- BAD_REGISTER_ACCESS (R7): A register access of the wrong size or alignment, or to an offset that names no register, reads zero or is discarded, and is counted. -/
def execBadRegisterAccess (m : Master) (a : BitVec 48) (n : Nat) (s : State) : Host.Outcome State Fault Refusal := s.on fun c => c.badAccess m a.toNat n

/-- LANDING_START (R447): At the landing-start tick start(N+1), the landing-bound actions run in their fixed order. -/
def execLandingStart (s : State) : Host.Outcome State Fault Refusal := s.on fun c => c.landingStart

/-- KV_RECLAIM_SPLICE (R182): Once earlier KV instructions and open blocks are done, the batch is linked into the free list. -/
def execKvReclaimSplice (r : StbRef) (s : State) : Host.Outcome State Fault Refusal := s.on fun c => c.kvReclaim (stbKey r)

/-- CONTEXT_LANDING_MOVE (R50): A context that the landing map moves is moved to the next frame at its next instruction boundary or at the end of its block. -/
def execContextLandingMove (r : CtxRef) (s : State) : Host.Outcome State Fault Refusal := s.on fun c => c.landingMove (slotKey r)

/-- COMMIT_DEADLINE (R25): At frame N's commit deadline, work still running for N is stopped and its outputs are marked invalid. -/
def execCommitDeadline (n : Nat) (s : State) : Host.Outcome State Fault Refusal := s.on fun c => c.commitDeadline n

end Sys2Proof.Machine
end

