-- ==== Sys2Proof/Machine/CheckRows.lean ====
section
/-! DEFINITION. The meanings of the commands CHKB to HEARTBEAT_END, in the order of the opcode table: one definition per row over the shared operations. -/

namespace Sys2Proof.Machine

/-- CHKB (R241): Opens a check block, capturing the mode, settings and epochs and setting the rotation. -/
def execChkb (x : Exr) (e : Enc) (s : State) : Host.Outcome State Fault Refusal := s.on fun c => c.either x (dChkb) e (chkbBody e) (some (ichkb e))

/-- CHKE (R149): Ends a pass: starts the shadow pass, or starts the comparison. -/
def execChke (x : Exr) (e : Enc) (s : State) : Host.Outcome State Fault Refusal := s.on fun c => c.either x (dChke) e (chkeBody) (some ichke)

/-- BLOCK_COMMIT (R253): COMMITTING finishes publishing the pages and held operations, tagging each block. -/
def execBlockCommit (r : CtxRef) (misread : Bool) (s : State) : Host.Outcome State Fault Refusal := s.on fun c => c.blockCommit (slotKey r) misread

/-- ARBITER_PASS_START (R261): An eligible arbiter stable starts the arbiter pass at its next pass boundary. -/
def execArbiterPassStart (r : CtxRef) (s : State) : Host.Outcome State Fault Refusal := s.on fun c => c.arbStart (slotKey r)

/-- ARBITER_PASS_END (R261): The arbiter signature decides the committed set, or CHECK_FAIL. -/
def execArbiterPassEnd (r : CtxRef) (s : State) : Host.Outcome State Fault Refusal := s.on fun c => c.arbEnd (slotKey r)

/-- HEARTBEAT_DUE (R268): HBINT has elapsed, or the mode has changed to CHECKED: the heartbeat becomes due. -/
def execHeartbeatDue (r : StbRef) (t : Nat) (s : State) : Host.Outcome State Fault Refusal := s.on fun c => (c.at t).hbDue (stbKey r) false

/-- HEARTBEAT_RUN (R268): With no pass being issued, the heartbeat injection starts. -/
def execHeartbeatRun (r : StbRef) (s : State) : Host.Outcome State Fault Refusal := s.on fun c => c.hbRun (stbKey r)

/-- HEARTBEAT_END (R268): The injection ends: it passes and advances HB_POS, or it fails. -/
def execHeartbeatEnd (r : StbRef) (flagged : Bool) (s : State) : Host.Outcome State Fault Refusal := s.on fun c => c.hbEnd (stbKey r) flagged

end Sys2Proof.Machine
end

