-- ==== Sys2Proof/Machine/ConfigRows.lean ====
section
/-! DEFINITION. The meanings of the commands CFG_LOCK_CLAIM to PREPARE_DISCARD, in the order of the opcode table: one definition per row over the shared operations. -/

namespace Sys2Proof.Machine

/-- CFG_LOCK_CLAIM (R354): A requester claims a staging controller's lock. -/
def execCfgLockClaim (x : Ctl) (m : Master) (owner : BitVec 5) (s : State) : Host.Outcome State Fault Refusal := s.on fun c => c.cfgClaim x m owner.toNat

/-- CFG_LOCK_RELEASE (R356): The lock is released, dropping a non-armed staged set. -/
def execCfgLockRelease (x : Ctl) (m : Master) (s : State) : Host.Outcome State Fault Refusal := s.on fun c => c.cfgRelease x m

/-- WS_REGISTER_WRITE (R355): The owner's write to a WS register sets its staged value. -/
def execWsRegisterWrite (m : Master) (a : BitVec 48) (wide : Bool) (v : W64) (s : State) : Host.Outcome State Fault Refusal := s.on fun c => c.wsRow m a.toNat wide v.toNat

/-- CFG_DISCARD (R355): Drops every staged value of the set. -/
def execCfgDiscard (x : Ctl) (m : Master) (s : State) : Host.Outcome State Fault Refusal := s.on fun c => c.cfgDiscard x m

/-- CFG_CHECK (R357): GO starts evaluation of the consistency rules against the staged set. -/
def execCfgCheck (x : Ctl) (m : Master) (s : State) : Host.Outcome State Fault Refusal := s.on fun c => c.cfgCheck x m

/-- CFG_CHECK_DONE (R357): The check result appears: PASSED or FAILED with RULE, NFAIL and UNIT. -/
def execCfgCheckDone (x : Ctl) (s : State) : Host.Outcome State Fault Refusal := s.on fun c => c.cfgCheckDone x

/-- CFG_APPLY_TICK (R358): Arms the set for the DEVTIME in CFG_TICK and sends the prepare messages. -/
def execCfgApplyTick (x : Ctl) (m : Master) (s : State) : Host.Outcome State Fault Refusal := s.on fun c => c.cfgTick x m

/-- CFG_APPLY_LANDING (R358): Arms the set for the next landing start. -/
def execCfgApplyLanding (x : Ctl) (m : Master) (s : State) : Host.Outcome State Fault Refusal := s.on fun c => c.cfgLanding x m

/-- CFG_APPLY_CANCEL (R361): Cancels an armed set before t − 20 µs. -/
def execCfgApplyCancel (x : Ctl) (m : Master) (s : State) : Host.Outcome State Fault Refusal := s.on fun c => c.cfgCancel x m

/-- CFG_PREPARE_ACK (R359): A unit's acknowledgement of a prepare message reaches the controller. -/
def execCfgPrepareAck (u : CfgUnit) (s : State) : Host.Outcome State Fault Refusal := s.on fun c => c.prepareAck u

/-- CFG_REEVALUATION (R359): At t − 20 µs the rules are evaluated again. -/
def execCfgReevaluation (x : Ctl) (t : Nat) (s : State) : Host.Outcome State Fault Refusal := s.on fun c => (c.at t).cfgAgain x

/-- CFG_COMMIT_SEND (R360): At t − 10 µs the commit is sent, or the apply aborts. -/
def execCfgCommitSend (x : Ctl) (t : Nat) (s : State) : Host.Outcome State Fault Refusal := s.on fun c => (c.at t).cfgCommit x

/-- CFG_TICK_APPLY (R359): At t the units load their staged values and CFG_APPLIED is written. -/
def execCfgTickApply (x : Ctl) (t : Nat) (s : State) : Host.Outcome State Fault Refusal := s.on fun c => (c.at t).cfgTickApply x

/-- PREPARE_DISCARD (R360): A unit with a prepare message but no commit discards it at t. -/
def execPrepareDiscard (u : CfgUnit) (s : State) : Host.Outcome State Fault Refusal := s.on fun c => c.prepareDrop u

end Sys2Proof.Machine
end

