-- ==== Sys2Proof/Machine/GeometryRows.lean ====
section
/-! DEFINITION. The meanings of the commands GTEST_SPH_OBB to GBUILD_DYN, in the order of the opcode table: one definition per row over the shared operations. -/

namespace Sys2Proof.Machine

/-- GTEST_SPH_OBB (R210): Brute-force sphere versus oriented-box tests. -/
def execGtestSphObb (x : Exr) (e : Enc) (s : State) : Host.Outcome State Fault Refusal := s.on fun c => c.either x (dGtest 0) e (gtestBody 0 e) none

/-- GTEST_SPH_AABB (R210): Brute-force sphere versus axis-aligned-box tests. -/
def execGtestSphAabb (x : Exr) (e : Enc) (s : State) : Host.Outcome State Fault Refusal := s.on fun c => c.either x (dGtest 1) e (gtestBody 1 e) none

/-- GTEST_SPH_SPH (R210): Brute-force sphere versus sphere tests. -/
def execGtestSphSph (x : Exr) (e : Enc) (s : State) : Host.Outcome State Fault Refusal := s.on fun c => c.either x (dGtest 2) e (gtestBody 2 e) none

/-- GTEST_SPH_TRI (R210): Brute-force sphere versus triangle tests. -/
def execGtestSphTri (x : Exr) (e : Enc) (s : State) : Host.Outcome State Fault Refusal := s.on fun c => c.either x (dGtest 3) e (gtestBody 3 e) none

/-- GTRAV_ANY (R210): Traversal that stops at the first hit. -/
def execGtravAny (x : Exr) (e : Enc) (s : State) : Host.Outcome State Fault Refusal := s.on fun c => c.either x (dGtrav 0) e (gtravBody 0 e) none

/-- GTRAV_COUNT (R210): Traversal that counts the hits. -/
def execGtravCount (x : Exr) (e : Enc) (s : State) : Host.Outcome State Fault Refusal := s.on fun c => c.either x (dGtrav 1) e (gtravBody 1 e) none

/-- GTRAV_NEAREST (R210): Traversal that finds the nearest primitive. -/
def execGtravNearest (x : Exr) (e : Enc) (s : State) : Host.Outcome State Fault Refusal := s.on fun c => c.either x (dGtrav 2) e (gtravBody 2 e) none

/-- GSWEEP_EDGE (R211): Sweeps edges with the implement held rigid. -/
def execGsweepEdge (x : Exr) (e : Enc) (s : State) : Host.Outcome State Fault Refusal := s.on fun c => c.either x (dGsweep 0) e (gsweepBody 0 (flag e.x0 4) e) none

/-- GSWEEP_ARTIC (R211): Sweeps edges with the articulated implement. -/
def execGsweepArtic (x : Exr) (e : Enc) (s : State) : Host.Outcome State Fault Refusal := s.on fun c => c.either x (dGsweep 1) e (gsweepBody 1 (flag e.x0 4) e) none

/-- GSWEEP_REVAL (R216): Re-validates sweep rows against later delta entries. -/
def execGsweepReval (x : Exr) (sub : BitVec 8) (e : Enc) (s : State) : Host.Outcome State Fault Refusal := s.on fun c => c.either x (dGsweep sub.toNat) e (gsweepBody sub.toNat (flag e.x0 4) e) none

/-- GBUILD_BUILD (R212): Builds a scene hierarchy by Morton code. -/
def execGbuildBuild (x : Exr) (e : Enc) (s : State) : Host.Outcome State Fault Refusal := s.on fun c => c.either x (dGbuild 0) e (gbuildBody e) none

/-- GBUILD_REFIT (R213): Recomputes the node boxes of a scene bottom-up. -/
def execGbuildRefit (x : Exr) (e : Enc) (s : State) : Host.Outcome State Fault Refusal := s.on fun c => c.either x (dGbuild 1) e (grefitBody e) none

/-- GBUILD_DYN (R214): Builds the per-slice dynamic obstacle set from forecasts. -/
def execGbuildDyn (x : Exr) (e : Enc) (s : State) : Host.Outcome State Fault Refusal := s.on fun c => c.either x (dGbuild 2) e (gdynBody e) none

end Sys2Proof.Machine
end

