-- ==== Sys2Proof/Machine/HostRows.lean ====
section
/-! DEFINITION. The meanings of the commands BAR2_READ to EVQ_ENABLE, in the order of the opcode table: one definition per row over the shared operations. -/

namespace Sys2Proof.Machine

/-- BAR2_READ (R421): A host read through BAR2 of device memory. -/
def execBar2Read (f : Fin 16) (x : BitVec 36) (n : Nat) (s : State) : Host.Outcome State Fault Refusal := s.on fun c => c.bar2Read f.val x.toNat n

/-- BAR2_WRITE (R421): A host write through BAR2, re-tagging or acting atomically through an address-mapped view. -/
def execBar2Write (f : Fin 16) (x : BitVec 36) (bs : List Byte) (s : State) : Host.Outcome State Fault Refusal := s.on fun c => c.bar2Write f x.toNat bs

/-- REGISTER_WINDOW_ACCESS (R420): A host access through register window A, B or C. -/
def execRegisterWindowAccess (f : Fin 16) (w : Fin 3) (x : BitVec 24) (n : Nat) (wr : Option W64) (s : State) : Host.Outcome State Fault Refusal := s.on fun c => c.windowAccess f w.val x.toNat n (wr.map BitVec.toNat)

/-- FUNCTION_LEVEL_RESET (R422): An FLR stops the function's queues and resets its block. -/
def execFunctionLevelReset (f : Fin 16) (s : State) : Host.Outcome State Fault Refusal := s.on fun c => c.flr f.val

/-- PCIE_LINK_DOWN (R422): A link-down or hot reset acts as an FLR of every function. -/
def execPcieLinkDown (s : State) : Host.Outcome State Fault Refusal := s.on fun c => c.linkDown

/-- SQ_TAIL_WRITE (R423): The host advances a submission queue tail. -/
def execSqTailWrite (f : Fin 16) (q : Fin 4) (v : BitVec 16) (s : State) : Host.Outcome State Fault Refusal := s.on fun c => c.sqTail f.val q.val v.toNat

/-- COMMAND_FETCH (R423): The device fetches the next submission entry and starts it. -/
def execCommandFetch (f : Fin 16) (q : Fin 4) (entry : List Byte) (s : State) : Host.Outcome State Fault Refusal := s.on fun c => c.commandFetch f.val q.val entry

/-- HOST_NOP (R424): Host command NOP. -/
def execHostNop (f : Fin 16) (q : Fin 4) (cid : BitVec 16) (s : State) : Host.Outcome State Fault Refusal := s.on fun c => c.hostNop f.val q.val cid.toNat

/-- COPY_H2D (R424): Copies host memory to the device. -/
def execCopyH2d (f : Fin 16) (q : Fin 4) (cid : BitVec 16) (data : List Byte) (s : State) : Host.Outcome State Fault Refusal := s.on fun c => c.copyH2D f q.val cid.toNat data

/-- COPY_D2H (R424): Copies device memory to the host without tag verification. -/
def execCopyD2h (f : Fin 16) (q : Fin 4) (cid : BitVec 16) (s : State) : Host.Outcome State Fault Refusal := s.on fun c => c.copyD2H f q.val cid.toNat

/-- HOST_FILL (R424): Fills device memory with a pattern. -/
def execHostFill (f : Fin 16) (q : Fin 4) (cid : BitVec 16) (s : State) : Host.Outcome State Fault Refusal := s.on fun c => c.hostFill f q.val cid.toNat

/-- REG_WR (R424): Writes a device register. -/
def execRegWr (f : Fin 16) (q : Fin 4) (cid : BitVec 16) (s : State) : Host.Outcome State Fault Refusal := s.on fun c => c.hostRegWr f q.val cid.toNat

/-- REG_RD (R424): Reads a device register into CMD_DONE. -/
def execRegRd (f : Fin 16) (q : Fin 4) (cid : BitVec 16) (s : State) : Host.Outcome State Fault Refusal := s.on fun c => c.hostRegRd f q.val cid.toNat

/-- HOST_EVT_SET (R424): Sets an event flag of the function's partition. -/
def execHostEvtSet (f : Fin 16) (q : Fin 4) (cid : BitVec 16) (s : State) : Host.Outcome State Fault Refusal := s.on fun c => c.hostEvtSet f q.val cid.toNat

/-- CMD_DONE (R424): A host command completes and writes CMD_DONE if required. -/
def execCmdDone (f : Fin 16) (q : Fin 4) (cid : BitVec 16) (s : State) : Host.Outcome State Fault Refusal := s.on fun c => c.cmdDone f.val q.val cid.toNat

/-- EVENT_RECORD_WRITE (R427): A record is written to an event queue and PIDX advances. -/
def execEventRecordWrite (q : Fin 64) (s : State) : Host.Outcome State Fault Refusal := s.on fun c => c.evqWrite q.val

/-- EVQ_CIDX_WRITE (R429): The host frees slots and re-arms the interrupt. -/
def execEvqCidxWrite (m : Master) (q : Fin 64) (v : BitVec 32) (s : State) : Host.Outcome State Fault Refusal := s.on fun c => c.regWrite m (evqK q.val 0x20) 8 v.toNat

/-- EVQ_TIMER (R429): TIMER µs after the oldest unconsumed record, the MSI-X vector is raised. -/
def execEvqTimer (q : Fin 64) (t : Nat) (s : State) : Host.Outcome State Fault Refusal := s.on fun c => c.evqTimer q.val t

/-- EVQ_ENABLE (R429): Writing EN = 1 enables a queue and zeroes PIDX and CIDX. -/
def execEvqEnable (m : Master) (q : Fin 64) (v : W64) (s : State) : Host.Outcome State Fault Refusal := s.on fun c => c.regWrite m (evqK q.val 8) 8 (setBits v.toNat 8 8 1)

end Sys2Proof.Machine
end

