-- ==== Sys2Proof/Machine/IoRows.lean ====
section
/-! DEFINITION. The meanings of the commands CSI2_PACKET_RECEIVE to ETHERNET_LINK_CHANGE, in the order of the opcode table: one definition per row over the shared operations. -/

namespace Sys2Proof.Machine

/-- CSI2_PACKET_RECEIVE (R433): A camera line arrives and its slot closes after LPS lines or at Frame End. -/
def execCsi2PacketReceive (isl : Fin 2) (p : Fin 8) (v : Fin 4) (t : Nat) (k : CsiPkt) (s : State) : Host.Outcome State Fault Refusal := s.on fun c => c.csiPacket isl.val p.val v.val t k

/-- ETHERNET_FRAME_RECEIVE (R433): An Ethernet frame is filtered into its channel ring. -/
def execEthernetFrameReceive (r : EthRef) (t : Nat) (frame : List Byte) (good : Bool) (s : State) : Host.Outcome State Fault Refusal := s.on fun c => c.ethFrame r t frame good

/-- CAN_FRAME_RECEIVE (R434): A CAN frame is latched in matching slots and ringed. -/
def execCanFrameReceive (r : CanRef) (t : Nat) (f : CanFrame) (s : State) : Host.Outcome State Fault Refusal := s.on fun c => c.canFrame r t f

/-- GNSS_UART_RECEIVE (R430): GNSS UART bytes are delivered to channel 52. -/
def execGnssUartReceive (t : Nat) (bs : List Byte) (s : State) : Host.Outcome State Fault Refusal := s.on fun c => c.gnss t bs

/-- SENT_MESSAGE_RECEIVE (R437): A SENT message updates the coolant values. -/
def execSentMessageReceive (t : Nat) (msg : SentMsg) (s : State) : Host.Outcome State Fault Refusal := s.on fun c => c.sent t msg

/-- INGEST_CIDX_POLL (R432): Every 1 µs the I/O die reads each ring's CIDX. -/
def execIngestCidxPoll (isl : Fin 2) (ch : Fin 64) (s : State) : Host.Outcome State Fault Refusal := s.on fun c => c.ingestPoll isl.val ch.val

/-- INGEST_CHANNEL_ENABLE (R432): A write of EN = 1 to IOD_ICH_CFG, refused when the ring is not valid. -/
def execIngestChannelEnable (isl : Fin 2) (ch : Fin 64) (v : W64) (s : State) : Host.Outcome State Fault Refusal := s.on fun c => c.ingestEnable isl.val ch.val v.toNat

/-- CAN_PERIODIC_TX (R434): A transmit slot sends its frame every TXPER µs. -/
def execCanPeriodicTx (r : CanRef) (slot : Fin 16) (s : State) : Host.Outcome State Fault Refusal := s.on fun c => (c.settleFor (canK r 0)).canPeriodic r slot.val

/-- CAN_TXDATA_WRITE (R434): With TXPER = 0, a write of TXDATA sends the frame once. -/
def execCanTxdataWrite (r : CanRef) (slot : Fin 16) (v : W64) (s : State) : Host.Outcome State Fault Refusal := s.on fun c => (c.settleFor (canK r 0)).canTxWrite r slot.val v.toNat

/-- PPS_EDGE (R435): A PPS edge disciplines DEVTIME, or is rejected with PPS_REJECT. -/
def execPpsEdge (t : Nat) (off : Int) (corr : Int) (s : State) : Host.Outcome State Fault Refusal := s.on fun c => c.ppsEdge t off corr

/-- PTP_MESSAGE (R435): An IEEE 802.1AS message disciplines DEVTIME. -/
def execPtpMessage (port : Fin 12) (t : Nat) (off : Int) (corr : Int) (s : State) : Host.Outcome State Fault Refusal := s.on fun c => c.ptp port.val t off corr

/-- TIME_LOST (R435): No accepted reference for 2 s clears LOCK. -/
def execTimeLost (t : Nat) (s : State) : Host.Outcome State Fault Refusal := s.on fun c => c.timeLost t

/-- FLASH_READ (R436): Flash command READ of a sector. -/
def execFlashRead (s : State) : Host.Outcome State Fault Refusal := s.on fun c => c.flashCmd 1

/-- FLASH_ERASE (R436): Flash command ERASE, refused in protected regions. -/
def execFlashErase (s : State) : Host.Outcome State Fault Refusal := s.on fun c => c.flashCmd 2

/-- FLASH_PROGRAM (R436): Flash command PROGRAM, refused in protected regions. -/
def execFlashProgram (s : State) : Host.Outcome State Fault Refusal := s.on fun c => c.flashCmd 3

/-- FLASH_COMMAND_DONE (R436): A flash command completes. -/
def execFlashCommandDone (ok : Bool) (s : State) : Host.Outcome State Fault Refusal := s.on fun c => c.flashDone ok

/-- SMBUS_READ (R438): The SMBus target returns an 8-byte register value. -/
def execSmbusRead (a : BitVec 48) (s : State) : Host.Outcome State Fault Refusal := s.on fun c => c.smbusRead a.toNat

/-- PMBUS_POLL (R438): Every 1 ms the PMBus controller reads rail telemetry. -/
def execPmbusPoll (k : Fin 14) (t : Nat) (mv : Option (BitVec 16)) (s : State) : Host.Outcome State Fault Refusal := s.on fun c => c.pmbusPoll k.val t (mv.map BitVec.toNat)

/-- PMBUS_LOST (R438): A regulator silent for 10 ms keeps its last voltage. -/
def execPmbusLost (k : Fin 14) (t : Nat) (s : State) : Host.Outcome State Fault Refusal := s.on fun c => c.pmbusLost k.val t

/-- HALL_ZONE_UNDERVOLTAGE (R443): VDD_HALLr more than 5 % low steps its halls to point 0. -/
def execHallZoneUndervoltage (zone : Fin 8) (s : State) : Host.Outcome State Fault Refusal := s.on fun c => c.zoneLow zone.val

/-- HALL_ZONE_COLLAPSE (R443): VDD_HALLr below 0.45 V stops the halls, which are fenced. -/
def execHallZoneCollapse (zone : Fin 8) (s : State) : Host.Outcome State Fault Refusal := s.on fun c => c.zoneCollapse zone.val

/-- MEMORY_RAIL_FAULT (R443): A memory rail out of range loses every stack. -/
def execMemoryRailFault (s : State) : Host.Outcome State Fault Refusal := s.on fun c => c.memRailFault

/-- IO_RAIL_FAULT (R443): An I/O rail out of range resets the package internally. -/
def execIoRailFault (s : State) : Host.Outcome State Fault Refusal := s.on fun c => c.ioRailFault

/-- ISLAND_RAIL_FAULT (R443): An island rail out of range stops that island. -/
def execIslandRailFault (isl : Isl) (s : State) : Host.Outcome State Fault Refusal := s.on fun c => c.islRailFault isl

/-- ENCODER_PULSE (R323): A pulse on an island encoder/pulse input updates SI_ENCq's signed count and last pulse period. -/
def execEncoderPulse (isl : Isl) (q : Fin 8) (up : Bool) (period : BitVec 32) (s : State) : Host.Outcome State Fault Refusal := s.on fun c => c.encoderPulse isl q.val up period.toNat

/-- ADC_CONVERSION_DONE (R323): A conversion from the external ADC over SPI completes and updates SI_ADCa with its value and DEVTIME. -/
def execAdcConversionDone (isl : Isl) (a : Fin 16) (v : BitVec 16) (s : State) : Host.Outcome State Fault Refusal := s.on fun c => c.adcDone isl a.val v.toNat

/-- PCIE_LINK_UP (R418): The PCIe host link trains at Gen4–Gen6, or is held in training with RATELOW set, and DCU_FN_PCIE reports rate and width. -/
def execPcieLinkUp (gen : Nat) (width : Nat) (s : State) : Host.Outcome State Fault Refusal := s.on fun c => c.linkUp gen width

/-- STANDBY_FIRMWARE_VERIFY_DONE (R369): The standby DCU in I/O die 1 finishes verifying the firmware image it received over the yard, and becomes a standby or writes STANDBY_FAIL. -/
def execStandbyFirmwareVerifyDone (ok : Bool) (s : State) : Host.Outcome State Fault Refusal := s.on fun c => c.standbyVerify ok

/-- SUPPLY_RECOVERY (R443): A faulted main rail returns into range: hall zones release their ceiling 1 ms later, and an I/O rail recovery restarts start-up from step 2. -/
def execSupplyRecovery (zone : Option (Fin 8)) (t : Nat) (s : State) : Host.Outcome State Fault Refusal := s.on fun c => c.supplyBack (zone.map Fin.val) t

/-- ETHERNET_LINK_CHANGE (R433): An Ethernet MAC's link goes up or down, updating IOD_ETH_STAT link up and speed. -/
def execEthernetLinkChange (r : EthRef) (up : Bool) (speed : BitVec 3) (s : State) : Host.Outcome State Fault Refusal := s.on fun c => c.ethLink r up speed.toNat

end Sys2Proof.Machine
end

