-- ==== Sys2Proof/Machine/IslandRows.lean ====
section
/-! DEFINITION. The meanings of the commands CONTROL_SAMPLE to LE_CTL_DISABLE, in the order of the opcode table: one definition per row over the shared operations. -/

namespace Sys2Proof.Machine

/-- CONTROL_SAMPLE (R299): At each control sample, an island evaluates its plan state, interpolates its set-points and sends its compare message. -/
def execControlSample (isl : Isl) (t : Nat) (s : State) : Host.Outcome State Fault Refusal := s.on fun c => ((c.at t).leSettle isl).controlSample isl

/-- COMPARE_MESSAGE_RECEIVE (R314): A compare message from the other island arrives. -/
def execCompareMessageReceive (isl : Isl) (crcOk : Bool) (s : State) : Host.Outcome State Fault Refusal := s.on fun c => c.compareReceive isl crcOk

/-- COMPARE_POINT (R315): Half a sample after each sample, the island compares the received message and detects a disagreement or a missing peer. -/
def execComparePoint (isl : Isl) (t : Nat) (s : State) : Host.Outcome State Fault Refusal := s.on fun c => (c.at t).comparePoint isl

/-- PLAN_DOORBELL (R306): A SI_PLANDB write makes the island check the record and acknowledge or refuse it. -/
def execPlanDoorbell (isl : Isl) (site : Fin 72) (buf : Fin 4) (s : State) : Host.Outcome State Fault Refusal := s.on fun c => c.planDoorbell isl site.val buf.val

/-- ACCEPTANCE_MESSAGE_RECEIVE (R307): The other island's acceptance message arrives. -/
def execAcceptanceMessageReceive (isl : Isl) (s : State) : Host.Outcome State Fault Refusal := s.on fun c => c.acceptReceive isl

/-- FRAME_OUTCOME (R308): At D(F) the island decides good or bad and updates BADRUN and BAD100. -/
def execFrameOutcome (isl : Isl) (f : Nat) (t : Nat) (s : State) : Host.Outcome State Fault Refusal := s.on fun c => (c.at t).frameOutcome isl f

/-- DTHOLD_ENTER (R298): No time for 100 µs: the island holds DEVTIME on its crystal. -/
def execDtholdEnter (isl : Isl) (t : Nat) (s : State) : Host.Outcome State Fault Refusal := s.on fun c => (c.at t).dtholdEnter isl

/-- DTHOLD_CLEAR (R298): 1 ms after time returns, DTHOLD clears and the copy slews. -/
def execDtholdClear (isl : Isl) (t : Nat) (s : State) : Host.Outcome State Fault Refusal := s.on fun c => (c.at t).dtholdClear isl

/-- DEVTIME_DISTRIBUTION (R21): A DEVTIME value from the acting DCU reaches a die's local copy. -/
def execDevtimeDistribution (die : Fin 82) (off : Fin 41) (s : State) : Host.Outcome State Fault Refusal := s.on fun c => c.devtimeTo die.val ((off.val : Int) - 20)

/-- SI_RESUME (R313): A write of SI_CTL.RESUME in STOP clears every SI_STOPREQ bit. -/
def execSiResume (isl : Isl) (s : State) : Host.Outcome State Fault Refusal := s.on fun c => c.siResume isl

/-- STOPREQ_SET (R310): A bit is set in SI_STOPREQ, requesting STOP. -/
def execStopreqSet (isl : Isl) (m : Master) (b : Fin 3) (s : State) : Host.Outcome State Fault Refusal := s.on fun c => c.regWrite m (siK isl 0x18) 8 (2 ^ b.val)

/-- WATCHDOG_KEY (R304): A write of a key to SI_WDT, where a wrong value traps. -/
def execWatchdogKey (isl : Isl) (v : Byte) (s : State) : Host.Outcome State Fault Refusal := s.on fun c => c.watchdogKey isl v.toNat

/-- WATCHDOG_EXPIRY (R304): WDTIME passes without the key pair and the island traps WATCHDOG. -/
def execWatchdogExpiry (isl : Isl) (t : Nat) (s : State) : Host.Outcome State Fault Refusal := s.on fun c => (c.at t).watchdogExpiry isl

/-- CLOCK_MONITOR_TRAP (R301): The crystal is outside ±2 % for 10 µs: trap CLOCK. -/
def execClockMonitorTrap (isl : Isl) (s : State) : Host.Outcome State Fault Refusal := s.on fun c => c.clockTrap isl

/-- ISLAND_RECORD_COPY (R303): The DCU copies an island event ring record into the DCU event queue. -/
def execIslandRecordCopy (isl : Isl) (s : State) : Host.Outcome State Fault Refusal := s.on fun c => c.ringCopy isl (c.linkHears isl)

/-- CHANNEL_SAMPLE (R318): A Loop Engine channel samples, checks its input, evaluates its law twice and drives its output. -/
def execChannelSample (isl : Isl) (n : Fin 32) (t : Nat) (ev : LeEval) (late : Bool) (s : State) : Host.Outcome State Fault Refusal := s.on fun c => ((c.at t).leSettle isl).channelSample isl n.val ev late (c.chHeld isl n.val)

/-- LE_START (R320): Channel command START enters RAMP. -/
def execLeStart (isl : Isl) (n : Fin 32) (s : State) : Host.Outcome State Fault Refusal := s.on fun c => c.leCmd isl n.val 1

/-- LE_STOP (R320): Channel command STOP sets OFF. -/
def execLeStop (isl : Isl) (n : Fin 32) (s : State) : Host.Outcome State Fault Refusal := s.on fun c => c.leCmd isl n.val 2

/-- LE_HOLD (R320): Channel command HOLD holds the output and the law state. -/
def execLeHold (isl : Isl) (n : Fin 32) (s : State) : Host.Outcome State Fault Refusal := s.on fun c => c.leCmd isl n.val 3

/-- LE_RELEASE (R320): Channel command RELEASE returns the channel from HOLD. -/
def execLeRelease (isl : Isl) (n : Fin 32) (s : State) : Host.Outcome State Fault Refusal := s.on fun c => c.leCmd isl n.val 4

/-- COEFFICIENT_WRITE (R321): A direct write to a coefficient bank word, used from the next snapshot. -/
def execCoefficientWrite (isl : Isl) (m : Master) (n : Fin 32) (bank : Fin 2) (w : Fin 128) (wide : Bool) (v : W64) (s : State) : Host.Outcome State Fault Refusal := s.on fun c => c.regWrite m (leK isl (0x1400 + n.val * 0x1000 + bank.val * 0x400 + 4 * w.val)) (if wide then 8 else 4) v.toNat

/-- LE_CTL_DISABLE (R357): A write of LE_CTL.EN = 0 sets every channel OFF. -/
def execLeCtlDisable (isl : Isl) (s : State) : Host.Outcome State Fault Refusal := s.on fun c => (c.leSettle isl).leReset isl false

end Sys2Proof.Machine
end

