-- ==== Sys2Proof/Machine/KvRows.lean ====
section
/-! DEFINITION. The meanings of the commands ATTN to KVPAGE_COW, in the order of the opcode table: one definition per row over the shared operations. -/

namespace Sys2Proof.Machine

/-- ATTN (R191): Paged attention over linear page lists. -/
def execAttn (x : Exr) (e : Enc) (s : State) : Host.Outcome State Fault Refusal := s.on fun c => c.either x (dAttn 0) e (attnBody 0 e) none

/-- ATTN_RING (R190): Paged attention over ring page lists. -/
def execAttnRing (x : Exr) (e : Enc) (s : State) : Host.Outcome State Fault Refusal := s.on fun c => c.either x (dAttn 1) e (attnBody 1 e) none

/-- ATTN_SPARSE (R190): Windowed attention with global positions. -/
def execAttnSparse (x : Exr) (e : Enc) (s : State) : Host.Outcome State Fault Refusal := s.on fun c => c.either x (dAttn 2) e (attnBody 2 e) none

/-- KVAPP (R188): Quantises new keys and values and appends them to their pages. -/
def execKvapp (x : Exr) (e : Enc) (s : State) : Host.Outcome State Fault Refusal := s.on fun c => c.either x (dKvapp) e (kvappBody e) none

/-- KVPAGE_ALLOC (R180): Takes the free-list head, or returns 0xFFFF. -/
def execKvpageAlloc (x : Exr) (e : Enc) (s : State) : Host.Outcome State Fault Refusal := s.on fun c => c.either x (dKvpage 0) e (kvAllocBody e) none

/-- KVPAGE_REF (R180): Increments a page's REFCNT. -/
def execKvpageRef (x : Exr) (e : Enc) (s : State) : Host.Outcome State Fault Refusal := s.on fun c => c.either x (dKvpage 1) e (kvRefBody true e) none

/-- KVPAGE_UNREF (R180): Decrements a page's REFCNT and sends the page to PENDING at zero. -/
def execKvpageUnref (x : Exr) (e : Enc) (s : State) : Host.Outcome State Fault Refusal := s.on fun c => c.either x (dKvpage 2) e (kvRefBody false e) none

/-- KVPAGE_COW (R181): Makes a slot's page exclusive, copying it if it is shared. -/
def execKvpageCow (x : Exr) (e : Enc) (s : State) : Host.Outcome State Fault Refusal := s.on fun c => c.either x (dKvpage 3) e (kvCowBody e) none

end Sys2Proof.Machine
end

