-- ==== Sys2Proof/Machine/LinkRows.lean ====
section
/-! DEFINITION. The meanings of the commands LINK_ACK to ROUTE_TABLE_SWITCH, in the order of the opcode table: one definition per row over the shared operations. -/

namespace Sys2Proof.Machine

/-- LINK_ACK (R343): A cumulative acknowledgement frees replay buffer entries. -/
def execLinkAck (die : Fin 82) (p : Fin 9) (seq : BitVec 16) (s : State) : Host.Outcome State Fault Refusal := s.on fun c => c.linkAck die.val p.val seq.toNat

/-- IDLE_FLIT (R343): An idle link sends an idle flit every 256 ns. -/
def execIdleFlit (die : Fin 82) (p : Fin 9) (t : Nat) (s : State) : Host.Outcome State Fault Refusal := s.on fun c => c.idleFlit die.val p.val t

/-- PACKET_RECEIVE (R344): A received packet's flits are decoded: used, corrected, or discarded with a NAK. -/
def execPacketReceive (die : Fin 82) (p : Fin 9) (grp : Nat) (hdr : BitVec 256) (data : List (BitVec 256)) (errs : List (BitVec 288)) (t : Nat) (s : State) : Host.Outcome State Fault Refusal := s.on fun c => c.packetIn die.val p.val grp { hdr := hdr.toNat, data := data.map BitVec.toNat } (errs.map BitVec.toNat) t

/-- NAK_RECEIVE (R344): A NAK makes the sender replay from that packet, retraining after 8. -/
def execNakReceive (die : Fin 82) (p : Fin 9) (seq : BitVec 16) (t : Nat) (s : State) : Host.Outcome State Fault Refusal := s.on fun c => c.nakIn die.val p.val seq.toNat t

/-- PORT_FENCE (R345): No flit for 2 µs fences the port and writes LINK_FENCED. -/
def execPortFence (die : Fin 82) (p : Fin 9) (t : Nat) (s : State) : Host.Outcome State Fault Refusal := s.on fun c => c.portFence die.val p.val t

/-- LANE_FAILING (R347): A lane's corrected count reaches LTHR: a spare is steered in, or the link is DEGRADED. -/
def execLaneFailing (die : Fin 82) (p : Fin 9) (lane : Nat) (t : Nat) (s : State) : Host.Outcome State Fault Refusal := s.on fun c => c.laneFailing die.val p.val lane t

/-- RETRAIN_DONE (R347): A retrain completes, or times out at 20 µs and fences the port. -/
def execRetrainDone (die : Fin 82) (p : Fin 9) (bad : List Nat) (t : Nat) (s : State) : Host.Outcome State Fault Refusal := s.on fun c => c.retrainDone die.val p.val (fun l => !bad.contains l) t

/-- HALL_PROBE_RESULT (R351): The probe answers (LINK_DOWN) or does not (the hall is fenced). -/
def execHallProbeResult (site : Fin 72) (answers : Bool) (s : State) : Host.Outcome State Fault Refusal := s.on fun c => c.hallProbe site.val answers

/-- ROUTE_TABLE_SWITCH (R352): New routes take effect at t_r and outstanding requests are resent. -/
def execRouteTableSwitch (t : Nat) (s : State) : Host.Outcome State Fault Refusal := s.on fun c => c.routeSwitch t

end Sys2Proof.Machine
end

