-- ==== Sys2Proof/Machine/ErrorLog.lean ====
section
/-! DEFINITION. The DCU's handling of error records: coalescing, rate, log and queue (R409, R410), and the event groups by point and bin (R411). -/

namespace Sys2Proof.Machine

/-- Records of one class that coalesce, and that are dropped beyond the rate: CE_WORD, LINK_LANE and SENSOR (R409, R410). -/
def mergeable (cls : Nat) : Bool := cls == 0x10 || cls == 0x1A || cls == 0x1B

/-- Two records that coalesce (R409). -/
def ErrRec.same (a b : ErrRec) : Bool := a.unit == b.unit && a.cls == b.cls && a.addr == b.addr

/-- The coalesced record of two: the first one's, with their events (R406, R409). -/
def ErrRec.join (a b : ErrRec) : ErrRec := { a with count := min 0xFFFFFFFF (a.count + b.count), flags := a.flags / 2 * 2 + 1 }

/-- DCU_ERRCFG.RATE. -/
def Chip.errRate (c : Chip) : Nat := bits (c.reg (dcuK 0x8000)) 23 8

/-- The event group of a record, if it belongs to one (R411). -/
def ErrRec.group (r : ErrRec) : Option Nat :=
  if r.hall = 0xFF then none
  else if r.cls = 0x10 ∧ bits r.unit 31 28 ≤ 2 then some 0
  else if r.cls = 0x13 ∧ bit r.synd 5 = false then some 1
  else if r.cls = 0x14 then some 2
  else if r.cls = 0x16 ∧ bit r.synd 64 = false then some 3
  else none

/-- Count a record in its hall's group, and apply the clustering rule to that bin (R411, R402). -/
def Chip.errCount (c : Chip) (r : ErrRec) : Chip := match r.group with
  | none => c
  | some g =>
    let i := bits r.bin 3 0
    let b := bits r.bin 6 4
    let live := c.log.groups.filter fun e => decide (c.minutes < e.2.1 + 1440)
    { c with log := { c.log with groups := live ++ [((r.hall, g, i, b), c.minutes, r.count)] } }.cluster r.hall i b

/-- SEQ, log slot, queue and group of one record (R409, R411). -/
def Chip.errDeliver (c : Chip) (r : ErrRec) : Chip :=
  let seq := (c.log.seq + 1) % 2 ^ 32
  let bs := r.bytes seq
  let c := { c with log := { c.log with seq := seq, slots := c.log.slots.set (c.log.logged % 4096) bs, logged := c.log.logged + 1 } }
  let c := c.errCount r
  let cfg := c.reg (dcuK 0x8000)
  if bit cfg 7 = false then c
  else if c.log.noQueue then c.bump (dcuK 0x8010)
  else c.postTo (bits cfg 5 0) { c.mkEv .ERROR r.unit [(0x10, 4, seq), (0x14, 1, r.cls)] with time := r.time, err := bs }

/-- The DCU takes in the oldest record that a unit has sent (R409, R410). -/
def Chip.errIntake (c : Chip) : Chip := match c.log.inbox with
  | [] => c
  | r :: rs =>
    let c := { c with log := { c.log with inbox := rs } }
    let room := decide (c.log.taken < c.errRate)
    if mergeable r.cls then
      if c.log.merging.any fun m => m.same r then
        { c with log := { c.log with merging := c.log.merging.map fun m => if m.same r then m.join r else m } }
      else if room then { c with log := { c.log with merging := c.log.merging ++ [r], taken := c.log.taken + 1 } }
      else c.bump (dcuK 0x8010)
    else if room then { c with log := { c.log with taken := c.log.taken + 1 } }.errDeliver r
    else { c with log := { c.log with waiting := c.log.waiting ++ [r] } }

/-- A 1 ms period ends and the next begins: the merged records of the old one are handled, and waiting records enter the
    new one up to RATE (R409, R410). -/
def Chip.errPeriod (c : Chip) : Chip :=
  let merged := c.log.merging
  let c := { c with log := { c.log with merging := [], taken := 0 } }
  let c := merged.foldl Chip.errDeliver c
  let now := c.log.waiting.take c.errRate
  let c := { c with log := { c.log with waiting := c.log.waiting.drop now.length, taken := now.length } }
  now.foldl Chip.errDeliver c

end Sys2Proof.Machine
end

