-- ==== Sys2Proof/Machine/LogRows.lean ====
section
/-! DEFINITION. The meanings of the commands ERROR_RECORD_INTAKE to SELFTEST_SLOT_END, in the order of the opcode table: one definition per row over the shared operations. -/

namespace Sys2Proof.Machine

/-- ERROR_RECORD_INTAKE (R409): The DCU coalesces, numbers, logs and queues an incoming error record. -/
def execErrorRecordIntake (s : State) : Host.Outcome State Fault Refusal := s.on fun c => c.errIntake

/-- ERROR_PERIOD_RELEASE (R410): A new 1 ms period releases held records up to RATE. -/
def execErrorPeriodRelease (s : State) : Host.Outcome State Fault Refusal := s.on fun c => c.errPeriod

/-- PACKAGE_LOAD (R414): DCU_PKGCTL LOAD starts checking a test-pattern package. -/
def execPackageLoad (s : State) : Host.Outcome State Fault Refusal := s.on fun c => c.pkgLoad

/-- PACKAGE_REMOVE (R415): DCU_PKGCTL REMOVE deletes a package from the store and the flash. -/
def execPackageRemove (id : BitVec 32) (s : State) : Host.Outcome State Fault Refusal := s.on fun c => c.pkgRemove id.toNat

/-- PACKAGE_CHECK_DONE (R414): Package checks finish with DONE or REJECTED. -/
def execPackageCheckDone (flash : Bool) (s : State) : Host.Outcome State Fault Refusal := s.on fun c => c.pkgChecked flash

/-- SELFTEST_SLOT_START (R333): A due slot starts when its stable is idle, or at its latest start. -/
def execSelftestSlotStart (r : Fin 33) (t : Nat) (s : State) : Host.Outcome State Fault Refusal := s.on fun c => c.slotStart r.val t

/-- SELFTEST_SLOT_END (R334): The slot ends S after it starts, carrying over any content not yet run. -/
def execSelftestSlotEnd (r : Fin 33) (t : Nat) (runs : List StRun) (whole : Bool) (s : State) : Host.Outcome State Fault Refusal := s.on fun c => c.slotEnd r.val t runs whole

end Sys2Proof.Machine
end

