-- ==== Sys2Proof/Machine/MoveRows.lean ====
section
/-! DEFINITION. The meanings of the commands MOV_COPY to TDBASE, in the order of the opcode table: one definition per row over the shared operations. -/

namespace Sys2Proof.Machine

/-- MOV_COPY (R123): Copies a tensor element by element, carrying or re-producing check tags. -/
def execMovCopy (x : Exr) (e : Enc) (s : State) : Host.Outcome State Fault Refusal := s.on fun c => c.either x (dMov 0) e (copyBody e) none

/-- MOV_FILL (R124): Fills a tensor with a pattern. -/
def execMovFill (x : Exr) (e : Enc) (s : State) : Host.Outcome State Fault Refusal := s.on fun c => c.either x (dMov 1) e (fillBody e) none

/-- RESHARD (R130): Collective that moves every element to its destination shard location. -/
def execReshard (x : Exr) (e : Enc) (s : State) : Host.Outcome State Fault Refusal := s.on fun c => c.either x (dColl 0) e (collBody 0 e) none

/-- BROADCAST (R130): Collective that gives every replica the whole tensor. -/
def execBroadcast (x : Exr) (e : Enc) (s : State) : Host.Outcome State Fault Refusal := s.on fun c => c.either x (dColl 1) e (collBody 1 e) none

/-- ALLGATHER (R130): Collective that gives every replica every shard. -/
def execAllgather (x : Exr) (e : Enc) (s : State) : Host.Outcome State Fault Refusal := s.on fun c => c.either x (dColl 2) e (collBody 2 e) none

/-- REDUCE_ADD (R133): Collective that sums the source replicas into each destination element. -/
def execReduceAdd (x : Exr) (e : Enc) (s : State) : Host.Outcome State Fault Refusal := s.on fun c => c.either x (dColl 3) e (collBody 3 e) none

/-- COLLECTIVE_COMPLETE (R131): A collective completes at a participant once its data is delivered and its destination shards are tagged. -/
def execCollectiveComplete (inst : Nat) (r : CollEnd) (s : State) : Host.Outcome State Fault Refusal := s.on fun c => c.collComplete inst (stbKey r.at') (r.cmps.map fun q => (stbKey q.1, q.2))

/-- ATOM_SET64 (R134): Atomic 64-bit bit-set that returns the old value. -/
def execAtomSet64 (x : Exr) (e : Enc) (s : State) : Host.Outcome State Fault Refusal := s.on fun c => c.either x (dAtom 0) e (atomBody 0 e) none

/-- ATOM_CLR64 (R134): Atomic 64-bit bit-clear that returns the old value. -/
def execAtomClr64 (x : Exr) (e : Enc) (s : State) : Host.Outcome State Fault Refusal := s.on fun c => c.either x (dAtom 1) e (atomBody 1 e) none

/-- ATOM_SET32 (R134): Atomic 32-bit bit-set. -/
def execAtomSet32 (x : Exr) (e : Enc) (s : State) : Host.Outcome State Fault Refusal := s.on fun c => c.either x (dAtom 2) e (atomBody 2 e) none

/-- ATOM_CLR32 (R134): Atomic 32-bit bit-clear. -/
def execAtomClr32 (x : Exr) (e : Enc) (s : State) : Host.Outcome State Fault Refusal := s.on fun c => c.either x (dAtom 3) e (atomBody 3 e) none

/-- TDLD (R66): Loads a tensor descriptor and validates it. -/
def execTdld (x : Exr) (e : Enc) (s : State) : Host.Outcome State Fault Refusal := s.on fun c => c.either x (dTd 0) e (tdldBody e) none

/-- TDST (R66): Stores a tensor descriptor. -/
def execTdst (x : Exr) (e : Enc) (s : State) : Host.Outcome State Fault Refusal := s.on fun c => c.either x (dTd 1) e (tdstBody e) none

/-- TDBASE (R66): Replaces a descriptor's BASE and validates the result. -/
def execTdbase (x : Exr) (e : Enc) (s : State) : Host.Outcome State Fault Refusal := s.on fun c => c.either x (dTd 2) e (tdbaseBody e) none

end Sys2Proof.Machine
end

