-- ==== Sys2Proof/Machine/PartitionRows.lean ====
section
/-! DEFINITION. The meanings of the commands PARTITION_CREATE to ACCOUNTING_UPDATE, in the order of the opcode table: one definition per row over the shared operations. -/

namespace Sys2Proof.Machine

/-- PARTITION_CREATE (R271): DCU_PCMDp CREATE checks the descriptor and creates the partition, or rejects it. -/
def execPartitionCreate (p : Fin 32) (s : State) : Host.Outcome State Fault Refusal := s.on fun c => c.partCreate p.val

/-- PARTITION_RESTART (R285): DCU_PCMDp RESTART runs partition reset with class 0x00. -/
def execPartitionRestart (p : Fin 32) (s : State) : Host.Outcome State Fault Refusal := s.on fun c => c.partRestart p.val

/-- PARTITION_STOP (R285): DCU_PCMDp STOP stops every context and releases the stables, Search Units, FUNC and EVQ. -/
def execPartitionStop (p : Fin 32) (s : State) : Host.Outcome State Fault Refusal := s.on fun c => c.partStopAll p.val

/-- PARTITION_RESET (R281): A fault stops every context, clears the partition's state and chooses a variant. -/
def execPartitionReset (p : Fin 32) (s : State) : Host.Outcome State Fault Refusal := s.on fun c => c.partReset p.val

/-- SECTION_RELOAD_DONE (R281): The reload of the DATA, ZERO and SHARDMAP sections ends and the contexts are created. -/
def execSectionReloadDone (p : Fin 32) (s : State) : Host.Outcome State Fault Refusal := s.on fun c => c.reloadDone p.val

/-- CONTEXT_SAVE_DONE (R279): A save finishes after the drain, and the slot is free. -/
def execContextSaveDone (r : CtxRef) (dur : Nat) (s : State) : Host.Outcome State Fault Refusal := s.on fun c => c.saveDone (slotKey r) dur

/-- CONTEXT_RESTORE_DONE (R277): A restore finishes and the context resumes. -/
def execContextRestoreDone (r : CtxRef) (s : State) : Host.Outcome State Fault Refusal := s.on fun c => c.restoreDone (slotKey r)

/-- BUDGET_EXCEEDED (R274): STB_BUDGETn passes CYCLES and the context raises BUDGET. -/
def execBudgetExceeded (r : CtxRef) (n : Nat) (s : State) : Host.Outcome State Fault Refusal := s.on fun c => c.budgetExceeded (slotKey r) n

/-- SPARE_PREPARE (R282): GO to DCU_SPARECTL powers, trains, tests and prepares a site. -/
def execSparePrepare (site : Fin 72) (s : State) : Host.Outcome State Fault Refusal := s.on fun c => c.sparePrepare site.val

/-- SPARE_PREPARATION_END (R282): Preparation ends: the site is READY with SPARE_READY, or it FAILS. -/
def execSparePreparationEnd (ok : Bool) (bars : SiteTests) (s : State) : Host.Outcome State Fault Refusal := s.on fun c => c.spareDone ok (bars.bars.map fun b => (b.1.val, b.2.val)) bars.bad

/-- ACCOUNTING_UPDATE (R283): Every 1 ms the DCU updates every partition's counters at one tick. -/
def execAccountingUpdate (t : Nat) (uj : Nat) (s : State) : Host.Outcome State Fault Refusal := s.on fun c => c.accountingUpdate t uj

end Sys2Proof.Machine
end

