-- ==== Sys2Proof/Machine/PowerRows.lean ====
section
/-! DEFINITION. The meanings of the commands BUDGET_PERIOD to EFFICIENCY_RUN_END, in the order of the opcode table: one definition per row over the shared operations. -/

namespace Sys2Proof.Machine

/-- BUDGET_PERIOD (R388): Each 1 ms the debt is updated and budgets and zone voltages are set. -/
def execBudgetPeriod (t : Nat) (p : Nat) (s : State) : Host.Outcome State Fault Refusal := s.on fun c => c.budgetPeriod t p

/-- HALL_DEMAND (R387): A die's demand and activity report reaches the DCU. -/
def execHallDemand (d : PwrDie) (idle : Nat) (want : List Nat) (drew : List Nat) (rep : List Activity) (t : Nat) (s : State) : Host.Outcome State Fault Refusal := s.on fun c => c.hallDemand d idle want drew rep t

/-- BUDGET_MESSAGE (R389): A budget grant for the next period reaches a die. -/
def execBudgetMessage (d : PwrDie) (t : Nat) (s : State) : Host.Outcome State Fault Refusal := s.on fun c => c.budgetMessage d t

/-- PWR_BUDGET_LOST (R389): Three periods without a message: the die takes its floor. -/
def execPwrBudgetLost (d : PwrDie) (t : Nat) (s : State) : Host.Outcome State Fault Refusal := s.on fun c => c.budgetLost d t

/-- ZONE_SETTLED (R391): A zone voltage settles and VZONE is updated. -/
def execZoneSettled (zone : Fin 8) (s : State) : Host.Outcome State Fault Refusal := s.on fun c => c.zoneSettled zone.val

/-- ENERGY_CHECK (R392): Every 10 µs a hall steps its point up or down against the prorated grant. -/
def execEnergyCheck (site : Fin 72) (uj : Nat) (t : Nat) (s : State) : Host.Outcome State Fault Refusal := s.on fun c => c.energyCheck site.val uj t

/-- COEFFICIENT_REFIT (R392): Once per second each die refits its activity coefficients. -/
def execCoefficientRefit (d : PwrDie) (coefs : List Nat) (s : State) : Host.Outcome State Fault Refusal := s.on fun c => c.refit d coefs

/-- TEMPERATURE_SAMPLE (R395): Every 100 µs the sensors are read and the thermal thresholds applied. -/
def execTemperatureSample (d : HeatDie) (rs : List (Int × Bool)) (t : Nat) (s : State) : Host.Outcome State Fault Refusal := s.on fun c => c.heatSample d rs t

/-- SENSOR_SUSPECT (R393): A sensor with no valid reading for 10 ms becomes suspect. -/
def execSensorSuspect (d : HeatDie) (n : Fin 8) (t : Nat) (s : State) : Host.Outcome State Fault Refusal := s.on fun c => c.sensorSuspect d n.val t

/-- THM_SENSOR (R394): PAIRFLAG sets or clears after its persistence time. -/
def execThmSensor (site : Fin 72) (t : Nat) (s : State) : Host.Outcome State Fault Refusal := s.on fun c => c.pairFlag site.val t

/-- FLOW_ESTIMATE (R396): The coolant flow estimate is updated and the degraded budget applied. -/
def execFlowEstimate (flow : Nat) (power : Nat) (rise : Int) (t : Nat) (s : State) : Host.Outcome State Fault Refusal := s.on fun c => c.flowEstimate flow power rise t

/-- COOLING_DEGRADED (R397): Entry into DEGRADED, and each 60 s within it, writes COOLING_DEGRADED. -/
def execCoolingDegraded (t : Nat) (s : State) : Host.Outcome State Fault Refusal := s.on fun c => c.coolDegraded t

/-- COOLING_RESTORED (R397): 60 s at or above RESFLOW returns the state to NORMAL. -/
def execCoolingRestored (t : Nat) (s : State) : Host.Outcome State Fault Refusal := s.on fun c => c.coolRestored t

/-- COOLANT_RESUME (R399): THM_COOLCTL.RESUME leaves STOPPED and restarts the partitions. -/
def execCoolantResume (s : State) : Host.Outcome State Fault Refusal := s.on fun c => c.coolResume

/-- AGEING_MEASUREMENT (R400): Every 15 min the path-delay monitors measure each hall's shift. -/
def execAgeingMeasurement (site : Fin 72) (slack : List Nat) (ro : List Nat) (t : Nat) (s : State) : Host.Outcome State Fault Refusal := s.on fun c => c.ageingDue site.val slack ro t

/-- MARGIN_PLAN_WRITE_DONE (R403): A margin plan flash write completes, or fails with MARGIN_WRITE_FAIL. -/
def execMarginPlanWriteDone (ok : Bool) (s : State) : Host.Outcome State Fault Refusal := s.on fun c => c.marginWriteDone ok

/-- EFFICIENCY_RUN (R404): THM_EFFCTL GO starts the 1 s reference run. -/
def execEfficiencyRun (t : Nat) (s : State) : Host.Outcome State Fault Refusal := s.on fun c => c.effRun t

/-- EFFICIENCY_RUN_END (R404): The reference run ends and the factors are written to THM_EFF. -/
def execEfficiencyRunEnd (fs : List Nat) (t : Nat) (s : State) : Host.Outcome State Fault Refusal := s.on fun c => c.effDone fs t

end Sys2Proof.Machine
end

