-- ==== Sys2Proof/Machine/RegulationRows.lean ====
section
/-! DEFINITION. The meanings of the commands BASE_DIE_REQUEST to CH16_WINDOW_END, in the order of the opcode table: one definition per row over the shared operations. -/

namespace Sys2Proof.Machine

/-- BASE_DIE_REQUEST (R287): A request reaches a base die queue and takes an entry, or is refused. -/
def execBaseDieRequest (id : Nat) (t : Nat) (s : State) : Host.Outcome State Fault Refusal := s.on fun c => c.reqArrives id t

/-- QUEUE_SERVICE (R288): The base die serves one request per line slot, urgent requests first. -/
def execQueueService (m : Fin 6) (t : Nat) (s : State) : Host.Outcome State Fault Refusal := s.on fun c => c.queueService m.val t

/-- REQUEST_COMPLETION (R292): A request completes at its requester, updating L and the current priority. -/
def execRequestCompletion (id : Nat) (t : Nat) (s : State) : Host.Outcome State Fault Refusal := s.on fun c => c.reqComplete id t

/-- REQUEST_ISSUE (R291): A requester issues a held request once its throttle, wheel or budget allows. -/
def execRequestIssue (o : RqOwner) (q : ReqIssue) (t : Nat) (s : State) : Host.Outcome State Fault Refusal := s.on fun c => c.requestIssue (rqDie o) q t

/-- LEVEL_MESSAGE_SEND (R290): Every 1 µs each base die sends its LEVEL to every requester. -/
def execLevelMessageSend (m : Fin 6) (t : Nat) (s : State) : Host.Outcome State Fault Refusal := s.on fun c => c.levelSend m.val t

/-- LEVEL_MESSAGE_RECEIVE (R290): A requester applies a received level, and resends refused requests when there is room. -/
def execLevelMessageReceive (o : RqOwner) (m : Fin 6) (t : Nat) (s : State) : Host.Outcome State Fault Refusal := s.on fun c => c.levelReceive (rqDie o) m.val t

/-- REG_FB_LOST (R293): No level message for 4 µs: TDM is set for the stack. -/
def execRegFbLost (o : RqOwner) (m : Fin 6) (t : Nat) (s : State) : Host.Outcome State Fault Refusal := s.on fun c => c.fbLost (rqDie o) m.val t

/-- REG_FB_RESTORED (R293): After 8 consecutive level messages, TDM clears. -/
def execRegFbRestored (o : RqOwner) (m : Fin 6) (s : State) : Host.Outcome State Fault Refusal := s.on fun c => c.fbRestored (rqDie o) m.val

/-- TDM_SLOT (R294): A new 250 ns wheel slot begins and its owner may issue. -/
def execTdmSlot (o : RqOwner) (t : Nat) (s : State) : Host.Outcome State Fault Refusal := s.on fun c => c.tdmSlot (rqDie o) t

/-- CH16_WINDOW_END (R295): A CH16 budget window ends and the byte count and OVER reset. -/
def execCh16WindowEnd (o : RqOwner) (m : Fin 6) (t : Nat) (s : State) : Host.Outcome State Fault Refusal := s.on fun c => c.windowEnd (rqDie o) m.val t

end Sys2Proof.Machine
end

