-- ==== Sys2Proof/Machine/ScalarRows.lean ====
section
/-! DEFINITION. The meanings of the commands NOP to END, in the order of the opcode table: one definition per row over the shared operations. -/

namespace Sys2Proof.Machine

/-- NOP (R41): No operation. -/
def execNop (x : Exr) (e : Enc) (s : State) : Host.Outcome State Fault Refusal := s.on fun c => c.either x (dNop) e (nopBody) (some fun _ => pure ())

/-- ALU (R59): Scalar register-register ALU operation selected by SUB. -/
def execAlu (x : Exr) (sub : BitVec 8) (e : Enc) (s : State) : Host.Outcome State Fault Refusal := s.on fun c => c.either x (dAlu sub.toNat) e (aluBody sub.toNat e) (some (ialu sub.toNat e))

/-- ALUI (R60): Scalar ALU operation with a sign-extended IMM30 operand. -/
def execAlui (x : Exr) (sub : BitVec 8) (e : Enc) (s : State) : Host.Outcome State Fault Refusal := s.on fun c => c.either x (dAlui sub.toNat) e (aluiBody sub.toNat e) (some (ialui sub.toNat e))

/-- LI (R60): Loads IMM64 into S[D]. -/
def execLi (x : Exr) (e : Enc) (s : State) : Host.Outcome State Fault Refusal := s.on fun c => c.either x (dLi) e (liBody e) (some (ili e))

/-- LD (R63): Scalar load from S[A] + IMM30, zero- or sign-extended. -/
def execLd (x : Exr) (sub : BitVec 8) (e : Enc) (s : State) : Host.Outcome State Fault Refusal := s.on fun c => c.either x (dLd sub.toNat) e (ldBody sub.toNat e) (some (ild sub.toNat e))

/-- ST (R63): Scalar store of the low bytes of S[D], leaving any tag stale. -/
def execSt (x : Exr) (sub : BitVec 8) (e : Enc) (s : State) : Host.Outcome State Fault Refusal := s.on fun c => c.either x (dSt sub.toNat) e (stBody sub.toNat e) (some (ist sub.toNat e))

/-- CMP (R59): Compares two S registers into P[D]. -/
def execCmp (x : Exr) (sub : BitVec 8) (e : Enc) (s : State) : Host.Outcome State Fault Refusal := s.on fun c => c.either x (dCmp sub.toNat) e (cmpBody sub.toNat e) (some (icmp sub.toNat e))

/-- CMPI (R60): Compares S[A] with IMM30 into P[D]. -/
def execCmpi (x : Exr) (sub : BitVec 8) (e : Enc) (s : State) : Host.Outcome State Fault Refusal := s.on fun c => c.either x (dCmpi sub.toNat) e (cmpiBody sub.toNat e) (some (icmpi sub.toNat e))

/-- PLOG (R59): Combines predicate registers into P[D]. -/
def execPlog (x : Exr) (sub : BitVec 8) (e : Enc) (s : State) : Host.Outcome State Fault Refusal := s.on fun c => c.either x (dPlog sub.toNat) e (plogBody sub.toNat e) (some (iplog sub.toNat e))

/-- BR (R60): Branches by OFF40 words. -/
def execBr (x : Exr) (e : Enc) (s : State) : Host.Outcome State Fault Refusal := s.on fun c => c.either x (dBr 0) e (brBody e) (some (ibr e))

/-- CALL (R60): Writes the return address to S31 and branches. -/
def execCall (x : Exr) (e : Enc) (s : State) : Host.Outcome State Fault Refusal := s.on fun c => c.either x (dBr 1) e (callBody e) (some (icall e))

/-- JR (R60): Branches to S[A]. -/
def execJr (x : Exr) (e : Enc) (s : State) : Host.Outcome State Fault Refusal := s.on fun c => c.either x (dJr 0) e (jrBody e) (some (ijr e))

/-- JRL (R60): Writes the return address to S[D] and branches to S[A]. -/
def execJrl (x : Exr) (e : Enc) (s : State) : Host.Outcome State Fault Refusal := s.on fun c => c.either x (dJr 1) e (jrlBody e) (some (ijrl e))

/-- MFS_CSW (R64): Reads the context status word, with PASS read as 0 inside a block. -/
def execMfsCsw (x : Exr) (e : Enc) (s : State) : Host.Outcome State Fault Refusal := s.on fun c => c.either x (dMfs 0) e (mfsCswBody e) (some (imfsCsw e))

/-- MFS_LFC (R35): Reads the landing frame counter. -/
def execMfsLfc (x : Exr) (e : Enc) (s : State) : Host.Outcome State Fault Refusal := s.on fun c => c.either x (dMfs 1) e (mfsLfcBody e) none

/-- MFS_DEVTIME (R64): Reads DEVTIME, recorded in the primary pass and replayed in the later passes. -/
def execMfsDevtime (x : Exr) (e : Enc) (s : State) : Host.Outcome State Fault Refusal := s.on fun c => c.either x (dMfs 2) e (mfsDevtimeBody e) (some (imfsDevtime e))

/-- MFS_IADDR (R64): Reads the address of the MFS instruction's own base word. -/
def execMfsIaddr (x : Exr) (e : Enc) (s : State) : Host.Outcome State Fault Refusal := s.on fun c => c.either x (dMfs 3) e (mfsIaddrBody e) (some (imfsIaddr e))

/-- MFS_PLACE (R64): Reads the hall, stable, slot and partition of the context. -/
def execMfsPlace (x : Exr) (e : Enc) (s : State) : Host.Outcome State Fault Refusal := s.on fun c => c.either x (dMfs 4) e (mfsPlaceBody e) none

/-- END (R146): Stops the context with STATE 0x0 and completes its part of the job. -/
def execEndContext (x : Exr) (e : Enc) (s : State) : Host.Outcome State Fault Refusal := s.on fun c => c.either x (dEnd) e (endBody) (some iend)

end Sys2Proof.Machine
end

