-- ==== Sys2Proof/Machine/SearchRows.lean ====
section
/-! DEFINITION. The meanings of the commands SUQ_INSERT to SU_QCFG_WRITE, in the order of the opcode table: one definition per row over the shared operations. -/

namespace Sys2Proof.Machine

/-- SUQ_INSERT (R223): Inserts a key and payload into a queue. -/
def execSuqInsert (x : Exr) (e : SuqEnc) (s : State) : Host.Outcome State Fault Refusal := s.on fun c => c.either x (dSuq 0) e.enc (suqInsertBody e.upset e.enc) none

/-- SUQ_EXTRACT (R222): Removes and returns a queue's minimum. -/
def execSuqExtract (x : Exr) (e : SuqEnc) (s : State) : Host.Outcome State Fault Refusal := s.on fun c => c.either x (dSuq 1) e.enc (suqTakeBody false e.upset e.enc) none

/-- SUQ_PEEK (R222): Returns a queue's minimum without removing it. -/
def execSuqPeek (x : Exr) (e : SuqEnc) (s : State) : Host.Outcome State Fault Refusal := s.on fun c => c.either x (dSuq 2) e.enc (suqTakeBody true e.upset e.enc) none

/-- SUQ_COUNT (R222): Returns the number of entries in a queue. -/
def execSuqCount (x : Exr) (e : Enc) (s : State) : Host.Outcome State Fault Refusal := s.on fun c => c.either x (dSuq 3) e (suqCountBody e) none

/-- SUQ_CLEAR (R222): Empties one queue or all four, optionally resetting SU_NALLOC. -/
def execSuqClear (x : Exr) (e : Enc) (s : State) : Host.Outcome State Fault Refusal := s.on fun c => c.either x (dSuq 4) e (suqClearBody e) none

/-- SUNODE_NEW (R224): Allocates a node and copies a record into it. -/
def execSunodeNew (x : Exr) (e : Enc) (s : State) : Host.Outcome State Fault Refusal := s.on fun c => c.either x (dSunode 0) e (sunodeNewBody e) none

/-- SUNODE_RD (R224): Copies a node to local memory. -/
def execSunodeRd (x : Exr) (e : Enc) (s : State) : Host.Outcome State Fault Refusal := s.on fun c => c.either x (dSunode 1) e (sunodeRdBody e) none

/-- SUNODE_WR (R224): Overwrites a node from local memory. -/
def execSunodeWr (x : Exr) (e : Enc) (s : State) : Host.Outcome State Fault Refusal := s.on fun c => c.either x (dSunode 2) e (sunodeWrBody e) none

/-- SUNODE_NEAREST (R225): Scans the live nodes for the least metric. -/
def execSunodeNearest (x : Exr) (e : Enc) (s : State) : Host.Outcome State Fault Refusal := s.on fun c => c.either x (dSunode 3) e (sunodeNearestBody e) none

/-- SUPATH_SMOOTH (R226): Fits quintic segments through waypoints. -/
def execSupathSmooth (x : Exr) (e : Enc) (s : State) : Host.Outcome State Fault Refusal := s.on fun c => c.either x (dSupath 0) e (smoothBody e) none

/-- SUPATH_TSCALE (R227): Time-scales segments into trajectory samples. -/
def execSupathTscale (x : Exr) (e : Enc) (s : State) : Host.Outcome State Fault Refusal := s.on fun c => c.either x (dSupath 1) e (tscaleBody e) none

/-- SUPLAN_COMMIT (R236): The plan port checks a draft plan record and sends it to both islands. -/
def execSuplanCommit (x : Exr) (misread : Bool) (e : Enc) (s : State) : Host.Outcome State Fault Refusal := s.on fun c => c.either x (dSuplan 0) e (suplanBody false misread e) none

/-- SUPLAN_STOP_ARM (R237): Arms a checked stop trajectory for the frame. -/
def execSuplanStopArm (x : Exr) (misread : Bool) (e : Enc) (s : State) : Host.Outcome State Fault Refusal := s.on fun c => c.either x (dSuplan 1) e (suplanBody true misread e) none

/-- SUPLAN_STOP_NO_PATH (R237): Sends a stop record with reason NO_PATH at once. -/
def execSuplanStopNoPath (x : Exr) (misread : Bool) (e : Enc) (s : State) : Host.Outcome State Fault Refusal := s.on fun c => c.either x (dSuplan 1) e (suplanBody true misread e) none

/-- PLAN_ACK_RECEIVE (R236): An island's acknowledgement of a plan record reaches the plan port. -/
def execPlanAckReceive (site : Fin 72) (isl : Isl) (seq : Nat) (s : State) : Host.Outcome State Fault Refusal := s.on fun c => c.planAck site.val isl seq

/-- PLAN_ACK_TIMEOUT (R236): The 20 µs wait for acknowledgements ends and the SUPLAN completes. -/
def execPlanAckTimeout (site : Fin 72) (seq : Nat) (t : Nat) (s : State) : Host.Outcome State Fault Refusal := s.on fun c => (c.at t).planAckTimeout site.val seq

/-- SUSYNC (R233): Waits for earlier Search Unit commands and returns the status of the last SUPLAN. -/
def execSusync (x : Exr) (e : Enc) (s : State) : Host.Outcome State Fault Refusal := s.on fun c => c.either x (dSusync) e (susyncBody e) none

/-- PLANNING_DEADLINE (R238): At D(F) − GUARD with nothing sent, the armed stop is sent or the frame is missed, and the arm is spent. -/
def execPlanningDeadline (site : Fin 72) (f : Nat) (t : Nat) (s : State) : Host.Outcome State Fault Refusal := s.on fun c => (c.at t).planningDeadline site.val f

/-- FRAME_SCHEDULE_DELIVERY (R238): The DCU's frame schedule reaches a hall's plan port. -/
def execFrameScheduleDelivery (site : Fin 72) (s : State) : Host.Outcome State Fault Refusal := s.on fun c => c.scheduleDelivery site.val

/-- SU_OWNER_WRITE (R240): A DCU write to SU_OWNER assigns or releases the Search Unit, clearing its queues and its arm on a change. -/
def execSuOwnerWrite (site : Fin 72) (v : W64) (s : State) : Host.Outcome State Fault Refusal := s.on fun c => c.suOwnerWrite site.val v.toNat true

/-- SU_QCFG_WRITE (R240): A write of queue capacities, discarded while any queue holds entries or if the capacities sum above 256. -/
def execSuQcfgWrite (site : Fin 72) (v : W64) (s : State) : Host.Outcome State Fault Refusal := s.on fun c => c.suQcfgWrite site.val v.toNat

end Sys2Proof.Machine
end

