-- ==== Sys2Proof/Machine/StartRows.lean ====
section
/-! DEFINITION. The meanings of the commands NRESET_ASSERT to KEY_REVOKE, in the order of the opcode table: one definition per row over the shared operations. -/

namespace Sys2Proof.Machine

/-- NRESET_ASSERT (R364): nRESET held low for 5 µs resets the main package. -/
def execNresetAssert (dur : Nat) (s : State) : Host.Outcome State Fault Refusal := s.on fun c => c.nreset dur

/-- NRESET_RELEASE (R368): Release of nRESET starts the DCU ROM self-test and the firmware load. -/
def execNresetRelease (s : State) : Host.Outcome State Fault Refusal := s.on fun c => c.nresetRelease

/-- ISLAND_RESET_ASSERT (R364): nRESET_SIA or nRESET_SIB held low resets its island. -/
def execIslandResetAssert (isl : Isl) (dur : Nat) (s : State) : Host.Outcome State Fault Refusal := s.on fun c => c.islReset isl dur

/-- ISLAND_RESET_RELEASE (R373): The island ROM verifies and starts its firmware. -/
def execIslandResetRelease (isl : Isl) (silent : Bool) (a : List Byte) (b : List Byte) (s : State) : Host.Outcome State Fault Refusal := s.on fun c => c.islRelease isl silent a b

/-- ISLAND_TIME_FIRST (R373): The island's link first delivers time, which is loaded without slew. -/
def execIslandTimeFirst (isl : Isl) (s : State) : Host.Outcome State Fault Refusal := s.on fun c => c.islTimeFirst isl

/-- FIRMWARE_VERIFY_DONE (R369): The DCU firmware is verified and started, ending step 2. -/
def execFirmwareVerifyDone (t : Nat) (rom : Bool) (flash : Bool) (s : State) : Host.Outcome State Fault Refusal := s.on fun c => c.firmware t rom flash

/-- LINK_TRAINING_DONE (R376): Step 3 ends: links are trained and any island DEVTIME is adopted. -/
def execLinkTrainingDone (t : Nat) (bad : List (Nat × Nat × Nat)) (s : State) : Host.Outcome State Fault Refusal := s.on fun c => c.linkTraining t bad

/-- STAIR_ROW_TEST_DONE (R377): The site tests of one stair row finish and failing sites go to 0b10. -/
def execStairRowTestDone (g : Fin 8) (codes : List Nat) (s : State) : Host.Outcome State Fault Refusal := s.on fun c => c.stairRow g.val codes

/-- STAIR_DONE (R378): Hall IDs are handed out, the route tables are loaded and STAIR_DONE is written. -/
def execStairDone (t : Nat) (s : State) : Host.Outcome State Fault Refusal := s.on fun c => c.stairDone t

/-- MEMORY_TRAINING_DONE (R379): The stacks are trained and initialised, or start-up stops. -/
def execMemoryTrainingDone (t : Nat) (failed : List (Fin 6)) (s : State) : Host.Outcome State Fault Refusal := s.on fun c => c.memoryTraining t (failed.map Fin.val)

/-- COMPARATOR_INJECTION_DONE (R267): The 129 injected blocks end; a stable that fails is barred. -/
def execComparatorInjectionDone (t : Nat) (bad : List (StbRef × Fin 129)) (s : State) : Host.Outcome State Fault Refusal := s.on fun c => c.injection t (bad.map fun b => (stbKey b.1, b.2.val))

/-- MARGIN_PLAN_DONE (R380): The margin plan is loaded, measured, re-planned and written back. -/
def execMarginPlanDone (t : Nat) (meas : List (Nat × List Nat × List Nat)) (ok : Bool) (s : State) : Host.Outcome State Fault Refusal := s.on fun c => c.marginPlan t meas ok

/-- BOOT_IMAGE_VERIFY_DONE (R381): The boot image is verified and the personalities and modes are set. -/
def execBootImageVerifyDone (t : Nat) (s : State) : Host.Outcome State Fault Refusal := s.on fun c => c.bootImage t

/-- FENSAN_START (R382): Fensan RT loads the image and creates the partitions. -/
def execFensanStart (t : Nat) (s : State) : Host.Outcome State Fault Refusal := s.on fun c => c.fensanStart t

/-- FRAME_ZERO_SCHEDULE (R383): start(0) is fixed and the schedule and restart notices go to the islands. -/
def execFrameZeroSchedule (t : Nat) (s : State) : Host.Outcome State Fault Refusal := s.on fun c => c.frameZero t

/-- RESTART_NOTICE (R375): An island receives a restart notice and forgets its FRAME and SEQ. -/
def execRestartNotice (isl : Isl) (s : State) : Host.Outcome State Fault Refusal := s.on fun c => c.restartNotice isl

/-- STATE_MESSAGE_SEND (R370): Every 100 µs the acting DCU mirrors its state to the standby. -/
def execStateMessageSend (t : Nat) (s : State) : Host.Outcome State Fault Refusal := s.on fun c => c.stateSend t

/-- STATE_MESSAGE_RECEIVE (R370): The standby receives and acknowledges a state message. -/
def execStateMessageReceive (s : State) : Host.Outcome State Fault Refusal := s.on fun c => c.stateReceive

/-- DCU_FAILOVER (R370): 500 µs of silence, or a self-check report, makes the standby take over. -/
def execDcuFailover (t : Nat) (report : Bool) (die0 : Bool) (s : State) : Host.Outcome State Fault Refusal := s.on fun c => c.failoverRow t report die0

/-- STANDBY_FAIL (R370): The standby stops acknowledging for 500 µs. -/
def execStandbyFail (t : Nat) (s : State) : Host.Outcome State Fault Refusal := s.on fun c => c.standbyFail t

/-- KEY_REVOKE (R367): A write to DCU_KEYREV permanently revokes key slots. -/
def execKeyRevoke (v : BitVec 4) (s : State) : Host.Outcome State Fault Refusal := s.on fun c => c.keyRevoke v.toNat

end Sys2Proof.Machine
end

