-- ==== Sys2Proof/Machine/SyncRows.lean ====
section
/-! DEFINITION. The meanings of the commands EVT_SET to PATROL_SCRUB, in the order of the opcode table: one definition per row over the shared operations. -/

namespace Sys2Proof.Machine

/-- EVT_SET (R139): Sets an event flag at the synchronisation home. -/
def execEvtSet (x : Exr) (e : Enc) (s : State) : Host.Outcome State Fault Refusal := s.on fun c => c.either x (dEvt 0) e (evtSetBody false e) (some (ievtSet false e))

/-- EVT_CLR (R139): Clears an event flag. -/
def execEvtClr (x : Exr) (e : Enc) (s : State) : Host.Outcome State Fault Refusal := s.on fun c => c.either x (dEvt 2) e (evtSetBody true e) (some (ievtSet true e))

/-- EVT_WAIT (R139): Blocks until an event flag reads 1. -/
def execEvtWait (x : Exr) (e : Enc) (s : State) : Host.Outcome State Fault Refusal := s.on fun c => c.either x (dEvt 1) e (evtWaitBody e) (some (ievtWait e))

/-- EVT_POST (R139): Writes a USER event record. -/
def execEvtPost (x : Exr) (e : Enc) (s : State) : Host.Outcome State Fault Refusal := s.on fun c => c.either x (dEvt 3) e (evtPostBody e) (some (ievtPost e))

/-- EVT_WAKE (R140): The contexts waiting on a flag that has been set resume. -/
def execEvtWake (p : Fin 32) (f : Fin 256) (s : State) : Host.Outcome State Fault Refusal := s.on fun c => c.evtWake p.val f.val

/-- BAR_ARRIVE (R141): Arrives at a barrier, advancing GEN when ARRIVED reaches COUNT. -/
def execBarArrive (x : Exr) (e : Enc) (s : State) : Host.Outcome State Fault Refusal := s.on fun c => c.either x (dBar 0) e (barArriveBody e) none

/-- BAR_WAIT (R141): Blocks until GEN differs from the given value. -/
def execBarWait (x : Exr) (e : Enc) (s : State) : Host.Outcome State Fault Refusal := s.on fun c => c.either x (dBar 1) e (barWaitBody e) none

/-- BAR_WAIT_RESUME (R141): Waiting contexts resume after GEN advances. -/
def execBarWaitResume (p : Fin 32) (b : Fin 32) (s : State) : Host.Outcome State Fault Refusal := s.on fun c => c.barResume p.val b.val

/-- FENCE (R121): Completes every earlier access of the context. -/
def execFence (x : Exr) (e : Enc) (s : State) : Host.Outcome State Fault Refusal := s.on fun c => c.either x (dFence) e (fenceBody) (some fun _ => pure ())

/-- WAITT (R142): Blocks until the local DEVTIME reaches S[A]. -/
def execWaitt (x : Exr) (e : Enc) (s : State) : Host.Outcome State Fault Refusal := s.on fun c => c.either x (dWaitt) e (waittBody e) (some (iwaitt e))

/-- WAITT_RESUME (R142): DEVTIME reaches the target and the waiting context resumes. -/
def execWaittResume (w : Waiter) (t : Nat) (s : State) : Host.Outcome State Fault Refusal := s.on fun c => c.timeFor w t

/-- LAND_WAIT (R145): Waits for the landing start of the next frame, or completes at once. -/
def execLandWait (x : Exr) (e : Enc) (s : State) : Host.Outcome State Fault Refusal := s.on fun c => c.either x (dLand 0) e (landWaitBody e) none

/-- LAND_SIGNAL (R146): Declares the context's work for its frame done. -/
def execLandSignal (x : Exr) (e : Enc) (s : State) : Host.Outcome State Fault Refusal := s.on fun c => c.either x (dLand 1) e (landSignalBody) none

/-- HALL_EVTS_WRITE (R122): A host write to HALL_EVTS acts as EVT.SET on each 1 bit. -/
def execHallEvtsWrite (site : Fin 72) (p : Fin 32) (k : Fin 4) (v : W64) (s : State) : Host.Outcome State Fault Refusal := s.on fun c => c.hallEvtWrite site.val p.val k.val v.toNat false

/-- HALL_EVTC_WRITE (R122): A host write to HALL_EVTC acts as EVT.CLR on each 1 bit. -/
def execHallEvtcWrite (site : Fin 72) (p : Fin 32) (k : Fin 4) (v : W64) (s : State) : Host.Outcome State Fault Refusal := s.on fun c => c.hallEvtWrite site.val p.val k.val v.toNat true

/-- SCENE_STAGE (R219): A write with V = 1 to HALL_SCNSk stages a header for the next landing. -/
def execSceneStage (site : Fin 72) (p : Fin 32) (slot : Fin 8) (v : W64) (s : State) : Host.Outcome State Fault Refusal := s.on fun c => c.sceneWrite site.val p.val slot.val (setBits v.toNat 0 0 1)

/-- SCENE_WITHDRAW (R219): A write with V = 0 withdraws the staged header. -/
def execSceneWithdraw (site : Fin 72) (p : Fin 32) (slot : Fin 8) (v : W64) (s : State) : Host.Outcome State Fault Refusal := s.on fun c => c.sceneWrite site.val p.val slot.val (setBits v.toNat 0 0 0)

/-- SCENE_RETIRED (R203): BUSY of a retiring header reaches 0: RET clears and SCENE_RETIRED is written. -/
def execSceneRetired (p : Fin 32) (slot : Fin 8) (s : State) : Host.Outcome State Fault Refusal := s.on fun c => c.sceneRetired p.val slot.val

/-- STB_KVPT_WRITE (R196): Registers or deregisters a page table after checking its header. -/
def execStbKvptWrite (r : StbRef) (v : W64) (s : State) : Host.Outcome State Fault Refusal := s.on fun c => c.kvptWrite (stbKey r) v.toNat

/-- CORRECTED_WORD_WRITEBACK (R162): The corrected word is written back in the next free bank cycle. -/
def execCorrectedWordWriteback (w : Nat) (s : State) : Host.Outcome State Fault Refusal := s.on fun c => c.writeBack w

/-- PATROL_SCRUB (R164): The patrol scrubber reads and corrects words during idle bank cycles. -/
def execPatrolScrub (who : Fin 78) (upset : BitVec 288) (s : State) : Host.Outcome State Fault Refusal := s.on fun c => c.patrolScrub who.val upset.toNat

end Sys2Proof.Machine
end

