-- ==== Sys2Proof/Machine/Tensor.lean ====
section
/-! DEFINITION. Matrix products, convolutions and the accumulator moves (R70-R92): formats, shapes, accumulation order, epilogue. -/

namespace Sys2Proof.Machine

/-! ## Acceptance of TOW (R58, R70, R73) -/

/-- EPI values that are reserved (TOW.EPI layout). -/
def epiRsv (e : Enc) : Bool := decide (e.epi ≥ 64) || e.epi / 16 == 3 || decide (e.epi % 16 > 6)

/-- ACC of format T, as a mask of the body. -/
def fACC : Nat := maskOf 19 16

/-- Decode of a format-T row: reserved EPI values, a SEED without stochastic rounding, and AXIS 6 and 7 of REDUCE (R70, R73, R94).
    `prm` holds the bits of PARAM[31:0] that the instruction allocates, `unused` the fields that it does not use (R59). -/
def dT (opc sub prm : Nat) (unused : Nat := 0) : IDesc :=
  { opc := opc, sub := sub, fmt := .T, rsvB := unused, rsv0 := 0xFFFFFFFF - prm, ok := fun e => !epiRsv e && (e.rnd == 1 || fld e.x0 43 32 == 0) && (opc != 0x24 || decide (fld e.x0 2 0 ≤ 5)) }

/-- Stochastic rounding needs a destination of 8 bits or fewer (R58). -/
def srOk (e : Enc) (d : Desc) : Bool := !e.sr || decide (d.bits ≤ 8)

/-! ## Functions of the epilogue and of VACT -/

/-- Activation by code (TOW.EPI.ACT), on FP32 values. -/
def actFn (a : Nat) (v : FV) : FV := match a with
  | 0 => v
  | 1 => v.max FV.zero
  | 2 => f32 (gelu32 v)
  | 3 => f32 (silu32 v)
  | 4 => f32 (sigmoid32 v)
  | 5 => f32 (tanh32 v)
  | _ => (v.max FV.zero).min (FV.ofInt 6)

/-- Operand C of the epilogue: CMODE and its values by (row, column) of the output (R73, R74). -/
structure COp where
  mode : Nat
  at0  : Nat → Nat → FV
  at1  : Nat → FV

/-- The epilogue's value before the final conversion (R74). -/
def epilogue (act : Nat) (co : Option COp) (row col : Nat) (v : FV) : FV :=
  let v := match co with
    | none => v
    | some c =>
      if c.mode = 0 then r32 (v.add (c.at0 row col))
      else if c.mode = 1 then r32 (v.mul (c.at0 0 col))
      else r32 ((r32 (v.mul (c.at0 0 col))).add (c.at1 col))
  actFn act v

/-- Shape and format of operand C (R73): C for an output of `n` columns whose dims are `od`. -/
def cAccept (e : Enc) (od : Desc) (c : Desc) : Bool :=
  c.usable && (match e.cmode with
    | 0 => !isMX c.fmt && (c.dims == od.dims || c.dims == [od.len, 1])
    | 1 => c.dims == [od.len, 1] && (c.fmt == 0x09 || c.fmt == 0x0A || c.fmt == 0x0B)
    | _ => c.dims == [od.len, 2] && (c.fmt == 0x09 || c.fmt == 0x0A || c.fmt == 0x0B))

/-- Read operand C when CE = 1. -/
def readC (k : Nat) (e : Enc) (od : Desc) : Ex (Option COp) := do
  if !e.ce then pure none
  else
    let c ← descAt k e.c
    let vs := (← readF32 k c).toArray
    let one := c.dims == [od.len, 1] && c.dims != od.dims
    let v := fun i => vs.getD i FV.zero
    pure (some { mode := e.cmode, at0 := fun r n => if one || e.cmode != 0 then v n else v (r * od.len + n), at1 := fun n => v (od.len + n) })

/-! ## Operand pairs and accumulation (R84-R87) -/

/-- Integer format codes. -/
def isInt (f : Nat) : Bool := within 1 3 f

/-- A dense pair that MATMUL and CONV2D accept (R86). -/
def pairOk (a b : Nat) : Bool :=
  (isInt a && isInt b) || (within 4 8 a && within 4 8 b) || (a == b && within 9 11 a) || (a == 0x10 && b == 0x10) || (within 0x11 0x15 a && within 0x11 0x15 b)

/-- Reduction indices of one step (R84). -/
def stepLen (a b : Nat) : Nat :=
  if isMX a then 32 else if isInt a then (if a = 3 ∨ b = 3 then 1 else 4) else if a ≤ 8 then 4 else 1

/-- A pair that the sparse forms accept (R88). -/
def sparseOk (a b : Nat) : Bool := (within 1 2 a && within 1 2 b) || ((a == 4 || a == 7 || a == 8) && (b == 4 || b == 7 || b == 8))

/-- Exact sum of a step's products: NaN, infinity or a number by R85. -/
def stepSum (ps : List FV) : FV := match ps with
  | [] => FV.zero
  | p :: ps => ps.foldl FV.add p

/-- A step sum as a floating accumulator takes it: exact, but an infinity where it lies beyond the FP32 range (R85). -/
def stepF32 (s : FV) : FV := if (r32 s).finite then s else r32 s

/-- An accumulator: the 32-bit word and whether a saturation occurred. -/
abbrev AccW := Nat × Bool

/-- One accumulation step (R84). -/
def accStep (int : Bool) (a : AccW) (s : FV) : AccW :=
  if int then
    let cur := sgn 32 a.1
    let add : Int := match s with
      | .fin n m e => if n then -((m * 2 ^ e.toNat : Nat) : Int) else ((m * 2 ^ e.toNat : Nat) : Int)
      | _ => 0
    let r := sat32 (cur + add)
    (toBits 32 r, a.2 || decide (r ≠ cur + add))
  else (rne32 ((f32 a.1).add (stepF32 s)), a.2)

/-- The whole reduction of one output element: `prods k` gives the products at index k (R84). -/
def accumulate (int : Bool) (step K : Nat) (prods : Nat → List FV) (init : Nat) : AccW :=
  (List.range (ceilDiv K step)).foldl (fun a t =>
    accStep int a (stepSum (((List.range step).map fun i => if step * t + i < K then prods (step * t + i) else [FV.zero]).flatten))) (init, false)

/-- The accumulator word as FP32 (R74). -/
def accF32 (int : Bool) (w : Nat) : FV := if int then r32 (FV.ofInt (sgn 32 w)) else f32 w

/-! ## Accumulator tiles -/

/-- Key of element (row, column) of tile `t` on stall `q` (R34). -/
def accKey (t q row col : Nat) : Nat := ((t * 4 + q) * 32 + row) * 32 + col

/-- The pass shift σ of the pass that runs: 1 in a shadow pass, 2 in an arbiter pass (R39). -/
def Ctx.shift (x : Ctx) : Nat := match x.chk with
  | some b => if b.state = 2 then 1 else if b.state = 5 then 2 else 0
  | none => 0

/-- Tile, stall and element of output row `i` of unit `u`, column `n`, in a pass of shift `sh` (R82). -/
def tileKey (sh acc wc u i n : Nat) : Nat := accKey (acc + u / 4 * wc + n / 32) ((u + sh) % 4) i (n % 32)

/-- The context's tile count n (R34). -/
def Chip.tileCount (c : Chip) (k : Nat) : Nat := ((c.desc? (c.ctx k)).map CtxDesc.nacc).getD 0

/-- Rows M of one batch item, and batch items, of an output: a convolution's output of rank 4 is one matrix of all its positions (R78,
    R91). -/
def Desc.mats (d : Desc) : Nat × Nat := if d.rank = 4 then (d.rows, 1) else (d.dim 1, d.rows / d.dim 1)

/-- Tiles from ACC upwards that an M×N output takes (R82). -/
def Desc.tiles (d : Desc) : Nat := ceilDiv (d.mats.2 * ceilDiv d.mats.1 32) 4 * ceilDiv d.len 32

/-- Those tiles are below the context's tile count (R59, R82). -/
def Chip.accFits (c : Chip) (k : Nat) (e : Enc) (d : Desc) : Bool := decide (e.acc + d.tiles ≤ c.tileCount k)

/-- Negate a word: as INT32 (`int`), or by its FP32 sign. -/
def negWord (int : Bool) (w : W32) : W32 := if int then 0 - w else w ^^^ 0x80000000#32

/-- A tile word as an instruction reads it: the negation of a shadow or arbiter pass is removed (R102). -/
def Ctx.accAt (x : Ctx) (key : Nat) : W32 := match x.accNeg.look key with
  | some int => negWord int (x.accRaw key)
  | none => x.accRaw key

/-- Write tile words, each with the type of its negation where it has one: in a shadow or arbiter pass the tile holds the negated word
    (R102). -/
def Ctx.setAcc (x : Ctx) (int : Option Bool) (ws : List (Nat × W32)) : Ctx :=
  match int.filter fun _ => x.shift != 0 with
  | some t => { x with acc := x.acc.setAll (ws.map fun q => (q.1, negWord t q.2)), accNeg := x.accNeg.setAll (ws.map fun q => (q.1, t)) }
  | none => { x with acc := x.acc.setAll ws, accNeg := x.accNeg.filter fun q => !(ws.map Prod.fst).contains q.1 }

/-- Both working tiles at zero (R80). -/
def Ctx.zeroTiles (x : Ctx) (acc : Nat) : Ctx :=
  { x with acc := x.acc.filter (fun q => !(q.1 / 4096 == acc || q.1 / 4096 == acc + 1)), accNeg := x.accNeg.filter (fun q => !(q.1 / 4096 == acc || q.1 / 4096 == acc + 1)), lost := x.lost.filter fun t => !(t.1 == acc || t.1 == acc + 1) }

/-! ## The shape of a product -/

/-- A product as the array computes it: rows (m, by batch item), columns, reduction length, and the products of an
    output element at an index. -/
structure MacProd where
  m     : Nat
  n     : Nat
  kk    : Nat
  batch : Nat
  int   : Bool
  step  : Nat
  prods : Nat → Nat → Nat → List FV

/-- Work unit of linear output row `r` (R78, R79): for a MATMUL each batch item starts a unit. -/
def MacProd.unit (p : MacProd) (r : Nat) : Nat := r / p.m * ceilDiv p.m 32 + r % p.m / 32

/-- Row of the unit. -/
def MacProd.urow (p : MacProd) (r : Nat) : Nat := r % p.m % 32

/-- The products that MATMUL and CONV form. -/
inductive MacOp where
  | mm | mmSp | conv | convSp | dw
deriving DecidableEq, Repr

/-- B is compressed (R88). -/
def MacOp.sparse : MacOp → Bool
  | .mmSp | .convSp => true
  | _ => false

/-- Expanded sparse B at index `kk` of column `n`: the stored values that meet A there (R89, R90). -/
def sparseAt (b mtd : Nat → Nat → Nat) (fmt kk n : Nat) : List FV :=
  let g := kk / 4
  let nib := mtd g n
  let hit := (if nib % 4 = kk % 4 then [decElem fmt (b (2 * g) n)] else []) ++ (if nib / 4 = kk % 4 then [decElem fmt (b (2 * g + 1) n)] else [])
  if hit.isEmpty then [FV.zero] else hit

/-- Groups of four that a compressed operand covers: its K / 2 stored rows, two to a group (R89). -/
def Desc.groups (b : Desc) : Nat := (if b.rank = 4 then b.rows else b.dim 1) / 2

/-- Metadata nibbles of a compressed operand, by group and column (R89). -/
def readMeta (k : Nat) (b : Desc) : Ex (Nat → Nat → Nat) := do
  let base := alignUp b.elemEnd 4096
  let stride := alignUp (ceilDiv b.len 2) 32
  let rows ← (List.range b.groups).mapM fun g => rdPol k (b.pol == 0) (base + g * stride) (ceilDiv b.len 2)
  let arr := rows.toArray
  return fun g c => ((arr.getD g []).getD (c / 2) 0).toNat / 16 ^ (c % 2) % 16

/-- Base and bytes of the metadata's footprint (R76, R89). -/
def metaSpan (b : Desc) : Nat × Nat := (alignUp b.elemEnd 4096, b.groups * alignUp (ceilDiv b.len 2) 32)

/-- A MATMUL accepts the formats and shapes of A, B and D (R78, R86-R89). -/
def matOk (sparse : Bool) (e : Enc) (a b od : Desc) : Bool :=
  let tb := bit e.prm 0
  let K := a.dim 0
  let M := a.dim 1
  let bk := if tb then b.dim 0 else b.dim 1
  let N := if tb then b.dim 1 else b.dim 0
  (if sparse then sparseOk a.fmt b.fmt && !tb && K % 4 == 0 else pairOk a.fmt b.fmt) && (!isMX a.fmt || (tb && K % 32 == 0))
    && (a.rank == 2 || a.rank == 3) && (b.rank == 2 || b.rank == 3)
    && bk == (if sparse then K / 2 else K) && (b.rank == 2 || (a.rank == 3 && b.dim 2 == a.dim 2))
    && od.dims == (if a.rank = 2 then [N, M] else [N, M, a.dim 2])

/-- The MATMUL product of operands A, B, dense or sparse (R78, R89, R90). -/
def matRead (k : Nat) (sparse : Bool) (e : Enc) (a b : Desc) : Ex MacProd := do
  let tb := bit e.prm 0
  let K := a.dim 0
  let M := a.dim 1
  let N := if tb then b.dim 1 else b.dim 0
  let av := (← readTensor k a).toArray
  let A := fun r kk => av.getD (r * K + kk) FV.zero
  let bbase := fun it => if b.rank = 3 then it * (b.dim 0 * b.dim 1) else 0
  if sparse then
    let br := (← readRaw k b).toArray
    let mt ← readMeta k b
    let B := fun it r c => br.getD (bbase it + r * N + c) 0
    return { m := M, n := N, kk := K, batch := a.dim 2, int := isInt a.fmt, step := 4, prods := fun r n kk => (sparseAt (B (r / M)) mt b.fmt kk n).map (A r kk).mul }
  else
    let bv := (← readTensor k b).toArray
    let B := fun it kk n => bv.getD (bbase it + (if tb then n * K + kk else kk * N + n)) FV.zero
    return { m := M, n := N, kk := K, batch := a.dim 2, int := isInt a.fmt, step := stepLen a.fmt b.fmt, prods := fun r n kk => [(A r kk).mul (B (r / M) kk n)] }

/-- Convolution geometry fields of PARAM (CONV PARAM[31:0]). -/
structure ConvGeo where
  sh : Nat
  sw : Nat
  pt : Nat
  pb : Nat
  pl : Nat
  pr : Nat
  dh : Nat
  dw : Nat
  wt : Bool

/-- The fields of CONV PARAM. -/
def convGeo (p : Nat) : ConvGeo :=
  { sh := bits p 3 0 + 1, sw := bits p 7 4 + 1, pt := bits p 10 8, pb := bits p 13 11, pl := bits p 16 14, pr := bits p 19 17, dh := bits p 22 20 + 1, dw := bits p 25 23 + 1, wt := bit p 26 }

/-- Output size along one axis, 0 where it would fall below 1 (R91). -/
def convOut (inp pad0 pad1 dil ker str : Nat) : Nat :=
  if inp + pad0 + pad1 < dil * (ker - 1) + 1 then 0 else (inp + pad0 + pad1 - dil * (ker - 1) - 1) / str + 1

/-- Kernel height and width, columns, reduction length and output size of a convolution. -/
structure ConvShape where
  r  : Nat
  s  : Nat
  n  : Nat
  kk : Nat
  oh : Nat
  ow : Nat
deriving DecidableEq, Repr

/-- The shape that input and weights give (R91, R92). -/
def convShape (dw : Bool) (e : Enc) (a b : Desc) : ConvShape :=
  let g := convGeo e.prm
  let R := if dw || g.wt then b.dim 2 else b.dim 3
  let S := if dw || g.wt then b.dim 1 else b.dim 2
  { r := R, s := S, n := if dw then a.dim 0 else if g.wt then b.dim 3 else b.dim 0, kk := if dw then R * S else R * S * a.dim 0,
    oh := convOut (a.dim 2) g.pt g.pb g.dh R g.sh, ow := convOut (a.dim 1) g.pl g.pr g.dw S g.sw }

/-- A convolution accepts the formats and shapes of its operands (R86-R88, R91, R92). The compressed weights hold K / 2 rows of N
    values (R89). -/
def convOk (sparse dw : Bool) (e : Enc) (a b od : Desc) : Bool :=
  let g := convGeo e.prm
  let w := convShape dw e a b
  let C := a.dim 0
  (if sparse then sparseOk a.fmt b.fmt && !g.wt && w.kk % 4 == 0 else pairOk a.fmt b.fmt && !(dw && isMX a.fmt)) && (!isMX a.fmt || (g.wt && C % 32 == 0))
    && (if sparse then b.rank == 4 && b.rows * 2 == w.kk else b.rank == (if dw then 3 else 4) && (if dw || g.wt then b.dim 0 else b.dim 1) == C)
    && a.rank == 4 && !(dw && g.wt) && decide (w.oh ≥ 1) && decide (w.ow ≥ 1) && od.dims == [w.n, w.ow, w.oh, a.dim 3]

/-- The convolution product of input and weights (R89, R91, R92). `dw` is DWCONV. -/
def convRead (k : Nat) (sparse dw : Bool) (e : Enc) (a b : Desc) : Ex MacProd := do
  let g := convGeo e.prm
  let w := convShape dw e a b
  let C := a.dim 0
  let av := (← readTensor k a).toArray
  let inAt := fun (bi : Nat) (y x : Int) (c : Nat) =>
    if y < 0 ∨ x < 0 ∨ y ≥ a.dim 2 ∨ x ≥ a.dim 1 then FV.zero else av.getD (((bi * a.dim 2 + y.toNat) * a.dim 1 + x.toNat) * C + c) FV.zero
  let A := fun (m n kk : Nat) =>
    let rs := if dw then kk else kk / C
    inAt (m / (w.oh * w.ow)) ((m / w.ow % w.oh * g.sh : Nat) - (g.pt : Int) + (rs / w.s * g.dh : Nat)) ((m % w.ow * g.sw : Nat) - (g.pl : Int) + (rs % w.s * g.dw : Nat))
      (if dw then n else kk % C)
  let M := a.dim 3 * w.oh * w.ow
  if sparse then
    let br := (← readRaw k b).toArray
    let mt ← readMeta k b
    return { m := M, n := w.n, kk := w.kk, batch := 1, int := isInt a.fmt, step := 4, prods := fun m n kk => (sparseAt (fun r c => br.getD (r * w.n + c) 0) mt b.fmt kk n).map (A m n kk).mul }
  else
    let bv := (← readTensor k b).toArray
    let B := fun n kk => bv.getD (if dw then kk * C + n else if g.wt then n * w.kk + kk else kk * w.n + n) FV.zero
    return { m := M, n := w.n, kk := w.kk, batch := 1, int := isInt a.fmt, step := stepLen a.fmt b.fmt, prods := fun m n kk => [(A m n kk).mul (B n kk)] }

/-- The formats and shapes of A, B and D are accepted; an MX D has rows of whole blocks (R78, R86-R88, R91, R92). -/
def MacOp.accepts (o : MacOp) (e : Enc) (a b od : Desc) : Bool :=
  a.usable && b.usable && od.usable && (!isMX od.fmt || od.len % 32 == 0) && match o with
    | .mm => matOk false e a b od
    | .mmSp => matOk true e a b od
    | .conv => convOk false false e a b od
    | .convSp => convOk true false e a b od
    | .dw => convOk false true e a b od

/-- Read A and B as a product. -/
def MacOp.read (o : MacOp) (k : Nat) (e : Enc) (a b : Desc) : Ex MacProd := match o with
  | .mm => matRead k false e a b
  | .mmSp => matRead k true e a b
  | .conv => convRead k false false e a b
  | .convSp => convRead k true false e a b
  | .dw => convRead k false true e a b

/-- The first address that a product instruction may not reach: of A, B, its metadata, operand C, and D where it is written (R36, R75). -/
def Chip.macBarred (c : Chip) (k : Nat) (o : MacOp) (writes : Bool) (e : Enc) (a b od : Desc) : Option Nat :=
  let cd := Machine.descOf (((c.ctx k).td).get e.c 0)
  let mt := if o.sparse && b.usable then (List.range b.groups).map fun g => ((metaSpan b).1 + g * alignUp (ceilDiv b.len 2) 32, ceilDiv b.len 2) else []
  (c.barredAt k (a.reach ++ b.reach ++ mt ++ if writes && e.ce then cd.reach else []) false).orElse fun _ => c.barredAt k (if writes then (c.ctx k).outReach e od else []) true

/-- What a product instruction raises at issue. One that writes D: the working tiles, EPI, CE and RND, operand C and the footprints
    (R58, R73, R75, R76, R80). One that accumulates: neither of these, and its tiles (R59, R81, R82). -/
def Chip.macFaults (c : Chip) (k : Nat) (o : MacOp) (writes : Bool) (e : Enc) (a b od : Desc) : List (Bool × Nat) :=
  let cd := Machine.descOf (((c.ctx k).td).get e.c 0)
  let meets := c.clash k od a || c.clash k od b || (e.ce && c.clash k od cd) || (o.sparse && c.overlap k od.base od.span (metaSpan b).1 (metaSpan b).2)
  let own := if writes then
      decide (e.acc + 1 < c.tileCount k) && srOk e od && !(e.meT && isMX od.fmt) && (e.cmode == 0 || e.ce) && (!e.ce || cAccept e od cd) && !meets
    else !e.sr && e.epi == 0 && !e.ce && c.accFits k e od
  [ (!(o.accepts e a b od && own), ILLEGAL_OPERAND), (a.touchesAlias || b.touchesAlias || od.touchesAlias || (e.ce && cd.touchesAlias) || (c.macBarred k o writes e a b od).isSome, ACCESS) ]

/-- The outputs of a product in linear order, each with its saturation: the sum from zero through the epilogue; nothing where the mask
    disables a column (R74, R75, R84). -/
def Ctx.prodVals (x : Ctx) (e : Enc) (p : MacProd) (co : Option COp) : List (Option FV × Bool) :=
  (List.range (p.m * p.batch * p.n)).map fun i =>
    let r := i / p.n
    let n := i % p.n
    if x.maskOn e n then
      let acc := accumulate p.int p.step p.kk (p.prods r n) 0
      (some (epilogue (e.epi % 16) co r n (accF32 p.int acc.1)), acc.2)
    else (none, false)

/-- MM, MM.SP, CONV2D, CONV2D.SP and DWCONV: product, epilogue, masked write of D; the working tiles end at zero (R74, R80). -/
def prodWrite (o : MacOp) (e : Enc) (k : Nat) : Ex Unit := do
  let a ← descAt k e.a
  let b ← descAt k e.b
  let od ← descAt k e.d
  checksAt ((← get).macFaults k o true e a b od) ((← get).macBarred k o true e a b od)
  let p ← o.read k e a b
  let co ← readC k e od
  let x ← ctxOf k
  let res := x.prodVals e p co
  let f ← writeTensor k od (res.map Prod.fst) e.sr e.seed fun i => p.unit (i / p.n)
  updC k fun x => x.zeroTiles e.acc
  finishFlags k e.sp (f.or { sat := res.any Prod.snd })

/-- Key of a tile word in the accumulators of its stall (R34, R160). -/
def Chip.tileWordKey (c : Chip) (k key : Nat) : Nat :=
  let x := c.ctx k
  let stb := x.execStb k
  sramKey (stb / 4) (0x800000 + (stb % 4 * 4 + key / 1024 % 4) * 0x10000 + x.tiles.getD (key / 4096) 0 * 4096 + key % 1024 * 4)

/-- The 32-byte words that hold tile words. -/
def Chip.tileWords (c : Chip) (k : Nat) (keys : List Nat) : List Nat := (keys.map fun q => c.tileWordKey k q / 32).eraseDups

/-- An instruction reads tile words (R153, R162, R163); one that the context has not written since its tile was cleared is not read. -/
def senseTiles (k : Nat) (keys : List Nat) : Ex Unit := fun c =>
  if c.mem.errs.isEmpty then .ok ((), c) else ((c.tileWords k (keys.filter fun q => ((c.ctx k).acc.look q).isSome)).forM fun w => senseEx (w * 32) 32) c

/-- Tile words are rewritten with their code (R153). -/
def Chip.cleanTiles (c : Chip) (k : Nat) (keys : List Nat) : Chip :=
  if c.mem.errs.isEmpty then c else (c.tileWords k keys).foldl (fun c w => c.dropErrs (w * 32) 32) c

/-- The words that MMA leaves in the tiles, by tile key, each with its saturation: the products added to the word there (R81, R82). -/
def Ctx.accVals (x : Ctx) (e : Enc) (p : MacProd) : List (Nat × AccW) :=
  ((List.range (p.m * p.batch * p.n)).filter fun i => x.maskOn e (i % p.n)).map fun i =>
    let key := tileKey x.shift e.acc (ceilDiv p.n 32) (p.unit (i / p.n)) (p.urow (i / p.n)) (i % p.n)
    (key, accumulate p.int p.step p.kk (p.prods (i / p.n) (i % p.n)) (x.accAt key).toNat)

/-- MMA, MMA.SP and CONV2D.ACC: add the products to the tiles; no memory is written (R81, R82). -/
def prodAcc (o : MacOp) (e : Enc) (k : Nat) : Ex Unit := do
  let a ← descAt k e.a
  let b ← descAt k e.b
  let od ← descAt k e.d
  checksAt ((← get).macFaults k o false e a b od) ((← get).macBarred k o false e a b od)
  let p ← o.read k e a b
  let x ← ctxOf k
  let res := x.accVals e p
  senseTiles k (res.map Prod.fst)
  updC k fun x => x.setAcc (some p.int) (res.map fun q => (q.1, BitVec.ofNat 32 q.2.1))
  modify fun c => c.cleanTiles k (res.map Prod.fst)
  finishFlags k e.sp { sat := res.any (fun q => q.2.2), nan := !p.int && res.any fun q => f32 q.2.1 == .nan }

/-- Unit and row of linear row `r` of an accumulator move (R82). -/
def accUnit (d : Desc) (r : Nat) : Nat × Nat := let m := d.mats.1; (r / m * ceilDiv m 32 + r % m / 32, r % m % 32)

/-- The first address that ACCST may not reach (R36, R75). -/
def Chip.accstBarred (c : Chip) (k : Nat) (e : Enc) (od : Desc) : Option Nat :=
  (c.barredAt k (if e.ce then (Machine.descOf (((c.ctx k).td).get e.c 0)).reach else []) false).orElse fun _ => c.barredAt k ((c.ctx k).outReach e od) true

/-- What ACCST raises at issue (R58, R73, R76, R82, R83). -/
def Chip.accstFaults (c : Chip) (k : Nat) (e : Enc) (od : Desc) : List (Bool × Nat) :=
  let cd := Machine.descOf (((c.ctx k).td).get e.c 0)
  let barred := c.accstBarred k e od
  [ (!(od.usable && within 2 4 od.rank && srOk e od && !(e.meT && isMX od.fmt) && c.accFits k e od
      && (!bit e.prm 0 || (od.fmt == 0x0B && e.epi == 0 && !e.ce && !e.sr)) && (e.cmode == 0 || e.ce) && !(e.ce && (c.clash k od cd || !cAccept e od cd))), ILLEGAL_OPERAND),
    (od.touchesAlias || (e.ce && cd.touchesAlias) || barred.isSome, ACCESS) ]

/-- Key of the tile word of linear element `i` of an M×N or batched tensor (R82). -/
def Ctx.tileKeyOf (x : Ctx) (e : Enc) (d : Desc) (i : Nat) : Nat :=
  let u := accUnit d (i / d.len)
  tileKey x.shift e.acc (ceilDiv d.len 32) u.1 u.2 (i % d.len)

/-- Keys of the tile words of a tensor's enabled, or disabled, elements (R75). -/
def Ctx.tileKeysOf (x : Ctx) (e : Enc) (d : Desc) (on : Bool) : List Nat :=
  ((List.range d.size).filter fun i => x.maskOn e (i % d.len) == on).map (x.tileKeyOf e d)

/-- The tile word of linear element `i` of an M×N or batched tensor (R82). -/
def Ctx.tileWord (x : Ctx) (e : Enc) (d : Desc) (i : Nat) : Nat := (x.accAt (x.tileKeyOf e d i)).toNat

/-- The values that ACCST writes: the tile words, typed by a constant of Config (log 13), through the epilogue. -/
def Ctx.accstVals (x : Ctx) (e : Enc) (od : Desc) (co : Option COp) : List (Option FV) :=
  (List.range od.size).map fun i =>
    if x.maskOn e (i % od.len) then some (epilogue (e.epi % 16) co (i / od.len) (i % od.len) (accF32 (Config.accstInt od.fmt) (x.tileWord e od i))) else none

/-- The words that ACCST.RAW writes. -/
def Ctx.accstRaw (x : Ctx) (e : Enc) (od : Desc) : List (Option Nat) :=
  (List.range od.size).map fun i => if x.maskOn e (i % od.len) then some (x.tileWord e od i) else none

/-- ACCST (R83): the tiles through the epilogue, or raw. -/
def accstBody (e : Enc) (k : Nat) : Ex Unit := do
  let od ← descAt k e.d
  checksAt ((← get).accstFaults k e od) ((← get).accstBarred k e od)
  let co ← readC k e od
  let x ← ctxOf k
  senseTiles k (x.tileKeysOf e od true)
  let unit := fun i => (accUnit od (i / od.len)).1
  if bit e.prm 0 then
    let cells ← elemCells k od (x.accstRaw e od) unit
    emit k (od.pol == 0) cells
    finishFlags k e.sp { nan := (x.accstRaw e od).any fun w => w.any fun n => f32 n == .nan }
  else
    let f ← writeTensor k od (x.accstVals e od co) e.sr e.seed unit
    finishFlags k e.sp f

/-- What ACCLD raises at issue (R76, R81-R83). -/
def Chip.accldFaults (c : Chip) (k : Nat) (e : Enc) (a : Desc) : List (Bool × Nat) :=
  [ (!(!e.ce && !e.sr && e.epi == 0 && a.usable && within 2 4 a.rank && !isMX a.fmt && c.accFits k e a
      && (if bit e.prm 0 then a.fmt == 0x0B && !bit e.prm 1 else isInt a.fmt == bit e.prm 1)), ILLEGAL_OPERAND), (a.touchesAlias || (c.barredAt k a.reach false).isSome, ACCESS) ]

/-- The word that ACCLD forms from an element pattern: a copy, or the exact INT32 or FP32 value (R83). -/
def accldWord (e : Enc) (fmt p : Nat) : W32 := BitVec.ofNat 32 (if bit e.prm 0 then p else if bit e.prm 1 then toBits 32 (sgn (intW fmt) p) else rne32 (decElem fmt p))

/-- The tile words that ACCLD writes, by key: of the M×N elements those that the mask enables, while a disabled one keeps its word; and
    zero beyond M or N (R75, R83). -/
def Ctx.accld (x : Ctx) (e : Enc) (a : Desc) (es : List Nat) : Ctx :=
  let keys := es.zipIdx.map fun q => let u := accUnit a (q.2 / a.len); (tileKey x.shift e.acc (ceilDiv a.len 32) u.1 u.2 (q.2 % a.len), q)
  let ours := fun (t : Nat) => decide (e.acc ≤ t) && decide (t < e.acc + a.tiles)
  let kept := (keys.filter fun q => !x.maskOn e (q.2.2 % a.len)).map Prod.fst
  let neg := x.accNeg.filter fun q => (!ours (q.1 / 4096)) || kept.contains q.1
  let acc := AMap.setAll (x.acc.filter fun q => !ours (q.1 / 4096)) (kept.map fun key => (key, x.accRaw key))
  let y : Ctx := { x with lost := x.lost.filter (fun t => !ours t.1), accNeg := neg, acc := acc }
  y.setAcc (if bit e.prm 0 then none else some (bit e.prm 1)) ((keys.filter fun q => x.maskOn e (q.2.2 % a.len)).map fun q => (q.1, accldWord e a.fmt q.2.1))

/-- ACCLD leaves a NaN in an enabled element of FP32 (R71, R75). -/
def Ctx.accldNan (x : Ctx) (e : Enc) (a : Desc) (es : List Nat) : Bool :=
  !bit e.prm 1 && es.zipIdx.any fun q => x.maskOn e (q.2 % a.len) && f32 (accldWord e a.fmt q.1).toNat == .nan

/-- ACCLD (R83): fill the tiles from A. -/
def accldBody (e : Enc) (k : Nat) : Ex Unit := do
  let a ← descAt k e.a
  checksAt ((← get).accldFaults k e a) ((← get).barredAt k a.reach false)
  let es ← readRaw k a
  let x ← ctxOf k
  senseTiles k (x.tileKeysOf e a false)
  updC k fun x => x.accld e a es
  modify fun c => c.cleanTiles k ((List.range (4096 * a.tiles)).map (· + 4096 * e.acc))
  finishFlags k e.sp { nan := x.accldNan e a es }

end Sys2Proof.Machine
end

