-- ==== Sys2Proof/Machine/TensorOps.lean ====
section
/-! DEFINITION. The other tensor instructions (R94, R95): reductions, softmax, gathers, reshapes, norms; and the elementwise group (R96). -/

namespace Sys2Proof.Machine

/-- Work unit of linear element `i` of D: 32 consecutive rows (R94). -/
def rowUnit (d : Desc) (i : Nat) : Nat := i / d.len / 32

/-- What EPI, CE and RND must be in an instruction of R94 (R73). -/
def plainT (e : Enc) (d : Desc) : Bool := e.epi == 0 && !e.ce && srOk e d && !(e.meT && isMX d.fmt)

/-- Coordinates of a linear index. -/
def coords : List Nat → Nat → List Nat
  | [], _ => []
  | n :: ds, i => i % n :: coords ds (i / n)

/-- Linear index of coordinates. -/
def linear : List Nat → List Nat → Nat
  | n :: ds, x :: xs => x + n * linear ds xs
  | _, _ => 0

/-- Sum in ascending order from +0, each step rounded (R94). -/
def sum32 (vs : List FV) : FV := vs.foldl (fun a v => r32 (a.add v)) FV.zero

/-- Operands A and D, and any further inputs, with the checks of R76 and R36. `all` says for A and D whether the instruction reaches
    every row of it, whatever its indices. -/
def twoOps (k : Nat) (e : Enc) (okShape : Desc → Desc → Bool) (inplaceOk : Bool) (more : List Desc := []) (all : Bool × Bool := (true, true)) (masked : Bool := true) : Ex (Desc × Desc) := do
  let a ← descAt k e.a
  let d ← descAt k e.d
  let c ← get
  let barred := (c.barredAt k ((if all.1 then a.reach else []) ++ (more.map Desc.reach).flatten) false).orElse fun _ => c.barredAt k (if !all.2 then [] else if masked then (c.ctx k).outReach e d else d.reach) true
  checksAt [ (!(a.usable && d.usable && plainT e d && okShape a d && ((inplaceOk && inPlace d a) || !c.clash k d a) && !more.any fun b => c.clash k d b), ILLEGAL_OPERAND),
    (a.touchesAlias || d.touchesAlias || more.any Desc.touchesAlias || barred.isSome, ACCESS) ] barred
  pure (a, d)

/-- Values in linear order under the mask of R75: a masked element is not written. -/
def Ctx.masked {α : Type} (x : Ctx) (e : Enc) (d : Desc) (vals : List (Option α)) : List (Option α) :=
  (vals.zipIdx).map fun q => if x.maskOn e (q.2 % d.len) then q.1 else none

/-- Write D with the mask of R75 and finish (R71). -/
def storeT (k : Nat) (e : Enc) (d : Desc) (vals : List (Option FV)) (f : NumFlags) : Ex Unit := do
  let x ← ctxOf k
  let g ← writeTensor k d (x.masked e d vals) e.sr e.seed (rowUnit d)
  finishFlags k e.sp (g.or f)

/-- Operands of REDUCE: D has A's sizes with AXIS cut to 1; ARGMAX writes INT16 (R94). -/
def reduceOps (sub : Nat) (e : Enc) (k : Nat) : Ex (Desc × Desc) :=
  twoOps k e (fun a d => decide (e.prm < a.rank) && d.dims == a.dims.set e.prm 1 && (sub != 3 || d.fmt == 0x03)) false

/-- The lines of A along AXIS, one per element of D, in ascending order. -/
def reduceLines (ax : Nat) (a d : Desc) (vs : List FV) : List (List FV) :=
  let arr := vs.toArray
  (List.range d.size).map fun i => (List.range (a.dim ax)).map fun j => arr.getD (linear a.dims ((coords d.dims i).set ax j)) FV.zero

/-- Position of a line's first NaN, or else of its first maximum (R94). -/
def argmaxOf (l : List FV) : Nat :=
  let n := l.length
  match firstBelow n fun i => l.getD i FV.zero == .nan with
  | some i => i
  | none => (firstBelow n fun i => l.all fun v => v.le (l.getD i FV.zero)).getD 0

/-- The fold of a line by SUB: SUM, MAX, MIN (R94). -/
def reduceFold (sub : Nat) (l : List FV) : FV := match sub with
  | 0 => sum32 l
  | 1 => match l with
    | [] => FV.zero
    | v :: l => l.foldl FV.max v
  | _ => match l with
    | [] => FV.zero
    | v :: l => l.foldl FV.min v

/-- REDUCE along AXIS (R94): a fold of the values of each line, or for ARGMAX the index pattern. -/
def reduceBody (sub : Nat) (e : Enc) (k : Nat) : Ex Unit := do
  let (a, d) ← reduceOps sub e k
  let lines := reduceLines e.prm a d (← readF32 k a)
  if sub = 3 then
    let x ← ctxOf k
    let cells ← elemCells k d (x.masked e d (lines.map fun l => some (argmaxOf l % 65536))) (rowUnit d)
    emit k (d.pol == 0) cells
    finishFlags k e.sp {}
  else storeT k e d (lines.map fun l => some (reduceFold sub l)) {}

/-- One row of SOFTMAX or LOGSOFTMAX over its enabled positions, with the row's flag (R95). -/
def softmaxRow (log : Bool) (row : List (Bool × FV)) : List FV × Bool :=
  let en := (row.filter fun q => q.1).map fun q => q.2
  match en with
  | [] => (row.map fun _ => FV.zero, true)
  | v :: vs =>
    let m := vs.foldl FV.max v
    if m == .inf true then (row.map fun _ => FV.zero, true)
    else if m == .nan then (row.map fun _ => .nan, false)
    else
      let dif := fun (x : FV) => r32 (x.sub m)
      let s := sum32 (en.map fun x => f32 (exp32 (dif x)))
      let ls := f32 (ln32 s)
      (row.map fun q => if !q.1 then FV.zero else if log then r32 ((dif q.2).sub ls) else f32 (div32 (f32 (exp32 (dif q.2))) s), false)

/-- The rows of a softmax, each with its flag: a masked position is left out and receives +0 (R95). -/
def Ctx.softmaxRows (x : Ctx) (log : Bool) (e : Enc) (d : Desc) (vs : List FV) : List (List FV × Bool) :=
  (List.range d.rows).map fun r => softmaxRow log ((((vs.drop (r * d.len)).take d.len).zipIdx).map fun q => (x.maskOn e q.2, q.1))

/-- Operands of one shape (R95, R112). -/
def sameOps (e : Enc) (k : Nat) (inplaceOk : Bool) (masked : Bool := true) : Ex (Desc × Desc) := twoOps k e (fun a d => a.dims == d.dims) inplaceOk [] (true, true) masked

/-- SOFTMAX and LOGSOFTMAX (R95): every element is written. -/
def softmaxBody (log : Bool) (e : Enc) (k : Nat) : Ex Unit := do
  let (a, d) ← sameOps e k false false
  let vs ← readF32 k a
  let rows := (← ctxOf k).softmaxRows log e d vs
  let g ← writeTensor k d ((rows.map Prod.fst).flatten.map some) e.sr e.seed (rowUnit d)
  finishFlags k e.sp (g.or { mask := rows.any Prod.snd })

/-- Layer normalisation of one row (R94). -/
def layerRow (eps : FV) (g b : Nat → FV) (x : List FV) : List FV :=
  let L := FV.ofInt x.length
  let mean := f32 (div32 (sum32 x) L)
  let d := x.map fun v => r32 (v.sub mean)
  let var := f32 (div32 (sum32 (d.map fun v => r32 (v.mul v))) L)
  let r := f32 (rsqrt32 (r32 (var.add eps)))
  (d.zipIdx).map fun q => r32 ((r32 ((r32 (q.1.mul r)).mul (g q.2))).add (b q.2))

/-- RMS normalisation of one row (R94). -/
def rmsRow (eps : FV) (g : Nat → FV) (x : List FV) : List FV :=
  let ms := f32 (div32 (sum32 (x.map fun v => r32 (v.mul v))) (FV.ofInt x.length))
  let r := f32 (rsqrt32 (r32 (ms.add eps)))
  (x.zipIdx).map fun q => r32 ((r32 (q.1.mul r)).mul (g q.2))

/-- Operands A, D and B of a norm: B holds the gains, and for LAYERNORM the offsets (R94). -/
def normOps (layer : Bool) (e : Enc) (k : Nat) : Ex (Desc × Desc × Desc) := do
  let b ← descAt k e.b
  let (a, d) ← twoOps k e (fun a d => a.dims == d.dims && b.usable && b.dims == (if layer then [a.len, 2] else [a.len])) false [b]
  pure (a, d, b)

/-- The normalised rows. -/
def normVals (layer : Bool) (eps : FV) (a d : Desc) (vs gb : List FV) : List FV :=
  let arr := gb.toArray
  let g := fun i => arr.getD i FV.zero
  ((List.range d.rows).map fun r =>
    let x := (vs.drop (r * d.len)).take d.len
    if layer then layerRow eps g (fun i => g (a.len + i)) x else rmsRow eps g x).flatten

/-- LAYERNORM and RMSNORM. -/
def normBody (layer : Bool) (e : Enc) (k : Nat) : Ex Unit := do
  let (a, d, b) ← normOps layer e k
  let vs ← readF32 k a
  let gb ← readF32 k b
  storeT k e d ((normVals layer (f32 e.prm) a d vs gb).map some) {}

/-- Indices of a GATHER or SCATTER: INT16 patterns read as unsigned (R94). -/
def readIdx (k : Nat) (b : Desc) : Ex (List Nat) := readRaw k b

/-- Operands A, D and B of GATHER (R94). -/
def gatherOps (e : Enc) (k : Nat) : Ex (Desc × Desc × Desc) := do
  let b ← descAt k e.b
  let (a, d) ← twoOps k e (fun a d => a.rank == 2 && b.rank == 1 && b.fmt == 0x03 && d.dims == [a.len, b.len]) false [b] (false, true)
  pure (a, d, b)

/-- The rows that the indices name; an index out of range gives a zero row (R94). -/
def gatherVals (a : Desc) (vs : List FV) (ix : List Nat) : List (Option FV) :=
  let arr := vs.toArray
  (ix.map fun j => (List.range a.len).map fun c => some (if j < a.rows then arr.getD (j * a.len + c) FV.zero else FV.zero)).flatten

/-- GATHER (R94): D[i] = A[idx[i]]; an index out of range raises the IDX event. Only the rows of A that an index names are read
    (log 73). -/
def gatherBody (e : Enc) (k : Nat) : Ex Unit := do
  let (a, d, b) ← gatherOps e k
  let ix ← readIdx k b
  let vs ← readF32On ix.contains k a
  storeT k e d (gatherVals a vs ix) { idx := ix.any fun j => decide (j ≥ a.rows) }

/-- Operands A, D and B of SCATTER (R94). -/
def scatterOps (e : Enc) (k : Nat) : Ex (Desc × Desc × Desc) := do
  let b ← descAt k e.b
  let (a, d) ← twoOps k e (fun a d => a.rank == 2 && d.rank == 2 && b.rank == 1 && b.fmt == 0x03 && a.rows == b.len && a.len == d.len) false [b] (true, false)
  pure (a, d, b)

/-- The rows of D that some index names: the highest i wins, or the sums run in ascending i from the old row (R94). -/
def scatterVals (add : Bool) (a d : Desc) (vs old : List FV) (ix : List Nat) : List (Option FV) :=
  let arr := vs.toArray
  let oldA := old.toArray
  ((List.range d.rows).map fun t =>
    let srcs := (ix.zipIdx.filter fun q => q.1 == t).map fun q => q.2
    (List.range d.len).map fun c => match srcs.getLast? with
      | none => none
      | some l => some (if add then srcs.foldl (fun s i => r32 (s.add (arr.getD (i * a.len + c) FV.zero))) (oldA.getD (t * d.len + c) FV.zero)
          else arr.getD (l * a.len + c) FV.zero)).flatten

/-- SCATTER and SCATTER.ADD (R94): rows of D that no index names are neither read nor written. -/
def scatterBody (add : Bool) (e : Enc) (k : Nat) : Ex Unit := do
  let (a, d, b) ← scatterOps e k
  let vs ← readF32 k a
  let ix ← readIdx k b
  let old ← if add then readF32On ix.contains k d else pure []
  storeT k e d (scatterVals add a d vs old ix) { idx := ix.any fun j => decide (j ≥ d.rows) }

/-- Entry `i` of PERM. -/
def permAt (e : Enc) (i : Nat) : Nat := bits e.prm (3 * i + 2) (3 * i)

/-- Operands of RESHAPE.TRANSPOSE: PERM names every dimension of A once (R94). -/
def transposeOps (e : Enc) (k : Nat) : Ex (Desc × Desc) :=
  twoOps k e (fun a d => a.rank == d.rank
    && (List.range a.rank).all (fun j => ((List.range a.rank).filter fun i => permAt e i == j).length == 1)
    && (List.range 6).all (fun i => decide (i < a.rank) || permAt e i == 0)
    && d.dims == (List.range a.rank).map fun i => a.dim (permAt e i)) false

/-- A's values in D's order: dimension i of D is dimension PERM[i] of A. -/
def transposeVals (e : Enc) (a d : Desc) (vs : List FV) : List FV :=
  let arr := vs.toArray
  (List.range d.size).map fun i =>
    let x := coords d.dims i
    let src := (List.range a.rank).map fun j => (firstBelow a.rank fun q => permAt e q == j).elim 0 fun q => x.getD q 0
    arr.getD (linear a.dims src) FV.zero

/-- RESHAPE.TRANSPOSE (R94). -/
def transposeBody (e : Enc) (k : Nat) : Ex Unit := do
  let (a, d) ← transposeOps e k
  let vs ← readF32 k a
  storeT k e d ((transposeVals e a d vs).map some) {}

/-- RESHAPE.CONVERT (R94, R112). -/
def convertBody (e : Enc) (k : Nat) : Ex Unit := do
  let (a, d) ← sameOps e k true
  let vs ← readF32 k a
  storeT k e d (vs.map some) {}

/-- Index of the element of a broadcast operand B for coordinates of D (R96). -/
def bcastIdx (b : Desc) (x : List Nat) : Nat := linear b.dims ((b.dims.zip x).map fun q => if q.1 = 1 then 0 else q.2)

/-- The first address that an elementwise instruction may not reach (R36, R75). -/
def Chip.ewBarred (c : Chip) (k sub : Nat) (e : Enc) (a b d : Desc) : Option Nat :=
  (c.barredAt k (a.reach ++ if sub = 3 then [] else b.reach) false).orElse fun _ => c.barredAt k ((c.ctx k).outReach e d) true

/-- What the elementwise group raises at issue (R73, R76, R96); EW.ACT has no operand B. -/
def Chip.ewFaults (c : Chip) (k sub : Nat) (e : Enc) (a b d : Desc) : List (Bool × Nat) :=
  let two := sub != 3
  let bOk := !two || (b.usable && (List.range b.rank).all fun i => b.dim i == 1 || b.dim i == d.dim i)
  [ (!(a.usable && d.usable && a.dims == d.dims && bOk && !e.ce && e.cmode == 0 && srOk e d && !(e.meT && isMX d.fmt)
      && (inPlace d a || !c.clash k d a) && (!two || inPlace d b || !c.clash k d b)), ILLEGAL_OPERAND),
    (a.touchesAlias || d.touchesAlias || (two && b.touchesAlias) || (c.ewBarred k sub e a b d).isSome, ACCESS) ]

/-- act(rne32(a op b)) element by element, B broadcast along its dimensions of size 1 (R96). -/
def ewVals (sub : Nat) (e : Enc) (b d : Desc) (av bv : List FV) : List FV :=
  let ba := bv.toArray
  (av.zipIdx).map fun q =>
    let w := ba.getD (bcastIdx b (coords d.dims q.2)) FV.zero
    actFn (e.epi % 16) (match sub with
      | 0 => r32 (q.1.add w)
      | 1 => r32 (q.1.mul w)
      | 2 => q.1.max w
      | _ => q.1)

/-- EW.ADD, EW.MUL, EW.MAX and EW.ACT (R96), by 64-element blocks of D. -/
def ewBody (sub : Nat) (e : Enc) (k : Nat) : Ex Unit := do
  let a ← descAt k e.a
  let d ← descAt k e.d
  let b ← descAt k e.b
  checksAt ((← get).ewFaults k sub e a b d) ((← get).ewBarred k sub e a b d)
  let av ← readF32 k a
  let bv ← if sub = 3 then pure [] else readF32 k b
  let x ← ctxOf k
  let f ← writeTensor k d (x.masked e d ((ewVals sub e b d av bv).map some)) e.sr e.seed fun i => i / 64
  finishFlags k e.sp f

end Sys2Proof.Machine
end

