-- ==== Sys2Proof/Machine/TensorRows.lean ====
section
/-! DEFINITION. The meanings of the commands MM to EW_ACT, in the order of the opcode table: one definition per row over the shared operations. -/

namespace Sys2Proof.Machine

/-- MM (R79): Matrix multiply with epilogue, written to D. -/
def execMm (x : Exr) (e : Enc) (s : State) : Host.Outcome State Fault Refusal := s.on fun c => c.either x (dT 0x20 0 1) e (prodWrite .mm e) none

/-- MMA (R81): Matrix multiply accumulated into accumulator tiles. -/
def execMma (x : Exr) (e : Enc) (s : State) : Host.Outcome State Fault Refusal := s.on fun c => c.either x (dT 0x20 1 1) e (prodAcc .mm e) none

/-- MM_SP (R88): 2:4-sparse matrix multiply with epilogue. -/
def execMmSp (x : Exr) (e : Enc) (s : State) : Host.Outcome State Fault Refusal := s.on fun c => c.either x (dT 0x20 2 1) e (prodWrite .mmSp e) none

/-- MMA_SP (R88): 2:4-sparse matrix multiply accumulated into tiles. -/
def execMmaSp (x : Exr) (e : Enc) (s : State) : Host.Outcome State Fault Refusal := s.on fun c => c.either x (dT 0x20 3 1) e (prodAcc .mmSp e) none

/-- CONV2D (R91): 2-D convolution computed as a matrix product. -/
def execConv2d (x : Exr) (e : Enc) (s : State) : Host.Outcome State Fault Refusal := s.on fun c => c.either x (dT 0x21 0 (maskOf 26 0)) e (prodWrite .conv e) none

/-- CONV2D_ACC (R81): Convolution accumulated into accumulator tiles. -/
def execConv2dAcc (x : Exr) (e : Enc) (s : State) : Host.Outcome State Fault Refusal := s.on fun c => c.either x (dT 0x21 1 (maskOf 26 0)) e (prodAcc .conv e) none

/-- DWCONV (R92): Depthwise convolution. -/
def execDwconv (x : Exr) (e : Enc) (s : State) : Host.Outcome State Fault Refusal := s.on fun c => c.either x (dT 0x21 2 (maskOf 26 0)) e (prodWrite .dw e) none

/-- CONV2D_SP (R88): 2:4-sparse convolution. -/
def execConv2dSp (x : Exr) (e : Enc) (s : State) : Host.Outcome State Fault Refusal := s.on fun c => c.either x (dT 0x21 3 (maskOf 26 0)) e (prodWrite .convSp e) none

/-- ACCST (R83): Stores the accumulator tiles through the epilogue, or raw. -/
def execAccst (x : Exr) (e : Enc) (s : State) : Host.Outcome State Fault Refusal := s.on fun c => c.either x (dT 0x22 0 1 (fA + fB)) e (accstBody e) none

/-- ACCLD (R83): Loads the accumulator tiles from a tensor. -/
def execAccld (x : Exr) (e : Enc) (s : State) : Host.Outcome State Fault Refusal := s.on fun c => c.either x (dT 0x23 0 3 (fD + fB)) e (accldBody e) none

/-- REDUCE_SUM (R94): Sums along an axis. -/
def execReduceSum (x : Exr) (e : Enc) (s : State) : Host.Outcome State Fault Refusal := s.on fun c => c.either x (dT 0x24 0 7 (fB + fACC)) e (reduceBody 0 e) none

/-- REDUCE_MAX (R94): Takes the maximum along an axis. -/
def execReduceMax (x : Exr) (e : Enc) (s : State) : Host.Outcome State Fault Refusal := s.on fun c => c.either x (dT 0x24 1 7 (fB + fACC)) e (reduceBody 1 e) none

/-- REDUCE_MIN (R94): Takes the minimum along an axis. -/
def execReduceMin (x : Exr) (e : Enc) (s : State) : Host.Outcome State Fault Refusal := s.on fun c => c.either x (dT 0x24 2 7 (fB + fACC)) e (reduceBody 2 e) none

/-- REDUCE_ARGMAX (R94): Gives the index of the first maximum along an axis. -/
def execReduceArgmax (x : Exr) (e : Enc) (s : State) : Host.Outcome State Fault Refusal := s.on fun c => c.either x (dT 0x24 3 7 (fB + fACC)) e (reduceBody 3 e) none

/-- SOFTMAX (R95): Row softmax with masking. -/
def execSoftmax (x : Exr) (e : Enc) (s : State) : Host.Outcome State Fault Refusal := s.on fun c => c.either x (dT 0x25 0 0 (fB + fACC)) e (softmaxBody false e) none

/-- LOGSOFTMAX (R95): Row log-softmax with masking. -/
def execLogsoftmax (x : Exr) (e : Enc) (s : State) : Host.Outcome State Fault Refusal := s.on fun c => c.either x (dT 0x25 1 0 (fB + fACC)) e (softmaxBody true e) none

/-- GATHER (R94): Gathers table rows by index. -/
def execGather (x : Exr) (e : Enc) (s : State) : Host.Outcome State Fault Refusal := s.on fun c => c.either x (dT 0x26 0 0 fACC) e (gatherBody e) none

/-- SCATTER (R94): Scatters rows by index, the highest i winning. -/
def execScatter (x : Exr) (e : Enc) (s : State) : Host.Outcome State Fault Refusal := s.on fun c => c.either x (dT 0x26 1 0 fACC) e (scatterBody false e) none

/-- SCATTER_ADD (R94): Scatters rows by index and adds them to the targets. -/
def execScatterAdd (x : Exr) (e : Enc) (s : State) : Host.Outcome State Fault Refusal := s.on fun c => c.either x (dT 0x26 2 0 fACC) e (scatterBody true e) none

/-- RESHAPE_TRANSPOSE (R94): Permutes the dimensions of a tensor. -/
def execReshapeTranspose (x : Exr) (e : Enc) (s : State) : Host.Outcome State Fault Refusal := s.on fun c => c.either x (dT 0x27 0 (maskOf 17 0) (fB + fACC)) e (transposeBody e) none

/-- RESHAPE_CONVERT (R112): Converts a tensor's format. -/
def execReshapeConvert (x : Exr) (e : Enc) (s : State) : Host.Outcome State Fault Refusal := s.on fun c => c.either x (dT 0x27 1 0 (fB + fACC)) e (convertBody e) none

/-- LAYERNORM (R94): Layer normalisation of each row. -/
def execLayernorm (x : Exr) (e : Enc) (s : State) : Host.Outcome State Fault Refusal := s.on fun c => c.either x (dT 0x28 0 (maskOf 31 0) fACC) e (normBody true e) none

/-- RMSNORM (R94): RMS normalisation of each row. -/
def execRmsnorm (x : Exr) (e : Enc) (s : State) : Host.Outcome State Fault Refusal := s.on fun c => c.either x (dT 0x28 1 (maskOf 31 0) fACC) e (normBody false e) none

/-- EW_ADD (R96): Elementwise add with broadcast and activation. -/
def execEwAdd (x : Exr) (e : Enc) (s : State) : Host.Outcome State Fault Refusal := s.on fun c => c.either x (dT 0x48 0 0 fACC) e (ewBody 0 e) none

/-- EW_MUL (R96): Elementwise multiply. -/
def execEwMul (x : Exr) (e : Enc) (s : State) : Host.Outcome State Fault Refusal := s.on fun c => c.either x (dT 0x48 1 0 fACC) e (ewBody 1 e) none

/-- EW_MAX (R96): Elementwise maximum. -/
def execEwMax (x : Exr) (e : Enc) (s : State) : Host.Outcome State Fault Refusal := s.on fun c => c.either x (dT 0x48 2 0 fACC) e (ewBody 2 e) none

/-- EW_ACT (R96): Elementwise activation. -/
def execEwAct (x : Exr) (e : Enc) (s : State) : Host.Outcome State Fault Refusal := s.on fun c => c.either x (dT 0x48 3 0 (fB + fACC)) e (ewBody 3 e) none

end Sys2Proof.Machine
end

