-- ==== Sys2Proof/Machine/Vector.lean ====
section
/-! DEFINITION. Vector instructions over the V registers (R97-R101). -/

namespace Sys2Proof.Machine

/-- Fields of format V as masks. -/
def fVD : Nat := maskOf 39 36
/-- VA. -/
def fVA : Nat := maskOf 35 32
/-- VB. -/
def fVB : Nat := maskOf 31 28
/-- VC. -/
def fVC : Nat := maskOf 27 24
/-- SA. -/
def fSA : Nat := maskOf 18 14

/-- Decode of a format-V row with the fields it does not use. -/
def dV (opc sub unused : Nat) : IDesc := { opc := opc, sub := sub, fmt := .V, rsvB := unused }

/-- Element e of V[r]. -/
def Ctx.rv (x : Ctx) (r e : Nat) : W32 := x.v.get (r * 256 + e) 0

/-- Element e is enabled by the mask (R98). -/
def Ctx.von (x : Ctx) (enc : Enc) (e : Nat) : Bool := !enc.meV || x.rv enc.vmV e != 0

/-- Write the enabled elements of V[VD]; disabled elements keep their values (R98). -/
def setV (k : Nat) (e : Enc) (f : Nat → W32) : Ex Unit :=
  updC k fun x => { x with v := x.v.setAll (((List.range 256).filter (x.von e)).map fun i => (e.vd * 256 + i, f i)) }

/-- A vector address is local, outside the aliased ranges, and does not run past the local space (R99). -/
def vecAddr (a n : Nat) : Bool := decide (0x800000000000 ≤ a) && decide (a + n ≤ 0x800000600000)

/-- VLD: VD[e] = word at S[SA] + 4e, tags unverified (R98, R99). -/
def vldBody (e : Enc) (k : Nat) : Ex Unit := do
  let a := (← getS k e.saV).toNat
  need (vecAddr a 1024) ACCESS
  let bs := (← rd k a 1024).toArray
  setV k e fun i => BitVec.ofNat 32 (leNat ((List.range 4).map fun j => bs.getD (4 * i + j) 0))

/-- VLD.BC: one word to every element. -/
def vldBcBody (e : Enc) (k : Nat) : Ex Unit := do
  let a := (← getS k e.saV).toNat
  need (vecAddr a 4) ACCESS
  let w := BitVec.ofNat 32 (leNat (← rd k a 4))
  setV k e fun _ => w

/-- VST: word at S[SA] + 4e = VA[e]; disabled elements are not written; tags go stale (R98, R99). -/
def vstBody (e : Enc) (k : Nat) : Ex Unit := do
  let a := (← getS k e.saV).toNat
  need (vecAddr a 1024) ACCESS
  let x ← ctxOf k
  let cells := ((List.range 256).filter (x.von e)).flatMap fun i => (leBytes 4 (x.rv e.va i).toNat).zipIdx.map fun q => (i / 64, a + 4 * i + q.2, q.1)
  emit k false cells

/-- FP32 result of an elementwise operation on two elements (R100). -/
def varith (sub : Nat) (a b c : FV) : Nat := match sub with
  | 0 => rne32 (a.add b)
  | 1 => rne32 (a.sub b)
  | 2 => rne32 (a.mul b)
  | 3 => rne32 ((a.mul b).add c)
  | 4 => rne32 (a.min b)
  | _ => rne32 (a.max b)

/-- VARITH ADD, SUB, MUL, FMA, MIN and MAX. -/
def varithBody (sub : Nat) (e : Enc) (k : Nat) : Ex Unit := do
  let x ← ctxOf k
  let g := fun r i => f32 (x.rv r i).toNat
  setV k e fun i => BitVec.ofNat 32 (varith sub (g e.va i) (g e.vb i) (g e.vc i))

/-- VARITH ABS: sign cleared, NaN payload kept. -/
def vabsBody (e : Enc) (k : Nat) : Ex Unit := do
  let x ← ctxOf k
  setV k e fun i => x.rv e.va i &&& 0x7FFFFFFF#32

/-- VARITH NEG: sign inverted, NaN payload kept. -/
def vnegBody (e : Enc) (k : Nat) : Ex Unit := do
  let x ← ctxOf k
  setV k e fun i => x.rv e.va i ^^^ 0x80000000#32

/-- VACT by SUB: RELU, GELU, SILU, SIGMOID, TANH, EXP, RECIP, RSQRT (R100). -/
def vactFn (sub : Nat) (v : FV) : Nat := match sub with
  | 0 => rne32 (v.max FV.zero)
  | 1 => gelu32 v
  | 2 => silu32 v
  | 3 => sigmoid32 v
  | 4 => tanh32 v
  | 5 => exp32 v
  | 6 => div32 (FV.ofInt 1) v
  | _ => rsqrt32 v

/-- VACT. -/
def vactBody (sub : Nat) (e : Enc) (k : Nat) : Ex Unit := do
  let x ← ctxOf k
  setV k e fun i => BitVec.ofNat 32 (vactFn sub (f32 (x.rv e.va i).toNat))

/-- VCMP EQ, LT, LE: all ones where the comparison holds; NaN fails (R98). -/
def vcmpBody (sub : Nat) (e : Enc) (k : Nat) : Ex Unit := do
  let x ← ctxOf k
  let g := fun r i => f32 (x.rv r i).toNat
  let cmp := fun (a b : FV) => match sub with
    | 0 => a.eq b
    | 1 => a.lt b
    | _ => a.le b
  setV k e fun i => if cmp (g e.va i) (g e.vb i) then 0xFFFFFFFF#32 else 0#32

/-- VSEL: VC[e] ≠ 0 ? VA[e] : VB[e]. -/
def vselBody (e : Enc) (k : Nat) : Ex Unit := do
  let x ← ctxOf k
  setV k e fun i => if x.rv e.vc i != 0 then x.rv e.va i else x.rv e.vb i

/-- VCVT.F32.I32: nearest even, saturating, NaN gives 0. -/
def vcvtFIBody (e : Enc) (k : Nat) : Ex Unit := do
  let x ← ctxOf k
  setV k e fun i => BitVec.ofInt 32 (convInt 32 (f32 (x.rv e.va i).toNat)).1

/-- VCVT.I32.F32: nearest even. -/
def vcvtIFBody (e : Enc) (k : Nat) : Ex Unit := do
  let x ← ctxOf k
  setV k e fun i => BitVec.ofNat 32 (rne32 (FV.ofInt (x.rv e.va i).toInt))

/-- Combine adjacent results (R101). -/
def pairUp (op : FV → FV → FV) : List FV → List FV
  | a :: b :: vs => op a b :: pairUp op vs
  | vs => vs

/-- The pairwise tree, one level after another (R101). -/
def treeFold (op : FV → FV → FV) : (levels : Nat) → List FV → List FV
  | 0, vs => vs
  | n + 1, vs => treeFold op n (pairUp op vs)

/-- VRED SUM, MAX, MIN: the tree over VA, disabled elements entering as the identity, written to every element (R98, R101). -/
def vredBody (sub : Nat) (e : Enc) (k : Nat) : Ex Unit := do
  let x ← ctxOf k
  let ident : FV := if sub = 0 then FV.zero else .inf (sub == 1)
  let op : FV → FV → FV := match sub with
    | 0 => fun a b => r32 (a.add b)
    | 1 => FV.max
    | _ => FV.min
  let vs := (List.range 256).map fun i => if x.von e i then f32 (x.rv e.va i).toNat else ident
  let r := BitVec.ofNat 32 (rne32 ((treeFold op 8 vs).headD FV.zero))
  updC k fun x => { x with v := x.v.setAll ((List.range 256).map fun i => (e.vd * 256 + i, r)) }

/-- VBCAST: VD[e] = S[SA][31:0]. -/
def vbcastBody (e : Enc) (k : Nat) : Ex Unit := do
  let s ← getS k e.saV
  setV k e fun _ => s.setWidth 32

end Sys2Proof.Machine
end

