-- ==== Sys2Proof/Machine/VectorRows.lean ====
section
/-! DEFINITION. The meanings of the commands VLD to VBCAST, in the order of the opcode table: one definition per row over the shared operations. -/

namespace Sys2Proof.Machine

/-- VLD (R99): Vector load from local space. -/
def execVld (x : Exr) (e : Enc) (s : State) : Host.Outcome State Fault Refusal := s.on fun c => c.either x (dV 0x40 0 (fVA + fVB + fVC)) e (vldBody e) none

/-- VST (R99): Vector store to local space, leaving any tag stale. -/
def execVst (x : Exr) (e : Enc) (s : State) : Host.Outcome State Fault Refusal := s.on fun c => c.either x (dV 0x40 1 (fVD + fVB + fVC)) e (vstBody e) none

/-- VLD_BC (R99): Loads one word and broadcasts it to every element. -/
def execVldBc (x : Exr) (e : Enc) (s : State) : Host.Outcome State Fault Refusal := s.on fun c => c.either x (dV 0x40 2 (fVA + fVB + fVC)) e (vldBcBody e) none

/-- VARITH_ADD (R100): Vector FP32 add. -/
def execVarithAdd (x : Exr) (e : Enc) (s : State) : Host.Outcome State Fault Refusal := s.on fun c => c.either x (dV 0x41 0 (fVC + fSA)) e (varithBody 0 e) none

/-- VARITH_SUB (R100): Vector FP32 subtract. -/
def execVarithSub (x : Exr) (e : Enc) (s : State) : Host.Outcome State Fault Refusal := s.on fun c => c.either x (dV 0x41 1 (fVC + fSA)) e (varithBody 1 e) none

/-- VARITH_MUL (R100): Vector FP32 multiply. -/
def execVarithMul (x : Exr) (e : Enc) (s : State) : Host.Outcome State Fault Refusal := s.on fun c => c.either x (dV 0x41 2 (fVC + fSA)) e (varithBody 2 e) none

/-- VARITH_FMA (R100): Vector fused multiply-add. -/
def execVarithFma (x : Exr) (e : Enc) (s : State) : Host.Outcome State Fault Refusal := s.on fun c => c.either x (dV 0x41 3 (fSA)) e (varithBody 3 e) none

/-- VARITH_MIN (R100): Vector minimum. -/
def execVarithMin (x : Exr) (e : Enc) (s : State) : Host.Outcome State Fault Refusal := s.on fun c => c.either x (dV 0x41 4 (fVC + fSA)) e (varithBody 4 e) none

/-- VARITH_MAX (R100): Vector maximum. -/
def execVarithMax (x : Exr) (e : Enc) (s : State) : Host.Outcome State Fault Refusal := s.on fun c => c.either x (dV 0x41 5 (fVC + fSA)) e (varithBody 5 e) none

/-- VARITH_ABS (R100): Vector absolute value. -/
def execVarithAbs (x : Exr) (e : Enc) (s : State) : Host.Outcome State Fault Refusal := s.on fun c => c.either x (dV 0x41 6 (fVB + fVC + fSA)) e (vabsBody e) none

/-- VARITH_NEG (R100): Vector negation. -/
def execVarithNeg (x : Exr) (e : Enc) (s : State) : Host.Outcome State Fault Refusal := s.on fun c => c.either x (dV 0x41 7 (fVB + fVC + fSA)) e (vnegBody e) none

/-- VACT_RELU (R100): Vector RELU. -/
def execVactRelu (x : Exr) (e : Enc) (s : State) : Host.Outcome State Fault Refusal := s.on fun c => c.either x (dV 0x42 0 (fVB + fVC + fSA)) e (vactBody 0 e) none

/-- VACT_GELU (R100): Vector GELU. -/
def execVactGelu (x : Exr) (e : Enc) (s : State) : Host.Outcome State Fault Refusal := s.on fun c => c.either x (dV 0x42 1 (fVB + fVC + fSA)) e (vactBody 1 e) none

/-- VACT_SILU (R100): Vector SILU. -/
def execVactSilu (x : Exr) (e : Enc) (s : State) : Host.Outcome State Fault Refusal := s.on fun c => c.either x (dV 0x42 2 (fVB + fVC + fSA)) e (vactBody 2 e) none

/-- VACT_SIGMOID (R100): Vector sigmoid. -/
def execVactSigmoid (x : Exr) (e : Enc) (s : State) : Host.Outcome State Fault Refusal := s.on fun c => c.either x (dV 0x42 3 (fVB + fVC + fSA)) e (vactBody 3 e) none

/-- VACT_TANH (R100): Vector tanh. -/
def execVactTanh (x : Exr) (e : Enc) (s : State) : Host.Outcome State Fault Refusal := s.on fun c => c.either x (dV 0x42 4 (fVB + fVC + fSA)) e (vactBody 4 e) none

/-- VACT_EXP (R100): Vector exponential. -/
def execVactExp (x : Exr) (e : Enc) (s : State) : Host.Outcome State Fault Refusal := s.on fun c => c.either x (dV 0x42 5 (fVB + fVC + fSA)) e (vactBody 5 e) none

/-- VACT_RECIP (R100): Vector reciprocal. -/
def execVactRecip (x : Exr) (e : Enc) (s : State) : Host.Outcome State Fault Refusal := s.on fun c => c.either x (dV 0x42 6 (fVB + fVC + fSA)) e (vactBody 6 e) none

/-- VACT_RSQRT (R100): Vector reciprocal square root. -/
def execVactRsqrt (x : Exr) (e : Enc) (s : State) : Host.Outcome State Fault Refusal := s.on fun c => c.either x (dV 0x42 7 (fVB + fVC + fSA)) e (vactBody 7 e) none

/-- VCMP_EQ (R98): Vector compare for equality into a mask. -/
def execVcmpEq (x : Exr) (e : Enc) (s : State) : Host.Outcome State Fault Refusal := s.on fun c => c.either x (dV 0x43 0 (fVC + fSA)) e (vcmpBody 0 e) none

/-- VCMP_LT (R98): Vector less-than compare. -/
def execVcmpLt (x : Exr) (e : Enc) (s : State) : Host.Outcome State Fault Refusal := s.on fun c => c.either x (dV 0x43 1 (fVC + fSA)) e (vcmpBody 1 e) none

/-- VCMP_LE (R98): Vector less-or-equal compare. -/
def execVcmpLe (x : Exr) (e : Enc) (s : State) : Host.Outcome State Fault Refusal := s.on fun c => c.either x (dV 0x43 2 (fVC + fSA)) e (vcmpBody 2 e) none

/-- VSEL (R98): Selects elements from two vectors by a third. -/
def execVsel (x : Exr) (e : Enc) (s : State) : Host.Outcome State Fault Refusal := s.on fun c => c.either x (dV 0x44 0 fSA) e (vselBody e) none

/-- VCVT_F32_I32 (R98): Converts FP32 to INT32. -/
def execVcvtF32I32 (x : Exr) (e : Enc) (s : State) : Host.Outcome State Fault Refusal := s.on fun c => c.either x (dV 0x45 0 (fVB + fVC + fSA)) e (vcvtFIBody e) none

/-- VCVT_I32_F32 (R98): Converts INT32 to FP32. -/
def execVcvtI32F32 (x : Exr) (e : Enc) (s : State) : Host.Outcome State Fault Refusal := s.on fun c => c.either x (dV 0x45 1 (fVB + fVC + fSA)) e (vcvtIFBody e) none

/-- VRED_SUM (R101): Pairwise-tree vector sum. -/
def execVredSum (x : Exr) (e : Enc) (s : State) : Host.Outcome State Fault Refusal := s.on fun c => c.either x (dV 0x46 0 (fVB + fVC + fSA)) e (vredBody 0 e) none

/-- VRED_MAX (R101): Vector maximum reduction. -/
def execVredMax (x : Exr) (e : Enc) (s : State) : Host.Outcome State Fault Refusal := s.on fun c => c.either x (dV 0x46 1 (fVB + fVC + fSA)) e (vredBody 1 e) none

/-- VRED_MIN (R101): Vector minimum reduction. -/
def execVredMin (x : Exr) (e : Enc) (s : State) : Host.Outcome State Fault Refusal := s.on fun c => c.either x (dV 0x46 2 (fVB + fVC + fSA)) e (vredBody 2 e) none

/-- VBCAST (R98): Broadcasts S[SA][31:0] to every element. -/
def execVbcast (x : Exr) (e : Enc) (s : State) : Host.Outcome State Fault Refusal := s.on fun c => c.either x (dV 0x47 0 (fVA + fVB + fVC)) e (vbcastBody e) none

end Sys2Proof.Machine
end

