-- ==== Sys2Proof/Machine/Dispatch.lean ====
section
/-! DEFINITION. The dispatch of a command to its meaning: one arm per row of the opcode table, in its order. -/

namespace Sys2Proof.Machine

/-- The effect of a command on everything but the queue. -/
def exec (i : Instr) (s : State) : Host.Outcome State Fault Refusal :=
  match i with
  | .registerWrite m a wide v => Sys2Proof.Machine.execRegisterWrite m a wide v s
  | .badRegisterAccess m a n => Sys2Proof.Machine.execBadRegisterAccess m a n s
  | .landingStart => Sys2Proof.Machine.execLandingStart s
  | .kvReclaimSplice r => Sys2Proof.Machine.execKvReclaimSplice r s
  | .contextLandingMove r => Sys2Proof.Machine.execContextLandingMove r s
  | .commitDeadline n => Sys2Proof.Machine.execCommitDeadline n s
  | .nop x e => Sys2Proof.Machine.execNop x e s
  | .alu x sub e => Sys2Proof.Machine.execAlu x sub e s
  | .alui x sub e => Sys2Proof.Machine.execAlui x sub e s
  | .li x e => Sys2Proof.Machine.execLi x e s
  | .ld x sub e => Sys2Proof.Machine.execLd x sub e s
  | .st x sub e => Sys2Proof.Machine.execSt x sub e s
  | .cmp x sub e => Sys2Proof.Machine.execCmp x sub e s
  | .cmpi x sub e => Sys2Proof.Machine.execCmpi x sub e s
  | .plog x sub e => Sys2Proof.Machine.execPlog x sub e s
  | .br x e => Sys2Proof.Machine.execBr x e s
  | .call x e => Sys2Proof.Machine.execCall x e s
  | .jr x e => Sys2Proof.Machine.execJr x e s
  | .jrl x e => Sys2Proof.Machine.execJrl x e s
  | .mfsCsw x e => Sys2Proof.Machine.execMfsCsw x e s
  | .mfsLfc x e => Sys2Proof.Machine.execMfsLfc x e s
  | .mfsDevtime x e => Sys2Proof.Machine.execMfsDevtime x e s
  | .mfsIaddr x e => Sys2Proof.Machine.execMfsIaddr x e s
  | .mfsPlace x e => Sys2Proof.Machine.execMfsPlace x e s
  | .endContext x e => Sys2Proof.Machine.execEndContext x e s
  | .movCopy x e => Sys2Proof.Machine.execMovCopy x e s
  | .movFill x e => Sys2Proof.Machine.execMovFill x e s
  | .reshard x e => Sys2Proof.Machine.execReshard x e s
  | .broadcast x e => Sys2Proof.Machine.execBroadcast x e s
  | .allgather x e => Sys2Proof.Machine.execAllgather x e s
  | .reduceAdd x e => Sys2Proof.Machine.execReduceAdd x e s
  | .collectiveComplete inst r => Sys2Proof.Machine.execCollectiveComplete inst r s
  | .atomSet64 x e => Sys2Proof.Machine.execAtomSet64 x e s
  | .atomClr64 x e => Sys2Proof.Machine.execAtomClr64 x e s
  | .atomSet32 x e => Sys2Proof.Machine.execAtomSet32 x e s
  | .atomClr32 x e => Sys2Proof.Machine.execAtomClr32 x e s
  | .tdld x e => Sys2Proof.Machine.execTdld x e s
  | .tdst x e => Sys2Proof.Machine.execTdst x e s
  | .tdbase x e => Sys2Proof.Machine.execTdbase x e s
  | .mm x e => Sys2Proof.Machine.execMm x e s
  | .mma x e => Sys2Proof.Machine.execMma x e s
  | .mmSp x e => Sys2Proof.Machine.execMmSp x e s
  | .mmaSp x e => Sys2Proof.Machine.execMmaSp x e s
  | .conv2d x e => Sys2Proof.Machine.execConv2d x e s
  | .conv2dAcc x e => Sys2Proof.Machine.execConv2dAcc x e s
  | .dwconv x e => Sys2Proof.Machine.execDwconv x e s
  | .conv2dSp x e => Sys2Proof.Machine.execConv2dSp x e s
  | .accst x e => Sys2Proof.Machine.execAccst x e s
  | .accld x e => Sys2Proof.Machine.execAccld x e s
  | .reduceSum x e => Sys2Proof.Machine.execReduceSum x e s
  | .reduceMax x e => Sys2Proof.Machine.execReduceMax x e s
  | .reduceMin x e => Sys2Proof.Machine.execReduceMin x e s
  | .reduceArgmax x e => Sys2Proof.Machine.execReduceArgmax x e s
  | .softmax x e => Sys2Proof.Machine.execSoftmax x e s
  | .logsoftmax x e => Sys2Proof.Machine.execLogsoftmax x e s
  | .gather x e => Sys2Proof.Machine.execGather x e s
  | .scatter x e => Sys2Proof.Machine.execScatter x e s
  | .scatterAdd x e => Sys2Proof.Machine.execScatterAdd x e s
  | .reshapeTranspose x e => Sys2Proof.Machine.execReshapeTranspose x e s
  | .reshapeConvert x e => Sys2Proof.Machine.execReshapeConvert x e s
  | .layernorm x e => Sys2Proof.Machine.execLayernorm x e s
  | .rmsnorm x e => Sys2Proof.Machine.execRmsnorm x e s
  | .ewAdd x e => Sys2Proof.Machine.execEwAdd x e s
  | .ewMul x e => Sys2Proof.Machine.execEwMul x e s
  | .ewMax x e => Sys2Proof.Machine.execEwMax x e s
  | .ewAct x e => Sys2Proof.Machine.execEwAct x e s
  | .vld x e => Sys2Proof.Machine.execVld x e s
  | .vst x e => Sys2Proof.Machine.execVst x e s
  | .vldBc x e => Sys2Proof.Machine.execVldBc x e s
  | .varithAdd x e => Sys2Proof.Machine.execVarithAdd x e s
  | .varithSub x e => Sys2Proof.Machine.execVarithSub x e s
  | .varithMul x e => Sys2Proof.Machine.execVarithMul x e s
  | .varithFma x e => Sys2Proof.Machine.execVarithFma x e s
  | .varithMin x e => Sys2Proof.Machine.execVarithMin x e s
  | .varithMax x e => Sys2Proof.Machine.execVarithMax x e s
  | .varithAbs x e => Sys2Proof.Machine.execVarithAbs x e s
  | .varithNeg x e => Sys2Proof.Machine.execVarithNeg x e s
  | .vactRelu x e => Sys2Proof.Machine.execVactRelu x e s
  | .vactGelu x e => Sys2Proof.Machine.execVactGelu x e s
  | .vactSilu x e => Sys2Proof.Machine.execVactSilu x e s
  | .vactSigmoid x e => Sys2Proof.Machine.execVactSigmoid x e s
  | .vactTanh x e => Sys2Proof.Machine.execVactTanh x e s
  | .vactExp x e => Sys2Proof.Machine.execVactExp x e s
  | .vactRecip x e => Sys2Proof.Machine.execVactRecip x e s
  | .vactRsqrt x e => Sys2Proof.Machine.execVactRsqrt x e s
  | .vcmpEq x e => Sys2Proof.Machine.execVcmpEq x e s
  | .vcmpLt x e => Sys2Proof.Machine.execVcmpLt x e s
  | .vcmpLe x e => Sys2Proof.Machine.execVcmpLe x e s
  | .vsel x e => Sys2Proof.Machine.execVsel x e s
  | .vcvtF32I32 x e => Sys2Proof.Machine.execVcvtF32I32 x e s
  | .vcvtI32F32 x e => Sys2Proof.Machine.execVcvtI32F32 x e s
  | .vredSum x e => Sys2Proof.Machine.execVredSum x e s
  | .vredMax x e => Sys2Proof.Machine.execVredMax x e s
  | .vredMin x e => Sys2Proof.Machine.execVredMin x e s
  | .vbcast x e => Sys2Proof.Machine.execVbcast x e s
  | .attn x e => Sys2Proof.Machine.execAttn x e s
  | .attnRing x e => Sys2Proof.Machine.execAttnRing x e s
  | .attnSparse x e => Sys2Proof.Machine.execAttnSparse x e s
  | .kvapp x e => Sys2Proof.Machine.execKvapp x e s
  | .kvpageAlloc x e => Sys2Proof.Machine.execKvpageAlloc x e s
  | .kvpageRef x e => Sys2Proof.Machine.execKvpageRef x e s
  | .kvpageUnref x e => Sys2Proof.Machine.execKvpageUnref x e s
  | .kvpageCow x e => Sys2Proof.Machine.execKvpageCow x e s
  | .gtestSphObb x e => Sys2Proof.Machine.execGtestSphObb x e s
  | .gtestSphAabb x e => Sys2Proof.Machine.execGtestSphAabb x e s
  | .gtestSphSph x e => Sys2Proof.Machine.execGtestSphSph x e s
  | .gtestSphTri x e => Sys2Proof.Machine.execGtestSphTri x e s
  | .gtravAny x e => Sys2Proof.Machine.execGtravAny x e s
  | .gtravCount x e => Sys2Proof.Machine.execGtravCount x e s
  | .gtravNearest x e => Sys2Proof.Machine.execGtravNearest x e s
  | .gsweepEdge x e => Sys2Proof.Machine.execGsweepEdge x e s
  | .gsweepArtic x e => Sys2Proof.Machine.execGsweepArtic x e s
  | .gsweepReval x sub e => Sys2Proof.Machine.execGsweepReval x sub e s
  | .gbuildBuild x e => Sys2Proof.Machine.execGbuildBuild x e s
  | .gbuildRefit x e => Sys2Proof.Machine.execGbuildRefit x e s
  | .gbuildDyn x e => Sys2Proof.Machine.execGbuildDyn x e s
  | .suqInsert x e => Sys2Proof.Machine.execSuqInsert x e s
  | .suqExtract x e => Sys2Proof.Machine.execSuqExtract x e s
  | .suqPeek x e => Sys2Proof.Machine.execSuqPeek x e s
  | .suqCount x e => Sys2Proof.Machine.execSuqCount x e s
  | .suqClear x e => Sys2Proof.Machine.execSuqClear x e s
  | .sunodeNew x e => Sys2Proof.Machine.execSunodeNew x e s
  | .sunodeRd x e => Sys2Proof.Machine.execSunodeRd x e s
  | .sunodeWr x e => Sys2Proof.Machine.execSunodeWr x e s
  | .sunodeNearest x e => Sys2Proof.Machine.execSunodeNearest x e s
  | .supathSmooth x e => Sys2Proof.Machine.execSupathSmooth x e s
  | .supathTscale x e => Sys2Proof.Machine.execSupathTscale x e s
  | .suplanCommit x misread e => Sys2Proof.Machine.execSuplanCommit x misread e s
  | .suplanStopArm x misread e => Sys2Proof.Machine.execSuplanStopArm x misread e s
  | .suplanStopNoPath x misread e => Sys2Proof.Machine.execSuplanStopNoPath x misread e s
  | .planAckReceive site isl seq => Sys2Proof.Machine.execPlanAckReceive site isl seq s
  | .planAckTimeout site seq t => Sys2Proof.Machine.execPlanAckTimeout site seq t s
  | .susync x e => Sys2Proof.Machine.execSusync x e s
  | .planningDeadline site f t => Sys2Proof.Machine.execPlanningDeadline site f t s
  | .frameScheduleDelivery site => Sys2Proof.Machine.execFrameScheduleDelivery site s
  | .suOwnerWrite site v => Sys2Proof.Machine.execSuOwnerWrite site v s
  | .suQcfgWrite site v => Sys2Proof.Machine.execSuQcfgWrite site v s
  | .chkb x e => Sys2Proof.Machine.execChkb x e s
  | .chke x e => Sys2Proof.Machine.execChke x e s
  | .blockCommit r misread => Sys2Proof.Machine.execBlockCommit r misread s
  | .arbiterPassStart r => Sys2Proof.Machine.execArbiterPassStart r s
  | .arbiterPassEnd r => Sys2Proof.Machine.execArbiterPassEnd r s
  | .heartbeatDue r t => Sys2Proof.Machine.execHeartbeatDue r t s
  | .heartbeatRun r => Sys2Proof.Machine.execHeartbeatRun r s
  | .heartbeatEnd r flagged => Sys2Proof.Machine.execHeartbeatEnd r flagged s
  | .evtSet x e => Sys2Proof.Machine.execEvtSet x e s
  | .evtClr x e => Sys2Proof.Machine.execEvtClr x e s
  | .evtWait x e => Sys2Proof.Machine.execEvtWait x e s
  | .evtPost x e => Sys2Proof.Machine.execEvtPost x e s
  | .evtWake p f => Sys2Proof.Machine.execEvtWake p f s
  | .barArrive x e => Sys2Proof.Machine.execBarArrive x e s
  | .barWait x e => Sys2Proof.Machine.execBarWait x e s
  | .barWaitResume p b => Sys2Proof.Machine.execBarWaitResume p b s
  | .fence x e => Sys2Proof.Machine.execFence x e s
  | .waitt x e => Sys2Proof.Machine.execWaitt x e s
  | .waittResume w t => Sys2Proof.Machine.execWaittResume w t s
  | .landWait x e => Sys2Proof.Machine.execLandWait x e s
  | .landSignal x e => Sys2Proof.Machine.execLandSignal x e s
  | .hallEvtsWrite site p k v => Sys2Proof.Machine.execHallEvtsWrite site p k v s
  | .hallEvtcWrite site p k v => Sys2Proof.Machine.execHallEvtcWrite site p k v s
  | .sceneStage site p slot v => Sys2Proof.Machine.execSceneStage site p slot v s
  | .sceneWithdraw site p slot v => Sys2Proof.Machine.execSceneWithdraw site p slot v s
  | .sceneRetired p slot => Sys2Proof.Machine.execSceneRetired p slot s
  | .stbKvptWrite r v => Sys2Proof.Machine.execStbKvptWrite r v s
  | .correctedWordWriteback w => Sys2Proof.Machine.execCorrectedWordWriteback w s
  | .patrolScrub who upset => Sys2Proof.Machine.execPatrolScrub who upset s
  | .partitionCreate p => Sys2Proof.Machine.execPartitionCreate p s
  | .partitionRestart p => Sys2Proof.Machine.execPartitionRestart p s
  | .partitionStop p => Sys2Proof.Machine.execPartitionStop p s
  | .partitionReset p => Sys2Proof.Machine.execPartitionReset p s
  | .sectionReloadDone p => Sys2Proof.Machine.execSectionReloadDone p s
  | .contextSaveDone r dur => Sys2Proof.Machine.execContextSaveDone r dur s
  | .contextRestoreDone r => Sys2Proof.Machine.execContextRestoreDone r s
  | .budgetExceeded r n => Sys2Proof.Machine.execBudgetExceeded r n s
  | .sparePrepare site => Sys2Proof.Machine.execSparePrepare site s
  | .sparePreparationEnd ok bars => Sys2Proof.Machine.execSparePreparationEnd ok bars s
  | .accountingUpdate t uj => Sys2Proof.Machine.execAccountingUpdate t uj s
  | .baseDieRequest id t => Sys2Proof.Machine.execBaseDieRequest id t s
  | .queueService m t => Sys2Proof.Machine.execQueueService m t s
  | .requestCompletion id t => Sys2Proof.Machine.execRequestCompletion id t s
  | .requestIssue o q t => Sys2Proof.Machine.execRequestIssue o q t s
  | .levelMessageSend m t => Sys2Proof.Machine.execLevelMessageSend m t s
  | .levelMessageReceive o m t => Sys2Proof.Machine.execLevelMessageReceive o m t s
  | .regFbLost o m t => Sys2Proof.Machine.execRegFbLost o m t s
  | .regFbRestored o m => Sys2Proof.Machine.execRegFbRestored o m s
  | .tdmSlot o t => Sys2Proof.Machine.execTdmSlot o t s
  | .ch16WindowEnd o m t => Sys2Proof.Machine.execCh16WindowEnd o m t s
  | .controlSample isl t => Sys2Proof.Machine.execControlSample isl t s
  | .compareMessageReceive isl crcOk => Sys2Proof.Machine.execCompareMessageReceive isl crcOk s
  | .comparePoint isl t => Sys2Proof.Machine.execComparePoint isl t s
  | .planDoorbell isl site buf => Sys2Proof.Machine.execPlanDoorbell isl site buf s
  | .acceptanceMessageReceive isl => Sys2Proof.Machine.execAcceptanceMessageReceive isl s
  | .frameOutcome isl f t => Sys2Proof.Machine.execFrameOutcome isl f t s
  | .dtholdEnter isl t => Sys2Proof.Machine.execDtholdEnter isl t s
  | .dtholdClear isl t => Sys2Proof.Machine.execDtholdClear isl t s
  | .devtimeDistribution die off => Sys2Proof.Machine.execDevtimeDistribution die off s
  | .siResume isl => Sys2Proof.Machine.execSiResume isl s
  | .stopreqSet isl m b => Sys2Proof.Machine.execStopreqSet isl m b s
  | .watchdogKey isl v => Sys2Proof.Machine.execWatchdogKey isl v s
  | .watchdogExpiry isl t => Sys2Proof.Machine.execWatchdogExpiry isl t s
  | .clockMonitorTrap isl => Sys2Proof.Machine.execClockMonitorTrap isl s
  | .islandRecordCopy isl => Sys2Proof.Machine.execIslandRecordCopy isl s
  | .channelSample isl n t ev late => Sys2Proof.Machine.execChannelSample isl n t ev late s
  | .leStart isl n => Sys2Proof.Machine.execLeStart isl n s
  | .leStop isl n => Sys2Proof.Machine.execLeStop isl n s
  | .leHold isl n => Sys2Proof.Machine.execLeHold isl n s
  | .leRelease isl n => Sys2Proof.Machine.execLeRelease isl n s
  | .coefficientWrite isl m n bank w wide v => Sys2Proof.Machine.execCoefficientWrite isl m n bank w wide v s
  | .leCtlDisable isl => Sys2Proof.Machine.execLeCtlDisable isl s
  | .cfgLockClaim x m owner => Sys2Proof.Machine.execCfgLockClaim x m owner s
  | .cfgLockRelease x m => Sys2Proof.Machine.execCfgLockRelease x m s
  | .wsRegisterWrite m a wide v => Sys2Proof.Machine.execWsRegisterWrite m a wide v s
  | .cfgDiscard x m => Sys2Proof.Machine.execCfgDiscard x m s
  | .cfgCheck x m => Sys2Proof.Machine.execCfgCheck x m s
  | .cfgCheckDone x => Sys2Proof.Machine.execCfgCheckDone x s
  | .cfgApplyTick x m => Sys2Proof.Machine.execCfgApplyTick x m s
  | .cfgApplyLanding x m => Sys2Proof.Machine.execCfgApplyLanding x m s
  | .cfgApplyCancel x m => Sys2Proof.Machine.execCfgApplyCancel x m s
  | .cfgPrepareAck u => Sys2Proof.Machine.execCfgPrepareAck u s
  | .cfgReevaluation x t => Sys2Proof.Machine.execCfgReevaluation x t s
  | .cfgCommitSend x t => Sys2Proof.Machine.execCfgCommitSend x t s
  | .cfgTickApply x t => Sys2Proof.Machine.execCfgTickApply x t s
  | .prepareDiscard u => Sys2Proof.Machine.execPrepareDiscard u s
  | .nresetAssert dur => Sys2Proof.Machine.execNresetAssert dur s
  | .nresetRelease => Sys2Proof.Machine.execNresetRelease s
  | .islandResetAssert isl dur => Sys2Proof.Machine.execIslandResetAssert isl dur s
  | .islandResetRelease isl silent a b => Sys2Proof.Machine.execIslandResetRelease isl silent a b s
  | .islandTimeFirst isl => Sys2Proof.Machine.execIslandTimeFirst isl s
  | .firmwareVerifyDone t rom flash => Sys2Proof.Machine.execFirmwareVerifyDone t rom flash s
  | .linkTrainingDone t bad => Sys2Proof.Machine.execLinkTrainingDone t bad s
  | .stairRowTestDone g codes => Sys2Proof.Machine.execStairRowTestDone g codes s
  | .stairDone t => Sys2Proof.Machine.execStairDone t s
  | .memoryTrainingDone t failed => Sys2Proof.Machine.execMemoryTrainingDone t failed s
  | .comparatorInjectionDone t bad => Sys2Proof.Machine.execComparatorInjectionDone t bad s
  | .marginPlanDone t meas ok => Sys2Proof.Machine.execMarginPlanDone t meas ok s
  | .bootImageVerifyDone t => Sys2Proof.Machine.execBootImageVerifyDone t s
  | .fensanStart t => Sys2Proof.Machine.execFensanStart t s
  | .frameZeroSchedule t => Sys2Proof.Machine.execFrameZeroSchedule t s
  | .restartNotice isl => Sys2Proof.Machine.execRestartNotice isl s
  | .stateMessageSend t => Sys2Proof.Machine.execStateMessageSend t s
  | .stateMessageReceive => Sys2Proof.Machine.execStateMessageReceive s
  | .dcuFailover t report die0 => Sys2Proof.Machine.execDcuFailover t report die0 s
  | .standbyFail t => Sys2Proof.Machine.execStandbyFail t s
  | .keyRevoke v => Sys2Proof.Machine.execKeyRevoke v s
  | .budgetPeriod t p => Sys2Proof.Machine.execBudgetPeriod t p s
  | .hallDemand d idle want drew rep t => Sys2Proof.Machine.execHallDemand d idle want drew rep t s
  | .budgetMessage d t => Sys2Proof.Machine.execBudgetMessage d t s
  | .pwrBudgetLost d t => Sys2Proof.Machine.execPwrBudgetLost d t s
  | .zoneSettled zone => Sys2Proof.Machine.execZoneSettled zone s
  | .energyCheck site uj t => Sys2Proof.Machine.execEnergyCheck site uj t s
  | .coefficientRefit d coefs => Sys2Proof.Machine.execCoefficientRefit d coefs s
  | .temperatureSample d rs t => Sys2Proof.Machine.execTemperatureSample d rs t s
  | .sensorSuspect d n t => Sys2Proof.Machine.execSensorSuspect d n t s
  | .thmSensor site t => Sys2Proof.Machine.execThmSensor site t s
  | .flowEstimate flow power rise t => Sys2Proof.Machine.execFlowEstimate flow power rise t s
  | .coolingDegraded t => Sys2Proof.Machine.execCoolingDegraded t s
  | .coolingRestored t => Sys2Proof.Machine.execCoolingRestored t s
  | .coolantResume => Sys2Proof.Machine.execCoolantResume s
  | .ageingMeasurement site slack ro t => Sys2Proof.Machine.execAgeingMeasurement site slack ro t s
  | .marginPlanWriteDone ok => Sys2Proof.Machine.execMarginPlanWriteDone ok s
  | .efficiencyRun t => Sys2Proof.Machine.execEfficiencyRun t s
  | .efficiencyRunEnd fs t => Sys2Proof.Machine.execEfficiencyRunEnd fs t s
  | .errorRecordIntake => Sys2Proof.Machine.execErrorRecordIntake s
  | .errorPeriodRelease => Sys2Proof.Machine.execErrorPeriodRelease s
  | .packageLoad => Sys2Proof.Machine.execPackageLoad s
  | .packageRemove id => Sys2Proof.Machine.execPackageRemove id s
  | .packageCheckDone flash => Sys2Proof.Machine.execPackageCheckDone flash s
  | .selftestSlotStart r t => Sys2Proof.Machine.execSelftestSlotStart r t s
  | .selftestSlotEnd r t runs whole => Sys2Proof.Machine.execSelftestSlotEnd r t runs whole s
  | .linkAck die p seq => Sys2Proof.Machine.execLinkAck die p seq s
  | .idleFlit die p t => Sys2Proof.Machine.execIdleFlit die p t s
  | .packetReceive die p grp hdr data errs t => Sys2Proof.Machine.execPacketReceive die p grp hdr data errs t s
  | .nakReceive die p seq t => Sys2Proof.Machine.execNakReceive die p seq t s
  | .portFence die p t => Sys2Proof.Machine.execPortFence die p t s
  | .laneFailing die p lane t => Sys2Proof.Machine.execLaneFailing die p lane t s
  | .retrainDone die p bad t => Sys2Proof.Machine.execRetrainDone die p bad t s
  | .hallProbeResult site answers => Sys2Proof.Machine.execHallProbeResult site answers s
  | .routeTableSwitch t => Sys2Proof.Machine.execRouteTableSwitch t s
  | .bar2Read f x n => Sys2Proof.Machine.execBar2Read f x n s
  | .bar2Write f x bs => Sys2Proof.Machine.execBar2Write f x bs s
  | .registerWindowAccess f w x n wr => Sys2Proof.Machine.execRegisterWindowAccess f w x n wr s
  | .functionLevelReset f => Sys2Proof.Machine.execFunctionLevelReset f s
  | .pcieLinkDown => Sys2Proof.Machine.execPcieLinkDown s
  | .sqTailWrite f q v => Sys2Proof.Machine.execSqTailWrite f q v s
  | .commandFetch f q entry => Sys2Proof.Machine.execCommandFetch f q entry s
  | .hostNop f q cid => Sys2Proof.Machine.execHostNop f q cid s
  | .copyH2d f q cid data => Sys2Proof.Machine.execCopyH2d f q cid data s
  | .copyD2h f q cid => Sys2Proof.Machine.execCopyD2h f q cid s
  | .hostFill f q cid => Sys2Proof.Machine.execHostFill f q cid s
  | .regWr f q cid => Sys2Proof.Machine.execRegWr f q cid s
  | .regRd f q cid => Sys2Proof.Machine.execRegRd f q cid s
  | .hostEvtSet f q cid => Sys2Proof.Machine.execHostEvtSet f q cid s
  | .cmdDone f q cid => Sys2Proof.Machine.execCmdDone f q cid s
  | .eventRecordWrite q => Sys2Proof.Machine.execEventRecordWrite q s
  | .evqCidxWrite m q v => Sys2Proof.Machine.execEvqCidxWrite m q v s
  | .evqTimer q t => Sys2Proof.Machine.execEvqTimer q t s
  | .evqEnable m q v => Sys2Proof.Machine.execEvqEnable m q v s
  | .csi2PacketReceive isl p v t k => Sys2Proof.Machine.execCsi2PacketReceive isl p v t k s
  | .ethernetFrameReceive r t frame good => Sys2Proof.Machine.execEthernetFrameReceive r t frame good s
  | .canFrameReceive r t f => Sys2Proof.Machine.execCanFrameReceive r t f s
  | .gnssUartReceive t bs => Sys2Proof.Machine.execGnssUartReceive t bs s
  | .sentMessageReceive t msg => Sys2Proof.Machine.execSentMessageReceive t msg s
  | .ingestCidxPoll isl ch => Sys2Proof.Machine.execIngestCidxPoll isl ch s
  | .ingestChannelEnable isl ch v => Sys2Proof.Machine.execIngestChannelEnable isl ch v s
  | .canPeriodicTx r slot => Sys2Proof.Machine.execCanPeriodicTx r slot s
  | .canTxdataWrite r slot v => Sys2Proof.Machine.execCanTxdataWrite r slot v s
  | .ppsEdge t off corr => Sys2Proof.Machine.execPpsEdge t off corr s
  | .ptpMessage port t off corr => Sys2Proof.Machine.execPtpMessage port t off corr s
  | .timeLost t => Sys2Proof.Machine.execTimeLost t s
  | .flashRead => Sys2Proof.Machine.execFlashRead s
  | .flashErase => Sys2Proof.Machine.execFlashErase s
  | .flashProgram => Sys2Proof.Machine.execFlashProgram s
  | .flashCommandDone ok => Sys2Proof.Machine.execFlashCommandDone ok s
  | .smbusRead a => Sys2Proof.Machine.execSmbusRead a s
  | .pmbusPoll k t mv => Sys2Proof.Machine.execPmbusPoll k t mv s
  | .pmbusLost k t => Sys2Proof.Machine.execPmbusLost k t s
  | .hallZoneUndervoltage zone => Sys2Proof.Machine.execHallZoneUndervoltage zone s
  | .hallZoneCollapse zone => Sys2Proof.Machine.execHallZoneCollapse zone s
  | .memoryRailFault => Sys2Proof.Machine.execMemoryRailFault s
  | .ioRailFault => Sys2Proof.Machine.execIoRailFault s
  | .islandRailFault isl => Sys2Proof.Machine.execIslandRailFault isl s
  | .encoderPulse isl q up period => Sys2Proof.Machine.execEncoderPulse isl q up period s
  | .adcConversionDone isl a v => Sys2Proof.Machine.execAdcConversionDone isl a v s
  | .pcieLinkUp gen width => Sys2Proof.Machine.execPcieLinkUp gen width s
  | .standbyFirmwareVerifyDone ok => Sys2Proof.Machine.execStandbyFirmwareVerifyDone ok s
  | .supplyRecovery zone t => Sys2Proof.Machine.execSupplyRecovery zone t s
  | .ethernetLinkChange r up speed => Sys2Proof.Machine.execEthernetLinkChange r up speed s

end Sys2Proof.Machine
end

