-- ==== Sys2Proof/Safety.lean ====
section
/-! DEFINITION. What a safe state and a safe step are, in the terms the claims use: the stores keep their canonical form, and an instruction whose shared first steps succeed reaches its own effect. -/

namespace Sys2Proof.Machine

/-- The memory of the block is in its canonical form. -/
def State.memOk (s : State) : Bool := s.mem.cells.wf

/-- A step that completes and leaves the memory in its canonical form. -/
def SafeStep (s : State) : Prop := ∃ t, step s = .next t ∧ t.memOk = true

/-- The state with another block: the queue stays. -/
def State.withChip (s : State) (c : Chip) : State := { s with toChip := c }

/-- The block in which an instruction of a slot is fetched: the slot is the running one, and a landing move that is owed has
    happened (R31, R50). -/
def Chip.fetching (c : Chip) (r : CtxRef) : Chip := (c.activate (slotKey r)).applyMove (slotKey r)

/-- The slot issues, and its instruction passes the fetch and decode checks, the limits of an open block and of CHECKED mode, and
    executes (R33, R41, R47, R55, R57): `c1` is the block in which its own effect begins, with IADDR past its words. -/
def Runs (c : Chip) (r : CtxRef) (d : IDesc) (e : Enc) (c1 : Chip) : Prop :=
  c.issues (slotKey r) = true ∧ prologue (slotKey r) d e (c.fetching r) = .ok (true, c1)

/-- The same for an island's processor (R67, R301). -/
def IRuns (c : Chip) (i : Isl) (d : IDesc) (e : Enc) (c1 : Chip) : Prop :=
  c.islIssues i = true ∧ iprologue i d e c = .ok (true, c1)

end Sys2Proof.Machine
end

