-- ==== Sys2Proof/WellFormed.lean ====
section
/-! DEFINITION. Well-formed commands: the operands that a command of the hardware can carry, where their types do not already say it. A command outside these bounds cannot be sent; the meanings are total all the same. -/

namespace Sys2Proof

/-- The checks of an operand, each named by what it asks. -/
inductive Check where
  /-- A register access names 1 to 4,096 bytes (R7). -/
  | accessSize (n : Nat)
  /-- A PCIe memory access through BAR2 moves 1 to 4,096 bytes (R421). -/
  | hostSize (n : Nat)
  /-- A submission entry has 64 bytes (R423). -/
  | entrySize (n : Nat)
  /-- A CAN payload fits its frame format: 8, 64 or 2,048 bytes (R434). -/
  | canSize (fdf xlf : Bool) (n : Nat)
  /-- An Ethernet frame holds its addresses and type (R433). -/
  | ethSize (n : Nat)
  /-- A die's sensors are read together: 4, 8 on an I/O die, 2 on an island (R393). -/
  | sensors (d : HeatDie) (n : Nat)
  /-- A sensor that the die has (R393). -/
  | sensor (d : HeatDie) (n : Nat)
  /-- A stair row has nine sites (R377). -/
  | stairRow (n : Nat)
  /-- A packet has at most 8 data flits, and an error vector per flit (R342). -/
  | flits (data errs : Nat)
  /-- A hall reports a demand and a consumption for each of its four stables (R387). -/
  | stables (d : PwrDie) (want drew : Nat)
  /-- A hall has 24 path-delay monitors and 8 ring oscillators (R400). -/
  | monitors (slack ro : Nat)
  /-- A reference run gives four factors (R404). -/
  | factors (n : Nat)
  /-- A request to a base die moves 1 to 256 bytes of DRAM (R286). -/
  | request (q : ReqIssue)
  /-- A PCIe link has a generation from 1 to 6 and a width from 1 to 16 (R418). -/
  | pcie (gen width : Nat)
deriving DecidableEq, Repr

/-- Sensors of a die (R393). -/
def HeatDie.sensors : HeatDie → Nat
  | .isl _ => 2
  | .die (.iod _) => 8
  | .die _ => 4

/-- A check holds. -/
def Check.holds : Check → Bool
  | .accessSize n => decide (1 ≤ n) && decide (n ≤ 4096)
  | .hostSize n => decide (1 ≤ n) && decide (n ≤ 4096)
  | .entrySize n => n == 64
  | .canSize fdf xlf n => decide (n ≤ if xlf then 2048 else if fdf then 64 else 8)
  | .ethSize n => decide (14 ≤ n)
  | .sensors d n => n == d.sensors
  | .sensor d n => decide (n < d.sensors)
  | .stairRow n => n == 9
  | .flits data errs => decide (data ≤ 8) && errs == data + 1
  | .stables d want drew => match d with
    | .hall _ => want == 4 && drew == 4
    | _ => true
  | .monitors slack ro => slack == 24 && ro == 8
  | .factors n => n == 4
  | .request q => match q with
    | .fresh _ _ addr _ bytes => decide (addr.toNat < 0x3600000000) && decide (1 ≤ bytes) && decide (bytes ≤ 256)
    | .held _ _ _ => true
  | .pcie gen width => decide (1 ≤ gen) && decide (gen ≤ 6) && [1, 2, 4, 8, 16].contains width

/-- The check that a command's operands have to pass; a command whose operand types say all has none. -/
def Instr.check : Instr → Option Check
  | .badRegisterAccess _ _ n => some (.accessSize n)
  | .registerWindowAccess _ _ _ n _ => some (.accessSize n)
  | .bar2Read _ _ n => some (.hostSize n)
  | .bar2Write _ _ bs => some (.hostSize bs.length)
  | .commandFetch _ _ e => some (.entrySize e.length)
  | .canFrameReceive _ _ f => some (.canSize f.fdf f.xlf f.data.length)
  | .ethernetFrameReceive _ _ f _ => some (.ethSize f.length)
  | .temperatureSample d rs _ => some (.sensors d rs.length)
  | .sensorSuspect d n _ => some (.sensor d n.val)
  | .stairRowTestDone _ codes => some (.stairRow codes.length)
  | .packetReceive _ _ _ _ data errs _ => some (.flits data.length errs.length)
  | .hallDemand d _ want drew _ _ => some (.stables d want.length drew.length)
  | .ageingMeasurement _ slack ro _ => some (.monitors slack.length ro.length)
  | .efficiencyRunEnd fs _ => some (.factors fs.length)
  | .requestIssue _ q _ => some (.request q)
  | .pcieLinkUp gen width => some (.pcie gen width)
  | _ => none

/-- A command of the hardware. -/
def Instr.WellFormed (i : Instr) : Bool := (i.check.map Check.holds).getD true

end Sys2Proof
end

