-- ==== Sys2Proof/Certificates/Slice0/Obligations.lean ====
section
/-! DEFINITION. The statements for the provers: what the block and each family of its commands do, by the rules of the specification. Instruction rows are stated for an instruction that runs (`Runs`, `IRuns`); other rows for the operands and registers under which the command acts. Each result is a whole next state, so that what it does not name is unchanged. -/

open Sys2Proof Sys2Proof.Machine


/-- With a command at the front of the queue, a step is the command's effect with the rest of the queue. -/
def Obligations.StepRunsFront : Prop :=
  ∀ (s : State) (i : Instr) (rest : List Instr), step { s with pending := i :: rest } = exec i { s with pending := rest }

/-- Every step completes and takes exactly the front command: no command stops the block, none is left out or brought in. With an empty queue
    only the block's time advances, by 1 ns (the model's choice, log 52). -/
def Obligations.StepTakesTheFront : Prop :=
  ∀ s : State, (∃ t, step s = .next t ∧ t.pending = s.pending.tail) ∧
    (s.pending = [] → step s = .next { s with time := { s.time with now := s.time.now + 1 } })

/-- Host accesses and resets. A BAR2 access outside what its function reaches, or to nothing, counts in DCU_FN_ERR; any other is the
    bus access at the function's window. A register window of function 0 reaches the register it names. A function-level reset clears
    the function's registers and heads, releases its locks and lets its started commands finish without CMD_DONE; a lost link resets
    every function. Host queues. A tail within the ring is stored, and otherwise counted; a fetch of an enabled, non-empty ring takes
    the entry's command and moves the head. A started command of its kind and CID runs once: NOP does nothing, copies and fills go
    through the bus with a status, REG_WR and REG_RD act on a register that the function may reach (status 3 otherwise), and EVT_SET
    sets a flag of the function's partition. A command whose partition has stopped ends with status 5. CMD_DONE is written where asked
    for or where the status is not 0. -/
def Obligations.HostPort : Prop :=
  (∀ (s : State) (f : Fin 16) (w : Fin 3) (x : BitVec 36) (y : BitVec 24) (n : Nat) (bs : List Byte) (v : W64) (k : RegKey),
     let a := s.bar2Addr f.val x.toNat
     let reach := f.val = 0 ∨ s.fnMay f.val a n false = true
     let r := s.busRead a n
     let wr := s.hostWrite f a bs
     let b := s.winAddr f.val w.val y.toNat
     let own := fun (k : RegKey) => k.blk == .dcu && within (0xA000 + 0x100 * f.val) (0xA0FF + 0x100 * f.val) k.off
     let freed := s.freeLocksOf f.val
     let bare : Chip := { freed with regs := freed.regs.filter fun e => !own e.1 }
     (reach → r.2.2 ≠ .unmapped → exec (.bar2Read f x n) s = .next (s.withChip r.1)) ∧
     (reach → r.2.2 = .unmapped → exec (.bar2Read f x n) s = .next (s.withChip (r.1.bump (dcuK (0xA038 + f.val * 0x100))))) ∧
     (¬ reach → exec (.bar2Read f x n) s = .next (s.withChip (s.bump (dcuK (0xA038 + f.val * 0x100))))) ∧
     (wr.2 ≠ .unmapped → exec (.bar2Write f x bs) s = .next (s.withChip wr.1)) ∧
     (wr.2 = .unmapped → exec (.bar2Write f x bs) s = .next (s.withChip (wr.1.bump (dcuK (0xA038 + f.val * 0x100))))) ∧
     (f.val = 0 → s.target b = .reg k → exec (.registerWindowAccess f w y n none) s = .next (s.withChip (s.busRead b n).1)) ∧
     (f.val = 0 → s.target b = .reg k → exec (.registerWindowAccess f w y n (some v)) s = .next (s.withChip (s.busWrite (.fn f) b (leBytes n v.toNat)).1)) ∧
     exec (.functionLevelReset f) s = .next (s.withChip (bare.updIo fun s => { s with heads := s.heads.filter (fun e => e.1 / 4 ≠ f.val), cmds := s.cmds.map fun e => if e.1 / 4 = f.val then (e.1, (startedCmds e.2).map fun x => { x with quiet := true }) else e })) ∧
     exec .pcieLinkDown s = .next (s.withChip (((List.range 16).foldl Chip.flr s.toChip).updIo fun s => { s with rate := 0, width := 0, low := false }))) ∧
  (∀ (s : State) (f : Fin 16) (q : Fin 4) (v cid : BitVec 16) (e data : List Byte) (x : HostCmd) (st p a n : Nat) (c1 : Chip),
     let base := 0xA000 + f.val * 0x100 + 0x40 + 32 * q.val
     let slot := 4 * f.val + q.val
     let head := s.io.heads.get slot 0
     let size := 2 ^ bits (s.reg (dcuK (base + 8))) 4 0
     let list := startedCmds (s.hostCmds f.val q.val)
     let mine := fun (n : Nat) (y : HostCmd) => y.opc == n && y.cid == cid.toNat && y.done.isNone
     let first := fun (n : Nat) => list.find? (mine n) = some x
     let ends := fun (n : Nat) (r : Chip × Nat × Nat × Nat) => s.withChip (r.1.updIo fun y => { y with cmds := y.cmds.upd slot [] (updFirst (mine n) fun z => { z with done := some r.2.1, val := r.2.2.1, bytes := r.2.2.2 }) })
     let live := x.gone = false ∧ (f.val = 0 ∨ s.boundPart f.val ≠ none)
     let past := (v.toNat + 65536 - head) % 65536 ≥ size
     let take : HostCmd := { opc := fieldAt e 0 1, flags := fieldAt e 1 1, cid := fieldAt e 2 2, len := fieldAt e 4 4, haddr := fieldAt e 8 8, daddr := fieldAt e 0x10 8, value := fieldAt e 0x18 8, done := cmdForm e }
     let fin := fun (y : HostCmd) => y.cid == cid.toNat && (y.done.isSome || y.gone)
     let removed := s.updIo fun y => { y with cmds := y.cmds.upd slot [] fun l => l.eraseP fin }
     let told := removed.postTo (bits (removed.reg (dcuK (0xA030 + f.val * 0x100))) 5 0) (removed.mkEv .CMD_DONE dcuUnit [(0x10, 2, x.cid), (0x12, 1, f.val), (0x13, 1, q.val), (0x14, 1, st), (0x18, 8, x.val), (0x20, 8, x.bytes)])
     (¬ past → exec (.sqTailWrite f q v) s = .next (s.withChip (s.setReg (dcuK (base + 0x10)) v.toNat))) ∧ (past → exec (.sqTailWrite f q v) s = .next (s.withChip (s.countErr (dcuK (base + 0x10))))) ∧
     (bit (s.reg (dcuK (base + 8))) 8 = true → head ≠ s.reg (dcuK (base + 0x10)) → e.length = 64 → exec (.commandFetch f q e) s = .next (s.withChip
       (s.updIo fun y => { y with heads := y.heads.set slot ((head + 1) % 65536), cmds := y.cmds.set slot (s.hostCmds f.val q.val ++ [take]) }))) ∧
     (first 1 → x.gone = false → exec (.hostNop f q cid) s = .next (ends 1 (s.toChip, 0, 0, 0))) ∧ (first 1 → x.gone = true → exec (.hostNop f q cid) s = .next (ends 1 (s.toChip, 5, 0, 0))) ∧
     (first 4 → live → exec (.hostFill f q cid) s = .next (ends 4 (s.hostStore f x.daddr (List.replicate (x.len / 8) (leBytes 8 x.value)).flatten))) ∧
     (first 2 → live → (∀ y ∈ list, mine 2 y = true → y.len = data.length) → exec (.copyH2d f q cid data) s = .next (ends 2 (s.hostStore f x.daddr data))) ∧
     (first 3 → live → f.val ≠ 0 → s.fnMay f.val x.daddr x.len false = false → exec (.copyD2h f q cid) s = .next (ends 3 (s.toChip, 3, 0, 0))) ∧
     (first 3 → live → s.fnMay f.val x.daddr x.len false = true → s.busPieces x.daddr x.len = [(a, n)] → s.busRead a n = (c1, data, .ok) →
       exec (.copyD2h f q cid) s = .next (ends 3 ({ c1 with mem := { c1.mem with cells := c1.mem.cells.writeBytes (hostKey (x.haddr + 0)) data } }, 0, 0, data.length))) ∧
     (first 5 → live → s.cmdReg f.val x.daddr = true → exec (.regWr f q cid) s = .next (ends 5 ((s.busWritePage (.fn f) x.daddr (leBytes 8 x.value)).1, 0, 0, 0))) ∧
     (first 5 → live → s.cmdReg f.val x.daddr = false → exec (.regWr f q cid) s = .next (ends 5 (s.toChip, 3, 0, 0))) ∧
     (first 6 → live → s.cmdReg f.val x.daddr = true → exec (.regRd f q cid) s = .next (ends 6 ((s.busReadPage x.daddr 8).1, 0, leNat (s.busReadPage x.daddr 8).2.1, 0))) ∧
     (first 7 → live → s.boundPart f.val = some p → exec (.hostEvtSet f q cid) s = .next (ends 7 (s.evtSet p (x.value % 256), 0, 0, 0))) ∧
     (list.find? fin = some x → st = x.done.getD 5 → x.quiet = false → (bit x.flags 1 = true ∨ st ≠ 0) → exec (.cmdDone f q cid) s = .next (s.withChip told)) ∧
     (list.find? fin = some x → (x.quiet = true ∨ bit x.flags 1 = false ∧ x.done = some 0) → exec (.cmdDone f q cid) s = .next (s.withChip removed)))

/-- Event queues. The oldest record on its way is written or refused (`Chip.evqRecord`); CIDX moves forwards, at most to PIDX, and
    frees those records, any other value being counted; the timer of an enabled queue raises its interrupt; enabling a queue with a size
    of 4 to 16 and a threshold zeroes its indices. The DEVTIME at which a command acts comes with it (the model's choice, log 51). -/
def Obligations.EventQueues : Prop :=
  ∀ (s : State) (m : Master) (q : Fin 64) (r : Nat × EvtRec) (v : BitVec 32) (w : W64) (t o : Nat) (l : List Nat),
    let moved := (v.toNat + 2 ^ 32 - (s.evqIdx q.val).2) % 2 ^ 32
    let freed : Chip := { s.toChip with log := { s.log with cidx := s.log.cidx.set q.val v.toNat, raised := s.log.raised.filter (· ≠ q.val), times := s.log.times.set q.val ((s.log.times.get q.val []).drop moved) } }
    let c := s.at t
    let due := o + bits (c.reg (evqK q.val 8)) 47 32 * 1000 ≤ c.time.now
    let cfg := Nat.land (setBits w.toNat 8 8 1) (evqMask q.val)
    let old := s.reg (evqK q.val 8)
    let set := s.setReg (evqK q.val 8) cfg
    (s.log.outbox.find? (fun r => r.1 == q.val) = some r → exec (.eventRecordWrite q) s = .next (s.withChip
      (({ s.toChip with log := { s.log with outbox := s.log.outbox.erase r } }).evqRecord q.val r.2))) ∧
    (s.evqMay m q.val = true → moved ≤ s.evqUsed q.val → bit (freed.reg (evqK q.val 8)) 8 = false → exec (.evqCidxWrite m q v) s = .next (s.withChip freed)) ∧
    (s.evqMay m q.val = true → s.evqUsed q.val < moved → exec (.evqCidxWrite m q v) s = .next (s.withChip (s.countErr (evqK q.val 0x20)))) ∧
    (c.log.times.get q.val [] = o :: l → bit (c.reg (evqK q.val 8)) 8 = true → due → exec (.evqTimer q t) s = .next (s.withChip (c.evqRaise q.val))) ∧
    (s.evqMay m q.val = true → bit cfg 8 = true → (bit old 8 = true → bits cfg 4 0 = bits old 4 0) → 4 ≤ bits cfg 4 0 → bits cfg 4 0 ≤ 16 → bits cfg 31 16 ≠ 0 →
      exec (.evqEnable m q w) s = .next (s.withChip
        { set with log := { set.log with pidx := set.log.pidx.set q.val 0, cidx := set.log.cidx.set q.val 0, times := set.log.times.set q.val [], raised := set.log.raised.filter (· ≠ q.val) } })) ∧
    (s.evqMay m q.val = false → exec (.evqEnable m q w) s = .next (s.withChip (s.countErr (evqK q.val 8))))

/-- Ingest. An enabled camera channel opens a slot at its first line with the time and frame, adds lines, and closes it after LPS
    lines, at Frame End and at Frame Start. An Ethernet frame goes to the channel of the lowest matching filter, or is counted; a CAN
    frame is latched unless in error, and goes to its ring where a slot matches. GNSS bytes go to channel 52. A CIDX within the ring
    frees slots. A channel is enabled on a ring that serves, and refused and counted otherwise. The DEVTIME at which a command acts
    comes with it (the model's choice, log 51). -/
def Obligations.Ingest : Prop :=
  ∀ (s : State) (i : Fin 2) (p : Fin 8) (v : Fin 4) (ch : Fin 64) (n : Fin 6) (t k : Nat) (num : BitVec 16) (dt : Byte) (data : List Byte) (good : Bool) (f : CanFrame) (m : Fin 4) (w : W64),
    let c := s.at t
    let cam := 4 * p.val + v.val
    let on := bit (c.reg (ichK i.val cam 0)) 0 = true
    let x := c.chan i.val cam
    let slot : CamSlot := x.slot.getD { t := c.localTime (0x4E + i.val), frame := x.frame, line0 := x.line, dt := dt.toNat, stride := alignUp data.length 32 }
    let more : CamSlot := { slot with lines := slot.lines ++ [(c.localTime (0x4E + i.val), data)], err := slot.err || !good }
    let lined := c.updChan i.val cam fun x => { x with slot := some more, line := x.line + 1 }
    let full := bits (lined.reg (ichK i.val cam 0)) 47 32 ≤ more.lines.length
    let mac := bit (c.reg (iodK i.val (0x0300000 + 0x1000 * n.val))) 0 = true
    let r : CanRef := .iod i m
    let mode := bits (c.reg (canK r 0)) 1 0
    let hit := ∃ s < 16, c.canMatch r s f.id.toNat f.ide = true
    let latched := if f.err then c else (c.canLatch r f.id.toNat f.ide f.data).1
    let ring := leNat (s.devRead (s.ringAddr i.val ch.val + 4) 4)
    let seen := s.devSense (s.ringAddr i.val ch.val + 4) 4
    let y := seen.chan i.val ch.val
    let held := fun (z : Chan) => decide (z.nslot ≤ z.used) || seen.ingestHot i.val
    let cfg := Nat.land (setBits w.toNat 0 0 1) (maskOf 1 0 + maskOf 28 8 + maskOf 47 32)
    let owner := s.part (bits cfg 28 24)
    let hdr := s.devRead (s.ringAddr i.val ch.val) 64
    let read := s.devSense (s.ringAddr i.val ch.val) 64
    let size := 64 + (if blockRing ch.val then 0 else 128 * fieldAt hdr 8 4)
    let blocks := fieldAt hdr 0xC 4 % 4096 = 0 ∧ owner.inWin (bits (read.reg (ichK i.val ch.val 0x10)) 47 12 * 4096) (fieldAt hdr 8 4 * fieldAt hdr 0xC 4) (fun w => w.r && w.w && !w.async && !w.x) = true
    let serves := bit (read.reg (ichK i.val ch.val 0)) 0 = false ∧ ch.val < 54 ∧ (ch.val = 53 → i.val = 0) ∧ (bit cfg 1 = true → 32 ≤ ch.val ∧ ch.val ≤ 47) ∧ owner.held = true ∧
      owner.inWin (s.ringAddr i.val ch.val) size (fun w => w.r && w.w && w.async) = true ∧ fieldAt hdr 8 4 ≠ 0 ∧ fieldAt hdr 0xC 4 ≠ 0 ∧ bits cfg 23 8 ≤ fieldAt hdr 8 4 ∧ (blockRing ch.val = true → blocks)
    (on → exec (.csi2PacketReceive i p v t (.frameStart num)) s = .next (s.withChip ((c.camClose i.val cam).updChan i.val cam fun x => { x with frame := num.toNat, line := 0 }))) ∧
    (on → exec (.csi2PacketReceive i p v t .frameEnd) s = .next (s.withChip (c.camClose i.val cam))) ∧
    (on → full → exec (.csi2PacketReceive i p v t (.line dt data good)) s = .next (s.withChip (lined.camClose i.val cam))) ∧
    (on → ¬ full → exec (.csi2PacketReceive i p v t (.line dt data good)) s = .next (s.withChip lined)) ∧
    (mac → (List.range 16).find? (fun k => c.ethMatch i.val n.val k data) = some k → exec (.ethernetFrameReceive (.iod i n) t data good) s = .next (s.withChip
      (c.ingest i.val (32 + k) 1 (c.localTime (0x4E + i.val)) (b2n !good) [(0x20, 1, n.val), (0x21, 1, k), (0x22, 2, ((vlanOf data).1).getD 0)] data))) ∧
    (mac → (List.range 16).find? (fun k => c.ethMatch i.val n.val k data) = none → exec (.ethernetFrameReceive (.iod i n) t data good) s = .next (s.withChip (c.bump (iodK i.val 0x0310100)))) ∧
    (mode ≠ 0 → (f.xlf = true → mode = 2) → hit → exec (.canFrameReceive r t f) s = .next (s.withChip
      (latched.ingest i.val (48 + m.val) 2 (latched.localTime (canDie r)) (b2n f.err) (canSpec f) f.data))) ∧
    (mode ≠ 0 → (f.xlf = true → mode = 2) → ¬ hit → exec (.canFrameReceive r t f) s = .next (s.withChip latched)) ∧
    exec (.gnssUartReceive t data) s = .next (s.withChip (c.ingest 0 52 3 (c.localTime 0x4E) 0 [] data)) ∧
    (bit (s.reg (ichK i.val ch.val 0)) 0 = true → (y.pidx + 2 ^ 32 - ring) % 2 ^ 32 ≤ y.nslot → exec (.ingestCidxPoll i ch) s = .next (s.withChip (seen.updChan i.val ch.val fun x =>
      let z := { x with cidx := ring }
      { z with full := z.full && held z, pause := z.pause && held z, above := z.above && decide (bits (seen.reg (ichK i.val ch.val 0)) 23 8 ≤ z.used) }))) ∧
    (¬ serves → exec (.ingestChannelEnable i ch w) s = .next (s.withChip (read.countErr (ichK i.val ch.val 0)))) ∧
    (serves → exec (.ingestChannelEnable i ch w) s = .next (s.withChip ((read.setReg (ichK i.val ch.val 0) cfg).updChan i.val ch.val fun x =>
      { x with pidx := fieldAt hdr 0 4, cidx := fieldAt hdr 4 4, nslot := fieldAt hdr 8 4, slotb := fieldAt hdr 0xC 4, gap := fieldAt hdr 0x10 8, run := 0, full := false, above := false, pause := false, slot := none })))

/-- Periodic and written CAN frames, SENT, and the time references. An island's frame goes out after the channel results that are
    due are applied. A transmit slot with a period sends at it, and one without sends at a write of its data; a good SENT message whose
    flow and inlet lie in range sets both and goes to channel 53, and a bad one is counted; a PPS edge more than 1 ms off is rejected
    and counted, and any other disciplines DEVTIME where PPS is the source; PTP does so on the chosen port; 2 s without a reference lose
    the lock with TIME_LOST. Flash commands while I/O die 0 stands. A command while another runs is counted; ERASE and PROGRAM of a
    protected region fail with code 1; any other runs, and ends with the sector in the buffer, the sector erased, or the buffer in the
    sector, or fails with code 2 where the flash does. What an erased byte reads as is Config.erasedByte (log 49). The DEVTIME at which
    a command acts comes with it (the model's choice, log 51). -/
def Obligations.CanSentTimeFlash : Prop :=
  (∀ (s : State) (r : CanRef) (n : Fin 16) (v : W64) (t : Nat) (m : SentMsg) (off corr flow inlet : Int) (port : Fin 12),
     let s0 := s.settleFor (canK r 0)
     let period := bits (s0.reg (canK r (0x310 + 32 * n.val))) 31 0
     let put := s0.setReg (canK r (0x308 + 32 * n.val)) v.toNat
     let c := s.at t
     let mac := c.reg (iodK (port.val / 6) (0x0300000 + 0x1000 * (port.val % 6)))
     let read : Chip := { c with pm := { c.pm with reading := flow.toNat, flowOk := true, flowAt := c.time.now, coolAt := c.time.now } }
     let warm : Chip := { read with pm := { read.pm with inlet := inlet, coolAt := c.time.now } }
     (period ≠ 0 → exec (.canPeriodicTx r n) s = .next (s.withChip (s0.canSend r n.val))) ∧ (period = 0 → exec (.canPeriodicTx r n) s = .next (s.withChip s0)) ∧
     (bits (put.reg (canK r (0x310 + 32 * n.val))) 31 0 = 0 → exec (.canTxdataWrite r n v) s = .next (s.withChip (put.canSend r n.val))) ∧
     (bits (put.reg (canK r (0x310 + 32 * n.val))) 31 0 ≠ 0 → exec (.canTxdataWrite r n v) s = .next (s.withChip put)) ∧
     (bit (c.reg (iodK 0 0x0600000)) 24 = true → m.good = false → exec (.sentMessageReceive t m) s = .next (s.withChip (c.bump (iodK 0 0x0600020)))) ∧
     (bit (c.reg (iodK 0 0x0600000)) 24 = true → m.good = true → m.serial = none → c.sentValue 0x0600008 m.fast1.toNat = some flow → 0 ≤ flow → flow ≤ 20000 →
       read.sentValue 0x0600010 m.fast2.toNat = some inlet → -880 ≤ inlet → inlet ≤ 2400 → exec (.sentMessageReceive t m) s = .next (s.withChip (warm.ingest 0 53 4 (warm.localTime 0x4E) 0 [] m.raw))) ∧
     (bit (c.reg (iodK 0 0x0600000)) 24 = false → exec (.sentMessageReceive t m) s = .next (s.withChip c)) ∧
     (c.timeSrc = 1 → c.boot.die0 = false → 1000000 < off.natAbs → exec (.ppsEdge t off corr) s = .next (s.withChip ((c.bump (dcuK 0xB018)).post .PPS_REJECT dcuUnit none))) ∧
     (c.timeSrc = 1 → c.boot.die0 = false → off.natAbs ≤ 1000000 → exec (.ppsEdge t off corr) s = .next (s.withChip (c.timeRef off corr))) ∧
     (c.timeSrc ≠ 1 → exec (.ppsEdge t off corr) s = .next (s.withChip c)) ∧
     (c.timeSrc = 2 → bits (c.reg (dcuK 0xB000)) 7 4 = port.val → bit mac 0 = true → bit mac 2 = true → exec (.ptpMessage port t off corr) s = .next (s.withChip (c.timeRef off corr))) ∧
     (c.io.lock = true → c.io.refAt + 2000000000 ≤ c.time.now → exec (.timeLost t) s = .next (s.withChip ((c.updIo fun x => { x with lock := false }).post .TIME_LOST dcuUnit none)))) ∧
  (∀ (s : State) (op a : Nat),
     let io := s.io
     let run := fun (n : Nat) => s.withChip (s.updIo fun x => { x with fstate := 1, fcode := 0, fcmd := some (n, s.flashAddr) })
     let idle := s.boot.die0 = false ∧ io.fstate ≠ 1
     let refused := s.withChip (s.updIo fun x => { x with fstate := 3, fcode := 1 })
     let ended := s.updIo fun x => { x with fcmd := none, fstate := 2, fcode := 0 }
     let done := exec (.flashCommandDone true) s
     (idle → exec .flashRead s = .next (run 1)) ∧ (idle → s.flashGuard s.flashAddr = false → exec .flashErase s = .next (run 2)) ∧ (idle → s.flashGuard s.flashAddr = false → exec .flashProgram s = .next (run 3)) ∧
     (idle → s.flashGuard s.flashAddr = true → exec .flashErase s = .next refused) ∧ (idle → s.flashGuard s.flashAddr = true → exec .flashProgram s = .next refused) ∧
     (s.boot.die0 = false → io.fstate = 1 → exec .flashRead s = .next (s.withChip (s.countErr (iodK 0 0x0800000)))) ∧
     (io.fcmd = some (1, a) → done = .next (s.withChip (ended.updIo fun x => { x with buf := (ended.flash a 4096).zipIdx.map fun q => (q.2, q.1) }))) ∧
     (io.fcmd = some (2, a) → done = .next (s.withChip { ended with mem := { ended.mem with cells := ended.mem.cells.writeBytes (flashKey a) ((List.range 4096).map fun i => Config.erasedByte (a + i)) } })) ∧
     (io.fcmd = some (3, a) → done = .next (s.withChip { ended with mem := { ended.mem with cells := ended.mem.cells.writeBytes (flashKey a) ended.flashBuf } })) ∧
     (io.fcmd = some (op, a) → exec (.flashCommandDone false) s = .next (s.withChip (s.updIo fun x => { x with fcmd := none, fstate := 3, fcode := 2 }))))

/-- Supplies and boards. SMBus reads a DCU or I/O die register, with what the read counts. A rail's answer is kept; 10 ms without
    one write PMBUS_LOST; a low zone goes to point 0's ceiling and a collapsed one is fenced; a memory rail loses every stack, an I/O
    rail resets the main package, an island rail its island. Recovery dates the end of a low zone 1 ms on. Board inputs. An encoder
    pulse counts up or down modulo 2^32 with its period and time; a conversion of a scanned ADC channel is kept with its time in µs; a
    PCIe link of Gen4 to Gen6 and 4, 8 or 16 lanes comes up, and a slower one is held with RATELOW; the standby's firmware makes it a
    standby or writes STANDBY_FAIL; an Ethernet link shows in its status register. Where a clause leaves the state as it is because its
    command finds no condition of its own met, that is the model's choice (log 30). The DEVTIME at which a command acts comes with it
    (the model's choice, log 51). -/
def Obligations.BoardIo : Prop :=
  (∀ (s : State) (a : BitVec 48) (off : Nat) (k : Fin 14) (t : Nat) (mv : BitVec 16) (z : Fin 8) (i : Isl),
     let c := s.at t
     let kept : Chip := { c with rails := c.rails.set k.val mv.toNat, io := { c.io with pmbAt := c.io.pmbAt.set k.val c.time.now, silent := c.io.silent.filter (· ≠ k.val) } }
     let lost := c.updIo fun x => { x with silent := k.val :: x.silent }
     let m := s.mainReset
     (s.target a.toNat = .reg (dcuK off) → exec (.smbusRead a) s = .next (s.withChip (s.regRead (dcuK off) 8).1)) ∧
     (c.boot.die0 = false → 8 ≤ k.val → exec (.pmbusPoll k t (some mv)) s = .next (s.withChip kept)) ∧
     (c.boot.die0 = false → k.val < 8 → exec (.pmbusPoll k t (some mv)) s = .next (s.withChip ((zoneSites k.val).foldl (fun c x => c.updPwr x fun h => { h with frozen := none }) kept))) ∧
     exec (.pmbusPoll k t none) s = .next (s.withChip c) ∧
     (k.val ∉ c.io.silent → c.boot.die0 = false → c.io.pmbAt.get k.val 0 + 10000000 ≤ c.time.now → 8 ≤ k.val → exec (.pmbusLost k t) s = .next (s.withChip (lost.post .PMBUS_LOST (iodUnit 0 0) none k.val))) ∧
     exec (.hallZoneUndervoltage z) s = .next (s.withChip ((zoneSites z.val).foldl (fun c x => (c.updPwr x fun h => { h with low := true, lowEnd := none }).settlePoint x) s.toChip)) ∧
     exec (.hallZoneCollapse z) s = .next (s.withChip ((zoneSites z.val).foldl Chip.fenceSite s.toChip)) ∧
     exec .memoryRailFault s = .next (s.withChip ((List.range 6).foldl Chip.stackLost s.toChip)) ∧
     exec .ioRailFault s = .next (s.withChip { m with boot := { m.boot with rail := true } }) ∧
     exec (.islandRailFault i) s = exec (.islandResetAssert i 5000) s ∧ (∃ u, exec (.islandRailFault i) s = .next u ∧ u.isl i = {} ∧ u.pending = s.pending) ∧
     exec (.supplyRecovery (some z) t) s = .next (s.withChip ((zoneSites z.val).foldl (fun (c : Chip) x => c.updPwr x fun h => if h.low then { h with lowEnd := some (h.lowEnd.getD (c.time.now + 1000000)) } else h) c)) ∧
     (c.boot.rail = true → exec (.supplyRecovery none t) s = .next (s.withChip ({ c with boot := { c.boot with rail := false } }).nresetRelease)) ∧
     (c.boot.rail = false → exec (.supplyRecovery none t) s = .next (s.withChip c))) ∧
  (∀ (s : State) (i : Isl) (q : Fin 8) (up : Bool) (period : BitVec 32) (ch : Fin 16) (v : BitVec 16) (gen width : Nat) (n : Fin 2) (p : Fin 6) (speed : BitVec 3),
     let word := if up then 1 + speed.toNat * 2 else 0
     let cfg := s.reg (sioK i 0x300)
     let fast := 4 ≤ gen ∧ gen ≤ 6 ∧ (width = 4 ∨ width = 8 ∨ width = 16)
     let waits := s.boot.held = false ∧ 3 ≤ s.boot.step ∧ s.boot.acting ≠ 1 ∧ s.boot.standby = false
     exec (.encoderPulse i q up period) s = .next (s.withChip (s.updIsl i fun y => { y with enc := y.enc.upd q.val (0, 0, 0) fun e => (sgn 32 (toBits 32 (if up then e.1 + 1 else e.1 - 1)), period.toNat, s.localTime (islDie i)) })) ∧
     (bit cfg 16 = true → ch.val < bits cfg 7 0 → exec (.adcConversionDone i ch v) s = .next (s.withChip (s.updIsl i fun y => { y with adc := y.adc.set ch.val (v.toNat, s.localTime (islDie i) / 1000 % 2 ^ 32) }))) ∧
     ((bit cfg 16 = false ∨ bits cfg 7 0 ≤ ch.val) → exec (.adcConversionDone i ch v) s = .next s) ∧
     (s.boot.die0 = false → fast → exec (.pcieLinkUp gen width) s = .next (s.withChip (s.updIo fun x => { x with rate := gen, width := width, low := false }))) ∧
     (s.boot.die0 = false → gen < 4 → exec (.pcieLinkUp gen width) s = .next (s.withChip (s.updIo fun x => { x with rate := 0, width := 0, low := true }))) ∧
     (waits → exec (.standbyFirmwareVerifyDone true) s = .next (s.withChip { s.toChip with boot := { s.boot with standby := true, ackAt := s.time.now, gotAt := s.time.now, msgAt := s.time.now } })) ∧
     (waits → exec (.standbyFirmwareVerifyDone false) s = .next (s.withChip (s.post .STANDBY_FAIL (unitPath 7 0x4F 0 0 0 0) none))) ∧
     exec (.ethernetLinkChange (.iod n p) up speed) s = .next (s.withChip (s.setReg (iodK n.val (0x0300008 + 0x1000 * p.val)) word)) ∧
     exec (.ethernetLinkChange (.isl i) up speed) s = .next (s.withChip (s.setReg (sioK i 0x3008) word)))

/-- Collectives. COLLECTIVE_COMPLETE of an instance that every participant has issued, at a participant where no earlier instance of
    its triple is open: at the first one the sources are verified, the data moves to every destination shard and its events are counted
    once for each stable; the participant is then done, and the context that waits there for this instance alone resumes; the instance
    is gone once all are done. RESHARD, BROADCAST, ALLGATHER and REDUCE.ADD issued at a participant outside a CHECKED block enter the
    oldest instance of their triple that the stable has not issued, or begin one, which completes as said, and their context waits for
    it; at a stable that neither map names they do nothing, and behind an open plan or an open instance of their triple they are kept
    for later (`Chip.joinColl`). -/
def Obligations.Collectives : Prop :=
  let completes := fun (s : State) (r : StbRef) (i : Coll) (me k : Nat) => ∀ (cmps : List (StbRef × SumCmp)) (c1 c2 : Chip),
    let stb := stbKey r
    let sd := descOf i.tds
    let dd := descOf i.tdd
    let ss := s.shardsOf sd i.smap
    let vals := ss.map fun x => (c2.shardElems i.part sd x).toArray
    let filled := (c2.shardsOf dd i.dmap).foldl (fun (q : Chip × List (Nat × Bool × Bool)) x =>
      let e := q.1.fillShard i.part i.sub dd ss vals ((c2.keyOf (i.members.headD 0)).getD 0) x
      (e.1, q.2 ++ [e.2])) (c2, [])
    let moved := filled.1.countShards filled.2
    let alone := fun (c : Chip) => [2 * stb, 2 * stb + 1].filter (fun k => (c.ctx k).part == i.part && (c.ctx? k).isSome) = [k] ∧ c.core.saved = [] ∧ (c.ctx k).joins = [] ∧
      (c.ctx (otherSlot k)).joins = [] ∧ (c.ctx k).wait = .coll i.inst ∧ (c.ctx k).colls = [i.inst]
    let ended := fun (c : Chip) (l : List Coll) =>
      ({ c with core := { c.core with colls := l } }.updCtx k fun x => { x with colls := [], wait := .none }).resume k
    s.logStb stb = some me → s.core.colls = [i] → i.members.contains me = true → i.done.contains me = false → (∀ m ∈ i.members, m ∈ i.issued) → k / 2 = stb →
    (i.done = [] → s.verifySources i ss = (c1, true) → c1.sumsAgree i (cmps.map fun q => (stbKey q.1, q.2)) = (c2, true) → moved.core.colls = [i] → alone moved → (∃ m ∈ i.members, m ≠ me) →
      exec (.collectiveComplete i.inst ⟨r, cmps⟩) s = .next (s.withChip (ended moved [{ i with done := [me] }]))) ∧
    (i.done = [] → s.verifySources i ss = (c1, true) → c1.sumsAgree i (cmps.map fun q => (stbKey q.1, q.2)) = (c2, true) → moved.core.colls = [i] → alone moved → (∀ m ∈ i.members, m = me) →
      exec (.collectiveComplete i.inst ⟨r, cmps⟩) s = .next (s.withChip (ended moved []))) ∧
    (i.done ≠ [] → alone s.toChip → (∀ m ∈ i.members, m = me ∨ m ∈ i.done) → exec (.collectiveComplete i.inst ⟨r, cmps⟩) s = .next (s.withChip (ended s.toChip [])))
  (∀ s r i me k, completes s r i me k) ∧
  ∀ (s : State) (r : CtxRef) (e : Enc) (c c2 : Chip) (me : Nat) (sd dd : Desc) (sm dm : List Byte),
    let k := slotKey r
    let x := c.ctx k
    let row := fun (sub : Nat) (i : Instr) =>
      Runs s.toChip r (dColl sub) e c → collCheck sub e k c = .ok ((sd, dd, sm, dm), c2) → c2.logStb (k / 2) = some me → (c2.ctx k).chk = none →
      let q : CollReq := { lfc := (c2.ctx k).lfc, id := (x.rs e.b).toNat % 2 ^ 32, sub := sub, tdd := x.td.get e.d 0, tds := x.td.get e.a 0, smap := sm, dmap := dm }
      let p := (c2.ctx k).part
      let mine := (collMembers sm dm).contains me
      let enters := mine = true ∧ c2.planOpen (k / 8) p (c2.ctx k).idx = [] ∧ c2.openColl me p q = none ∧ (c2.ctx k).colls = []
      let waits := fun (c : Chip) (n : Nat) => s.withChip ((c.updCtx k fun y => { y with colls := [n] }).block k (.coll n))
      let joined := fun (n : Nat) => ({ c2 with core := { c2.core with colls := c2.core.colls.map fun z => if z.inst = n then { z with issued := me :: z.issued } else z } } : Chip)
      let fresh : Coll := { inst := c2.core.nextInst, part := p, lfc := q.lfc, id := q.id, sub := sub, tdd := q.tdd, tds := q.tds, smap := sm, dmap := dm, members := collMembers sm dm, issued := [me], done := [] }
      let begun := waits { c2 with core := { c2.core with nextInst := c2.core.nextInst + 1, colls := c2.core.colls ++ [fresh] } } c2.core.nextInst
      let oldest := c2.core.colls.find? fun i => i.matches p q && !i.issued.contains me
      (∀ j, enters → oldest = some j → exec i s = .next (waits (joined j.inst) j.inst)) ∧
      (enters → oldest = none → exec i s = .next begun ∧ ∀ r2, stbKey r2 = k / 2 → completes begun r2 fresh me k) ∧
      (mine = true → exec i s = .next (s.withChip ((c2.joinColl k q).waitColl k))) ∧ (mine = false → exec i s = .next (s.withChip c2))
    row 0 (.reshard (.ctx r) e) ∧ row 1 (.broadcast (.ctx r) e) ∧ row 2 (.allgather (.ctx r) e) ∧ row 3 (.reduceAdd (.ctx r) e)

/-- Context switches and spares. A save that the scheduler wants, or that is requested, ends outside COMPARE and COMMITTING: the
    context leaves its slot, the switch is counted at the stable, the longest save is kept, and the partition is charged with it at the
    next accounting update. A restore puts the scheduler's choice into a slot that needs no save. Running cycles past CYCLES raise
    BUDGET, and up to it are kept. Spares and accounting. A preparation starts for a spare or fenced site while none runs. One that
    succeeds trains the links that do not run, clears the site, takes its image's personalities and the plan's service, bars the stables
    whose injection failed, makes the site a spare that is READY and writes SPARE_READY; one that fails leaves the site unusable with
    its ports down. Every accounting update adds what was charged, and to the row of no partition the rest of the energy. Where a clause
    leaves the state as it is because its command finds no condition of its own met, that is the model's choice (log 30). The DEVTIME at
    which a command acts comes with it (the model's choice, log 51). -/
def Obligations.SwitchesAndSpares : Prop :=
  (∀ (s : State) (r : CtxRef) (dur n : Nat) (x : Ctx) (key : Nat × Nat) (rest : List Nat) (e : (Nat × Nat) × Ctx),
     let k := slotKey r
     let stb := k / 2
     let out := (s.takeOut k false).bump (stbK stb 0x168)
     let counted := out.setReg (stbK stb 0x170) (max (out.reg (stbK stb 0x170)) dur)
     let saved := { counted with acct := counted.acct ++ [{ row := (s.ctx k).part, sav := 1 }] }
     let idle := (s.hallPwr (k / 8)).idle
     let boundary := ∀ b, (s.ctx k).blk = some b → b.state ≠ 3 ∧ b.state ≠ 6
     (s.chosen stb = some (e.1, e.2, rest) → k ∈ rest → boundary → idle = false → exec (.contextSaveDone r dur) s = .next (s.withChip saved)) ∧
     ((s.ctx k).saving.isSome = true → boundary → idle = false → exec (.contextSaveDone r dur) s = .next (s.withChip saved)) ∧
     (s.chosen stb = some (key, x, []) → k ∉ s.residents stb → idle = false → exec (.contextRestoreDone r) s = .next (s.withChip (s.putIn k key x))) ∧
     (s.ctx? k = some x → x.state = 2 → (s.descOf x).cycles < n → exec (.budgetExceeded r n) s =
       .next (s.withChip ((s.updCtx k fun x => { x with budget := n }).takeFault k { cls := BUDGET }))) ∧
     (s.ctx? k = some x → x.state = 2 → n ≤ (s.descOf x).cycles → x.budget ≤ n → exec (.budgetExceeded r n) s = .next (s.withChip (s.updCtx k fun x => { x with budget := n })))) ∧
  (∀ (s : State) (site : Fin 72) (bars : List (Fin 4 × Fin 129)) (bad : List (Nat × Nat × Nat)) (t uj : Nat),
     let c := s.at t
     let paid := c.acct.foldl Chip.account c
     let total := paid.charge 32 0x18 (uj - (paid.energyKnown - c.energyKnown))
     let x := s.spare.site
     let was := s.site.state.get x 1
     let state := fun (c : Chip) (v n : Nat) (ready : List Nat) => ({ c with site := { c.site with state := c.site.state.set x v }, spare := { c.spare with state := n, ready := ready } } : Chip)
     let down := (portsOf x).filter fun p => (s.port x p).state != 2 && s.peerAlive x p
     let clean := ((s.clearSite x).setPers s.boot.image x)
     let served := clean.takeService x (s.siteRec x)
     let barred := (bars.map fun b => (b.1.val, b.2.val)).foldl (fun (c : Chip) b => c.injectionDone (4 * x + b.1 % 4) (some b.2)) served
     let ready := (state barred 1 2 (barred.spare.ready ++ [x])).post .SPARE_READY dcuUnit none x
     (s.spare.state ≠ 1 → (s.site.state.get site.val 1 = 1 ∨ s.site.state.get site.val 1 = 3) → exec (.sparePrepare site) s = .next (s.withChip
       { s.toChip with spare := { s.spare with site := site.val, state := 1, ready := s.spare.ready.filter (· ≠ site) } })) ∧
     (s.spare.state = 1 → down = [] → was = 1 → exec (.sparePreparationEnd true ⟨bars, bad⟩) s = .next (s.withChip ready)) ∧
     (s.spare.state = 1 → down = [] → was ≠ 1 → exec (.sparePreparationEnd true ⟨bars, bad⟩) s = .next (s.withChip ready.countsChanged)) ∧
     (s.spare.state = 1 → exec (.sparePreparationEnd false ⟨bars, bad⟩) s = .next (s.withChip (((state s.toChip 2 3 s.spare.ready).siteDark x).countsChanged))) ∧
     (s.spare.state ≠ 1 → ∀ ok, exec (.sparePreparationEnd ok ⟨bars, bad⟩) s = .next s) ∧
     exec (.accountingUpdate t uj) s = .next (s.withChip ({ total with acct := [] }.setReg (dcuK 0x2840) t)))

/-- A requester. A request that may issue leaves with its priority and deadline; otherwise, or behind an older one for its stack
    where its master is not in CH16 mode, it is held, and the oldest held request leaves once it may, the waits counted while the
    stack's level holds them. A wheel slot lets the held requests of a stack without feedback leave as far as they may, and a CH16
    window ends, for a master in that mode, when HALL_RQ_WIN has passed since its start. Issuing fixes a request's number, priority,
    deadline and time, counts it at its stack and in the wheel slot, and counts a CH16 master's bytes against its budget. The DEVTIME at
    which a command acts comes with it (the model's choice, log 51). -/
def Obligations.RegulationRequests : Prop :=
  (∀ (s : State) (o : RqOwner) (m stack : Fin 6) (by' bytes t waited : Nat) (addr : BitVec 48) (wr : Bool) (r : Req),
     let c := s.at t
     let die := rqDie o
     let g := addr.toNat / 4096
     let q : Req := { id := 0, owner := die, master := m.val, stack := g % 6, row := c.rqRow die m.val by', line := (g / 6 * 4096 + addr.toNat % 4096) / 256, wr := wr, bytes := bytes }
     let valid := rqHas die m.val = true ∧ addr.toNat < 0x3600000000 ∧ 1 ≤ bytes ∧ bytes ≤ 256
     let waits := c.ch16 die m.val = false ∧ ∃ h ∈ (c.rqm die m.val).held, h.stack = q.stack
     let due := (c.rqm die m.val).winAt + bits (c.reg (rqK die 0x38)) 15 0 * 100
     let counted := if bit (c.rqo die).tdm stack.val then c else c.bump (rqK die 0x80) waited
     let taken := counted.updRqm die m.val fun x => { x with held := x.held.erase r }
     let stays := fun (h : Req) => bit (c.rqo die).tdm h.stack = false ∨ c.mayIssue h = false
     (valid → ¬ waits → c.mayIssue q = true → exec (.requestIssue o (.fresh m by' addr wr bytes) t) s = .next (s.withChip (c.issueReq q))) ∧
     (valid → (waits ∨ c.mayIssue q = false) → exec (.requestIssue o (.fresh m by' addr wr bytes) t) s =
       .next (s.withChip (c.updRqm die m.val fun x => { x with held := x.held ++ [q] }))) ∧
     ((c.rqm die m.val).held.find? (fun r => r.stack == stack.val) = some r → counted.mayIssue r = true →
       exec (.requestIssue o (.held m stack waited) t) s = .next (s.withChip (taken.issueReq r))) ∧
     ((c.rqm die m.val).held.find? (fun r => r.stack == stack.val) = some r → counted.mayIssue r = false →
       exec (.requestIssue o (.held m stack waited) t) s = .next (s.withChip counted)) ∧
     ((c.rqm die m.val).held = [r] → (∀ k, k < 6 → k ≠ m.val → (c.rqm die k).held = []) → bit (c.rqo die).tdm r.stack = true → c.mayIssue r = true →
       exec (.tdmSlot o t) s = .next (s.withChip ((c.updRqm die m.val fun x => { x with held := [] }).issueReq r))) ∧
     ((∀ k, k < 6 → ∀ h ∈ (c.rqm die k).held, stays h) → exec (.tdmSlot o t) s = .next (s.withChip c)) ∧
     (rqHas die m.val = true → c.ch16 die m.val = true → due ≤ t → exec (.ch16WindowEnd o m t) s =
       .next (s.withChip (c.updRqm die m.val fun x => { x with bytes := 0, excess := false, winAt := t }))) ∧
     (rqHas die m.val = false ∨ c.ch16 die m.val = false ∨ t < due → exec (.ch16WindowEnd o m t) s = .next (s.withChip c))) ∧
  (∀ (c : Chip) (r : Req),
     let q : Req := { r with id := c.rq.next, pri := c.rqPri r.owner r.master, dl := c.rqDl r.owner r.master, issued := c.time.now }
     let x := c.rqm r.owner r.master
     let c' := c.issueReq r
     let y := c'.rqm r.owner r.master
     let cap := bits (c.rqCfg r.owner r.master) 47 32 * 256
     c'.rq.flying = c.rq.flying ++ [q] ∧ c'.rq.next = c.rq.next + 1 ∧ y.out.get r.stack 0 = x.out.get r.stack 0 + 1 ∧ y.held = x.held ∧
     (c.ch16 r.owner r.master = true → y.bytes = x.bytes + r.bytes ∧ y.excess = (x.excess || decide (cap < x.bytes + r.bytes))) ∧
     (c.ch16 r.owner r.master = false → y.bytes = x.bytes ∧ y.excess = x.excess) ∧
     c'.rq.dies = c.rq.dies ∧ c'.rq.owners = c.rq.owners ∧ c'.mem = c.mem ∧ c'.regs = c.regs)

/-- A base die's queue. A request that arrives takes an entry (its row's reserve, the shared pool or an urgent entry) at the end of
    the queue, whose highest length is kept, or is refused and counted; each line slot serves the request that the rules pick, with its
    lateness and age counted and its bytes charged to its row, and sends it back with the level; it completes at its master, which keeps
    its latency and the level, and is discarded at a fenced hall. The DEVTIME at which a command acts comes with it (the model's choice,
    log 51). -/
def Obligations.BaseDieQueue : Prop :=
  ∀ (s : State) (id t k : Nat) (m : Fin 6) (r : Req),
    let c := s.at t
    let gone : Chip := { c with rq := { c.rq with flying := c.rq.flying.erase r } }
    let back : Chip := { c with rq := { c.rq with back := c.rq.back.erase r } }
    let late := r.dl ≠ 0 ∧ r.arrived + r.dl * 250 < t
    let aged := (c.urgent r t).map Prod.snd = some true
    let out := c.updBase m.val fun b => { b with q := b.q.erase r }
    let c1 := if late then (out.bump (mbK m.val 0x880)).bump (rqK r.owner 0x78) else out
    let c2 := if aged then c1.bump (mbK m.val 0x890) else c1
    let c3 := c2.cacheServe r
    let served := match r.memRow with
      | some p => c3.charged { row := p, mem := r.bytes }
      | none => c3
    (c.rq.flying.find? (fun r => r.id == id) = some r → gone.entryFor r = some k → exec (.baseDieRequest id t) s = .next (s.withChip
      (gone.updBase r.stack fun b => { b with q := b.q ++ [{ r with arrived := t, entry := k }], high := max b.high (b.q ++ [{ r with arrived := t, entry := k }]).length }))) ∧
    (c.rq.flying.find? (fun r => r.id == id) = some r → gone.entryFor r = none → exec (.baseDieRequest id t) s = .next (s.withChip
      (({ gone with rq := { gone.rq with refused := gone.rq.refused ++ [r] } }).bump (mbK r.stack 0x888)))) ∧
    (c.pickReq m.val t = some r → exec (.queueService m t) s = .next (s.withChip
      { served with rq := { served.rq with back := served.rq.back ++ [{ r with level := served.levelOf m.val }] } })) ∧
    (c.pickReq m.val t = none → exec (.queueService m t) s = .next (s.withChip c)) ∧
    (c.rq.back.find? (fun r => r.id == id) = some r → (r.owner < 72 → c.site.state.get r.owner 1 < 2) → exec (.requestCompletion id t) s = .next (s.withChip
      ((back.updRqm r.owner r.master fun x => { x with out := x.out.upd r.stack 0 (· - 1), lats := ((t - r.issued) :: x.lats).take 16 }).updRqo r.owner fun o =>
        { o with level := o.level.set r.stack r.level }))) ∧
    (c.rq.back.find? (fun r => r.id == id) = some r → r.owner < 72 → 2 ≤ c.site.state.get r.owner 1 →
      exec (.requestCompletion id t) s = .next (s.withChip back))

/-- Start-up steps 2 to 5, each taken only when it is the next one. A ROM, flash, directory or firmware failure stops start-up with
    ERR 1 to 4, and firmware that verifies ends step 2 with the frame parameters of the directory, or the defaults and CONFIG_DEFAULT
    where they are out of range. Training ends step 3. A row of the stair takes the tests of its nine sites in stair order; with no
    passing site start-up stops with ERR 5. Memory training clears DRAM and ends step 5, or stops with ERR 6. Start-up steps 4 and 6 to
    10, each when it is next: the passing sites take hall numbers in stair order, with STAIR_DONE; the injection bars the stables it
    found; margins are loaded or reset, measured and planned again; the first accepted boot image is kept and gives the personalities
    and the live modes, and without one ERR 7 stands; Fensan RT refuses an image of another major version with ERR 8 and keeps it
    refused, with no image creates nothing, and otherwise loads the sections in DRAM and creates the image's partitions in ascending
    index; start(0) is fixed at the next whole millisecond 5 ms ahead, with notices to the islands that are heard. Where a clause leaves
    the state as it is because its command finds no condition of its own met, that is the model's choice (log 30). The DEVTIME at which
    a command acts comes with it (the model's choice, log 51). -/
def Obligations.StartUp : Prop :=
  (∀ (s : State) (t : Nat) (bad : List (Nat × Nat × Nat)) (g : Fin 8) (codes : List Nat) (failed : List (Fin 6)) (d img : List Byte) (rej : List Nat) (slot : Nat),
     let c := s.at t
     let err := fun (e n : Nat) => s.withChip { c with boot := { c.boot with err := e, errstep := n, halted := true } }
     let ended := fun (c : Chip) (n : Nat) => s.withChip { c with boot := { c.boot with step := n, times := c.boot.times.set n c.time.now } }
     let c2 := c.rejects rej
     let ft := fieldAt d 8 4
     let fl := fieldAt d 0xC 4
     let c3 := if frameOk ft fl then c2.setReg (dcuK 0x6090) (ft + fl * 2 ^ 32) else (c2.setReg (dcuK 0x6090) (resetOf (dcuK 0x6090))).post .CONFIG_DEFAULT dcuUnit none
     let c4 : Chip := { c3 with boot := { c3.boot with fwslot := slot, fwkey := fieldAt img 0x1C 4, prot := c3.copyAt 1 slot } }
     let trained := allPorts.foldl (fun c q => c.trainPort q.1 q.2 fun l => !bad.contains (q.1, q.2, l)) c
     let row := (List.range 9).foldl (fun c j =>
       let site := siteOfPos (9 * g.val + j)
       let code := codes.getD j 6
       if code = 0 then c.clearSite site else c.siteFails site code) s.toChip
     let go2 := s.canEnd 2 = true
     let fw := fun (rom flash : Bool) => exec (.firmwareVerifyDone t rom flash) s
     (go2 → fw false true = .next (err 1 2)) ∧ (go2 → fw true false = .next (err 2 2)) ∧ (go2 → c.directory = none → fw true true = .next (err 3 2)) ∧
     (go2 → c.directory = some d → c.tryImages c.boot.rev fwForm (dirTries d 1) = (rej, some (slot, img)) → fw true true = .next (ended c4 2)) ∧
     (go2 → c.directory = some d → c.tryImages c.boot.rev fwForm (dirTries d 1) = (rej, none) →
       fw true true = .next (s.withChip { c2 with boot := { c2.boot with err := 4, errstep := 2, halted := true } })) ∧
     (s.canEnd 3 = true → (trained.heard .A && trained.heard .B) = false → (trained.stepEnd 3).adopts = none → exec (.linkTrainingDone t bad) s = .next (ended trained 3)) ∧
     (s.canEnd 4 = true → s.boot.rows = g.val → exec (.stairRowTestDone g codes) s = .next (s.withChip { row with boot := { row.boot with rows := g.val + 1 } })) ∧
     (s.canEnd 4 = true → s.boot.rows = 8 → c.passing = [] → exec (.stairDone t) s = .next (err 5 4)) ∧
     (s.canEnd 5 = true → failed = [] → exec (.memoryTrainingDone t failed) s = .next (ended c.clearDram 5)) ∧
     (s.canEnd 2 = false → fw true true = .next s) ∧ (s.canEnd 3 = false → exec (.linkTrainingDone t bad) s = .next s) ∧ (s.canEnd 5 = false → exec (.memoryTrainingDone t failed) s = .next s)) ∧
  (∀ (s : State) (t : Nat) (bad : List (StbRef × Fin 129)) (meas : List (Nat × List Nat × List Nat)) (ok : Bool) (d img : List Byte) (rej : List Nat) (slot : Nat),
     let c := s.at t
     let ended := fun (c : Chip) (n : Nat) => s.withChip { c with boot := { c.boot with step := n, times := c.boot.times.set n c.time.now } }
     let barred := ((bad.map fun b => (stbKey b.1, b.2.val)).filter fun b => s.siteActive (b.1 / 4)).foldl (fun c b => c.injectionDone b.1 (some b.2)) c
     let plan := c.post .MARGIN_RESET (dcuUnit 2) none
     let aged := (meas.filter fun q => plan.siteActive q.1).foldl (fun c q => c.ageing q.1 q.2.1 q.2.2) plan
     let planned := ((List.range 72).foldl (fun (c : Chip) x => c.replan x fun r => r) aged).planLand
     let settled := (planned.activeSites.foldl Chip.settlePoint planned).zonesOn
     let dress := fun (c : Chip) => c.activeSites.foldl (fun c x => c.setPers c.boot.image x) c
     let mode := fun (c : Chip) => (c.activeSites.map fun x => (List.range 4).map (4 * x + ·)).flatten.foldl Chip.bootMode c
     let told := c.rejects rej
     let imaged : Chip := { told with boot := { told.boot with imgslot := slot, image := img, prot := told.boot.prot ++ told.copyAt 2 slot } }
     let p := s.pkgBoot.at t
     let created := (List.range 32).foldl (fun (c : Chip) n => match c.onlySect n 9 with
       | some q => (c.setReg (dcuK (0x1000 + n * 0x20)) q.addr).createNow n true
       | none => c) (p.loadSects ((imgSects p.boot.image).filter Sect.inDram))
     let s0 := alignUp (c.boot.times.get 9 0 + 5000000) 1000000
     let fixed : Chip := { c with time := { c.time with fixed := true, start0 := s0, frame := 0 }, core := { c.core with eng := c.core.eng.map fun e => (e.1, { e.2 with hbLast := s0 }) } }
     let ids := (c.passing.take 64).zipIdx
     let st : AMap Nat Nat := (ids.map fun (q : Nat × Nat) => (q.1, 0)) ++ (c.passing.drop 64).map (fun s => (s, 1)) ++ c.site.state.filter fun e => e.2 == 2
     let mapped : Chip := { c with site := { c.site with hallmap := ids.map (fun (q : Nat × Nat) => (q.2, q.1)), state := st } }
     let yard : Chip := { mapped with yard := { mapped.yard with sites := (List.range 72).filter mapped.crossable, up := (mapped.yard.ports.map Prod.fst).filter mapped.portUp, gen := 1, tick := c.time.now, due := none } }
     (s.canEnd 4 = true → s.boot.rows = 8 → c.passing ≠ [] → exec (.stairDone t) s = .next (ended ((yard.post .STAIR_DONE (dcuUnit 3) none ids.length (c.passing.drop 64).length).countsChanged) 4)) ∧
     (s.canEnd 6 = true → exec (.comparatorInjectionDone t bad) s = .next (ended barred 6)) ∧
     (s.canEnd 7 = true → c.planStored = none → exec (.marginPlanDone t meas ok) s = .next (ended ((settled.planWritten ok).post .MARGIN_UPDATED (dcuUnit 2) none) 7)) ∧
     (s.canEnd 8 = true → c.directory = none → exec (.bootImageVerifyDone t) s = .next (ended (mode (dress (c.bootErr 7 8 false))) 8)) ∧
     (s.canEnd 8 = true → c.directory = some d → c.tryImages c.boot.rev (fun _ => true) (dirTries d 2) = (rej, some (slot, img)) →
       exec (.bootImageVerifyDone t) s = .next (ended (mode (dress imaged)) 8)) ∧
     (s.canEnd 8 = true → c.directory = some d → c.tryImages c.boot.rev (fun _ => true) (dirTries d 2) = (rej, none) →
       exec (.bootImageVerifyDone t) s = .next (ended (mode (dress (told.bootErr 7 8 false))) 8)) ∧
     (s.canEnd 9 = true → s.pkgBoot.canEnd 9 = true → p.boot.image = [] → exec (.fensanStart t) s = .next (ended p 9)) ∧
     (s.canEnd 9 = true → s.pkgBoot.canEnd 9 = true → p.boot.image ≠ [] → fieldAt p.boot.image 6 2 ≠ capsMajor →
       exec (.fensanStart t) s = .next (ended ((({ p with boot := { p.boot with refused := true } } : Chip).post .CAPS_REFUSED dcuUnit none).bootErr 8 9 false) 9)) ∧
     (s.canEnd 9 = true → s.pkgBoot.canEnd 9 = true → p.boot.image ≠ [] → fieldAt p.boot.image 6 2 = capsMajor → exec (.fensanStart t) s = .next (ended created 9)) ∧
     (s.boot.step = 9 → s.boot.held = false → s.boot.halted = false → s.time.fixed = false → exec (.frameZeroSchedule t) s = .next (s.withChip
       ([Isl.A, .B].foldl (fun c i => if c.heard i then c.updIsl i fun y => { y with fs := some { base := s0, fb := 0, t := c.T, l := c.L }, notice := true } else c) fixed))))

/-- Resets. nRESET low for 5 µs leaves the main package as at power-up and the islands, the flash and host memory, revoked keys and
    the islands' time as they were; its release, without a rail fault, restarts DEVTIME from 0 with the islands' copies running on. An
    island reset clears its island, registers, staging and time; its release takes the first accepted copy of its own flash, A before B,
    and otherwise reports the failure. The first time its link delivers is loaded without slew. A restart notice clears the island's
    last acceptance, its pending plans and what the two islands had accepted and decided, so that frames count from 0 again. Where a
    clause leaves the state as it is because its command finds no condition of its own met, that is the model's choice (log 30). -/
def Obligations.ResetsAndIslandBoot : Prop :=
  ∀ (s : State) (i : Isl) (dur : Nat) (silent : Bool) (a b : List Byte),
    let c := s.mainReset
    let wiped : Chip := { s.toChip with regs := s.regs.filter (fun e => !(e.1.blk == Blk.isl i)), cfg := s.cfg.del (Ctl.isl i), time := { s.time with offs := s.time.offs.del (islDie i), floors := s.time.floors.del (islDie i) } }
    let on := s.updIsl i fun y => { y with held := false, dthold := true }
    let fail := fun (err : Nat) => s.withChip ((on.updIsl i fun y => { y with berr := err }).islEvent i .ISLAND_BOOT_FAIL err)
    let start := fun (slot : Nat) (img : List Byte) => s.withChip ((on.islLoad i img).updIsl i fun y => { y with up := true, bslot := slot, ia := 0x28000, wdtAt := on.localTime (islDie i), timeAt := on.localTime (islDie i) })
    let go := exec (.islandResetRelease i silent a b) s
    let timed := ({ s.toChip with time := { s.time with offs := s.time.offs.set (islDie i) 0, floors := s.time.floors.del (islDie i) } } : Chip).updIsl i fun y =>
      { y with timed := true, dthold := false, timeAt := s.time.now, wdtAt := s.time.now, sampled := none }
    (5000 ≤ dur → exec (.nresetAssert dur) s = .next (s.withChip c)) ∧ (dur < 5000 → exec (.nresetAssert dur) s = .next s) ∧
    (c.islA = s.islA ∧ c.islB = s.islB ∧ c.boot.rev = s.boot.rev ∧ c.boot.held = true ∧ c.parts = [] ∧ c.core = {} ∧ c.mem.cells = s.mem.cells.filter fun x => decide (0x5200000000 ≤ x.1)) ∧
    (s.boot.held = true → s.boot.rail = false → exec .nresetRelease s = .next (s.withChip
      { s.toChip with time := { s.time with now := 0, offs := s.time.offs.map fun e => (e.1, e.2 + (s.time.now : Int) - (0 : Nat)) }, boot := { s.boot with held := false } })) ∧
    (5000 ≤ dur → exec (.islandResetAssert i dur) s = .next (s.withChip (wiped.updIsl i fun _ => {}))) ∧
    ((s.isl i).held = true → silent = true → go = .next (fail 1)) ∧
    ((s.isl i).held = true → silent = false → islAccepts i a = true → go = .next (start 1 a)) ∧
    ((s.isl i).held = true → silent = false → islAccepts i a = false → islAccepts i b = true → go = .next (start 2 b)) ∧
    ((s.isl i).held = true → silent = false → islAccepts i a = false → islAccepts i b = false → go = .next (fail 2)) ∧
    ((s.isl i).held = false → (s.isl i).timed = false → s.boot.held = false → s.islLink i = true → s.boot.times.get 1 0 ≠ 0 → exec (.islandTimeFirst i) s = .next (s.withChip timed)) ∧
    ((s.isl i).notice = true → (s.isl i).up = true → exec (.restartNotice i) s = .next (s.withChip
      (s.updIsl i fun y => { y with notice := false, lastAcc := none, pend := [], mine := [], peers := [], decided := none, restarts := min 255 (y.restarts + 1) })))

/-- The budget loop. Each period adds the power over the sustained budget to the debt and allows the peak for at most the peak
    periods in a row and while the debt leaves room, otherwise the sustained budget less a twentieth of the debt; each active hall is
    granted its part after the fixed parts, zones take the voltages the grants need, and coolant stops where three halls rise by more
    than 2 degrees or a sound reading is below 500. A demand report sets its die's demand; a message gives its die the grant; three
    periods without one give a hall its floor, with PWR_BUDGET_LOST. A hall's point. A settled zone voltage reaches the nine halls of
    its row. Each energy check adds to the hall's counter; energy more than 2 % above the grant prorated to this point of the period
    steps the point down to the next that the hall may run at, with the step counted, and below 95 % of it up to the next such point
    within the ceiling. The DEVTIME at which a command acts comes with it (the model's choice, log 51). -/
def Obligations.PowerRegulation : Prop :=
  (∀ (s : State) (t p idle : Nat) (want drew : List Nat) (m : Fin 6) (i : Fin 2) (h : Fin 72) (rep : List Activity) (S peak : Nat),
     let c := s.at t
     let pk := bits (c.reg (dcuK 0x7008)) 39 32
     let debt := c.pm.debt + p - S
     let run := if S < p then c.pm.run + 1 else 0
     let b := if run < pk ∧ debt + (peak - S) ≤ (peak - S) * pk then peak else S - debt / 20
     let iod := fun i => min (c.pm.iodDem.get i 0) 22000
     let mb := fun m => min (c.pm.mbDem.get m 0) 16000
     let fixed := 5000 + 50 * c.spares + iod 0 + iod 1 + ((List.range 6).map mb).sum
     let act := c.activeSites
     let total := (act.map fun h => (c.hallPwr h).demand).sum
     let grant := fun h => grantOf ((b : Int) - fixed) total act.length (c.hallPwr h).demand
     let rise := fun (x : HallPwr) => x.hotOk = true ∧ ∃ w, x.hotWas = some w ∧ w + 32 < x.hot
     let rose := ∃ a ∈ act, ∃ b ∈ act, ∃ e ∈ act, a < b ∧ b < e ∧ rise (c.hallPwr a) ∧ rise (c.hallPwr b) ∧ rise (c.hallPwr e)
     let low := c.pm.flowOk = true ∧ t ≤ c.pm.flowAt + 10000000 ∧ c.pm.reading < 500
     let stop := c.pm.cool ≠ 2 ∧ (rose ∨ low)
     let gave := act.foldl (fun c h => c.updPwr h fun x => { x with granted := grant h, hotWas := if x.hotOk then some x.hot else none }) c
     let done := act.foldl Chip.settlePoint (gave.updPm fun m => { m with debt := debt, run := run, budget := b, power := p, zone := (List.range 8).map fun r => (r, c.zoneNeed r grant), dieSent := ((List.range 6).map fun m => (m, mb m)) ++ [(8, iod 0), (9, iod 1)] })
     let told := fun d => c.reported d rep
     let q := c.hallPwr h.val
     (c.sustPeak = (S, peak) → ¬ stop → exec (.budgetPeriod t p) s = .next (s.withChip done)) ∧
     (c.sustPeak = (S, peak) → stop → exec (.budgetPeriod t p) s = .next (s.withChip done.coolStop)) ∧
     ((told (.mb m)).pm.dieHot.get m.val 0 = 0 → exec (.hallDemand (.mb m) idle want drew rep t) s = .next (s.withChip ((told (.mb m)).updPm fun p => { p with mbDem := p.mbDem.set m.val idle }))) ∧
     ((told (.iod i)).pm.dieHot.get (8 + i.val) 0 ≠ 0 → exec (.hallDemand (.iod i) idle want drew rep t) s =
       .next (s.withChip ((told (.iod i)).updPm fun p => { p with iodDem := p.iodDem.set i.val (min idle (p.iodDem.get i.val 0 * 9 / 10)) }))) ∧
     ((told (.hall h)).periodKind t = 0 → exec (.hallDemand (.hall h) idle want drew rep t) s =
       .next (s.withChip ((told (.hall h)).updPwr h.val fun x => { x with demand := min 65535 (idle + ((List.range 4).map fun j => want.getD j 0).sum) }))) ∧
     exec (.budgetMessage (.hall h) t) s = .next (s.withChip ((c.updPwr h.val fun x => { x with prev := if t / 1000000 < x.period then x.prev else x.grant, grant := x.granted, period := t / 1000000 + 1, lost := false }).settlePoint h.val)) ∧
     (q.lost = false → q.period + 4 ≤ t / 1000000 → exec (.pwrBudgetLost (.hall h) t) s = .next (s.withChip
       (((c.updPwr h.val fun x => { x with prev := 600, grant := 600, lost := true }).settlePoint h.val).post .PWR_BUDGET_LOST (dieUnit (.hall h)) none)))) ∧
  (∀ (s : State) (site : Fin 72) (uj t up dn : Nat) (zone : Fin 8) (v : Nat) (d : PwrDie) (coefs : List Nat) (h : Fin 72),
     let c := s.at t
     let q := c.hallPwr site.val
     let n := (t - 1) / 1000000
     let spent := (if q.spentIn = n then q.spent else 0) + uj
     let pro := (if n < q.period then q.prev else q.grant) * (t - n * 1000000)
     let c1 := c.updPwr site.val fun x => { x with energy := (x.energy + uj) % 2 ^ 64, spent := spent, spentIn := n }
     let above := 102 * pro < 100 * spent * 1000000
     let below := 100 * spent * 1000000 < 95 * pro
     let may := fun k => c1.pointOk site.val k = true
     let next := q.point < up ∧ up ≤ c1.ceilOf site.val ∧ may up ∧ ∀ k, q.point < k → k < up → ¬ may k
     let prior := (dn < q.point ∧ may dn ∧ ∀ k, dn < k → k < q.point → ¬ may k) ∨ (dn = 0 ∧ ∀ k < q.point, ¬ may k)
     let is := fun (c : Chip) => exec (.energyCheck site uj t) s = .next (s.withChip c)
     (s.pm.zone.look zone.val = some v → exec (.zoneSettled zone) s = .next (s.withChip
       (((List.range 9).map (· + 9 * zone.val)).foldl (fun c x => (c.updPwr x fun h => { h with vzone := v }).settlePoint x) s.toChip))) ∧
     (above → q.point ≠ 0 → prior → is ((c1.updPwr site.val fun x => { x with point := dn }).bump (pwrK site.val 0x28))) ∧ (above → q.point = 0 → is c1) ∧
     (¬ above → below → next → is (c1.updPwr site.val fun x => { x with point := up })) ∧ (¬ above → below → (∀ k ≤ c1.ceilOf site.val, q.point < k → ¬ may k) → is c1) ∧
     (¬ above → ¬ below → is c1) ∧
     (d = .hall h → exec (.coefficientRefit d coefs) s = .next (s.withChip (s.updPwr h.val fun x => { x with coef := coefs.zipIdx.map fun e => (e.2, e.1) }))))

/-- A port's packets. An acknowledgement that the peer has sent, of a packet in the replay buffer, frees those up to it; an idle
    flit 256 ns after the last reaches a peer that runs; a NAK that the peer has sent, of a buffered packet, replays from it, and the
    eighth in a row for one LSEQ retrains. Both show the peer to be there. A packet that its sender's replay buffer holds or has room
    for, in order with a good header and no uncorrectable flit, is acknowledged and charged to its row, is outstanding from its first
    hop on where it is a request, and goes on, its corrected symbols counted; a bad one is counted and NAKed; one out of order is
    dropped; one without room waits at its sender, and one at a fenced port is counted. Ports and routes. 2 µs without a flit fence a
    running port; a failing lane takes a free spare, or runs on unreplaced with a LINK_LANE record, and LINK_DEGRADED the first time; a
    retrain ends with the trained lanes and the peer's width, and the plan records that waited at an island's port arrive, or past 20 µs
    fences both ends; a probe that answers writes LINK_DOWN for each fenced port, and one that does not fences the hall; due routes take
    effect with a new generation, and outstanding requests whose route is new are sent again. Where a clause leaves the state as it is
    because its command finds no condition of its own met, that is the model's choice (log 30). The DEVTIME at which a command acts
    comes with it (the model's choice, log 51). -/
def Obligations.Links : Prop :=
  (∀ (s : State) (die : Fin 82) (p : Fin 9) (seq : BitVec 16) (t d q grp : Nat) (hdr : BitVec 256) (data : List (BitVec 256)) (errs : List (BitVec 288)) (from' : Chip),
     let x := s.port die.val p.val
     let c := s.at t
     let y := c.port die.val p.val
     let held := fun (x : Port) => ∃ k ∈ x.replay, k.lseq = seq.toNat
     let left := (s.heardAt die.val p.val).peerLeft die.val p.val false seq.toNat
     let acked := x.state = 2 ∧ s.peerSent die.val p.val false seq.toNat = true
     let asked := (c.heardAt die.val p.val).peerLeft die.val p.val true seq.toNat
     let z := asked.port die.val p.val
     let naked := y.state = 2 ∧ c.peerSent die.val p.val true seq.toNat = true
     let run := if z.nakRun ≠ 0 ∧ z.nak = seq.toNat then z.nakRun + 1 else 1
     let back := (asked.updPort die.val p.val fun x => { x with nak := seq.toNat, nakRun := run }).lnkBump die.val p.val 0x70
     let sent := c.updPort die.val p.val fun x => { x with txAt := t }
     let k : Packet := { hdr := hdr.toNat, data := data.map BitVec.toNat }
     let n := bits k.hdr 143 128
     let heard := from'.updPort die.val p.val fun x => { x with rxAt := t, told := false }
     let flits := ((errs.map BitVec.toNat).take 9).zipIdx
     let counted := flits.foldl (fun c e => match classify e.1 with
       | .corrected sym _ => (c.lnkBump die.val p.val 0x60).updPort die.val p.val fun x => x.corrected ((grp + e.2) % max 1 y.rxw) sym t
       | _ => c) heard
     let good := (∀ e ∈ flits, isUE e.1 = false) ∧ hdrOk k.hdr = true ∧ data.length = bits k.hdr 20 17
     let arrives := y.state = 2 ∧ c.wasSent die.val p.val k = some from'
     (acked → held (left.port die.val p.val) → exec (.linkAck die p seq) s = .next (s.withChip
       ((left.updPort die.val p.val fun y => { y with replay := (y.replay.dropWhile fun k => k.lseq != seq.toNat).drop 1, nakRun := 0 }).refill die.val p.val))) ∧
     (acked → ¬ held (left.port die.val p.val) → exec (.linkAck die p seq) s = .next (s.withChip left)) ∧
     (¬ acked → exec (.linkAck die p seq) s = .next s) ∧
     (y.state = 2 → y.txAt + 256 ≤ t → peerOf die.val p.val = some (d, q) → (sent.port d q).state = 2 → exec (.idleFlit die p t) s = .next (s.withChip (sent.updPort d q fun y => { y with rxAt := t }))) ∧
     (naked → held z → run ≠ 8 → exec (.nakReceive die p seq t) s = .next (s.withChip back)) ∧
     (naked → held z → run = 8 → exec (.nakReceive die p seq t) s = .next (s.withChip (back.retrain die.val p.val))) ∧
     (¬ naked → exec (.nakReceive die p seq t) s = .next (s.withChip c)) ∧
     (arrives → good → n = y.rxSeq → exec (.packetReceive die p grp hdr data errs t) s = .next (s.withChip
       (((counted.charged { row := bits k.hdr 69 64, lnk := 32 * (1 + data.length) }).updPort die.val p.val fun x => { x with rxSeq := (n + 1) % 65536, acks := x.acks ++ [(false, n)] }).firstHop die.val p.val k |>.forward die.val k))) ∧
     (arrives → good → n ≠ y.rxSeq → exec (.packetReceive die p grp hdr data errs t) s = .next (s.withChip counted)) ∧
     (arrives → ¬ good → exec (.packetReceive die p grp hdr data errs t) s = .next (s.withChip
       ((counted.lnkBump die.val p.val 0x68).updPort die.val p.val fun x => { x with acks := x.acks ++ [(true, n)] }))) ∧
     (y.state = 2 → c.wasSent die.val p.val k = none → peerOf die.val p.val = some (d, q) →
       exec (.packetReceive die p grp hdr data errs t) s = .next (s.withChip (c.sendOn d q k))) ∧
     (y.state = 4 → exec (.packetReceive die p grp hdr data errs t) s = .next (s.withChip (c.lnkBump die.val p.val 0x80)))) ∧
  (∀ (s : State) (die : Fin 82) (p : Fin 9) (site : Fin 72) (lane t d q due sp n : Nat) (bad : List Nat),
     let c := s.at t
     let x := c.port die.val p.val
     let hit := x.state = 2 ∧ x.winAt / 1000000 = t / 1000000 ∧ c.lthr die.val p.val ≤ x.win.get lane 0 ∧ ∃ g ∈ x.groups, lane ∈ g
     let worse := (c.updPort die.val p.val fun x => { x with failed := x.failed.filter (· ≠ lane) ++ [lane], win := x.win.del lane }).sendErr { unit := lnkUnit die.val p.val, cls := 0x1A, synd := lane + 256 }
     let y := x.train (narrow die.val p.val) (ioPort die.val p.val) (c.wmax die.val p.val) fun l => !bad.contains l
     let fenced := (portsOf site.val).filter fun p => (s.port site.val p).state == 4 || match peerOf site.val p with
       | some (d, q) => (s.port d q).state == 4
       | none => false
     let lost := c.yardLosses
     (x.state = 2 → x.told = false → x.rxAt + 2000 ≤ t → exec (.portFence die p t) s = .next (s.withChip (c.fencePort die.val p.val).yardLosses)) ∧
     (hit → x.spares.zipIdx.find? (fun r => (x.steer.look r.2).isNone) = some (sp, n) → peerOf die.val p.val = some (d, q) → exec (.laneFailing die p lane t) s = .next (s.withChip
       ((((c.updPort die.val p.val fun x => { x with steer := x.steer.set n lane, roles := (x.roles.set lane 8).set sp 5, groups := x.groups.map fun g => g.map fun l => if l = lane then sp else l, win := x.win.del lane }).lnkBump die.val p.val 0x78).sendErr
         { unit := lnkUnit die.val p.val, cls := 0x1A, synd := lane }).updPort d q fun y => { y with rxAt := max y.rxAt t }))) ∧
     (hit → x.spares = [] → lane ∈ x.failed → exec (.laneFailing die p lane t) s = .next (s.withChip worse)) ∧
     (hit → x.spares = [] → lane ∉ x.failed → exec (.laneFailing die p lane t) s = .next (s.withChip (worse.post .LINK_DEGRADED (lnkUnit die.val p.val) none lane))) ∧
     (x.state = 3 → peerOf die.val p.val = some (d, q) → (x.reAt + 20000 < t ∨ y.state = 4) →
       exec (.retrainDone die p bad t) s = .next (s.withChip ((c.fencePort die.val p.val).fencePort d q).yardLosses)) ∧
     (x.state = 3 → peerOf die.val p.val = some (d, q) → t ≤ x.reAt + 20000 → y.state ≠ 4 → exec (.retrainDone die p bad t) s = .next (s.withChip
       (((c.updPort die.val p.val fun _ => { y with rxAt := t, told := false }).updPort d q fun z => { z with txw := y.rxw }).mailAt die.val p.val))) ∧
     (fenced ≠ [] → s.site.state.get site.val 1 < 2 → exec (.hallProbeResult site true) s = .next (s.withChip (fenced.foldl (fun c p => c.post .LINK_DOWN (lnkUnit site.val p) none) s.toChip))) ∧
     (fenced ≠ [] → s.site.state.get site.val 1 < 2 → exec (.hallProbeResult site false) s = .next (s.withChip (s.fenceSite site.val))) ∧
     (c.yard.due = some due → exec (.routeTableSwitch t) s = .next (s.withChip (lost.resend { lost with yard := { lost.yard with sites := (List.range 72).filter lost.crossable, up := (lost.yard.ports.map Prod.fst).filter lost.portUp, gen := (lost.yard.gen + 1) % 2 ^ 64, tick := t, due := none } }))))

/-- Packages and self-test slots. LOAD while nothing runs starts a check of the address of DCU_PKG_ADDR, and is otherwise counted;
    REMOVE of a stored package drops it; a check reads the package, meeting the errors of the words it reads, and ends with the first
    code that applies, and otherwise stores the package. A due slot of an idle stable starts during a landing with its domains on; its
    end after S frees the stable, counts a run without failures and keeps whether it was whole. The DEVTIME at which a command acts
    comes with it (the model's choice, log 51). -/
def Obligations.PackagesAndSelfTest : Prop :=
  ∀ (s : State) (id : BitVec 32) (ok : Bool) (row : Fin 33) (t : Nat) (q : StSlot) (rest : List StSlot) (key due : Nat),
    let f := s.fleet
    let hdr := s.devRead f.addr 128
    let img := s.devRead f.addr (pkgBytes hdr)
    let p := pkgOf img
    let seen := s.devSense f.addr (max 128 (pkgBytes hdr))
    let code := pkgReject seen.boot.rev img
    let ps := seen.fleet.with' p
    let size := (ps.map fun q => pkgBytes q.img).sum
    let newer := ∀ x ∈ seen.fleet.pkgs, x.id = p.id → x.ver < p.ver
    let fits := ps.length ≤ 32 ∧ size ≤ 16777216
    let flashed := ok = true ∧ seen.boot.die0 = false ∧ seen.pkgRegions ≠ [] ∧ ∀ e ∈ seen.pkgRegions, size ≤ e.len
    let dropped := s.pkgDrop id.toNat
    let stored := seen.pkgStore ps
    let c := s.at t
    let stop := c.start c.curFrame + c.L
    let last := stop - ((q.m - q.j) * c.stS + 20000)
    let begin := c.time.running = true ∧ bit (c.reg (dcuK 0x3800)) 0 = true ∧ (c.rot row.val).queue = q :: rest ∧ (c.rot row.val).run = none ∧ c.time.now < stop ∧ c.stFree q.stable = true ∧ c.stBusy q.stable = false
    let on := ((c.domainsOn [q.stable]).1.updRot row.val fun r => { r with queue := rest, run := some (q.stable, (c.domainsOn [q.stable]).1.time.now + (c.domainsOn [q.stable]).1.stS) })
    let taken : Chip := { on with core := { on.core with testing := q.stable :: on.core.testing } }
    (f.state ≠ 1 → exec .packageLoad s = .next (s.withChip { s.toChip with fleet := { f with state := 1, rej := 0, addr := bits (s.reg (dcuK 0x8100)) 47 12 * 4096 } })) ∧
    (f.state = 1 → exec .packageLoad s = .next (s.withChip (s.countErr dcuErr))) ∧
    (f.state ≠ 1 → (∃ x ∈ f.pkgs, x.id = id.toNat) → exec (.packageRemove id) s = .next (s.withChip { dropped with fleet := { dropped.fleet with state := 2, rej := 0, last := id.toNat } })) ∧
    ((f.state = 1 ∨ ∀ x ∈ f.pkgs, x.id ≠ id.toNat) → exec (.packageRemove id) s = .next (s.withChip (s.countErr dcuErr))) ∧
    (f.state = 1 → code ≠ 0 → exec (.packageCheckDone ok) s = .next (s.withChip (seen.pkgRefuse code p.id))) ∧
    (f.state = 1 → code = 0 → ¬ newer → exec (.packageCheckDone ok) s = .next (s.withChip (seen.pkgRefuse 6 p.id))) ∧
    (f.state = 1 → code = 0 → newer → ¬ fits → exec (.packageCheckDone ok) s = .next (s.withChip (seen.pkgRefuse 7 p.id))) ∧
    (f.state = 1 → code = 0 → newer → fits → ¬ flashed → exec (.packageCheckDone ok) s = .next (s.withChip (seen.pkgRefuse 8 p.id))) ∧
    (f.state = 1 → code = 0 → newer → fits → flashed → exec (.packageCheckDone ok) s = .next (s.withChip
      { stored with fleet := { seen.fleet with pkgs := ps, state := 2, rej := 0, last := p.id } })) ∧
    (begin → exec (.selftestSlotStart row t) s = .next (s.withChip (taken.stSet q.stable 3 3 (b2n (decide (last < taken.time.now)))))) ∧
    ((c.rot row.val).run = some (key, due) → c.time.now < due → exec (.selftestSlotEnd row t [] ok) s = .next (s.withChip c)) ∧
    ((c.rot row.val).run = some (key, due) → due ≤ c.time.now →
      let idle := c.updRot row.val fun r => { r with run := none }
      let freed : Chip := { idle with core := { idle.core with testing := idle.core.testing.filter (· ≠ key) } }
      let passed := (freed.bump (stbK key 0x188)).stSet key 4 4 1
      let off := passed.domainsOff [key]
      (off.rot row.val).queue ≠ [] → exec (.selftestSlotEnd row t [] false) s = .next (s.withChip off))

/-- Plan records at an island that is up. A doorbell from the hall that SI_PLANSRC names takes a record that every check passes as
    pending for its frame, to be accepted to the other island and, without a trap, acknowledged to the port; a failed check counts
    PLAN_REJ and gives its code; another hall counts an access error. The other island's oldest acceptance is noted for its frame, where
    it is up and the link between the two is not fenced. At D(F) the next frame, or the first that a record names, is good where both
    islands accepted the same record, and otherwise counts BADCNT and BADRUN, whose third in a row triggers a stop. The islands' time
    and stop registers. Without time for 100 µs an island that is up holds; 1 ms after time returned the hold ends. Time reaches each
    die of a running block but the acting DCU's own; an island in hold, and island B while A holds, hears it and keeps its own copy.
    RESUME acts in STOP only, where it clears SI_STOPREQ; the watchdog takes 0x5A then 0xA5, and any other key, a passed WDTIME and a
    bad crystal trap. A ring record goes to queue 0 or to the log. Where a clause leaves the state as it is because its command finds no
    condition of its own met, that is the model's choice (log 30). The DEVTIME at which a command acts comes with it (the model's
    choice, log 51). -/
def Obligations.IslandPlansTimeStops : Prop :=
  (∀ (s : State) (i : Isl) (site : Fin 72) (buf : Fin 4) (code f q crc t : Nat) (rest : List (Nat × Nat × Nat)),
     let x := s.isl i
     let r := s.planBuf i x.wbuf
     let frame := fieldAt r 8 8
     let seq := fieldAt r 0x28 4
     let named := s.hallOf site.val = some (bits (s.reg (siK i 0x20)) 7 0)
     let key := (frame, seq, fieldAt r 4 4)
     let sent := s.updIsl (otherIsl i) fun y => { y with accOut := rest }
     let c := s.at t
     let y := c.isl i
     let next := y.up = true ∧ y.fs ≠ none ∧ y.timed = true ∧ ((y.decided = none ∧ ∀ e ∈ y.mine, f ≤ e.1) ∨ ∃ g, y.decided = some g ∧ f = g + 1) ∧ y.deadline f ≤ (c.localTime (islDie i) : Int)
     let agreed := ∃ a, y.mine.look f = some a ∧ y.peers.look f = some a
     let decided := fun (c : Chip) (good : Bool) => (c.updIsl i fun s =>
       let s := { s with decided := some f, outs := (good :: s.outs).take 100, badrun := if good then 0 else s.badrun + 1, pend := s.pend.filter (fun b => good || c.bufFrame i b != f), mine := s.mine.filter fun e => decide (f < e.1), peers := s.peers.filter fun e => decide (f < e.1) }
       { s with trig := if s.badrun ≥ 3 ∨ s.bad100 > 5 then s.trig ++ [1] else s.trig }).islFlag i 4
     (x.up = true → named → s.planCheck i buf.val = 0 → exec (.planDoorbell i site buf) s = .next (s.withChip (s.updIsl i fun y =>
       let y := { y with lastAcc := some (frame, seq), mine := y.mine.set frame (seq, fieldAt r 4 4), pend := y.pend ++ [buf.val], accOut := y.accOut ++ [key], ackOut := if y.trap = 0 then y.ackOut ++ [(site.val, seq)] else y.ackOut }
       { y with wbuf := y.freeBuf }))) ∧
     (x.up = true → named → s.planCheck i buf.val = code → code ≠ 0 → exec (.planDoorbell i site buf) s = .next (s.withChip
       (((s.bump (siK i 0x58)).setReg (siK i 0x78) (code + frame % 2 ^ 32 * 2 ^ 32)).islEvent i .PLAN_REJECTED code frame))) ∧
     (x.up = true → ¬ named → exec (.planDoorbell i site buf) s = .next (s.withChip (s.bump (siK i 0xC0)))) ∧
     ((s.isl (otherIsl i)).accOut = (f, q, crc) :: rest → (sent.isl i).up = true → sent.peerLink i = true →
       exec (.acceptanceMessageReceive i) s = .next (s.withChip (sent.updIsl i fun y => { y with peers := y.peers.set f (q, crc) }))) ∧
     ((s.isl (otherIsl i)).accOut = (f, q, crc) :: rest → ((sent.isl i).up = false ∨ sent.peerLink i = false) →
       exec (.acceptanceMessageReceive i) s = .next (s.withChip sent)) ∧
     (next → agreed → exec (.frameOutcome i f t) s = .next (s.withChip (decided c true))) ∧
     (next → ¬ agreed → exec (.frameOutcome i f t) s = .next (s.withChip (decided (c.bump (siK i 0x60)) false)))) ∧
  (∀ (s : State) (i : Isl) (t b : Nat) (v : Byte) (die : Fin 82) (off : Fin 41) (r : EvtRec) (er : ErrRec) (rest : List RingRec),
     let c := s.at t
     let x := c.isl i
     let now := c.localTime (islDie i)
     let y := s.isl i
     let holds := y.dthold = true ∨ (i = .B ∧ s.islA.dthold = true)
     (x.up = true → x.timed = true → x.dthold = false → x.timeAt + 100000 ≤ now →
       exec (.dtholdEnter i t) s = .next (s.withChip (c.updIsl i fun y => { y with dthold := true, timeBack := none }))) ∧
     (x.timeBack = some b → x.dthold = true → b + 1000000 ≤ now →
       exec (.dtholdClear i t) s = .next (s.withChip (c.updIsl i fun y => { y with dthold := false, timeBack := none }))) ∧
     (s.boot.held = false → die.val ≠ 0x4E + s.boot.acting → die.val ≠ 0x50 → die.val ≠ 0x51 →
       exec (.devtimeDistribution die off) s = .next (s.withChip (s.setOffset die.val ((off.val : Int) - 20)))) ∧
     (die.val = islDie i → s.boot.acting < 2 → s.boot.held = false → y.held = false → y.timed = true → s.islLink i = true → (i = .A → s.boot.die0 = false) → holds →
       exec (.devtimeDistribution die off) s = .next (s.withChip (s.timeToIsl i))) ∧
     (die.val = islDie i → s.boot.acting < 2 → s.boot.held = false → y.held = false → y.timed = true → s.islLink i = true → (i = .A → s.boot.die0 = false) → ¬ holds →
       exec (.devtimeDistribution die off) s = .next (s.withChip ((s.setOffset die.val ((off.val : Int) - 20)).timeToIsl i))) ∧
     (die.val = 0x4E + s.boot.acting → exec (.devtimeDistribution die off) s = .next s) ∧
     (y.pmode = 3 → exec (.siResume i) s = .next (s.withChip ((s.setReg (siK i 0x18) 0).updIsl i fun y => { y with resumed := true }))) ∧
     (y.pmode ≠ 3 → exec (.siResume i) s = .next s) ∧
     (v = 0x5A → exec (.watchdogKey i v) s = .next (s.withChip (s.updIsl i fun y => { y with wdtKey := true }))) ∧
     (v = 0xA5 → exec (.watchdogKey i v) s = .next (s.withChip (s.updIsl i fun y => if y.wdtKey then { y with wdtKey := false, wdtAt := s.localTime (islDie i) } else y))) ∧
     (v ≠ 0x5A → v ≠ 0xA5 → exec (.watchdogKey i v) s = .next (s.withChip (s.islTrap i 0x20))) ∧
     (x.wdtAt + bits (c.reg (siK i 0xA8)) 15 0 * 100000 ≤ now → exec (.watchdogExpiry i t) s = .next (s.withChip (c.islTrap i 0x20))) ∧
     (y.up = true → y.trap = 0 → exec (.clockMonitorTrap i) s = .next (s.withChip (s.islTrap i 0x22))) ∧
     (y.ring = .evt r :: rest → s.linkHears i = true →
       exec (.islandRecordCopy i) s = .next (s.withChip ((s.updIsl i fun y => { y with ring := rest }).postTo 0 r))) ∧
     (y.ring = .err er :: rest → s.linkHears i = true → exec (.islandRecordCopy i) s = .next (s.withChip
       (let c := s.updIsl i fun y => { y with ring := rest }
        { c with log := { c.log with inbox := c.log.inbox ++ [{ er with flags := er.flags + 4 }] } }))) ∧
     (y.ring = [] → exec (.islandRecordCopy i) s = .next s))

/-- Control samples of an island that is up, where its own DEVTIME copy stands at a multiple of CSP later than its last sample, the
    channel results that are due applied first: without a trap it activates a due plan, decides its plan state, flags a change, computes
    its set-points, and holds and sends the compare message; with a trap whose safe outputs are not yet out, it puts them out. A compare
    message that arrives sound, on a link that is not fenced, at an island without a trap is held for the comparison, where island B in
    hold takes A's time. The comparison half a sample after the sample: without a message MISSCNT is counted, and the second miss in a
    row drops the peer and triggers a stop; with one, the eighth good one in a row makes the peer good, and any difference in time,
    state, frame, SEQ, outcome counts or set-points, or a run of distant channels, is counted and triggers a stop. The DEVTIME at which
    a command acts comes with it (the model's choice, log 51). -/
def Obligations.ControlAndComparePoints : Prop :=
  (∀ (s : State) (i : Isl) (t g : Nat) (m : CmpMsg),
     let c := (s.at t).leSettle i
     let x := c.isl i
     let due := c.instant (islDie i) (c.csp i) = some g ∧ x.up = true ∧ ∀ u, x.sampled = some u → u < g
     let c1 := c.updIsl i fun y => { y with sampled := some g }
     let c2 := (c1.activate' i g 3).sampleMode i g
     let c3 := if (c2.isl i).pmode ≠ x.pmode then c2.islFlag i 2 else c2
     let c4 := c3.updIsl i fun y => { y with sp := c3.setPoints i g }
     let taken := s.updIsl (otherIsl i) fun y => { y with link := none }
     let held := taken.updIsl i fun y => { y with got := some m }
     (due → x.trap = 0 → exec (.controlSample i t) s = .next (s.withChip
       ((c4.updIsl i fun y => { y with sent := some (c4.cmpMsg i g), link := some (c4.cmpMsg i g) }).islFlag i 0))) ∧
     (due → x.trap ≠ 0 → x.safe = false → exec (.controlSample i t) s = .next (s.withChip (c1.safeOutputs i))) ∧
     (due → x.trap ≠ 0 → x.safe = true → exec (.controlSample i t) s = .next (s.withChip c1)) ∧
     (c.instant (islDie i) (c.csp i) = none → exec (.controlSample i t) s = .next (s.withChip c)) ∧
     ((s.isl (otherIsl i)).link = some m → (taken.isl i).up = true → taken.peerLink i = true → (taken.isl i).trap = 0 → m.dthold = false → (held.isl .B).dthold = false →
       exec (.compareMessageReceive i true) s = .next (s.withChip held)) ∧
     ((s.isl (otherIsl i)).link = some m → exec (.compareMessageReceive i false) s = .next (s.withChip taken))) ∧
  (∀ (s : State) (i : Isl) (t : Nat) (own m : CmpMsg),
     let c := s.at t
     let x := c.isl i
     let due := x.sent = some own ∧ x.up = true ∧ x.trap = 0 ∧ own.time + c.csp i / 2 ≤ c.localTime (islDie i)
     let c1 := c.updIsl i fun y => { y with sent := none, got := none }
     let xr := xcmpRuns x own m
     let same := own.time = m.time ∧ own.pmode = m.pmode ∧ own.frame = m.frame ∧ own.seq = m.seq ∧ own.badrun = m.badrun ∧ own.bad100 = m.bad100 ∧ own.sp = m.sp ∧
       ∀ e ∈ xr, e.2 < bits (c1.reg (siK i 8)) 27 24
     let good := c1.updIsl i fun y => { y with missRun := 0, goodRun := y.goodRun + 1, peer := y.peer || decide (y.goodRun + 1 ≥ 8), xrun := xr }
     (due → x.got = none → exec (.comparePoint i t) s = .next (s.withChip
       ((c1.bump (siK i 0x70)).updIsl i fun y => { y with goodRun := 0, missRun := y.missRun + 1, peer := if 1 ≤ y.missRun then false else y.peer, trig := if 1 ≤ y.missRun then y.trig ++ [3] else y.trig }))) ∧
     (due → x.got = some m → same → exec (.comparePoint i t) s = .next (s.withChip good)) ∧
     (due → x.got = some m → ¬ same → exec (.comparePoint i t) s = .next (s.withChip ((good.bump (siK i 0x68)).updIsl i fun y => { y with trig := y.trig ++ [2] }))))

/-- Loop Engine channels. Results whose time has come are applied first. Where the island's own DEVTIME copy stands at a microsecond
    of the channel's period and phase, later than its last sample, of an engine that is on and an island that is up with its safe
    outputs not yet taken, a sample takes the bank switch and the waiting command, then the first trip that applies: a lost source, an
    input outside its limits, limits that are out of order; without one it evaluates the law. OFF and TRIPPED channels evaluate nothing.
    The four commands wait for the next sample, the last one winning. Island register commands, each after the channel results that are
    due: a bit of SI_STOPREQ that its master may set is set; a coefficient word written by an allowed master is stored, used from the
    next snapshot; EN = 0 loses the Loop Engine's staged values and sets every channel OFF. The DEVTIME at which a command acts comes
    with it (the model's choice, log 51). -/
def Obligations.LoopEngineAndIslandRegisters : Prop :=
  (∀ (s : State) (i : Isl) (n : Fin 32) (t g : Nat) (ev : LeEval) (late : Bool),
     let c := (s.at t).leSettle i
     let cfg := c.reg (chK i n.val 0)
     let route := c.reg (chK i n.val 8)
     let at' := c.instant (islDie i) 1000 = some g
     let due := (c.isl i).up = true ∧ (c.isl i).safe = false ∧ c.leOn i = true ∧ (∀ u, ((c.isl i).ch n.val).last = some u → u < g) ∧ chPer cfg ≠ 0 ∧ g / 1000 % chPer cfg = chPhase cfg
     let c0 := c.updCh i n.val fun h => { h with last := some g }
     let sw := c0.updCh i n.val fun h => h.swap (bits (c.reg (chK i n.val 0x10)) 0 0)
     let h := (sw.isl i).ch n.val
     let w := h.word h.bankact
     let y := fadd32 (fmul32 (w 8) (c0.leSource i n.val route)) (w 9)
     let c1 := sw.leCommand i n.val y (s.chHeld i n.val)
     let st := ((c1.isl i).ch n.val).st
     let lost := c0.srcLost i route (chPer cfg) g
     let inside := (!fin32 y || flt32 y (w 10) || flt32 (w 11) y) = false
     let is := fun (o : Chip) => exec (.channelSample i n t ev late) s = .next (s.withChip o)
     let waits := fun (k : Nat) => s.withChip (s.updCh i n.val fun h => { h with cmd := some k })
     (at' → due → (st = 0 ∨ st = 4) → is c1) ∧
     (at' → due → st ≠ 0 → st ≠ 4 → lost = true → is (c1.leTrip i n.val 6)) ∧
     (at' → due → st ≠ 0 → st ≠ 4 → lost = false → ¬ inside → is (c1.leTrip i n.val 1)) ∧
     (at' → due → st ≠ 0 → st ≠ 4 → lost = false → inside → h.limitsBad h.bankact = true → is (c1.leTrip i n.val 2)) ∧
     (at' → due → st ≠ 0 → st ≠ 4 → lost = false → inside → h.limitsBad h.bankact = false → is (c1.leEval i n.val g y ev late)) ∧
     (at' → ¬ due → is c) ∧
     (c.instant (islDie i) 1000 = none → is c) ∧
     exec (.leStart i n) s = .next (waits 1) ∧ exec (.leStop i n) s = .next (waits 2) ∧ exec (.leHold i n) s = .next (waits 3) ∧ exec (.leRelease i n) s = .next (waits 4)) ∧
  (∀ (s : State) (i : Isl) (m : Master) (b : Fin 3) (n : Fin 32) (bank : Fin 2) (w : Fin 128) (v : W64) (row : RegRow),
     let c0 := s.leSettle i
     let q := leK i (0x1400 + n.val * 0x1000 + bank.val * 0x400 + 4 * w.val)
     (c0.islMay i m .w1s 0x18 (2 ^ b.val) = true → exec (.stopreqSet i m b) s = .next (s.withChip (c0.setReg (siK i 0x18) (Nat.lor (c0.reg (siK i 0x18)) (2 ^ b.val))))) ∧
     (regBad q 4 = false → regRow q.whole = some row → row.acc = .rw → c0.islMay i m .rw q.off v.toNat = true → row.ok (setBits (c0.live q.whole) (q.off % 8 * 8 + 31) (q.off % 8 * 8) v.toNat) = true →
       bankWord q.off = some (n.val, bank.val, w.val) → exec (.coefficientWrite i m n bank w false v) s = .next (s.withChip
         (c0.updCh i n.val fun h => { h with words := h.words.set (128 * bank.val + w.val) (v.toNat % 2 ^ 32) }))) ∧
     exec (.leCtlDisable i) s = .next (s.withChip
       ((c0.updCtl (.isl i) fun g => { g with lost := g.staged.keys.filter fun k => within 0x100000 0x1FFFFF k.off }).leCtl i false)))

/-- Before its own effect an instruction outside a check block, in UNCHECKED mode, with its base word and, where it executes, its
    extension words in an execute window, and accepted by decode, only moves IADDR past its words, and executes exactly where P[PRED]
    differs from PNEG. An instruction that does not execute leaves what its first steps leave: it changes no register, memory, status or
    counter. Words that decode rejects raise ILLEGAL_INSTRUCTION whether or not the instruction executes; a base word outside an execute
    window or at an address that is not 8-byte aligned, and an extension word of an instruction that executes outside one, raise ACCESS
    or ALIGNMENT: the partition's reset becomes due. -/
def Obligations.FirstStepsAndNotExecuted : Prop :=
  (∀ (c : Chip) (k : Nat) (d : IDesc) (e : Enc),
     (c.ctx k).blk = none → c.checkedMode (k / 2) = false → (c.ctx k).ia % 8 = 0 → c.fetchOk k 0 = true → d.decodes e = true →
     ((c.ctx k).rp e.pred.toNat ≠ e.pneg → c.fetchOk k d.fmt.next = true) →
     prologue k d e c = .ok (((c.ctx k).rp e.pred.toNat != e.pneg),
       c.updCtx k fun x => { x with ia := (x.ia + 8 * (1 + d.fmt.next)) % 2 ^ 48 })) ∧
  (∀ (c c1 : Chip) (r : CtxRef) (d : IDesc) (e : Enc) (body : Nat → Ex Unit),
     c.issues (slotKey r) = true →
     let f := c.fetching r
     let x := f.ctx (slotKey r)
     (prologue (slotKey r) d e f = .ok (false, c1) → c.instr r d e body = c1) ∧
     let opc := e.opcOr d.opc
     let base := f.fetchOk (slotKey r) 0
     let ext := f.fetchOk (slotKey r) d.fmt.next
     (x.ia % 8 = 0 → base = true → d.decodes e = false → (ext = true ∨ x.rp e.pred.toNat = e.pneg) →
       c.instr r d e body = f.takeFault (slotKey r) { cls := ILLEGAL_INSTRUCTION, opc := opc }) ∧
     (x.ia % 8 = 0 → base = true → d.decodes e = true → e.alt = none → e.next.toNat = d.fmt.next → x.rp e.pred.toNat ≠ e.pneg → ext = false →
       c.instr r d e body = f.takeFault (slotKey r) { cls := ACCESS, opc := opc }) ∧
     (x.ia % 8 = 0 → base = false → c.instr r d e body = f.takeFault (slotKey r) { cls := ACCESS, opc := opc }) ∧
     (x.ia % 8 ≠ 0 → base = true → c.instr r d e body = f.takeFault (slotKey r) { cls := ALIGNMENT, opc := opc }) ∧
     (x.ia % 8 ≠ 0 → base = false → c.instr r d e body = f.takeFault (slotKey r) { cls := ACCESS, multi := true, opc := opc }))

/-- Taken branches of a context to an 8-byte aligned target that does not lie below the instruction after an open block's CHKB: BR
    and CALL go OFF40 words from their own base word, JR and JRL to S[A] as it was; CALL and JRL first write the return address. MFS and
    END of a context: CSW with PASS read as 0, LFC, the local DEVTIME copy (in the primary pass of a CHECKED block recorded, in a later
    pass the recorded value), the address of the MFS itself and PLACE; END outside a block stops the context, and its stable's saves are
    considered again. -/
def Obligations.BranchesAndStatusReads : Prop :=
  (∀ (s : State) (r : CtxRef) (e : Enc) (c : Chip),
     let k := slotKey r
     let x := c.ctx k
     let lands := fun (t : Nat) => t % 8 = 0 ∧ ∀ b, x.blk = some b → b.chkbIa + 8 ≤ t
     let rel := brTarget (x.ia - 8) e
     let ret := BitVec.ofNat 64 x.ia
     let abs := (x.rs e.a).toNat
     (Runs s.toChip r (dBr 0) e c → lands rel → exec (.br (.ctx r) e) s = .next (s.withChip (c.updCtx k fun y => { y with ia := rel % 2 ^ 48 }))) ∧
     (Runs s.toChip r (dBr 1) e c → lands rel → exec (.call (.ctx r) e) s =
       .next (s.withChip ((c.updCtx k fun y => y.ws 31 ret).updCtx k fun y => { y with ia := rel % 2 ^ 48 }))) ∧
     (Runs s.toChip r (dJr 0) e c → lands abs → exec (.jr (.ctx r) e) s = .next (s.withChip (c.updCtx k fun y => { y with ia := abs % 2 ^ 48 }))) ∧
     (Runs s.toChip r (dJr 1) e c → lands abs → exec (.jrl (.ctx r) e) s =
       .next (s.withChip ((c.updCtx k fun y => y.ws e.d ret).updCtx k fun y => { y with ia := abs % 2 ^ 48 })))) ∧
  (∀ (s : State) (r : CtxRef) (e : Enc) (c c2 : Chip) (b : Block) (q : DlyRec),
     let k := slotKey r
     let x := c.ctx k
     let put := fun (c : Chip) (v : Nat) => s.withChip (c.updCtx k fun y => y.ws e.d (BitVec.ofNat 64 v))
     (Runs s.toChip r (dMfs 0) e c → exec (.mfsCsw (.ctx r) e) s = .next (put c (setBits (c.csw k x) 6 6 0))) ∧
     (Runs s.toChip r (dMfs 1) e c → exec (.mfsLfc (.ctx r) e) s = .next (put c x.lfc)) ∧
     (Runs s.toChip r (dMfs 2) e c → x.chk = none → exec (.mfsDevtime (.ctx r) e) s = .next (put c (c.localTime (k / 8)))) ∧
     (Runs s.toChip r (dMfs 2) e c → x.chk = some b → b.state = 1 → record k 16 (c.localTime (k / 8)) c = .ok ((), c2) →
       exec (.mfsDevtime (.ctx r) e) s = .next (put c2 (c.localTime (k / 8)))) ∧
     (Runs s.toChip r (dMfs 2) e c → x.chk = some b → b.state ≠ 1 → b.recs[b.recPos]? = some q → q.bad = false → q.fixed = false →
       exec (.mfsDevtime (.ctx r) e) s = .next (put (c.updCtx k fun y => { y with blk := y.blk.map fun b => { b with recPos := b.recPos + 1 } }) q.val)) ∧
     (Runs s.toChip r (dMfs 3) e c → exec (.mfsIaddr (.ctx r) e) s = .next (put c (x.ia - 8))) ∧
     (Runs s.toChip r (dMfs 4) e c → exec (.mfsPlace (.ctx r) e) s = .next (put c (c.place k))) ∧
     (Runs s.toChip r dEnd e c → x.blk = none → exec (.endContext (.ctx r) e) s =
       .next (s.withChip ((c.updCtx k fun y => { y with state := 0, wait := .none, saving := none }).frameDone x.part |>.reconsider (k / 2)))))

/-- Scalar loads and stores of a context, and descriptor moves, where the addressed bytes are readable or writable: LD extends the
    bytes by SUB; ST stores the low bytes of S[D] through the path of every store; TDLD validates and loads a descriptor from the
    32-byte word, and a bit alias, which reads zero at that width and is counted, gives it none (DESCRIPTOR); TDST stores one, and
    TDBASE replaces the BASE of one, whose RANK is not 0. -/
def Obligations.LoadsAndStores : Prop :=
  ∀ (s : State) (r : CtxRef) (e : Enc) (c c2 : Chip) (sub : BitVec 8) (v : Nat) (bs : List Byte),
    let k := slotKey r
    let x := c.ctx k
    let a := (x.rs e.a + e.imm30).toNat
    let w := a / 32 * 32
    let odd : Trap := { cls := DESCRIPTOR, chip := c.bump (hallMemK (k / 8) 0x10) }
    (Runs s.toChip r (dLd sub.toNat) e c → (c.asyncHit k a (ldBytes sub.toNat) && x.chk.isSome) = false → scalarLoad k a (ldBytes sub.toNat) c = .ok (v, c2) →
      exec (.ld (.ctx r) sub e) s = .next (s.withChip (c2.updCtx k fun y => y.ws e.d (ldExtend sub.toNat v)))) ∧
    (Runs s.toChip r (dSt sub.toNat) e c → scalarStore k a (leBytes (2 ^ (sub.toNat % 4)) (x.rs e.d).toNat) c = .ok ((), c2) →
      exec (.st (.ctx r) sub e) s = .next (s.withChip c2)) ∧
    (Runs s.toChip r (dTd 0) e c → (localAlias w).isSome = true →
      exec (.tdld (.ctx r) e) s = .next (s.withChip (odd.take (s.fetching r) k (dTd 0).opc))) ∧
    (Runs s.toChip r (dTd 0) e c → (localAlias w).isSome = false → (c.asyncHit k w 32 && x.chk.isSome) = false → rd k w 32 c = .ok (bs, c2) →
      (∀ q ∈ descFaults (BitVec.ofNat 256 (leNat bs)), q.1 = false) →
      exec (.tdld (.ctx r) e) s = .next (s.withChip (c2.updCtx k fun y => { y with td := y.td.set e.d (BitVec.ofNat 256 (leNat bs)) }))) ∧
    (Runs s.toChip r (dTd 1) e c → (descOf (x.td.get e.d 0)).rank ≠ 0 → scalarStore k w (leBytes 32 (x.td.get e.d 0).toNat) c = .ok ((), c2) → exec (.tdst (.ctx r) e) s = .next (s.withChip c2)) ∧
    (Runs s.toChip r (dTd 2) e c → (descOf (x.td.get e.d 0)).rank ≠ 0 → a < 2 ^ 48 → (∀ q ∈ descFaults (setFld (x.td.get e.d 0) 47 0 w), q.1 = false) →
      exec (.tdbase (.ctx r) e) s = .next (s.withChip (c.updCtx k fun y => { y with td := y.td.set e.d (setFld (x.td.get e.d 0) 47 0 w) })))

/-- MOV of a context, with operands that the instruction accepts and footprints that are readable and writable: COPY moves the
    chunks of its rows and sets the tags of the written blocks, FILL repeats the element pattern of S[SA]; ATOM of a word in a hall's
    bank outside a CHECKED block answers the old bytes and sets or clears the bits that the data names. -/
def Obligations.MovesAndAtomics : Prop :=
  ∀ (s : State) (r : CtxRef) (e : Enc) (c c2 c3 : Chip) (w : List Nat) (ks : List Nat) (old : List Byte),
    let k := slotKey r
    let x := c.ctx k
    let src := descOf (x.td.get e.a 0)
    let dst := descOf (x.td.get e.d 0)
    let pat := (x.rs e.b).toNat % 2 ^ dst.bits
    let atom := fun (sub : Nat) (i : Instr) =>
      Runs s.toChip r (dAtom sub) e c → x.chk = none → c.atomKeys k (x.rs e.a).toNat (if sub < 2 then 8 else 4) = some ks →
      rmw ks (sub % 2 == 1) (leBytes (if sub < 2 then 8 else 4) (x.rs e.b).toNat) c = .ok (old, c2) →
      exec i s = .next (s.withChip (c2.updCtx k fun y => y.ws e.d (BitVec.ofNat 64 (leNat old))))
    (Runs s.toChip r (dMov 0) e c → (∀ q ∈ c.copyFaults k src dst, q.1 = false) →
      moveChunks k (dst.base / 4096) (copySrc k src dst) (copyPlan src dst) [] [] c = .ok (w, c2) → copyTags k src dst w c2 = .ok ((), c3) →
      exec (.movCopy (.ctx r) e) s = .next (s.withChip c3)) ∧
    (Runs s.toChip r (dMov 1) e c → dst.usable = true → isMX dst.fmt = false → dst.smap = 63 → dst.touchesAlias = false →
      (∀ q ∈ fillPlan dst, (c.xlate k q.dst q.n true).isSome = true) →
      moveChunks k (dst.base / 4096) (fillSrc k dst pat) (fillPlan dst) [] [] c = .ok (w, c2) →
      (if dst.pol = 0 then tagKeys k (sortBy id w) else pure ()) c2 = .ok ((), c3) →
      exec (.movFill (.ctx r) e) s = .next (s.withChip c3)) ∧
    atom 0 (.atomSet64 (.ctx r) e) ∧ atom 1 (.atomClr64 (.ctx r) e) ∧ atom 2 (.atomSet32 (.ctx r) e) ∧ atom 3 (.atomClr32 (.ctx r) e)

/-- Matrix products and convolutions that write D: the operands are accepted and readable (`read` gives them as a product, `readC`
    the epilogue's operand) and D is writable; each enabled output is the accumulated sum through the epilogue, the working tiles read
    zero afterwards, and the events go to the counters and P[SP]. Matrix products and convolutions that add to the accumulator tiles:
    every enabled element's tile word, read good, becomes the accumulation from the word there (`Ctx.setAcc`: negated through a later
    pass that does so), no memory is written, and the events, a NaN in a tile among them, go to the counters and P[SP]. ACCST writes the
    tile words of D's elements, raw or through the epilogue, and leaves the tiles; ACCLD fills the tiles from A. The tile words read are
    good. -/
def Obligations.TensorProducts : Prop :=
  (∀ (s : State) (r : CtxRef) (e : Enc) (c c2 c3 c4 : Chip) (p : MacProd) (co : Option COp) (f : NumFlags),
     let k := slotKey r
     let a := descOf ((c.ctx k).td.get e.a 0)
     let b := descOf ((c.ctx k).td.get e.b 0)
     let od := descOf ((c.ctx k).td.get e.d 0)
     let row := fun (d : IDesc) (o : MacOp) (i : Instr) =>
       Runs s.toChip r d e c → (∀ q ∈ c.macFaults k o true e a b od, q.1 = false) → o.read k e a b c = .ok (p, c2) → readC k e od c2 = .ok (co, c3) →
       let res := (c3.ctx k).prodVals e p co
       writeTensor k od (res.map Prod.fst) e.sr e.seed (fun j => p.unit (j / p.n)) c3 = .ok (f, c4) →
       exec i s = .next (s.withChip ((c4.updCtx k fun x => x.zeroTiles e.acc).noteFlags k e.sp (f.or { sat := res.any Prod.snd })))
     row (dT 0x20 0 1) .mm (.mm (.ctx r) e) ∧ row (dT 0x20 2 1) .mmSp (.mmSp (.ctx r) e) ∧
     row (dT 0x21 0 (maskOf 26 0)) .conv (.conv2d (.ctx r) e) ∧ row (dT 0x21 2 (maskOf 26 0)) .dw (.dwconv (.ctx r) e) ∧
     row (dT 0x21 3 (maskOf 26 0)) .convSp (.conv2dSp (.ctx r) e)) ∧
  (∀ (s : State) (r : CtxRef) (e : Enc) (c c2 c3 : Chip) (p : MacProd),
     let k := slotKey r
     let a := descOf ((c.ctx k).td.get e.a 0)
     let b := descOf ((c.ctx k).td.get e.b 0)
     let od := descOf ((c.ctx k).td.get e.d 0)
     let row := fun (d : IDesc) (o : MacOp) (i : Instr) =>
       Runs s.toChip r d e c → (∀ q ∈ c.macFaults k o false e a b od, q.1 = false) → o.read k e a b c = .ok (p, c2) →
       let res := (c2.ctx k).accVals e p
       let keys := res.map Prod.fst
       senseTiles k keys c2 = .ok ((), c3) →
       exec i s = .next (s.withChip (((c3.updCtx k fun x => x.setAcc (some p.int) (res.map fun q => (q.1, BitVec.ofNat 32 q.2.1))).cleanTiles k keys).noteFlags k e.sp
         { sat := res.any fun q => q.2.2, nan := !p.int && res.any fun q => f32 q.2.1 == .nan }))
     row (dT 0x20 1 1) .mm (.mma (.ctx r) e) ∧ row (dT 0x20 3 1) .mmSp (.mmaSp (.ctx r) e) ∧
     row (dT 0x21 1 (maskOf 26 0)) .conv (.conv2dAcc (.ctx r) e)) ∧
  (∀ (s : State) (r : CtxRef) (e : Enc) (c c1 c2 c3 : Chip) (co : Option COp) (f : NumFlags) (cells : List (Nat × Nat × Byte)) (es : List Nat),
     let k := slotKey r
     let x := c.ctx k
     let od := descOf (x.td.get e.d 0)
     let a := descOf (x.td.get e.a 0)
     let unit := fun i => (accUnit od (i / od.len)).1
     (Runs s.toChip r (dT 0x22 0 1 (fA + fB)) e c → (∀ q ∈ c.accstFaults k e od, q.1 = false) →
       readC k e od c = .ok (co, c1) → senseTiles k ((c1.ctx k).tileKeysOf e od true) c1 = .ok ((), c2) → bit e.prm 0 = false → writeTensor k od ((c1.ctx k).accstVals e od co) e.sr e.seed unit c2 = .ok (f, c3) →
       exec (.accst (.ctx r) e) s = .next (s.withChip (c3.noteFlags k e.sp f))) ∧
     (Runs s.toChip r (dT 0x22 0 1 (fA + fB)) e c → (∀ q ∈ c.accstFaults k e od, q.1 = false) →
       e.ce = false → bit e.prm 0 = true → senseTiles k (x.tileKeysOf e od true) c = .ok ((), c1) → elemCells k od (x.accstRaw e od) unit c1 = .ok (cells, c2) → emit k (od.pol == 0) cells c2 = .ok ((), c3) →
       exec (.accst (.ctx r) e) s = .next (s.withChip (c3.noteFlags k e.sp { nan := (x.accstRaw e od).any fun w => w.any fun n => f32 n == .nan }))) ∧
     (Runs s.toChip r (dT 0x23 0 3 (fD + fB)) e c → (∀ q ∈ c.accldFaults k e a, q.1 = false) →
       readRaw k a c = .ok (es, c1) → senseTiles k ((c1.ctx k).tileKeysOf e a false) c1 = .ok ((), c2) →
       exec (.accld (.ctx r) e) s = .next (s.withChip (((c2.updCtx k fun x => x.accld e a es).cleanTiles k ((List.range (4096 * a.tiles)).map (· + 4096 * e.acc))).noteFlags k e.sp
         { nan := (c1.ctx k).accldNan e a es }))))

/-- Reductions, softmax, gathers, scatters, reshapes and norms: accepted operands are read (of a gather's table, and of D in
    SCATTER.ADD, the rows that an index names), the values of the row's rule are written to D under the mask, and the events go to the
    counters and P[SP]. The elementwise group: act(a op b) under the mask, by 64-element blocks. -/
def Obligations.TensorFunctionsAndElementwise : Prop :=
  (∀ (s : State) (r : CtxRef) (e : Enc) (c c0 c1 c2 c3 c4 : Chip) (a b d : Desc) (vs gb : List FV) (ix : List Nat) (g : NumFlags) (cells : List (Nat × Nat × Byte)),
     let k := slotKey r
     let stored := fun (c : Chip) (vals : List (Option FV)) (f : NumFlags) (i : Instr) =>
       writeTensor k d ((c.ctx k).masked e d vals) e.sr e.seed (rowUnit d) c = .ok (g, c4) → exec i s = .next (s.withChip (c4.noteFlags k e.sp (g.or f)))
     let reduce := fun (sub : Nat) (i : Instr) => Runs s.toChip r (dT 0x24 sub 7 (fB + fACC)) e c → reduceOps sub e k c = .ok ((a, d), c1) → readF32 k a c1 = .ok (vs, c2) →
       stored c2 ((reduceLines e.prm a d vs).map fun l => some (reduceFold sub l)) {} i
     let soft := fun (sub : Nat) (i : Instr) => Runs s.toChip r (dT 0x25 sub 0 (fB + fACC)) e c → sameOps e k false false c = .ok ((a, d), c1) → readF32 k a c1 = .ok (vs, c2) →
       writeTensor k d ((((c2.ctx k).softmaxRows (sub == 1) e d vs).map Prod.fst).flatten.map some) e.sr e.seed (rowUnit d) c2 = .ok (g, c3) →
       exec i s = .next (s.withChip (c3.noteFlags k e.sp (g.or { mask := ((c2.ctx k).softmaxRows (sub == 1) e d vs).any Prod.snd })))
     let norm := fun (sub : Nat) (i : Instr) => Runs s.toChip r (dT 0x28 sub (maskOf 31 0) fACC) e c → normOps (sub == 0) e k c = .ok ((a, d, b), c1) →
       readF32 k a c1 = .ok (vs, c2) → readF32 k b c2 = .ok (gb, c3) → stored c3 ((normVals (sub == 0) (f32 e.prm) a d vs gb).map some) {} i
     let scatter := fun (sub : Nat) (i : Instr) => Runs s.toChip r (dT 0x26 sub 0 fACC) e c → scatterOps e k c = .ok ((a, d, b), c0) → readF32 k a c0 = .ok (vs, c1) →
       readIdx k b c1 = .ok (ix, c2) → (if sub = 2 then readF32On ix.contains k d else pure []) c2 = .ok (gb, c3) →
       stored c3 (scatterVals (sub == 2) a d vs gb ix) { idx := ix.any fun j => decide (j ≥ d.rows) } i
     reduce 0 (.reduceSum (.ctx r) e) ∧ reduce 1 (.reduceMax (.ctx r) e) ∧ reduce 2 (.reduceMin (.ctx r) e) ∧
     (Runs s.toChip r (dT 0x24 3 7 (fB + fACC)) e c → reduceOps 3 e k c = .ok ((a, d), c1) → readF32 k a c1 = .ok (vs, c2) →
       elemCells k d ((c2.ctx k).masked e d ((reduceLines e.prm a d vs).map fun l => some (argmaxOf l % 65536))) (rowUnit d) c2 = .ok (cells, c3) →
       emit k (d.pol == 0) cells c3 = .ok ((), c4) → exec (.reduceArgmax (.ctx r) e) s = .next (s.withChip (c4.noteFlags k e.sp {}))) ∧
     soft 0 (.softmax (.ctx r) e) ∧ soft 1 (.logsoftmax (.ctx r) e) ∧
     (Runs s.toChip r (dT 0x26 0 0 fACC) e c → gatherOps e k c = .ok ((a, d, b), c1) → readIdx k b c1 = .ok (ix, c2) → readF32On ix.contains k a c2 = .ok (vs, c3) →
       stored c3 (gatherVals a vs ix) { idx := ix.any fun j => decide (j ≥ a.rows) } (.gather (.ctx r) e)) ∧
     scatter 1 (.scatter (.ctx r) e) ∧ scatter 2 (.scatterAdd (.ctx r) e) ∧
     (Runs s.toChip r (dT 0x27 0 (maskOf 17 0) (fB + fACC)) e c → transposeOps e k c = .ok ((a, d), c1) → readF32 k a c1 = .ok (vs, c2) →
       stored c2 ((transposeVals e a d vs).map some) {} (.reshapeTranspose (.ctx r) e)) ∧
     (Runs s.toChip r (dT 0x27 1 0 (fB + fACC)) e c → sameOps e k true true c = .ok ((a, d), c1) → readF32 k a c1 = .ok (vs, c2) →
       stored c2 (vs.map some) {} (.reshapeConvert (.ctx r) e)) ∧
     norm 0 (.layernorm (.ctx r) e) ∧ norm 1 (.rmsnorm (.ctx r) e)) ∧
  (∀ (s : State) (r : CtxRef) (e : Enc) (c c2 c3 c4 : Chip) (av bv : List FV) (f : NumFlags),
     let k := slotKey r
     let a := descOf ((c.ctx k).td.get e.a 0)
     let b := descOf ((c.ctx k).td.get e.b 0)
     let d := descOf ((c.ctx k).td.get e.d 0)
     let row := fun (sub : Nat) (i : Instr) => Runs s.toChip r (dT 0x48 sub 0 (if sub = 3 then fB + fACC else fACC)) e c → (∀ q ∈ c.ewFaults k sub e a b d, q.1 = false) → readF32 k a c = .ok (av, c2) →
       (if sub = 3 then pure [] else readF32 k b) c2 = .ok (bv, c3) →
       writeTensor k d ((c3.ctx k).masked e d ((ewVals sub e b d av bv).map some)) e.sr e.seed (fun j => j / 64) c3 = .ok (f, c4) →
       exec i s = .next (s.withChip (c4.noteFlags k e.sp f))
     row 0 (.ewAdd (.ctx r) e) ∧ row 1 (.ewMul (.ctx r) e) ∧ row 2 (.ewMax (.ctx r) e) ∧ row 3 (.ewAct (.ctx r) e))

/-- KVPAGE outside a CHECKED block, at a registered table whose header the walker accepts: ALLOC takes the page at the head of the
    free list; REF and UNREF of a live page answer the new count, which the table then holds; COW of a page with one reference answers
    that page, and of a shared page copies it to a new one, puts its number in the slot and drops a reference. The table's lists:
    KV_RECLAIM_SPLICE, once due and with no instruction waiting for it, links the batch ahead of the free list, and saved contexts that
    waited for it are runnable from now on; a write of STB_KVPT with EN = 0 unregisters the table, with EN = 1 and an acceptable table
    registers it, and while a context of the stable runs or is blocked it is discarded and counted. -/
def Obligations.KvPagesAndTables : Prop :=
  (∀ (s : State) (r : CtxRef) (e : Enc) (c c1 c2 c3 c4 : Chip) (p n : Nat) (q : KvEnt) (bs : List Byte),
     let k := slotKey r
     let x := c.ctx k
     let a := (x.rs e.a).toNat
     x.chk = none → c.kvOn (k / 2) = true → kvHeader k c = .ok ((), c) →
     (Runs s.toChip r (dKvpage 0) e c → a < 1024 → c.kvMustWait k = false → kvTake k { kvf := a % 2, dh := 32 * (bits a 3 1 + 1), hkv := bits a 9 4 + 1 } 0 c = .ok (p, c1) →
       exec (.kvpageAlloc (.ctx r) e) s = .next (s.withChip (c1.updCtx k fun y => y.ws e.d (BitVec.ofNat 64 p)))) ∧
     (Runs s.toChip r (dKvpage 1) e c → a < 65536 → kvLook k a c = .ok (q, c) → q.st = 1 → 0 < q.ref → q.ref < 65535 →
       exec (.kvpageRef (.ctx r) e) s = .next (s.withChip ((c.kvRefApply (k / 2) a true).updCtx k fun y => y.ws e.d (BitVec.ofNat 64 (q.ref + 1))))) ∧
     (Runs s.toChip r (dKvpage 2) e c → a < 65536 → kvLook k a c = .ok (q, c) → q.st = 1 → 1 ≤ q.ref → (1 < (c.kvEnt (k / 2) a).ref ∨ kvTail k c = .ok ((), c)) →
       exec (.kvpageUnref (.ctx r) e) s = .next (s.withChip ((c.kvRefApply (k / 2) a false).updCtx k fun y => y.ws e.d (BitVec.ofNat 64 (q.ref - 1))))) ∧
     (Runs s.toChip r (dKvpage 3) e c → slotAddr a 2 = true → c.kvMustWait k = false → rd k a 2 c = .ok (bs, c) → kvLook k (leNat bs) c = .ok (q, c) → q.st = 1 → q.ref = 1 →
       exec (.kvpageCow (.ctx r) e) s = .next (s.withChip (c.updCtx k fun y => y.ws e.d (BitVec.ofNat 64 (leNat bs))))) ∧
     (Runs s.toChip r (dKvpage 3) e c → slotAddr a 2 = true → c.kvMustWait k = false → rd k a 2 c = .ok (bs, c) → kvLook k (leNat bs) c = .ok (q, c) → q.st = 1 → q.ref ≠ 1 →
       kvTake k q.form q.fill c = .ok (n, c1) → n ≠ leNat bs → n ≠ 0xFFFF → copyFrame k q.frm (c1.kvEnt (k / 2) n).frm q.form q.fill false c1 = .ok ((), c2) →
       wr k 0 a (leBytes 2 n) c2 = .ok ((), c3) → c4 = c3.kvRefApply (k / 2) (leNat bs) false →
       exec (.kvpageCow (.ctx r) e) s = .next (s.withChip (c4.updCtx k fun y => y.ws e.d (BitVec.ofNat 64 n))))) ∧
  (∀ (s : State) (r : StbRef) (v : W64),
     let k := stbKey r
     let calm := fun (q : Nat) => (s.ctx q).state ≠ 2 ∧ (s.ctx q).state ≠ 3
     let base := bits v.toNat 47 5 * 32
     let linked := (s.kvSplice k).kvSaved s.toChip k
     let d := s.setReg (stbK k 0x60) (base + 1)
     (s.spliceDue k = true → (linked.ctx (2 * k)).wait = .none → (linked.ctx (2 * k + 1)).wait = .none →
       exec (.kvReclaimSplice r) s = .next (s.withChip linked)) ∧
     (calm (2 * k) → calm (2 * k + 1) → bit v.toNat 0 = false → exec (.stbKvptWrite r v) s = .next (s.withChip (s.setReg (stbK k 0x60) base))) ∧
     (calm (2 * k) → calm (2 * k + 1) → bit v.toNat 0 = true → 0x800000000000 ≤ base → 2 ≤ d.kvEntries k → base + 16 * d.kvEntries k ≤ 0x800000400000 →
       bits (d.kvWord k 0 1) 63 32 = 0 → exec (.stbKvptWrite r v) s = .next (s.withChip d)) ∧
     (¬ calm (2 * k) → exec (.stbKvptWrite r v) s = .next (s.withChip (s.bump (stbK k 0x38)))))

/-- The Search Unit's queues outside a CHECKED block, for a context of the partition that owns the unit, on a queue whose words are
    good or are corrected on the way (which is counted and recorded: `suqSound`): INSERT appends an entry where the queue has room and
    otherwise counts and answers 1; EXTRACT and PEEK answer the least key's first entry, which EXTRACT removes (EMPTY with key 2^48 − 1
    from an empty queue); COUNT answers the length; CLEAR empties the queue of bits 1:0 or, with bit 2, all, and with bit 3 zeroes
    SU_NALLOC. The node store outside a CHECKED block, for the owner, with readable and writable record addresses: NEW copies a record
    into the next node and marks it live, or counts and answers all ones when the store is full; RD and WR copy a node; NEAREST answers
    the live node of least metric, or EMPTY with node 0 and +∞ where none is live. The Search Unit's owner and capacities: a change of
    PART while EN = 1 is discarded and counted; any other value of SU_OWNER clears the unit when PART or EN changes and is stored;
    SU_QCFG takes capacities that sum to at most 256 while every queue is empty, and otherwise is discarded and counted. -/
def Obligations.SearchUnit : Prop :=
  (∀ (s : State) (r : CtxRef) (e : Enc) (u : BitVec 288) (c c1 : Chip) (key pay : Nat),
     let k := slotKey r
     let x := c.ctx k
     let a := (x.rs e.a).toNat
     let b := (x.rs e.b).toNat
     let site := k / 8
     let q := bits a 49 48
     let good := fun (q : Nat) => suqSound site q u c = .ok ((), c1)
     let len := ((c1.suSt site).queues.get q []).length
     let put := fun (c : Chip) (v : Nat) => c.updCtx k fun y => y.ws e.d (BitVec.ofNat 64 v)
     let two := fun (c : Chip) (key pay : Nat) => s.withChip ((put c pay).updCtx k fun y => y.ws e.c (BitVec.ofNat 64 key))
     x.chk = none → c.suDenied k = false →
     (Runs s.toChip r (dSuq 0) e c → a < 2 ^ 50 → b < 2 ^ 32 → good q → len < suCap (c1.reg (suK site 8)) q →
       exec (.suqInsert (.ctx r) ⟨e, u⟩) s = .next (s.withChip (put (c1.updSu site fun u => { u with queues := u.queues.upd q [] fun l => l ++ [(bits a 47 0, b)] }) 0))) ∧
     (Runs s.toChip r (dSuq 0) e c → a < 2 ^ 50 → b < 2 ^ 32 → good q → suCap (c1.reg (suK site 8)) q ≤ len →
       exec (.suqInsert (.ctx r) ⟨e, u⟩) s = .next (s.withChip (put (c1.bump (suK site 0x40)) 1))) ∧
     (Runs s.toChip r (dSuq 1) e c → a < 4 → good a → qMin ((c1.suSt site).queues.get a []) = some (key, pay) → pay < 2 ^ 32 → key < 2 ^ 48 →
       exec (.suqExtract (.ctx r) ⟨e, u⟩) s = .next (two (c1.updSu site fun u => { u with queues := u.queues.upd a [] (qDrop key) }) key pay)) ∧
     (Runs s.toChip r (dSuq 1) e c → a < 4 → good a → qMin ((c1.suSt site).queues.get a []) = none →
       exec (.suqExtract (.ctx r) ⟨e, u⟩) s = .next (two c1 (2 ^ 48 - 1) (2 ^ 32))) ∧
     (Runs s.toChip r (dSuq 2) e c → a < 4 → good a → qMin ((c1.suSt site).queues.get a []) = some (key, pay) → pay < 2 ^ 32 → key < 2 ^ 48 →
       exec (.suqPeek (.ctx r) ⟨e, u⟩) s = .next (two c1 key pay)) ∧
     (Runs s.toChip r (dSuq 3) e c → a < 4 → exec (.suqCount (.ctx r) e) s = .next (s.withChip (put c ((c.suSt site).queues.get a []).length))) ∧
     (Runs s.toChip r (dSuq 4) e c → a < 16 → exec (.suqClear (.ctx r) e) s =
       .next (s.withChip (c.updSu site fun u => { u with queues := if bit a 2 then [] else u.queues.set (a % 4) [], nalloc := if bit a 3 then 0 else u.nalloc }))) ∧
     (u = 0 → suqSound site a u c = .ok ((), c)) ∧ ((c.suSt site).queues.get a [] = [] → suqSound site a u c = .ok ((), c))) ∧
  (∀ (s : State) (r : CtxRef) (e : Enc) (c c1 c2 : Chip) (bs : List Byte) (i m : Nat),
     let k := slotKey r
     let x := c.ctx k
     let a := (x.rs e.a).toNat
     let b := (x.rs e.b).toNat
     let site := k / 8
     let n := (c.suSt site).nalloc
     let put := fun (c : Chip) (v : Nat) => s.withChip (c.updCtx k fun y => y.ws e.d (BitVec.ofNat 64 v))
     let good := fun (a : Nat) => a % 32 = 0 ∧ 0x800000000000 ≤ a ∧ a + 64 ≤ 0x800000600000
     x.chk = none → c.suDenied k = false →
     (Runs s.toChip r (dSunode 0) e c → good a → n < 32768 → rd k a 64 c = .ok (bs, c1) →
       wrNode k n (bs.take 32 ++ (bs.getD 32 0 ||| 1) :: bs.drop 33) c1 = .ok ((), c2) →
       exec (.sunodeNew (.ctx r) e) s = .next (put (c2.updSu site fun u => { u with nalloc := n + 1 }) n)) ∧
     (Runs s.toChip r (dSunode 0) e c → good a → 32768 ≤ n → exec (.sunodeNew (.ctx r) e) s = .next (put (c.bump (suK site 0x48)) 0xFFFFFFFF)) ∧
     (Runs s.toChip r (dSunode 1) e c → a < 2 ^ 15 → a < n → good b → rdNode site a c = .ok (bs, c1) → wr k 0 b (leBytes 64 (leNat bs)) c1 = .ok ((), c2) →
       exec (.sunodeRd (.ctx r) e) s = .next (s.withChip c2)) ∧
     (Runs s.toChip r (dSunode 2) e c → a < 2 ^ 15 → a < n → good b → rd k b 64 c = .ok (bs, c1) → wrNode k a bs c1 = .ok ((), c2) →
       exec (.sunodeWr (.ctx r) e) s = .next (s.withChip c2)) ∧
     (Runs s.toChip r (dSunode 3) e c → good a → rd k a 64 c = .ok (bs, c1) → senseEx (nodeKey site 0) (64 * (c1.suSt site).nalloc) c1 = .ok ((), c2) →
       nearestNode c2 site (bits (c2.reg (suK site 0x38)) 31 0) (bits (c2.reg (suK site 0x38)) 63 32) bs (c1.suSt site).nalloc 0 none = some (i, m) →
       exec (.sunodeNearest (.ctx r) e) s = .next (put c2 (i + m * 2 ^ 32))) ∧
     (Runs s.toChip r (dSunode 3) e c → good a → rd k a 64 c = .ok (bs, c1) → senseEx (nodeKey site 0) (64 * (c1.suSt site).nalloc) c1 = .ok ((), c2) →
       nearestNode c2 site (bits (c2.reg (suK site 0x38)) 31 0) (bits (c2.reg (suK site 0x38)) 63 32) bs (c1.suSt site).nalloc 0 none = none →
       exec (.sunodeNearest (.ctx r) e) s = .next (put c2 0x7F80000080000000))) ∧
  (∀ (s : State) (site : Fin 72) (v : W64),
     let o := s.reg (suK site.val 0)
     let n := v.toNat
     let word := bits n 4 0 + b2n (bit n 8) * 256
     let caps := (List.range 4).map fun q => bits n (16 * q + 8) (16 * q)
     let empty := ∀ q, q < 4 → (s.suSt site.val).queues.get q [] = []
     (bit o 8 = true → bits o 4 0 ≠ bits n 4 0 → exec (.suOwnerWrite site v) s = .next (s.withChip (s.bump (suK site.val 0x50)))) ∧
     (bit o 8 = false → (bits o 4 0 ≠ bits n 4 0 ∨ bit n 8 = true) → exec (.suOwnerWrite site v) s = .next (s.withChip ((s.suClear site.val).setReg (suK site.val 0) word))) ∧
     (bit o 8 = true → bits o 4 0 = bits n 4 0 → bit n 8 = false → exec (.suOwnerWrite site v) s = .next (s.withChip ((s.suClear site.val).setReg (suK site.val 0) word))) ∧
     (bit o 8 = bit n 8 → bits o 4 0 = bits n 4 0 → exec (.suOwnerWrite site v) s = .next (s.withChip (s.setReg (suK site.val 0) word))) ∧
     (empty → caps.sum ≤ 256 → exec (.suQcfgWrite site v) s =
       .next (s.withChip (s.setReg (suK site.val 8) ((List.range 4).foldl (fun n q => n + caps.getD q 0 * 2 ^ (16 * q)) 0)))) ∧
     ((¬ empty ∨ 256 < caps.sum) → exec (.suQcfgWrite site v) s = .next (s.withChip (s.bump (suK site.val 0x50)))))

/-- Paths and plans: SMOOTH and TSCALE read their job, write the segments or samples and answer the status; SUPLAN outside a CHECKED
    block executes at the enabled plan port and answers its status or waits for the acknowledgements; SUSYNC with no open exchange of
    its context answers the last status, and otherwise waits. The plan port's exchanges, deadline and schedule: an acknowledgement that
    an island has sent is noted, and the second one ends the exchange; 20 µs after the record was sent it ends without them; at the
    planning deadline of a frame for which nothing was sent, the armed stop is sent and the arm spent, or the frame is missed; a
    schedule delivery stores the DCU's schedule at an active or spare site. The DEVTIME at which a command acts comes with it (the
    model's choice, log 51). -/
def Obligations.PathsAndPlans : Prop :=
  (∀ (s : State) (r : CtxRef) (e : Enc) (c c1 c2 : Chip) (out rmin st : Nat) (wps : List (List Byte)) (a : ScaleIn) (keys : List (Nat × Nat)) (misread : Bool),
     let k := slotKey r
     let x := c.ctx k
     let put := fun (c : Chip) (v : Nat) => s.withChip (c.updCtx k fun y => y.ws e.d (BitVec.ofNat 64 v))
     let segs := smoothSegs rmin wps
     let ad := (x.rs e.a).toNat
     let good := ad % 256 = 0 ∧ 0x800000000000 ≤ ad ∧ ad + planBytes ≤ 0x800000600000
     let port := fun (d kind : Nat) (i : Instr) => Runs s.toChip r (dSuplan d) e c → x.chk = none → c.suDenied k = false → good → draftAt ad k c = .ok (keys, c) →
       (c.planPort (k / 8) x.part x.idx x.lfc kind keys misread = (c1, .done st) → exec i s = .next (put (c1.planDone (k / 8) x.part x.idx st) st)) ∧
       (c.planPort (k / 8) x.part x.idx x.lfc kind keys misread = (c1, .open) → exec i s = .next (s.withChip (c1.block k (.plan e.d))))
     (Runs s.toChip r (dSupath 0) e c → smoothRead e k c = .ok ((out, rmin, wps), c1) → smoothBad wps = false → wr k 0 out (segs.map Prod.fst).flatten c1 = .ok ((), c2) →
       exec (.supathSmooth (.ctx r) e) s = .next (put c2 ((segs.filter Prod.snd).length + b2n (smoothTight rmin wps) * 2 ^ 16))) ∧
     (Runs s.toChip r (dSupath 1) e c → tscaleRead e k c = .ok (a, c1) → a.bad = false → tscaleWrite k a c1 = .ok ((), c2) →
       exec (.supathTscale (.ctx r) e) s = .next (put c2 a.status)) ∧
     port 0 0 (.suplanCommit (.ctx r) misread e) ∧ ((x.rs e.b) = 0 → port 1 1 (.suplanStopArm (.ctx r) misread e)) ∧
     ((x.rs e.b) = 1 → port 1 2 (.suplanStopNoPath (.ctx r) misread e)) ∧
     (Runs s.toChip r dSusync e c → c.suDenied k = false → x.chk = none → c.planOpen (k / 8) x.part x.idx = [] → exec (.susync (.ctx r) e) s = .next (put c x.suplan.toNat)) ∧
     (Runs s.toChip r dSusync e c → c.suDenied k = false → x.chk = none → c.planOpen (k / 8) x.part x.idx ≠ [] → exec (.susync (.ctx r) e) s = .next (s.withChip (c.block k (.plan e.d))))) ∧
  (∀ (s : State) (site : Fin 72) (i : Isl) (seq t f : Nat) (q : Exch) (sch : Sched) (dl : Int) (a : Arm),
     let got := s.toChip.updIsl i fun y => { y with ackOut := y.ackOut.erase (site.val, seq) }
     let q' : Exch := match i with
       | .A => { q with ackA := true }
       | .B => { q with ackB := true }
     let noted := got.updSu site.val fun u => { u with exch := u.exch.map fun r => if r.seq = seq then q' else r }
     let c := s.toChip.at t
     let o := c.reg (suK site.val 0)
     let part := if bit o 8 then some (bits o 4 0) else none
     let passed := c.updSu site.val fun u => { u with passed := some f }
     let due := c.planDeadline site.val f = some dl ∧ bit (c.reg (suK site.val 0x200)) 0 = true ∧ dl ≤ c.localTime site.val ∧ (c.suSt site.val).enAt < dl ∧
       (c.suSt site.val).passed = none ∧ (c.suSt site.val).sentF = [] ∧ (c.suSt site.val).sent = none
     ((site.val, seq) ∈ (s.isl i).ackOut → ((s.suSt site.val).exch.find? fun q => q.seq == seq) = some q →
       exec (.planAckReceive site i seq) s = .next (s.withChip (if q'.ackA && q'.ackB then noted.exchEnd site.val q' else noted))) ∧
     (((c.suSt site.val).exch.find? fun q => q.seq == seq) = some q → q.sent + 20000 ≤ c.time.now →
       exec (.planAckTimeout site seq t) s = .next (s.withChip (c.exchEnd site.val q))) ∧
     (due → (c.suSt site.val).arm = none → exec (.planningDeadline site f t) s =
       .next (s.withChip ((passed.bump (suK site.val 0x228)).post .PLAN_MISSING (hallUnit site.val 3) part))) ∧
     (due → (c.suSt site.val).arm = some a → a.frame = f → exec (.planningDeadline site f t) s =
       .next (s.withChip ((((passed.sendRecord site.val (bits o 4 0) f 2 0 false (stopRecord a.draft)).bump (suK site.val 0x220)).post .PLAN_TIMEOUT (hallUnit site.val 3) part).updSu
         site.val fun u => { u with arm := none }))) ∧
     (s.crossable site.val = true → s.schedule = some sch →
       exec (.frameScheduleDelivery site) s = .next (s.withChip (s.toChip.updSu site.val fun u => { u with sched := some sch }))))

/-- Register accesses of a master that reaches a register at its device address: a bad size, alignment or offset is discarded and
    counted once at the owning unit, and so is a write to a read-only register or of a value with a reserved encoding; a whole write of
    a memory bank's RW register stores the writable bits. `q` is the register, and the queue's own register where a function block
    mirrors it; a write to an island meets the channel results that are due. -/
def Obligations.RegisterWrites : Prop :=
  ∀ (s : State) (m : Master) (a : BitVec 48) (wide : Bool) (v : W64) (n : Nat) (k : RegKey) (row : RegRow) (b : Nat),
    let c0 := s.settleFor k
    let q0 := s.unmirror k
    let q := c0.unmirror k
    let size := if wide then 8 else 4
    let half := if wide then v.toNat else setBits 0 (q.off % 8 * 8 + 31) (q.off % 8 * 8) v.toNat
    let write := exec (.registerWrite m a wide v) s
    bar0Only m a.toNat = none → (∀ i, m ≠ .isl i) → s.target a.toNat = .reg k → s.regGone k = false →
    (regBad q0 n = true → exec (.badRegisterAccess m a n) s = .next (s.withChip (s.countErr q0))) ∧
    (regBad q size = true → write = .next (s.withChip (c0.countErr q))) ∧
    ((∀ i, q.blk ≠ .isl i) → regBad q size = false → regRow q.whole = some row → row.acc = .ro → write = .next (s.withChip (c0.countErr q.whole))) ∧
    ((∀ i, q.blk ≠ .isl i) → regBad q size = false → regRow q.whole = some row → row.acc = .wo → row.ok half = false →
      write = .next (s.withChip (c0.countErr q.whole))) ∧
    (q.blk = .mb b → regBad q 8 = false → regRow q.whole = some row → row.acc = .rw → row.ok v.toNat = true → wide = true →
      write = .next (s.withChip (c0.setReg q.whole (Nat.land v.toNat row.mask + (c0.reg q.whole - Nat.land (c0.reg q.whole) row.mask)))))

/-- Arbitration and commit of a slot's block: an eligible arbiter at a boundary starts the third pass from the block's start image;
    a signature equal to the primary's or the shadow's commits that pass's set, and a third value is CHECK_FAIL with the pending pages
    poisoned and the stable quarantined; committing publishes the winner's pages, makes its reserved KV pages LIVE, then applies its
    held operations, and ends the block. The heartbeat of a stable in CHECKED mode: HBINT ms after the last one it becomes due; with no
    pass being issued it runs; when it was flagged, the position advances modulo 129 and waiting CHKBs go on; otherwise the stable is
    barred and quarantined, and every context of its partition, resident or saved, records CHECK_FAIL with SUB 1, whose reset becomes
    due. The DEVTIME at which a command acts comes with it (the model's choice, log 51). -/
def Obligations.CommitAndHeartbeat : Prop :=
  (∀ (s : State) (r : CtxRef) (c1 : Chip) (b : Block) (a : Nat) (misread : Bool),
     let k := slotKey r
     let x := s.ctx k
     let split := ((b.prim.pages.foldl (fun c p => c.poison p.dest) ((s.bump (stbK a 0xD0)).bump (stbK (k / 2) 0xD8))).quarantine (k / 2))
     x.blk = some b →
     (b.state = 4 → s.arbiterOf x.part (k / 2) = some a → s.atBoundary a = true → exec (.arbiterPassStart r) s = .next (s.withChip
       ((s.updEng a fun g => { g with serving := some k }).updCtx k fun y =>
         { y.load b.start with ia := b.chkbIa + 8, blk := some { b with state := 5, arbiter := some a, recPos := 0, arb := {}, arbDone := false, resBlks := [] } }))) ∧
     (b.state = 5 → b.arbiter = some a → b.arbDone = true → b.arb.sig = b.prim.sig →
       exec (.arbiterPassEnd r) s = .next (s.withChip (s.arbWin k a x b 0 (clsDiff b.shad b.prim) 1 b.prim.fin))) ∧
     (b.state = 5 → b.arbiter = some a → b.arbDone = true → b.arb.sig ≠ b.prim.sig → b.arb.sig = b.shad.sig →
       exec (.arbiterPassEnd r) s = .next (s.withChip (s.arbWin k a x b 1 (clsDiff b.prim b.shad) 0 b.shad.fin))) ∧
     (b.state = 5 → b.arbiter = some a → b.arbDone = true → b.arb.sig ≠ b.prim.sig → b.arb.sig ≠ b.shad.sig →
       exec (.arbiterPassEnd r) s = .next (s.withChip (split.takeFault k { cls := CHECK_FAIL, sub := 0 }))) ∧
     (b.checked = true → b.state = 6 → publishPages k b.set b.winner.pages [] s.toChip = .ok ((), c1) →
       exec (.blockCommit r misread) s = .next (s.withChip (((c1.liveReserved k b).applyHelds k misread b.winner.held).endBlock k)))) ∧
  (∀ (s : State) (r : StbRef) (t p : Nat),
     let b := stbKey r
     let c := s.at t
     let g := s.eng b
     let failed := s.updEng b fun e => { e with hb := 3, barred := true, quar := true }
     let sent := failed.sendErr { unit := stbUnit b, cls := 0x15, synd := g.hbPos + 256, part := (failed.partOfStb b).getD 0xFF }
     let barred := sent.post .CHK_BARRED (stbUnit b) (sent.partOfStb b)
     let resident := ((barred.core.slots.filter fun x => x.2.part == p && x.2.state != 0).map Prod.fst).foldl (fun c k => c.recordFault k { cls := CHECK_FAIL, sub := 1 }) barred
     (c.checkedMode b = true → (c.eng b).hb = 0 → (c.eng b).hbLast + bits (c.reg (stbK b 0xA8)) 15 0 * 1000000 ≤ c.time.now →
       exec (.heartbeatDue r t) s = .next (s.withChip (c.updEng b fun e => { e with hb := 1 }))) ∧
     (g.hb = 1 → s.hbFree b = true → exec (.heartbeatRun r) s = .next (s.withChip (s.updEng b fun e => { e with hb := 2 }))) ∧
     (g.hb = 2 → exec (.heartbeatEnd r true) s = .next (s.withChip
       (((s.updEng b fun e => { e with hb := 0, hbPos := (e.hbPos + 1) % 129, hbLast := s.time.now }).bump (stbK b 0xE0)).chkbGo b))) ∧
     (g.hb = 2 → barred.partOfStb b = none → exec (.heartbeatEnd r false) s = .next (s.withChip barred)) ∧
     (g.hb = 2 → barred.partOfStb b = some p → exec (.heartbeatEnd r false) s = .next (s.withChip
       (((resident.core.saved.filter fun e => e.1.1 == p && e.2.state != 0).foldl Chip.savedFails resident).dueReset p CHECK_FAIL b))))

/-- Event flags and posts. Outside a CHECKED block EVT.SET and EVT.CLR act on flag S[A] mod 256 of the context's partition at once,
    or, behind an open plan port exchange of the context, once that has ended; inside one they are held; EVT.WAIT goes on where the flag
    reads 1 and otherwise blocks; EVT.POST writes the USER record. A set flag's waiters resume at EVT_WAKE. An island's EVT.SET and
    EVT.CLR on flags 0 to 6 and 16 to 31 act on its own flags through the path of a held operation. Writes of HALL_EVTS and HALL_EVTC at
    the partition's home act on each 1 bit, and elsewhere are counted. Barriers and the fence outside a CHECKED block, with no plan port
    exchange of the context open: BAR.ARRIVE answers the generation it arrived in, and the arrival that completes COUNT advances GEN and
    zeroes ARRIVED; BAR.WAIT goes on where GEN differs from S[B][31:0] and otherwise blocks, and its waiters resume once GEN has
    advanced; FENCE changes nothing, since every earlier access of the context is complete at each instruction. -/
def Obligations.EventsBarriersFence : Prop :=
  (∀ (s : State) (r : CtxRef) (i : Isl) (e : Enc) (c : Chip) (h : Held) (site : Fin 72) (p : Fin 32) (f : Fin 256) (k4 : Fin 4) (v : W64),
     let k := slotKey r
     let x := c.ctx k
     let n := (x.rs e.a).toNat % 256
     let w64 := BitVec.ofNat 64 n
     let calm := c.planOpen (k / 8) x.part x.idx = []
     let held := fun (sub : Nat) => h = { opc := 0x72, sub := sub, ops := [w64] }
     let fi := (if e.a = 0 then (0 : W64) else (c.isl i).file.s.get e.a 0).toNat % 256
     let isFlag := fi < 7 ∨ 16 ≤ fi ∧ fi ≤ 31
     let wi := BitVec.ofNat 64 fi
     let own := fun (sub : Nat) => s.withChip (c.islHeld i { opc := 0x72, sub := sub, ops := [wi] })
     let woken := (s.waiting fun x w => x.part == p.val && w == .evt f.val true).foldl (fun c k => c.resumeWith k 0x72 (recordDone k)) s.toChip
     let each := fun (act : Chip → Nat → Chip) => ((List.range 64).filter (bit v.toNat)).foldl (fun c j => act c (64 * k4.val + j)) s.toChip
     (Runs s.toChip r (dEvt 0) e c → x.chk = none → calm → exec (.evtSet (.ctx r) e) s = .next (s.withChip (c.evtSet x.part n))) ∧
     (Runs s.toChip r (dEvt 2) e c → x.chk = none → calm → exec (.evtClr (.ctx r) e) s = .next (s.withChip (c.evtClr x.part n))) ∧
     (Runs s.toChip r (dEvt 0) e c → x.chk.isSome = true → held 0 →
       exec (.evtSet (.ctx r) e) s = .next (s.withChip (c.updCtx k fun y => { y with blk := y.blk.map fun b => b.updCur fun p => { p with held := p.held ++ [h] } }))) ∧
     (Runs s.toChip r (dEvt 1) e c → x.chk = none → bit (c.part x.part).flags n = true → exec (.evtWait (.ctx r) e) s = .next (s.withChip c)) ∧
     (Runs s.toChip r (dEvt 1) e c → x.chk = none → bit (c.part x.part).flags n = false → exec (.evtWait (.ctx r) e) s = .next (s.withChip (c.block k (.evt n false)))) ∧
     (Runs s.toChip r (dEvt 0) e c → x.chk = none → ¬ calm → exec (.evtSet (.ctx r) e) s = .next (s.withChip (c.updSu (k / 8) fun u => { u with owed := u.owed ++
       [{ after := c.planOpen (k / 8) x.part x.idx, part := x.part, idx := x.idx, slot := k, lfc := x.lfc, op := { opc := 0x72, sub := 0, ops := [w64] } }] }))) ∧
     (Runs s.toChip r (dEvt 3) e c → x.chk = none → calm → exec (.evtPost (.ctx r) e) s = .next (s.withChip (c.evtPost k (x.rs e.a) (x.rs e.b)))) ∧
     exec (.evtWake p f) s = .next (s.withChip
       ((woken.savedWaiting fun _ w => w == .evt f.val true).foldl (fun c key => if key.1 = p.val then c.updSaved key fun x => { x with wait := .none } else c) woken)) ∧
     (IRuns s.toChip i (dEvt 0) e c → isFlag → (c.isl i).blk = none → exec (.evtSet (.isl i) e) s = .next (own 0)) ∧
     (IRuns s.toChip i (dEvt 2) e c → isFlag → (c.isl i).blk = none → exec (.evtClr (.isl i) e) s = .next (own 2)) ∧
     (s.isHome site.val p.val = true → exec (.hallEvtsWrite site p k4 v) s = .next (s.withChip (each fun c j => c.evtSet p.val j))) ∧
     (s.isHome site.val p.val = true → exec (.hallEvtcWrite site p k4 v) s = .next (s.withChip (each fun c j => c.evtClr p.val j))) ∧
     (s.isHome site.val p.val = false → exec (.hallEvtsWrite site p k4 v) s = .next (s.withChip (s.bump (syncK site.val p.val 0x148))))) ∧
  (∀ (s : State) (r : CtxRef) (e : Enc) (c : Chip) (g a n : Nat) (p b : Fin 32),
     let k := slotKey r
     let x := c.ctx k
     let q := (x.rs e.a).toNat % 32
     let put := fun (c : Chip) => s.withChip (c.updCtx k fun y => y.ws e.d (BitVec.ofNat 64 g))
     let woken := (s.waiting fun x w => x.part == p.val && s.barOver p.val w b.val).foldl (fun c k => c.resumeWith k 0x73 (recordDone k)) s.toChip
     (Runs s.toChip r (dBar 0) e c → x.chk = none → c.planOpen (k / 8) x.part x.idx = [] → (c.part x.part).bar q = (g, a, n) → 0 < n → n ≤ a + 1 → exec (.barArrive (.ctx r) e) s =
       .next (put (c.updPart x.part fun t => { t with bars := t.bars.set q ((g + 1) % 2 ^ 32, 0, n) }))) ∧
     (Runs s.toChip r (dBar 0) e c → x.chk = none → c.planOpen (k / 8) x.part x.idx = [] → (c.part x.part).bar q = (g, a, n) → a + 1 < n → exec (.barArrive (.ctx r) e) s =
       .next (put (c.updPart x.part fun t => { t with bars := t.bars.set q (g, a + 1, n) }))) ∧
     (Runs s.toChip r (dBar 0) e c → x.chk = none → c.planOpen (k / 8) x.part x.idx = [] → (c.part x.part).bar q = (g, a, 0) → exec (.barArrive (.ctx r) e) s = .next (put c)) ∧
     (Runs s.toChip r (dBar 1) e c → x.chk = none → ((c.part x.part).bar q).1 ≠ (x.rs e.b).toNat % 2 ^ 32 → exec (.barWait (.ctx r) e) s = .next (s.withChip c)) ∧
     (Runs s.toChip r (dBar 1) e c → x.chk = none → ((c.part x.part).bar q).1 = (x.rs e.b).toNat % 2 ^ 32 →
       exec (.barWait (.ctx r) e) s = .next (s.withChip (c.block k (.bar q ((x.rs e.b).toNat % 2 ^ 32))))) ∧
     exec (.barWaitResume p b) s = .next (s.withChip
       ((woken.savedWaiting fun _ w => woken.barOver p.val w b.val).foldl (fun c key => if key.1 = p.val then c.updSaved key fun x => { x with wait := .none } else c) woken)) ∧
     (Runs s.toChip r dFence e c → exec (.fence (.ctx r) e) s = .next (s.withChip c)))

/-- Waits for time and landings. WAITT, outside a CHECKED block, answers the local DEVTIME once it has reached S[A] and otherwise
    blocks; LAND.WAIT outside a block takes the next frame as its own where that frame's landing start has passed, and otherwise blocks;
    LAND.SIGNAL, with no plan port exchange of the context open, declares its frame done. A WAITT_RESUME ends the wait of its context,
    resident or saved, or island once the local DEVTIME has reached the target, which it answers. The DEVTIME at which a command acts
    comes with it (the model's choice, log 51). -/
def Obligations.WaitsAndLandings : Prop :=
  ∀ (s : State) (r : CtxRef) (i : Isl) (e : Enc) (c : Chip) (y z : Ctx) (p : Fin 32) (j slot stb g d t : Nat),
    let now := s.at t
    let k := slotKey r
    let x := c.ctx k
    let goal := (x.rs e.a).toNat
    (Runs s.toChip r dWaitt e c → x.chk = none → goal ≤ c.localTime (k / 8) →
      exec (.waitt (.ctx r) e) s = .next (s.withChip (c.updCtx k fun y => y.ws e.d (BitVec.ofNat 64 (c.localTime (k / 8)))))) ∧
    (Runs s.toChip r dWaitt e c → x.chk = none → c.localTime (k / 8) < goal → exec (.waitt (.ctx r) e) s = .next (s.withChip (c.block k (.time goal e.d)))) ∧
    (now.slotOf p.val j = some slot → y = now.ctx slot → y.wait = .time g d → y.state = 3 → g ≤ now.localTime (slot / 8) →
      (now.resume slot).ctx slot = z → z.chk = none → exec (.waittResume (.ctx p j) t) s =
      .next (s.withChip ((now.resume slot).updCtx slot fun q => q.ws d (BitVec.ofNat 64 ((now.resume slot).localTime (slot / 8)))))) ∧
    (now.slotOf p.val j = none → now.core.saved.look (p.val, j) = some y → y.wait = .time g d → now.homeKey (now.descOf y) = some stb → g ≤ now.localTime (stb / 4) →
      exec (.waittResume (.ctx p j) t) s =
        .next (s.withChip (now.updSaved (p.val, j) fun q => { q.ws d (BitVec.ofNat 64 (now.localTime (stb / 4))) with wait := .none }))) ∧
    ((now.isl i).wait = .time g 0 → g ≤ now.localTime (islDie i) → exec (.waittResume (.isl i) t) s =
      .next (s.withChip (now.updIsl i fun q => { q.note 16 (now.localTime (islDie i)) with wait := .none }))) ∧
    (Runs s.toChip r (dLand 0) e c → x.blk = none → c.time.running = true → c.start (x.lfc + 1) ≤ c.time.now → exec (.landWait (.ctx r) e) s = .next (s.withChip
      ((c.updCtx k fun y => { (y.ws e.d (BitVec.ofNat 64 (y.lfc + 1))) with lfc := y.lfc + 1, overrun := false, moveTo := none, budget := c.lfcBudget y }).frameDone x.part))) ∧
    (Runs s.toChip r (dLand 0) e c → x.blk = none → (c.time.running = false ∨ c.time.now < c.start (x.lfc + 1)) →
      exec (.landWait (.ctx r) e) s = .next (s.withChip (c.block k (.land x.lfc e.d)))) ∧
    (Runs s.toChip r (dLand 1) e c → x.blk = none → c.planOpen (k / 8) x.part x.idx = [] → exec (.landSignal (.ctx r) e) s =
      .next (s.withChip ((c.updCtx k fun y => { y with signal := some y.lfc }).frameDone x.part)))

/-- Scene headers and stored words. At the partition's home a write of HALL_SCNS with V = 1 stages the header address and one with V
    = 0 withdraws it; a retiring header with no open block on it is dropped and SCENE_RETIRED written. A corrected word is written back
    as its readers see it, with no stored error left; a scrubber that is off leaves everything as it is, and one that runs reads its
    next word, with the upset the operand names, and moves on by one; over a system cache word that holds no line only its position
    moves. Where a clause leaves the state as it is because its command finds no condition of its own met, that is the model's choice
    (log 30). -/
def Obligations.ScenesAndScrub : Prop :=
  ∀ (s : State) (site : Fin 72) (p : Fin 32) (slot : Fin 8) (v : W64) (w : Nat) (cell : Nat) (who : Fin 78) (upset : BitVec 288) (word : Nat),
    let n := bits v.toNat 47 8 * 256
    let q := (s.part p.val).scenes.get slot.val {}
    let size := scrubWords who.val
    let pos := s.mem.scrubPos.get who.val 0
    let next : Chip := { s.toChip with mem := { s.mem with scrubPos := s.mem.scrubPos.set who.val ((pos + 1) % size) } }
    let c := next.writeBack word
    let e := Nat.xor (c.mem.errs.get word 0) upset.toNat
    let c' : Chip := { c with mem := { c.mem with errs := if e = 0 then c.mem.errs.del word else c.mem.errs.set word e } }
    let settled : Chip := { s.toChip with mem := { s.mem with cells := s.mem.cells.writeBytes (w * 32) (s.bytesAt (w * 32) 32), errs := s.mem.errs.del w, wb := s.mem.wb.del w } }
    (s.isHome site.val p.val = true → exec (.sceneStage site p slot v) s = .next (s.withChip (s.updScene p.val slot.val fun q => { q with staged := n, v := true }))) ∧
    (s.isHome site.val p.val = true → exec (.sceneWithdraw site p slot v) s = .next (s.withChip (s.updScene p.val slot.val fun q => { q with staged := n, v := false }))) ∧
    (s.isHome site.val p.val = false → exec (.sceneStage site p slot v) s = .next (s.withChip (s.bump (syncK site.val p.val 0x148)))) ∧
    (q.ret = true → s.sceneBusy p.val slot.val = 0 → exec (.sceneRetired p slot) s = .next (s.withChip
      ((s.updScene p.val slot.val fun q => { q with ret := false, retAddr := 0, retEpoch := 0 }).homePost .SCENE_RETIRED p.val 0))) ∧
    (s.mem.wb.look w = some cell → exec (.correctedWordWriteback w) s = .next (s.withChip (settled.markDly w))) ∧
    (bit (s.reg (scrubKey who.val)) 0 = false → exec (.patrolScrub who upset) s = .next s) ∧
    (bit (s.reg (scrubKey who.val)) 0 = true → s.scrubbed who.val = true → pos + 1 < size → s.scrubWord who.val pos = some word →
      exec (.patrolScrub who upset) s = .next (s.withChip ((c'.senseWord true word e).markDly word))) ∧
    (bit (s.reg (scrubKey who.val)) 0 = true → s.scrubbed who.val = true → pos + 1 < size → s.scrubWord who.val pos = none →
      exec (.patrolScrub who upset) s = .next (s.withChip next))

/-- Partition commands. CREATE reads the descriptor, its jobs and its contexts; of a FREE partition whose descriptor fails a check
    leaves it FREE with the code in REJ and writes PART_REJECT; one that passes is recorded with its contexts to be started, cleared,
    powered, loaded, given its Search Units, and its counters zeroed; any other state counts an access error. RESTART of a running
    partition makes its reset due with class 0; STOP of a running or failed one stops it, ends its retiring scenes, writes PART_STOPPED
    to its own queue and to queue 0 and leaves only the counts of the partition. -/
def Obligations.PartitionCommands : Prop :=
  ∀ (s : State) (p : Fin 32),
    let q := s.part p.val
    let base := bits (s.reg (dcuK (0x1000 + p.val * 0x20))) 47 9 * 512
    let n := s.senseDraft base 0
    let d := n.readDraft p.val base 0
    let rej := n.createCheck p.val d n.checkedMode false
    let made : Chip := { n with parts := n.parts.set p.val { d.part with starting := true, atBoot := !s.time.running } }
    let up := ((made.clearPart p.val).domainsOn ((stableList d.part.stables).filterMap (made.clearPart p.val).keyOf)).1
    let loaded := (up.loadSects ((up.sectsOf p.val).filter fun x => !x.inDram)).suTake p.val d.part.suhalls
    let zeroed := [0, 8, 0x10, 0x18, 0x20].foldl (fun c o => c.setReg (dcuK (0x2000 + p.val * 0x40 + o)) 0) loaded
    let keys := (stableList q.stables).filterMap s.keyOf
    let stopped := (((s.stopPart p.val).scenesDone p.val).dropCtxs p.val).suRelease p.val fun _ => false
    let rec' := stopped.mkEv .PART_STOPPED dcuUnit [(0x10, 1, p.val)]
    let told := (stopped.postTo q.evq rec').postTo 0 rec'
    let ended : Chip := { told with parts := told.parts.set p.val { resets := q.resets, lastCls := q.lastCls, pfault := q.pfault, rej := q.rej }, log := { told.log with noQueue := told.log.noQueue || bits (told.reg (dcuK 0x8000)) 5 0 == q.evq } }
    (q.state = 0 → rej ≠ 0 → exec (.partitionCreate p) s = .next (s.withChip ((n.updPart p.val fun q => { q with state := 0, rej := rej }).post .PART_REJECT dcuUnit (some p.val) rej))) ∧
    (q.state = 0 → rej = 0 → exec (.partitionCreate p) s = .next (s.withChip zeroed)) ∧
    (q.state ≠ 0 → exec (.partitionCreate p) s = .next (s.withChip (s.countErr dcuErr))) ∧
    (q.state = 2 → exec (.partitionRestart p) s = .next (s.withChip (s.dueResetAt p.val 0 dcuUnit 0))) ∧
    (q.state ≠ 2 → exec (.partitionRestart p) s = .next (s.withChip (s.countErr dcuErr))) ∧
    ((q.state = 2 ∨ q.state = 5) → 16 ≤ q.func → exec (.partitionStop p) s = .next (s.withChip (ended.domainsOff keys))) ∧
    (q.state ≠ 2 → q.state ≠ 5 → exec (.partitionStop p) s = .next (s.withChip (s.countErr dcuErr)))

/-- A partition whose reset becomes due stops; its record names the class, the stable and the time; every fault of a running or
    resetting partition writes PART_FAULT, and a reset already due keeps its class. A due reset of a running or resetting partition
    clears its state and counts (`Chip.resetClear`), then takes the first variant of the descriptor that passes the checks and becomes
    RESETTING with it; with none, or with the fourth reset within 1,000 frames, it fails. When the reload ends, the sections that a
    reset renews are loaded again, the contexts are dropped and are to be started, and each job that the checked stables cannot carry
    writes JOB_REFUSED. Where a clause leaves the state as it is because its command finds no condition of its own met, that is the
    model's choice (log 30). -/
def Obligations.ResetsOfPartitions : Prop :=
  (∀ (c : Chip) (p cls unit log : Nat),
     let st := c.stopPart p
     let q := st.part p
     let word := cls % 256 + log % 1024 * 256 + (st.time.now / 1000 % 2 ^ 32) * 2 ^ 32
     let due := fun (o : Option Nat) => st.updPart p fun q => { q with pfault := word, resetDue := o }
     let told := fun (o : Option Nat) => (due o).post .PART_FAULT unit (some p)
     ((q.state = 2 ∨ q.state = 3) → q.resetDue = none → c.dueResetAt p cls unit log = told (some cls)) ∧
     (∀ old, (q.state = 2 ∨ q.state = 3) → q.resetDue = some old → c.dueResetAt p cls unit log = told (some old)) ∧
     (q.state ≠ 2 → q.state ≠ 3 → c.dueResetAt p cls unit log = due q.resetDue)) ∧
  (∀ (s : State) (p : Fin 32) (cls : Nat) (v : Draft × Nat),
     let q := s.part p.val
     let keys := (stableList q.stables).filterMap s.keyOf
     let cleared := s.resetClear p.val cls
     let vs := cleared.variants p.val q.descAddr 8 0
     let c := (List.range vs.length).foldl (fun c v => c.senseDraft q.descAddr v) cleared
     let go := q.resetDue = some cls ∧ (q.state = 2 ∨ q.state = 3)
     let again := (s.sectsOf p.val).filter fun x => x.typ == 3 || x.typ == 4 || x.typ == 6 || s.sectIn x q.fresh
     let l := s.loadSects again
     let refused := refusedJobs q (l.checkedOf l.checkedMode q.stables).length
     let renewed := (l.dropCtxs p.val).updPart p.val fun q => { q with reloading := false, starting := true, refused := refused, fresh := [] }
     (q.resetDue = none → exec (.partitionReset p) s = .next s) ∧
     (go → vs.find? (fun v => v.2 == 0) = none → exec (.partitionReset p) s = .next (s.withChip
       ((c.updPart p.val fun q => { q with rej := (vs.getLast?.map Prod.snd).getD 1 }).partFail p.val))) ∧
     (go → vs.find? (fun v => v.2 == 0) = some v → q.state = 2 → fourResets q.resetFrames c.curFrame = true →
       exec (.partitionReset p) s = .next (s.withChip (c.partFail p.val))) ∧
     (go → vs.find? (fun v => v.2 == 0) = some v → (q.state = 3 ∨ fourResets q.resetFrames c.curFrame = false) →
       exec (.partitionReset p) s = .next (s.withChip (c.resetInto p.val v.1.part keys))) ∧
     (q.state = 3 → q.reloading = true → q.resetDue = none → exec (.sectionReloadDone p) s =
       .next (s.withChip (refused.foldl (fun c j => c.post .JOB_REFUSED dcuUnit (some p.val) j) renewed))))

/-- The stores keep their canonical form over every step, whatever the command: addresses rise, and no entry holds what an unlisted byte
    reads as. -/
def Obligations.MemoryCanonical : Prop :=
  ∀ s t : State, s.memOk = true → step s = .next t → t.memOk = true

/-- Reset: nothing waits, memory is in its canonical form and lists nothing, DEVTIME is 0, no slot holds a context, no reservation of the plan
    port, the queues or the links is open, and every register that software can write reads the reset value of its table. -/
def Obligations.ResetState : Prop :=
  State.reset.pending = [] ∧ State.reset.memOk = true ∧ State.reset.mem.cells = [] ∧ State.reset.mem.errs = [] ∧ State.reset.time.now = 0 ∧
  (∀ k, State.reset.ctx? k = none) ∧ (∀ site, State.reset.suSt site = {}) ∧ (∀ m, (State.reset.baseQ m).q = []) ∧
  (∀ die p, (State.reset.port die p).state = 0) ∧
  ∀ (k : RegKey) (row : RegRow), regRow k = some row → row.acc ≠ .ro → State.reset.live k = resetOf k

/-- The register files of a context: S0 reads 0 and P0 reads 1, and both discard writes; any other register reads what was written to it; a
    write changes no other register and no other part of the context. -/
def Obligations.RegisterFiles : Prop :=
  ∀ (x : Ctx) (i j : Nat) (v : W64) (b : Bool),
    x.rs 0 = 0 ∧ x.ws 0 v = x ∧ x.rp 0 = true ∧ x.wp 0 b = x ∧
    (i ≠ 0 → (x.ws i v).rs i = v) ∧ (j ≠ i → (x.ws i v).rs j = x.rs j) ∧ (∃ m, x.ws i v = { x with s := m }) ∧
    (i ≠ 0 → i < 16 → (x.wp i b).rp i = b) ∧ (j ≠ i → (x.wp i b).rp j = x.rp j) ∧ (∃ p, x.wp i b = { x with p := p })

/-- What a store of a context changes, outside a CHECKED block, on permitted plain addresses, while no stored word has an error: the bytes of
    the pieces to which its address translates, which then read as stored (up to a page's length), and nothing else of the block. So do
    ST with the low bytes of S[D] and TDST with TD[D], and every store whose statement names `wr`. -/
def Obligations.StoreFrame : Prop :=
  ∀ (s : State) (r : CtxRef) (e : Enc) (c : Chip) (sub : BitVec 8) (ps : List (Nat × Nat)) (u : Nat) (addr : Nat) (bytes : List Byte),
    let k := slotKey r
    let x := c.ctx k
    let put := fun (m : Memory) => { c with mem := { c.mem with cells := m } }
    let stores := fun (bs : List Byte) (m : Memory) => c.mem.cells.wf = true → m.wf = true ∧
      (bs.length ≤ 4096 → ∀ q ∈ cutBytes ps bs, m.readBytes q.1 q.2.length = q.2) ∧
      ∀ key, (∀ q ∈ ps, key < q.1 ∨ q.1 + q.2 ≤ key) → m.read key = c.mem.cells.read key
    x.chk = none → c.mem.errs = [] →
    (c.xlate k addr bytes.length true = some ps → ∃ m, wr k u addr bytes c = .ok ((), put m) ∧ stores bytes m) ∧
    (let a := (x.rs e.a + e.imm30).toNat
     let bs := leBytes (2 ^ (sub.toNat % 4)) (x.rs e.d).toNat
     Runs s.toChip r (dSt sub.toNat) e c → localAlias a = none → c.xlate k a bs.length true = some ps →
      ∃ m, exec (.st (.ctx r) sub e) s = .next (s.withChip (put m)) ∧ stores bs m) ∧
    (let a := (x.rs e.a + e.imm30).toNat / 32 * 32
     let bs := leBytes 32 (x.td.get e.d 0).toNat
     Runs s.toChip r (dTd 1) e c → c.xlate k a 32 true = some ps → ∃ m, exec (.tdst (.ctx r) e) s = .next (s.withChip (put m)) ∧ stores bs m)

/-- The word code: data with its check symbols has four zero syndromes; an error of one symbol is located, with its value, and its word reads as
    if it were clean; an error of two or three symbols is never taken for that of one. -/
def Obligations.WordCode : Prop :=
  (∀ ds : List Byte, ds.length = 32 →
    let (c0, c1, c2, c3) := checkSymbols ds
    classify (c0 + c1 * 2 ^ 8 + c2 * 2 ^ 16 + c3 * 2 ^ 24 + leNat ds * 2 ^ 32) = .clean) ∧
  (∀ i v : Nat, i < 36 → 0 < v → v < 256 → classify (v * 2 ^ (8 * i)) = .corrected i v) ∧
  (∀ (c : Chip) (key i v : Nat), i < 36 → 0 < v → v < 256 → c.mem.errs.get (key / 32) 0 = v * 2 ^ (8 * i) → c.byteAt key = c.mem.cells.read key) ∧
  (∀ e : Nat, ((symbols e).filter (· ≠ 0)).length = 2 ∨ ((symbols e).filter (· ≠ 0)).length = 3 → isUE e = true)

/-- The stair: a position's site, and every site of the panel is that of exactly one position. -/
def Obligations.StairPositions : Prop :=
  (∀ p r c : Nat, p < 72 → r = p / 9 → c = (if r % 2 = 0 then p % 9 else 8 - p % 9) → siteOfPos p = r * 9 + c) ∧
  (∀ site, site < 72 → ∃ p, p < 72 ∧ siteOfPos p = site ∧ ∀ q, q < 72 → siteOfPos q = site → q = p)

/-- CANCEL by the owner of an armed set, for every controller: before t − 20 µs the set is PASSED again with LAST CANCELLED and its staged
    values kept, and nothing else changes; from then on the write is only counted. -/
def Obligations.CancelArmedSet : Prop :=
  ∀ (s : State) (x : Ctl) (m : Master) (t : Nat),
    s.ownsSet m x = true →
    ((s.ctl x).state = 5 → s.armTick x = some t → s.ctlTime x + 20000 < t →
      exec (.cfgApplyCancel x m) s = .next (s.withChip (s.updCtl x fun g => { g with state := 3, last := 3 }))) ∧
    (s.armTick x = some t → t ≤ s.ctlTime x + 20000 → exec (.cfgApplyCancel x m) s = .next (s.withChip (s.bump (ctlErr x)))) ∧
    ((s.ctl x).state ≠ 5 → exec (.cfgApplyCancel x m) s = .next (s.withChip (s.bump (ctlErr x))))

/-- Package commands that are discarded: while a package operation runs, and for a package that is not installed, only DCU_ACC_ERR changes.
    DCU_ERRLDAT0-7 read zero while DCU_ERRLSEL names a slot that has not been written. -/
def Obligations.PackagesRefused : Prop :=
  ∀ (s : State) (id : BitVec 32) (n : Nat),
    let counted := s.withChip (s.countErr dcuErr)
    (s.fleet.state = 1 → exec .packageLoad s = .next counted ∧ exec (.packageRemove id) s = .next counted) ∧
    ((∀ p ∈ s.fleet.pkgs, p.id ≠ id.toNat) → exec (.packageRemove id) s = .next counted) ∧
    (n < 8 → s.log.slots.look (s.reg (dcuK 0x8020)) = none → s.live (dcuK (0x8028 + 8 * n)) = 0)

/-- Scalar register instructions of a context: an instruction that runs writes the result of its table to S[D] or P[D] and changes
    nothing else; NOP changes nothing. S0 and P0 keep their values, since `Ctx.ws` and `Ctx.wp` discard writes to them. -/
def Obligations.ScalarResults : Prop :=
  ∀ (s : State) (r : CtxRef) (e : Enc) (c : Chip) (sub : BitVec 8),
    (Runs s.toChip r dNop e c → exec (.nop (.ctx r) e) s = .next (s.withChip c)) ∧
    (Runs s.toChip r (dAlu sub.toNat) e c → exec (.alu (.ctx r) sub e) s =
      .next (s.withChip (c.updCtx (slotKey r) fun x => x.ws e.d (aluOp sub.toNat (x.rs e.a) (x.rs e.b))))) ∧
    (Runs s.toChip r (dAlui sub.toNat) e c → exec (.alui (.ctx r) sub e) s =
      .next (s.withChip (c.updCtx (slotKey r) fun x => x.ws e.d (aluOp sub.toNat (x.rs e.a) e.imm30)))) ∧
    (Runs s.toChip r dLi e c → exec (.li (.ctx r) e) s =
      .next (s.withChip (c.updCtx (slotKey r) fun x => x.ws e.d e.x0))) ∧
    (Runs s.toChip r (dCmp sub.toNat) e c → exec (.cmp (.ctx r) sub e) s =
      .next (s.withChip (c.updCtx (slotKey r) fun x => x.wp e.d (cmpOp sub.toNat (x.rs e.a) (x.rs e.b))))) ∧
    (Runs s.toChip r (dCmpi sub.toNat) e c → exec (.cmpi (.ctx r) sub e) s =
      .next (s.withChip (c.updCtx (slotKey r) fun x => x.wp e.d (cmpOp sub.toNat (x.rs e.a) e.imm30)))) ∧
    (Runs s.toChip r (dPlog sub.toNat) e c → exec (.plog (.ctx r) sub e) s =
      .next (s.withChip (c.updCtx (slotKey r) fun x => x.wp e.d (plogOp sub.toNat (x.rp e.a) (x.rp e.b)))))

/-- The ALU's sub-operations on integers: sums, differences and products modulo 2^64 and their high halves, shifts by B[5:0], and
    division with its corner cases. -/
def Obligations.AluTable : Prop :=
  ∀ a b : W64,
    (aluOp 0x00 a b).toNat = (a.toNat + b.toNat) % 2 ^ 64 ∧
    (aluOp 0x01 a b).toNat = (2 ^ 64 + a.toNat - b.toNat) % 2 ^ 64 ∧
    (aluOp 0x05 a b).toNat = a.toNat * 2 ^ (b.toNat % 64) % 2 ^ 64 ∧
    (aluOp 0x06 a b).toNat = a.toNat / 2 ^ (b.toNat % 64) ∧
    (aluOp 0x07 a b).toInt = a.toInt / (2 ^ (b.toNat % 64) : Nat) ∧
    (aluOp 0x08 a b).toNat = a.toNat * b.toNat % 2 ^ 64 ∧
    (aluOp 0x09 a b).toNat = a.toNat * b.toNat / 2 ^ 64 ∧
    (aluOp 0x0A a b).toInt = a.toInt * b.toInt / (2 ^ 64 : Nat) ∧
    (aluOp 0x0B a b).toInt = min a.toInt b.toInt ∧
    (aluOp 0x0C a b).toInt = max a.toInt b.toInt ∧
    (aluOp 0x0D a b).toNat = min a.toNat b.toNat ∧
    (aluOp 0x0E a b).toNat = max a.toNat b.toNat ∧
    (aluOp 0x0F a b).toNat = (if b.toNat = 0 then 2 ^ 64 - 1 else a.toNat / b.toNat) ∧
    (aluOp 0x10 a b).toInt = (if b.toInt = 0 then -1 else if a.toInt = -2 ^ 63 ∧ b.toInt = -1 then -2 ^ 63 else a.toInt.tdiv b.toInt) ∧
    (aluOp 0x11 a b).toNat = (if b.toNat = 0 then a.toNat else a.toNat % b.toNat) ∧
    (aluOp 0x12 a b).toInt = (if b.toInt = 0 then a.toInt else a.toInt.tmod b.toInt)

/-- The same scalar instructions on an island's Eflia-S processor, with MFS.CSW as the island's status word, and END outside a
    block. -/
def Obligations.IslandScalarResults : Prop :=
  ∀ (s : State) (i : Isl) (e : Enc) (c c2 : Chip) (sub : BitVec 8) (v : Nat),
    let x := c.isl i
    let rs := fun (n : Nat) => if n = 0 then (0 : W64) else x.file.s.get n 0
    let ws := fun (c : Chip) (n : Nat) (v : W64) => s.withChip (if n = 0 then c else c.updIsl i fun y => { y with file := { y.file with s := y.file.s.set n v } })
    let wp := fun (n : Nat) (b : Bool) => s.withChip (c.updIsl i fun y => { y with file := { y.file with p := setPred y.file.p n b } })
    let lands := fun (t : Nat) => t % 8 = 0 ∧ ∀ b, x.blk = some b → b.ia + 8 ≤ t
    (IRuns s.toChip i dNop e c → exec (.nop (.isl i) e) s = .next (s.withChip c)) ∧
    (IRuns s.toChip i (dAlu sub.toNat) e c → exec (.alu (.isl i) sub e) s = .next (ws c e.d (aluOp sub.toNat (rs e.a) (rs e.b)))) ∧
    (IRuns s.toChip i (dAlui sub.toNat) e c → exec (.alui (.isl i) sub e) s = .next (ws c e.d (aluOp sub.toNat (rs e.a) e.imm30))) ∧
    (IRuns s.toChip i dLi e c → exec (.li (.isl i) e) s = .next (ws c e.d e.x0)) ∧
    (IRuns s.toChip i (dCmp sub.toNat) e c → exec (.cmp (.isl i) sub e) s = .next (wp e.d (cmpOp sub.toNat (rs e.a) (rs e.b)))) ∧
    (IRuns s.toChip i (dCmpi sub.toNat) e c → exec (.cmpi (.isl i) sub e) s = .next (wp e.d (cmpOp sub.toNat (rs e.a) e.imm30))) ∧
    (IRuns s.toChip i (dPlog sub.toNat) e c → exec (.plog (.isl i) sub e) s = .next (wp e.d (plogOp sub.toNat (x.rp e.a) (x.rp e.b)))) ∧
    (IRuns s.toChip i (dLd sub.toNat) e c → iload i (rs e.a + e.imm30).toNat (ldBytes sub.toNat) c = .ok (v, c2) →
      exec (.ld (.isl i) sub e) s = .next (ws c2 e.d (ldExtend sub.toNat v))) ∧
    (IRuns s.toChip i (dSt sub.toNat) e c → istore i (rs e.a + e.imm30).toNat (leBytes (2 ^ (sub.toNat % 4)) (rs e.d).toNat) c = .ok ((), c2) →
      exec (.st (.isl i) sub e) s = .next (s.withChip c2)) ∧
    (IRuns s.toChip i (dBr 0) e c → lands (brTarget (x.ia - 8) e) → exec (.br (.isl i) e) s =
      .next (s.withChip (c.updIsl i fun y => { y with ia := brTarget (x.ia - 8) e }))) ∧
    (IRuns s.toChip i (dJr 0) e c → lands (rs e.a).toNat → exec (.jr (.isl i) e) s =
      .next (s.withChip (c.updIsl i fun y => { y with ia := (rs e.a).toNat }))) ∧
    (IRuns s.toChip i (dBr 1) e c → lands (brTarget (x.ia - 8) e) → exec (.call (.isl i) e) s =
      .next ((ws c 31 (BitVec.ofNat 64 x.ia)).withChip ((ws c 31 (BitVec.ofNat 64 x.ia)).updIsl i fun y => { y with ia := brTarget (x.ia - 8) e }))) ∧
    (IRuns s.toChip i (dJr 1) e c → lands (rs e.a).toNat → exec (.jrl (.isl i) e) s =
      .next ((ws c e.d (BitVec.ofNat 64 x.ia)).withChip ((ws c e.d (BitVec.ofNat 64 x.ia)).updIsl i fun y => { y with ia := (rs e.a).toNat }))) ∧
    (IRuns s.toChip i (dMfs 2) e c → x.blk = none → exec (.mfsDevtime (.isl i) e) s = .next (ws c e.d (BitVec.ofNat 64 (c.localTime (islDie i))))) ∧
    (IRuns s.toChip i (dMfs 0) e c → exec (.mfsCsw (.isl i) e) s = .next (ws c e.d (BitVec.ofNat 64 x.csw))) ∧
    (IRuns s.toChip i (dMfs 3) e c → exec (.mfsIaddr (.isl i) e) s = .next (ws c e.d (BitVec.ofNat 64 (x.ia - 8)))) ∧
    (IRuns s.toChip i dEnd e c → x.blk = none → exec (.endContext (.isl i) e) s = .next (s.withChip (c.updIsl i fun y => { y with ended := true })))

/-- An Eflia-S processor raises its ILLEGAL_INSTRUCTION trap for the encodings it does not decode: MFS.LFC, MFS.PLACE, and every
    movement, tensor, vector, attention, geometry and Search Unit opcode, one of each named here; and the barrier and landing opcodes. A
    trap of a started island that holds none: its code stands in TRAP, an open block is gone, and the processor issues no further
    instruction. A trap of an island that is up and has none: it is in FAULT with the code, its block and wait end, and it records a
    fatal error of class 0x18. A trapped island, or one that is down, is left as it is. -/
def Obligations.IslandTraps : Prop :=
  (∀ (s : State) (i : Isl) (e : Enc), s.islIssues i = true → (s.isl i).ia % 8 = 0 → islFetchOk (s.isl i).ia 0 = true →
     let trap := Host.Outcome.next (s.withChip (s.toChip.islTrap i ILLEGAL_INSTRUCTION))
     exec (.mfsLfc (.isl i) e) s = trap ∧ exec (.mfsPlace (.isl i) e) s = trap ∧ exec (.movCopy (.isl i) e) s = trap ∧
     exec (.reshard (.isl i) e) s = trap ∧ exec (.atomSet64 (.isl i) e) s = trap ∧ exec (.tdld (.isl i) e) s = trap ∧
     exec (.mm (.isl i) e) s = trap ∧ exec (.softmax (.isl i) e) s = trap ∧ exec (.ewAdd (.isl i) e) s = trap ∧
     exec (.vld (.isl i) e) s = trap ∧ exec (.varithAdd (.isl i) e) s = trap ∧ exec (.attn (.isl i) e) s = trap ∧
     exec (.kvapp (.isl i) e) s = trap ∧ exec (.gtestSphObb (.isl i) e) s = trap ∧ exec (.gtravAny (.isl i) e) s = trap ∧
     (∀ u, exec (.suqInsert (.isl i) ⟨e, u⟩) s = trap) ∧ exec (.sunodeNew (.isl i) e) s = trap ∧ exec (.susync (.isl i) e) s = trap ∧
     exec (.barArrive (.isl i) e) s = trap ∧ exec (.barWait (.isl i) e) s = trap ∧ exec (.landWait (.isl i) e) s = trap ∧
     exec (.landSignal (.isl i) e) s = trap) ∧
  (∀ (c : Chip) (i : Isl) (code : Nat), code ≠ 0 → (c.isl i).trap = 0 → (c.isl i).up = true →
     ((c.islTrap i code).isl i).trap = code ∧ ((c.islTrap i code).isl i).blk = none ∧ (c.islTrap i code).islIssues i = false) ∧
  (∀ (c : Chip) (i : Isl) (code : Nat),
     ((c.isl i).trap = 0 → (c.isl i).up = true → c.islTrap i code = (c.updIsl i fun s => { s with trap := code, blk := none, wait := .none }).islErr i 1 0x18 code) ∧
     (((c.isl i).trap ≠ 0 ∨ (c.isl i).up = false) → c.islTrap i code = c))

/-- The bank's read-modify-write on bytes without a stored error: each byte becomes old OR data, or old AND NOT data; the old bytes
    are the answer; every other byte of the block's memory, and everything but memory, is as before. -/
def Obligations.BankReadModifyWrite : Prop :=
  ∀ (c c2 : Chip) (keys : List Nat) (clr : Bool) (data old : List Byte), c.mem.errs = [] → keys.Nodup → keys.length = data.length → c.mem.cells.wf = true →
    rmw keys clr data c = .ok (old, c2) →
    old = keys.map c.byteAt ∧ (∀ a, a ∉ keys → c2.byteAt a = c.byteAt a) ∧ c2 = { c with mem := c2.mem } ∧
    ∀ i (h : i < keys.length), c2.byteAt keys[i] = aliasByte (if clr then 1 else 0) (c.byteAt keys[i]) (data.getD i 0)

/-- Vector loads and stores at a local address outside the aliased ranges, and the broadcasts from memory and from S[SA]: VLD gives
    element e the word at the address + 4e; VST writes the enabled elements through the path of every store; disabled elements keep
    their values. Vector arithmetic, activations, comparisons, selection and conversions: element e of VD becomes the operation on
    elements e of its sources where the mask enables it, and nothing else changes. Vector reductions: the pairwise tree over VA,
    disabled elements entering as the identity, to every element of VD. -/
def Obligations.VectorUnit : Prop :=
  (∀ (s : State) (r : CtxRef) (e : Enc) (c c2 : Chip) (bs : List Byte),
     let k := slotKey r
     let x := c.ctx k
     let a := (x.rs e.saV).toNat
     let lanes := fun (c : Chip) (f : Nat → W32) => s.withChip (c.updCtx k fun y => { y with v := y.v.setAll (((List.range 256).filter (y.von e)).map fun i => (e.vd * 256 + i, f i)) })
     (Runs s.toChip r (dV 0x40 0 (fVA + fVB + fVC)) e c → vecAddr a 1024 = true → rd k a 1024 c = .ok (bs, c2) →
       exec (.vld (.ctx r) e) s = .next (lanes c2 fun i => BitVec.ofNat 32 (leNat ((List.range 4).map fun j => bs.toArray.getD (4 * i + j) 0)))) ∧
     (Runs s.toChip r (dV 0x40 1 (fVD + fVB + fVC)) e c → vecAddr a 1024 = true →
       emit k false (((List.range 256).filter (x.von e)).flatMap fun i => (leBytes 4 (x.rv e.va i).toNat).zipIdx.map fun q => (i / 64, a + 4 * i + q.2, q.1)) c = .ok ((), c2) →
       exec (.vst (.ctx r) e) s = .next (s.withChip c2)) ∧
     (Runs s.toChip r (dV 0x40 2 (fVA + fVB + fVC)) e c → vecAddr a 4 = true → rd k a 4 c = .ok (bs, c2) →
       exec (.vldBc (.ctx r) e) s = .next (lanes c2 fun _ => BitVec.ofNat 32 (leNat bs))) ∧
     (Runs s.toChip r (dV 0x47 0 (fVA + fVB + fVC)) e c → exec (.vbcast (.ctx r) e) s = .next (lanes c fun _ => (x.rs e.saV).setWidth 32))) ∧
  (∀ (s : State) (r : CtxRef) (e : Enc) (c : Chip),
     let k := slotKey r
     let x := c.ctx k
     let g := fun q i => f32 (x.rv q i).toNat
     let row := fun (d : IDesc) (i : Instr) (f : Nat → W32) => Runs s.toChip r d e c →
       exec i s = .next (s.withChip (c.updCtx k fun y => { y with v := y.v.setAll (((List.range 256).filter (y.von e)).map fun j => (e.vd * 256 + j, f j)) }))
     let arith := fun (sub : Nat) (i : Instr) => row (dV 0x41 sub (if sub = 3 then fSA else fVC + fSA)) i fun j => BitVec.ofNat 32 (varith sub (g e.va j) (g e.vb j) (g e.vc j))
     let act := fun (sub : Nat) (i : Instr) => row (dV 0x42 sub (fVB + fVC + fSA)) i fun j => BitVec.ofNat 32 (vactFn sub (g e.va j))
     let cmp := fun (sub : Nat) (op : FV → FV → Bool) (i : Instr) => row (dV 0x43 sub (fVC + fSA)) i fun j => if op (g e.va j) (g e.vb j) then 0xFFFFFFFF#32 else 0#32
     arith 0 (.varithAdd (.ctx r) e) ∧ arith 1 (.varithSub (.ctx r) e) ∧ arith 2 (.varithMul (.ctx r) e) ∧ arith 3 (.varithFma (.ctx r) e) ∧
     arith 4 (.varithMin (.ctx r) e) ∧ arith 5 (.varithMax (.ctx r) e) ∧
     row (dV 0x41 6 (fVB + fVC + fSA)) (.varithAbs (.ctx r) e) (fun j => x.rv e.va j &&& 0x7FFFFFFF#32) ∧
     row (dV 0x41 7 (fVB + fVC + fSA)) (.varithNeg (.ctx r) e) (fun j => x.rv e.va j ^^^ 0x80000000#32) ∧
     act 0 (.vactRelu (.ctx r) e) ∧ act 1 (.vactGelu (.ctx r) e) ∧ act 2 (.vactSilu (.ctx r) e) ∧ act 3 (.vactSigmoid (.ctx r) e) ∧
     act 4 (.vactTanh (.ctx r) e) ∧ act 5 (.vactExp (.ctx r) e) ∧ act 6 (.vactRecip (.ctx r) e) ∧ act 7 (.vactRsqrt (.ctx r) e) ∧
     cmp 0 FV.eq (.vcmpEq (.ctx r) e) ∧ cmp 1 FV.lt (.vcmpLt (.ctx r) e) ∧ cmp 2 FV.le (.vcmpLe (.ctx r) e) ∧
     row (dV 0x44 0 fSA) (.vsel (.ctx r) e) (fun j => if x.rv e.vc j != 0 then x.rv e.va j else x.rv e.vb j) ∧
     row (dV 0x45 0 (fVB + fVC + fSA)) (.vcvtF32I32 (.ctx r) e) (fun j => BitVec.ofInt 32 (convInt 32 (g e.va j)).1) ∧
     row (dV 0x45 1 (fVB + fVC + fSA)) (.vcvtI32F32 (.ctx r) e) (fun j => BitVec.ofNat 32 (rne32 (FV.ofInt (x.rv e.va j).toInt)))) ∧
  (∀ (s : State) (r : CtxRef) (e : Enc) (c : Chip),
     let k := slotKey r
     let x := c.ctx k
     let row := fun (sub : Nat) (ident : FV) (op : FV → FV → FV) (i : Instr) => Runs s.toChip r (dV 0x46 sub (fVB + fVC + fSA)) e c →
       let vs := (List.range 256).map fun j => if x.von e j then f32 (x.rv e.va j).toNat else ident
       let res := BitVec.ofNat 32 (rne32 ((treeFold op 8 vs).headD FV.zero))
       exec i s = .next (s.withChip (c.updCtx k fun y => { y with v := y.v.setAll ((List.range 256).map fun j => (e.vd * 256 + j, res)) }))
     row 0 FV.zero (fun a b => r32 (a.add b)) (.vredSum (.ctx r) e) ∧ row 1 (.inf true) FV.max (.vredMax (.ctx r) e) ∧
     row 2 (.inf false) FV.min (.vredMin (.ctx r) e))

/-- Attention and KVAPP: with accepted operands, tables and pages (`attnRead`, `kvappRead`), readable queries and pages and a
    writable output, ATTN writes the rows that the entries name and their status bytes, KVAPP the quantised vectors, the tags and each
    page's FILL; the events go to the counters and P[SP]. -/
def Obligations.AttentionRows : Prop :=
  ∀ (s : State) (r : CtxRef) (e : Enc) (c c1 c2 c3 c4 : Chip) (a : AttnIn) (rs : List AttnRow) (fl : NumFlags) (q : KvAppIn) (all : List (List KvWrite × Bool × Bool)),
    let k := slotKey r
    let row := fun (sub : Nat) (i : Instr) => Runs s.toChip r (dAttn sub) e c → attnRead sub e k c = .ok (a, c1) → attnRows sub e k a c1 = .ok (rs, c2) →
      writeTensor k a.od (a.vals rs) false 0 (a.unit rs) c2 = .ok (fl, c3) →
      (if a.st = 0 then pure () else (a.status rs).forM fun q => wr k 0 (a.st + q.1) [BitVec.ofNat 8 q.2]) c3 = .ok ((), c4) →
      exec i s = .next (s.withChip (c4.attnFlags k e.spA fl.sat rs ((a.status rs).any fun q => q.2 != 0)))
    row 0 (.attn (.ctx r) e) ∧ row 1 (.attnRing (.ctx r) e) ∧ row 2 (.attnSparse (.ctx r) e) ∧
    (Runs s.toChip r dKvapp e c → kvappRead e k c = .ok (q, c1) → kvappCells k q c1 = .ok (all, c2) → kvappStore k q (all.map fun w => w.1).flatten c2 = .ok ((), c3) →
      exec (.kvapp (.ctx r) e) s = .next (s.withChip (c3.noteFlags k e.spA { sat := all.any fun w => w.2.1, nan := all.any fun w => w.2.2 })))

/-- Geometry tests, traversals and sweeps: with accepted and readable operands the rows of the instruction's rule are stored, each
    in its last work unit, and the counters of INVALID and of HORIZON or DYN_OLD rows and P[SP] follow the rows. GTEST's rows are those
    of every query against every record; a re-validation also counts the rows it invalidates. GBUILD: BUILD writes the sorted records,
    the tree over them and the header; REFIT writes the bounds of the current records; DYN writes the set's parts at TDD's BASE. The
    accepted operands are readable and the outputs writable. -/
def Obligations.Geometry : Prop :=
  (∀ (s : State) (r : CtxRef) (e : Enc) (c c1 c2 c3 : Chip) (d : Desc) (prims : List Prim) (qs : List (Nat × Nat × Nat × Nat)) (rows : List Row)
     (a : SweepIn) (old : List (Option Row × Row × Bool)) (sub : BitVec 8),
     let k := slotKey r
     let sp := fld e.x0 3 0
     let test := fun (n : Nat) (i : Instr) => Runs s.toChip r (dGtest n) e c → gtestRead n e k c = .ok ((d, prims, qs), c1) →
       storeRows k d ((qs.map (gtestRow e.prm prims)).map some) (fun i => (i + 1) * ((prims.length + 15) / 16) - 1) c1 = .ok ((), c2) →
       exec i s = .next (s.withChip (c2.rowFlags k 0 (qs.map (gtestRow e.prm prims))))
     let trav := fun (n : Nat) (i : Instr) => Runs s.toChip r (dGtrav n) e c → gtravRows n e k c = .ok ((d, rows), c1) →
       storeRows k d (rows.map some) (· / 16) c1 = .ok ((), c2) → exec i s = .next (s.withChip (c2.rowFlags k sp rows))
     let sweep := fun (n : Nat) (i : Instr) => Runs s.toChip r (dGsweep n) e c → flag e.x0 4 = false → gsweepRead e k c = .ok (a, c1) → sweepRows n e k a c1 = .ok (rows, c2) →
       storeRows k a.rd (rows.map some) a.unit c2 = .ok ((), c3) → exec i s = .next (s.withChip (c3.rowFlags k sp rows))
     test 0 (.gtestSphObb (.ctx r) e) ∧ test 1 (.gtestSphAabb (.ctx r) e) ∧ test 2 (.gtestSphSph (.ctx r) e) ∧ test 3 (.gtestSphTri (.ctx r) e) ∧
     trav 0 (.gtravAny (.ctx r) e) ∧ trav 1 (.gtravCount (.ctx r) e) ∧ trav 2 (.gtravNearest (.ctx r) e) ∧
     sweep 0 (.gsweepEdge (.ctx r) e) ∧ sweep 1 (.gsweepArtic (.ctx r) e) ∧
     (Runs s.toChip r (dGsweep sub.toNat) e c → flag e.x0 4 = true → gsweepRead e k c = .ok (a, c1) → revalRows sub.toNat k a c1 = .ok (old, c2) →
       storeRows k a.rd (old.map fun q => q.1) a.unit c2 = .ok ((), c3) →
       exec (.gsweepReval (.ctx r) sub e) s = .next (s.withChip (c3.revalFlags k sp old)))) ∧
  (∀ (s : State) (r : CtxRef) (e : Enc) (c c1 c2 c3 : Chip) (nd op : Desc) (ha : Nat) (prims : List (Prim × Box)) (bs : List Byte)
     (boxes : List (Option Box × Option Box)) (all : Option Box),
     let k := slotKey r
     let at' := ((c.ctx k).rs e.saG).toNat
     let t := buildTree prims (fld e.x0 2 0 + 1) 0 0
     (Runs s.toChip r (dGbuild 0) e c → gbuildRead e k c = .ok ((nd, op, ha, prims), c1) → gbuildWrite k nd op ha t.1 t.2.1 t.2.2 c1 = .ok ((), c2) →
       exec (.gbuildBuild (.ctx r) e) s = .next (s.withChip c2)) ∧
     (Runs s.toChip r (dGbuild 1) e c → at' % 256 = 0 → rdPol k true at' 256 c = .ok (bs, c1) → refitBoxes k (sceneHdr at' bs) c1 = .ok ((boxes, all), c2) →
       refitWrite k at' (sceneHdr at' bs) boxes all c2 = .ok ((), c3) → exec (.gbuildRefit (.ctx r) e) s = .next (s.withChip c3)) ∧
     (Runs s.toChip r (dGbuild 2) e c → gdynRead e k c = .ok ((nd, bs), c1) → wrDesc k nd bs c1 = .ok ((), c2) → exec (.gbuildDyn (.ctx r) e) s = .next (s.withChip c2)))

/-- The landing start, with a fixed schedule and no hold, for the next frame n: the frame starts; then staged configuration lands
    and the partitions follow it; staged scenes land; stale arms disarm; contexts detach, move and resume from LAND.WAIT; new contexts
    start; self-test lands; each plan port keeps its GUARD and the islands take the schedule. A context moves at its landing at once
    where it is at an instruction boundary outside a block. A commit deadline stops every resident and saved context that still works
    for its frame. -/
def Obligations.FrameTimes : Prop :=
  ∀ (s : State) (r : CtxRef) (n : Nat) (x : Ctx),
    let f := s.nextFrame
    let late := fun (x : Ctx) => x.lfc == n && (x.state == 1 || x.state == 2 || x.state == 3 || x.state == 5)
    let due := s.at (s.start (n + 1) + s.L)
    (s.time.fixed = true → s.boot.held = false → exec .landingStart s = .next (s.withChip
      ((((((((((s.frameStarts f).cfgLand ((s.frameStarts f).start f)).planLand.scenesLand.disarmStale.detachAll f).moveContexts f).landResume f).startContexts f).stLanding).keepGuards f).scheduleIsl .A).scheduleIsl .B))) ∧
    (s.ctx? (slotKey r) = some x → x.moveTo = some n → x.blk = none → s.ctx (slotKey r) = x → exec (.contextLandingMove r) s = .next (s.withChip
      ((s.updCtx (slotKey r) fun y => { y with lfc := n, moveTo := none, budget := s.lfcBudget y }).frameDone x.part))) ∧
    (s.time.running = true → n < s.time.frame → s.boot.held = false → exec (.commitDeadline n) s = .next (s.withChip
      (((due.core.saved.filter fun e => late e.2).map Prod.fst).foldl Chip.overrunSaved
        (((due.core.slots.filter fun e => late e.2).map Prod.fst).foldl Chip.frameOverrun due))))

/-- Opening and closing check blocks of a context. In UNCHECKED mode CHKB opens a block with its start image and the frame, and CHKE
    ends it, with a landing move that is owed. In CHECKED mode CHKB takes the next sequence number and the rotation 1 + B mod 31 and
    empties V and ACC, or waits while a heartbeat is due or runs; CHKE of the primary pass finishes it and starts the shadow pass at the
    block's first instruction; CHKE of the shadow pass starts to commit where the signatures are equal, and otherwise counts a mismatch
    and waits for the arbiter. -/
def Obligations.CheckBlocks : Prop :=
  ∀ (s : State) (r : CtxRef) (e : Enc) (c c1 : Chip) (b b2 : Block),
    let k := slotKey r
    let x := c.ctx k
    let g := c.eng (k / 2)
    let id := fld e.body 15 0
    let opened := fun (chk : Bool) (b k' : Nat) => ({ cbid := id, checked := chk, b := b, k := k', chkbIa := x.ia - 8, start := x.img, scenes := c.sceneCapture x.part, limits := c.limitCapture (k / 8), frame := c.time.frame } : Block)
    let pages := ((c.desc? x).map CtxDesc.pendPages).getD 0
    let put := fun (f : Ctx → Ctx) (c : Chip) => s.withChip (c.updCtx k f)
    (Runs s.toChip r dChkb e c → x.blk = none → c.checkedMode (k / 2) = false →
      exec (.chkb (.ctx r) e) s = .next (put (fun y => { y with blk := some (opened false 0 0), wait := .none }) c)) ∧
    (Runs s.toChip r dChkb e c → x.blk = none → c.checkedMode (k / 2) = true → 0 < pages → g.hb ≠ 1 → g.hb ≠ 2 →
      exec (.chkb (.ctx r) e) s = .next (put (fun y => { y with blk := some (opened true g.seq (1 + g.seq % 31)), v := [], acc := [], lost := [], wait := .none })
        (c.updEng (k / 2) fun q => { q with seq := (g.seq + 1) % 2 ^ 64 }))) ∧
    (Runs s.toChip r dChkb e c → x.blk = none → c.checkedMode (k / 2) = true → 0 < pages → (g.hb = 1 ∨ g.hb = 2) →
      exec (.chkb (.ctx r) e) s = .next (put (fun y => { y with wait := .chkb id }) c)) ∧
    (Runs s.toChip r dChke e c → x.blk = some b → b.checked = false →
      exec (.chke (.ctx r) e) s = .next (s.withChip ((c.updCtx k fun y => { y with blk := none }).applyMove k))) ∧
    (Runs s.toChip r dChke e c → x.blk = some b → b.checked = true → finishPass k c = .ok ((), c1) → b.state = 1 →
      exec (.chke (.ctx r) e) s = .next (put (fun y => { y with blk := y.blk.map fun b => { b with state := 2, nextIa := x.ia, recPos := 0, resBlks := [] } })
        (c1.updCtx k fun y => { y.load b.start with ia := b.chkbIa + 8 }))) ∧
    (Runs s.toChip r dChke e c → x.blk = some b → b.checked = true → finishPass k c = .ok ((), c1) → b.state = 2 → (c1.ctx k).blk = some b2 → b2.prim.sig = b2.shad.sig →
      exec (.chke (.ctx r) e) s = .next (put (fun y => { y with blk := y.blk.map fun b => { b with state := 6, set := 0 } }) c1)) ∧
    (Runs s.toChip r dChke e c → x.blk = some b → b.checked = true → finishPass k c = .ok ((), c1) → b.state = 2 → (c1.ctx k).blk = some b2 → b2.prim.sig ≠ b2.shad.sig →
      exec (.chke (.ctx r) e) s = .next (s.withChip ((c1.updCtx k fun y => { y with blk := y.blk.map fun b => { b with state := 4 } }).bump (stbK (k / 2) 0xC8))))

/-- Level feedback. With FBEN a base die sends its level; a requester takes the next message, counts the run of messages at most 4
    µs apart, and with a level below 7 resends its refused requests; 4 µs without one, or FBEN = 0, sets TDM for the stack and writes
    REG_FB_LOST; 8 messages in a row clear it and write REG_FB_RESTORED. The DEVTIME at which a command acts comes with it (the model's
    choice, log 51). -/
def Obligations.LevelFeedback : Prop :=
  ∀ (s : State) (o : RqOwner) (m : Fin 6) (t : Nat),
    let c := s.at t
    let die := rqDie o
    let b := c.baseQ m.val
    let q := c.rqo die
    let run := if q.at'.get m.val 0 + 4000 < t then 1 else q.run.get m.val 0 + 1
    let heard := c.updRqo die fun q => { q with level := q.level.set m.val b.lvl, at' := q.at'.set m.val t, seen := q.seen.set m.val b.msgs, run := q.run.set m.val run, cur := q.cur ||| 2 ^ m.val }
    let mine := fun (r : Req) => r.owner == die && r.stack == m.val
    let q0 := s.rqo die
    (c.fben m.val = true → exec (.levelMessageSend m t) s = .next (s.withChip (c.updBase m.val fun b => { b with msgs := b.msgs + 1, lvl := c.levelOf m.val }))) ∧
    (c.fben m.val = false → exec (.levelMessageSend m t) s = .next (s.withChip c)) ∧
    (b.msgs ≠ q.seen.get m.val 0 → 7 ≤ b.lvl → exec (.levelMessageReceive o m t) s = .next (s.withChip heard)) ∧
    (b.msgs ≠ q.seen.get m.val 0 → b.lvl < 7 → exec (.levelMessageReceive o m t) s = .next (s.withChip
      { heard with rq := { heard.rq with flying := heard.rq.flying ++ heard.rq.refused.filter mine, refused := heard.rq.refused.filter fun r => !mine r } })) ∧
    (bit q.tdm m.val = false → (q.at'.get m.val 0 + 4000 ≤ t ∨ c.fben m.val = false) → exec (.regFbLost o m t) s = .next (s.withChip
      (((c.updRqo die fun q => { q with tdm := q.tdm + 2 ^ m.val, cur := q.cur - (q.cur &&& 2 ^ m.val), run := q.run.set m.val 0 }).bump (rqK die 0x88)).post .REG_FB_LOST (rqUnit die) none m.val))) ∧
    (bit q0.tdm m.val = true → 8 ≤ q0.run.get m.val 0 → exec (.regFbRestored o m) s = .next (s.withChip
      (((s.updRqo die fun q => { q with tdm := q.tdm - 2 ^ m.val }).bump (rqK die 0x88)).post .REG_FB_RESTORED (rqUnit die) none m.val)))

/-- The lock and the staged set of a controller. A free lock is claimed by a master that reaches the controller and names itself;
    any other claim is counted. The owner releases it, with the set; a DCU or an island may release its own controller's. Outside ARMED
    the owner's write of a WS register sets the staged value and makes the set STAGED with no result; any other such write, or one with
    a reserved encoding, is counted. The owner drops a set that is not ARMED. -/
def Obligations.StagedSets : Prop :=
  ∀ (s : State) (x : Ctl) (m : Master) (owner : BitVec 5) (a : BitVec 48) (v : W64) (k : RegKey) (row : RegRow),
    let g := s.ctl x
    let bad := s.withChip (s.bump (ctlErr x))
    (g.owner = none → owner.toNat = reqCode m → reaches m x = true →
      exec (.cfgLockClaim x m owner) s = .next (s.withChip (s.updCtl x fun g => { g with owner := some owner.toNat }))) ∧
    ((g.owner ≠ none ∨ owner.toNat ≠ reqCode m ∨ reaches m x = false) → exec (.cfgLockClaim x m owner) s = .next bad) ∧
    (s.ownsSet m x = true → exec (.cfgLockRelease x m) s = .next (s.withChip (s.cfgFree x))) ∧
    (s.ownsSet m x = false → (m ≠ .dcu ∨ x ≠ .dcu) → (∀ i, m ≠ .isl i ∨ x ≠ .isl i) → exec (.cfgLockRelease x m) s = .next bad) ∧
    (s.regAt m a.toNat = some k → s.unmirror k = k → k.whole = k → regBad k 8 = false → regRow k = some row → row.acc = .ws → bar0Only m a.toNat = none → m = .dcu → s.target a.toNat = .reg k →
      s.regGone k = false → (∀ i, k.blk ≠ .isl i) →
      (s.ownsSet m .dcu = true → (s.ctl .dcu).state ≠ 5 → row.ok v.toNat = true → exec (.wsRegisterWrite m a true v) s = .next (s.withChip (s.updCtl .dcu fun g =>
        { g with staged := g.staged.set k (Nat.land v.toNat row.mask), lost := g.lost.filter (· ≠ k), state := 1, rule := 0, nfail := 0, unit := 0 }))) ∧
      ((s.ownsSet m .dcu = false ∨ (s.ctl .dcu).state = 5) → exec (.wsRegisterWrite m a true v) s = .next (s.withChip (s.bump (ctlErr .dcu)))) ∧
      (s.ownsSet m .dcu = true → (s.ctl .dcu).state ≠ 5 → row.ok v.toNat = false → exec (.wsRegisterWrite m a true v) s = .next (s.withChip (s.countErr k)))) ∧
    (s.ownsSet m x = true → g.state ≠ 5 → exec (.cfgDiscard x m) s = .next (s.withChip (s.updCtl x CfgSt.drop))) ∧
    ((s.ownsSet m x = false ∨ g.state = 5) → exec (.cfgDiscard x m) s = .next bad)

/-- Checking and arming. GO by the owner starts a check, whose result makes the set PASSED, or FAILED with the first failing rule,
    their number and the unit. A PASSED set arms for a tick between 200 µs and 60 s ahead (LAST 4 otherwise), or for a landing. Each
    unit's acknowledgement is noted once. Applying. At t − 20 µs the rules are judged again; at t − 10 µs the commit is sent where they
    hold and, for the DCU, every prepared unit acknowledged, and otherwise the apply aborts with the rules that fail, or with rule 0x0A
    for the first unit that is missing; at t a committed set of a tick applies; a unit's prepare message without commit or arming is
    dropped. The DEVTIME at which a command acts comes with it (the model's choice, log 51). -/
def Obligations.ConfigurationSets : Prop :=
  (∀ (s : State) (x : Ctl) (m : Master) (u : CfgUnit),
     let g := s.ctl x
     let bad := s.withChip (s.bump (ctlErr x))
     let upd := fun (f : CfgSt → CfgSt) => s.withChip (s.updCtl x f)
     let now := s.ctlTime x
     let near := now + 200000 ≤ g.tick ∧ g.tick ≤ now + 60000000000
     let d := s.ctl .dcu
     let fails := s.failing x false
     (s.ownsSet m x = true → g.state ≠ 5 → exec (.cfgCheck x m) s = .next (upd fun g => { g with state := 2 })) ∧
     ((s.ownsSet m x = false ∨ g.state = 5) → exec (.cfgCheck x m) s = .next bad) ∧
     (g.state = 2 → exec (.cfgCheckDone x) s = .next (upd fun g =>
       { g with state := if fails.1.isEmpty then 3 else 4, rule := fails.1.headD 0, nfail := min 255 fails.1.length, unit := fails.2 })) ∧
     (s.ownsSet m x = true → g.state = 3 → near → exec (.cfgApplyTick x m) s = .next (upd fun g => g.arm 1 now)) ∧
     (s.ownsSet m x = true → g.state = 3 → ¬ near → exec (.cfgApplyTick x m) s = .next (upd fun g => { g with last := 4 })) ∧
     ((s.ownsSet m x = false ∨ g.state ≠ 3) → exec (.cfgApplyTick x m) s = .next bad) ∧
     (s.ownsSet m x = true → g.state = 3 → exec (.cfgApplyLanding x m) s = .next (upd fun g => g.arm 2 now)) ∧
     ((s.armTick .dcu).isSome = true → unitBlk u ∈ d.prepared → unitBlk u ∉ d.acks → (∀ h, u = .hall h → s.site.state.get h.val 1 ≠ 3) →
       exec (.cfgPrepareAck u) s = .next (s.withChip (s.updCtl .dcu fun g => { g with acks := unitBlk u :: g.acks })))) ∧
  (∀ (s : State) (x : Ctl) (u : CfgUnit) (t a n : Nat) (b : Blk) (more : List Blk) (ns : List Nat),
     let c := s.at t
     let g := c.ctl x
     let now := c.ctlTime x
     let missing := g.prepared.filter fun b => !g.acks.contains b
     let rules := g.again.getD (c.failing x (g.mode == 1))
     let due := c.armTick x = some a ∧ g.sent = false ∧ a ≤ now + 10000
     let d := s.ctl .dcu
     (c.armTick x = some a → a ≤ now + 20000 → g.sent = false →
       exec (.cfgReevaluation x t) s = .next (s.withChip (c.updCtl x fun q => { q with again := some (c.failing x (g.mode == 1)) }))) ∧
     (due → rules.1 = [] → (x = .dcu → missing = []) → exec (.cfgCommitSend x t) s = .next (s.withChip (c.updCtl x fun q => { q with sent := true }))) ∧
     (due → rules.1 = [] → x = .dcu → missing = b :: more → exec (.cfgCommitSend x t) s = .next (s.withChip
       (c.cfgAbort x ([10], ((g.staged.find? fun e => e.1.blk = b).map fun e => keyUnit e.1).getD 0)))) ∧
     (due → rules.1 = n :: ns → exec (.cfgCommitSend x t) s = .next (s.withChip (c.cfgAbort x rules))) ∧
     (c.armTick x = some a → g.sent = true → a ≤ now → (x ≠ .dcu ∨ g.mode ≠ 2) → exec (.cfgTickApply x t) s = .next (s.withChip (c.cfgApply x a))) ∧
     (d.sent = false → d.state ≠ 5 → exec (.prepareDiscard u) s = .next (s.withChip (s.updCtl .dcu fun _ => { d with prepared := d.prepared.filter (· ≠ unitBlk u) }))))

/-- The standby DCU and keys. With a standby the acting DCU sends its queue counts and error sequence, which the standby takes and
    acknowledges; 500 µs without acknowledgement drop the standby with STANDBY_FAIL; 500 µs of silence, or a report, make it take over.
    DCU_KEYREV revokes slots for good, but never that of the running firmware. Where a clause leaves the state as it is because its
    command finds no condition of its own met, that is the model's choice (log 30). The DEVTIME at which a command acts comes with it
    (the model's choice, log 51). -/
def Obligations.StandbyAndKeys : Prop :=
  ∀ (s : State) (t : Nat) (report : Bool) (v : BitVec 4),
    let c := s.at t
    let b := s.boot
    (c.boot.standby = true → exec (.stateMessageSend t) s = .next (s.withChip { c with boot := { c.boot with msgAt := c.time.now, msg := c.log.pidx, msgSeq := c.log.seq } })) ∧
    (b.standby = true → exec .stateMessageReceive s = .next (s.withChip { s.toChip with boot := { b with gotAt := b.msgAt, got := b.msg, gotSeq := b.msgSeq, ackAt := s.time.now } })) ∧
    (b.standby = false → exec .stateMessageReceive s = .next s) ∧
    (c.boot.standby = true → c.boot.ackAt + 500000 ≤ c.time.now → exec (.standbyFail t) s =
      .next (s.withChip (({ c with boot := { c.boot with standby := false } }).post .STANDBY_FAIL dcuUnit none))) ∧
    (b.standby = true → (report = true ∨ b.gotAt + 500000 ≤ c.time.now) → exec (.dcuFailover t report false) s = .next (s.withChip (c.takeover (b2n report)))) ∧
    (c.boot.standby = false → exec (.dcuFailover t report false) s = .next (s.withChip c)) ∧
    (bit v.toNat b.fwkey = true → b.fwslot ≠ 0 → exec (.keyRevoke v) s = .next (s.withChip (s.countErr dcuErr))) ∧
    ((bit v.toNat b.fwkey = false ∨ b.fwslot = 0) → exec (.keyRevoke v) s = .next (s.withChip { s.toChip with boot := { b with rev := Nat.lor b.rev v.toNat } }))

/-- Sensors and coolant. An island's two readings show in SI_TEMP, with 0x8000 for an invalid one, and 125 degrees trap it. A sensor
    silent for 10 ms is suspect until it reads validly for 1 s; PAIRFLAG sets after more than 10 ms, and clears after 1 s. A flow below
    MINFLOW, and each 60 s of it, writes COOLING_DEGRADED; 60 s at or above RESFLOW restores NORMAL; RESUME leaves STOPPED with every
    active hall and running partition started again, and elsewhere is counted. Ageing and efficiency. A measurement acts during a
    landing on an active hall 15 minutes after its last; a margin plan is written where one is due; the reference run needs every
    partition free, lasts 1 s and sets the four factors with their time. The DEVTIME at which a command acts comes with it (the model's
    choice, log 51). -/
def Obligations.HeatAndAgeing : Prop :=
  (∀ (s : State) (i : Isl) (rs : List (Int × Bool)) (site : Fin 72) (h : Fin 72) (m : Fin 6) (n : Fin 8) (t o flow power : Nat) (rise : Int),
     let c := s.at t
     let x := 10 + islN i
     let heard := (rs.take 2).zipIdx.foldl (fun c r => c.updSens x fun y => y.read r.2 r.1.1 (readingOk r.1.1 r.1.2) t) c
     let seen := heard.setReg (siK i 0xD0) ((heard.sens x).fld 0 + (heard.sens x).fld 1 * 2 ^ 16)
     let hot := ∃ j < 2, bit (heard.sens x).sus j = false ∧ ∃ v, (heard.sens x).temps.look j = some v ∧ 2000 ≤ v
     let q := c.hallPwr site.val
     let dumb := fun (y : Sens) => y.seen.get n.val 0 + 10000000 ≤ t
     let held := fun (y : Sens) => { y with long := y.long ||| 2 ^ n.val, sus := y.sus ||| 2 ^ n.val }
     let pump := unitPath 8 0xFF 0 0 0 1
     let rec' := fun (c : Chip) => (c.updPm fun m => { m with degAt := t }).post .COOLING_DEGRADED pump none c.pm.flow
     let woken := s.activeSites.foldl (fun c x => (c.updPwr x fun h => { h with idle := false }).settlePoint x) s.toChip
     let again := ((woken.parts.filter fun e => e.2.state == 2).map Prod.fst).foldl Chip.partRestart woken
     (hot → exec (.temperatureSample (.isl i) rs t) s = .next (s.withChip (seen.islTrap i 0x22))) ∧ (¬ hot → exec (.temperatureSample (.isl i) rs t) s = .next (s.withChip seen)) ∧
     exec (.temperatureSample (.die (.hall h)) rs t) s = .next (s.withChip (c.hallSensors h.val rs t)) ∧
     (n.val < 4 → dumb q.toSens → exec (.sensorSuspect (.die (.hall site)) n t) s = .next (s.withChip (c.updPwr site.val fun y => { y with toSens := held y.toSens }))) ∧
     (n.val < 4 → dumb (c.sens m.val) → exec (.sensorSuspect (.die (.mb m)) n t) s = .next (s.withChip (c.updSens m.val held))) ∧
     (q.pair = false → q.pairD = true → q.pairT + 10000000 < t → exec (.thmSensor site t) s = .next (s.withChip
       ((c.updPwr site.val fun x => { x with pair := !x.pair }).post .THM_SENSOR (hallUnit site.val 6) none))) ∧
     (t < c.pm.coolAt + 1000000000 → c.pm.flowOk = true → t ≤ c.pm.flowAt + 10000000 → flow < c.coolCfg.2.2 → exec (.flowEstimate flow power rise t) s =
       .next (s.withChip (c.updPm fun m => { m with flow := flow, okFrom := none }))) ∧
     (c.pm.cool = 0 → c.pm.flow < c.coolCfg.2.1 → exec (.coolingDegraded t) s = .next (s.withChip (rec' ((c.updPm fun m => { m with cool := 1 }).bump (dcuK 0x7028))))) ∧
     (c.pm.cool = 1 → c.pm.degAt + 60000000000 ≤ t → exec (.coolingDegraded t) s = .next (s.withChip (rec' c))) ∧
     (c.pm.okFrom = some o → c.pm.cool = 1 → o + 60000000000 ≤ t → exec (.coolingRestored t) s = .next (s.withChip ((c.updPm fun m => { m with cool := 0 }).post .COOLING_RESTORED pump none))) ∧
     (s.pm.cool = 2 → s.coolCfg.2.2 ≤ s.pm.flow → exec .coolantResume s = .next (s.withChip
       (((again.updPm fun m => { m with cool := 1, degAt := again.time.now, okFrom := some again.time.now }).post .COOLING_DEGRADED pump none again.pm.flow).bump (dcuK 0x7028)))) ∧
     ((s.pm.cool ≠ 2 ∨ s.pm.flow < s.coolCfg.2.2) → exec .coolantResume s = .next (s.withChip (s.bump (dcuK 0x70D0))))) ∧
  (∀ (s : State) (site : Fin 72) (slack ro fs : List Nat) (t e : Nat) (ok : Bool),
     let c := s.at t
     let at' := c.start c.time.frame
     let due := c.siteActive site.val = true ∧ c.time.running = true ∧ at' ≤ t ∧ t < at' + c.L ∧ (c.planBase.sites.get site.val {}).measured + 15 ≤ c.minutes
     let free := ∀ q ∈ c.parts, q.2.state = 0
     (due → exec (.ageingMeasurement site slack ro t) s = .next (s.withChip (c.ageing site.val slack ro))) ∧ (¬ due → exec (.ageingMeasurement site slack ro t) s = .next (s.withChip c)) ∧
     (s.pm.planWrite = true → exec (.marginPlanWriteDone ok) s = .next (s.withChip (s.planWritten ok))) ∧
     (free → exec (.efficiencyRun t) s = .next (s.withChip (c.updPm fun m => { m with effEnd := some (t + 1000000000) }))) ∧
     (¬ free → exec (.efficiencyRun t) s = .next (s.withChip (c.bump (dcuK 0x70D0)))) ∧
     (c.pm.effEnd = some e → e ≤ t → exec (.efficiencyRunEnd fs t) s = .next (s.withChip
       (c.updPm fun m => { m with effEnd := none, eff := (fs.take 4).zipIdx.map fun f => (f.2, (f.1, t / 1000000)) }))))

/-- The error log. Intake takes the oldest record: one that merges joins a merging record of its kind or starts one, or past RATE is
    counted; any other is delivered, or past RATE waits. A new period delivers what merged, then at most RATE of the waiting ones, in
    order. -/
def Obligations.ErrorLog : Prop :=
  ∀ (s : State) (r : ErrRec) (rs : List ErrRec),
    let c : Chip := { s.toChip with log := { s.log with inbox := rs } }
    let room := s.log.taken < s.errRate
    let same := ∃ m ∈ s.log.merging, m.same r = true
    let is := fun (o : Chip) => exec .errorRecordIntake s = .next (s.withChip o)
    let clear : Chip := { s.toChip with log := { s.log with merging := [], taken := 0 } }
    let merged := s.log.merging.foldl Chip.errDeliver clear
    let now := merged.log.waiting.take merged.errRate
    (s.log.inbox = r :: rs → mergeable r.cls = true → same → is { c with log := { c.log with merging := c.log.merging.map fun m => if m.same r then m.join r else m } }) ∧
    (s.log.inbox = r :: rs → mergeable r.cls = true → ¬ same → room → is { c with log := { c.log with merging := c.log.merging ++ [r], taken := c.log.taken + 1 } }) ∧
    (s.log.inbox = r :: rs → mergeable r.cls = true → ¬ same → ¬ room → is (c.bump (dcuK 0x8010))) ∧
    (s.log.inbox = r :: rs → mergeable r.cls = false → room → is (({ c with log := { c.log with taken := c.log.taken + 1 } }).errDeliver r)) ∧
    (s.log.inbox = r :: rs → mergeable r.cls = false → ¬ room → is { c with log := { c.log with waiting := c.log.waiting ++ [r] } }) ∧
    exec .errorPeriodRelease s = .next (s.withChip
      (now.foldl Chip.errDeliver { merged with log := { merged.log with waiting := merged.log.waiting.drop now.length, taken := now.length } }))
end

