-- ==== Sys2Proof/Laws/Effects.lean ====
section
/-! SUPPORT. What the named effects of an instruction do to the block, one lemma each: sequencing, registers, contexts and checks, for contexts and for the islands' processors. -/

namespace Sys2Proof.Machine

/-! ## Sequencing -/

@[simp] theorem ex_pure {α : Type} (a : α) (c : Chip) : (pure a : Ex α) c = .ok (a, c) := rfl

theorem ex_bind {α β : Type} (x : Ex α) (f : α → Ex β) (c : Chip) :
    (x >>= f) c = match x c with
      | .ok (a, c') => f a c'
      | .error t => .error t := by
  simp only [bind, StateT.bind, Except.bind]
  cases x c <;> rfl

theorem ex_bind_ok {α β : Type} {x : Ex α} {f : α → Ex β} {c c' : Chip} {a : α} (h : x c = .ok (a, c')) : (x >>= f) c = f a c' := by
  rw [ex_bind, h]

theorem ex_map {α β : Type} (f : α → β) (x : Ex α) (c : Chip) :
    (f <$> x) c = match x c with
      | .ok (a, c') => .ok (f a, c')
      | .error t => .error t := by
  simp only [Functor.map, StateT.map, bind, Except.bind]
  cases x c <;> rfl

@[simp] theorem ex_get (c : Chip) : (get : Ex Chip) c = .ok (c, c) := rfl
@[simp] theorem ex_set (c c' : Chip) : (set c' : Ex PUnit) c = .ok (PUnit.unit, c') := rfl
@[simp] theorem ex_modify (f : Chip → Chip) (c : Chip) : (modify f : Ex PUnit) c = .ok (PUnit.unit, f c) := rfl
@[simp] theorem raise_eq {α : Type} (cls sub addr : Nat) (c : Chip) :
    (raise cls sub addr : Ex α) c = .error { cls := cls, sub := sub, addr := addr, chip := c } := rfl

/-! ## Contexts -/

@[simp] theorem ctxOf_eq (k : Nat) (c : Chip) : ctxOf k c = .ok (c.ctx k, c) := rfl
@[simp] theorem updC_eq (k : Nat) (f : Ctx → Ctx) (c : Chip) : updC k f c = .ok ((), c.updCtx k f) := rfl
@[simp] theorem getS_eq (k i : Nat) (c : Chip) : getS k i c = .ok ((c.ctx k).rs i, c) := rfl
@[simp] theorem setS_eq (k i : Nat) (v : W64) (c : Chip) : setS k i v c = .ok ((), c.updCtx k fun x => x.ws i v) := rfl
@[simp] theorem setP_eq (k i : Nat) (b : Bool) (c : Chip) : setP k i b c = .ok ((), c.updCtx k fun x => x.wp i b) := rfl
@[simp] theorem getTD_eq (k i : Nat) (c : Chip) : getTD k i c = .ok ((c.ctx k).td.get i 0, c) := rfl
@[simp] theorem setTD_eq (k i : Nat) (w : BitVec 256) (c : Chip) :
    setTD k i w c = .ok ((), c.updCtx k fun x => { x with td := x.td.set i w }) := rfl
@[simp] theorem inChk_eq (k : Nat) (c : Chip) : inChk k c = .ok ((c.ctx k).chk, c) := rfl
@[simp] theorem updB_eq (k : Nat) (f : Block → Block) (c : Chip) :
    updB k f c = .ok ((), c.updCtx k fun x => { x with blk := x.blk.map f }) := rfl

/-- Checks pass exactly where no condition holds. -/
theorem checks_ok {l : List (Bool × Nat)} {c : Chip} (h : ∀ q ∈ l, q.1 = false) : checks l c = .ok ((), c) := by
  have : l.filter Prod.fst = [] := by
    rw [List.filter_eq_nil_iff]
    intro q hq
    simp [h q hq]
  simp [checks, this, lowest]

/-- A condition that does not hold can be left out of a list of checks. -/
theorem checks_cons {b : Bool} (n : Nat) (l : List (Bool × Nat)) (c : Chip) (h : b = false) : checks ((b, n) :: l) c = checks l c := by
  simp [checks, h]

/-- The same for checks that name a barred address. -/
theorem checksAt_ok {l : List (Bool × Nat)} {c : Chip} (o : Option Nat) (h : ∀ q ∈ l, q.1 = false) : checksAt l o c = .ok ((), c) := by
  simp [checksAt, checks_ok h]

/-- A movement that does not fault is its own effect. -/
theorem moveStop_ok {α : Type} {k : Nat} {act : Ex α} {c : Chip} {r : α × Chip} (left : Trap → Chip → MemSt × List Nat) (h : act c = .ok r) :
    moveStop k act left c = .ok r := by
  simp [moveStop, h]

theorem checks_nil (c : Chip) : checks [] c = .ok ((), c) := rfl

theorem need_true (cls : Nat) (c : Chip) : need true cls c = .ok ((), c) := rfl
theorem need_false (cls : Nat) (c : Chip) : need false cls c = .error { cls := cls, multi := false, chip := c } := rfl

/-- A requirement that holds changes nothing; one that fails raises its class. -/
theorem need_eq (b : Bool) (cls : Nat) (c : Chip) :
    need b cls c = if b then .ok ((), c) else .error { cls := cls, multi := false, chip := c } := by
  cases b <;> rfl

/-- Outside a CHECKED block a recorded value is the value itself. -/
theorem recorded_out {k n : Nat} {act : Ex Nat} {c : Chip} (h : (c.ctx k).chk = none) : recorded k n act c = act c := by
  simp [recorded, ex_bind, h]

/-! ## Islands -/

@[simp] theorem iex_pure {α : Type} (a : α) (c : Chip) : (pure a : IEx α) c = .ok (a, c) := rfl

theorem iex_bind {α β : Type} (x : IEx α) (f : α → IEx β) (c : Chip) :
    (x >>= f) c = match x c with
      | .ok (a, c') => f a c'
      | .error t => .error t := by
  simp only [bind, StateT.bind, Except.bind]
  cases x c <;> rfl

@[simp] theorem iex_get (c : Chip) : (get : IEx Chip) c = .ok (c, c) := rfl
@[simp] theorem iex_set (c c' : Chip) : (set c' : IEx PUnit) c = .ok (PUnit.unit, c') := rfl
@[simp] theorem iex_modify (f : Chip → Chip) (c : Chip) : (modify f : IEx PUnit) c = .ok (PUnit.unit, f c) := rfl
@[simp] theorem iget_eq (i : Isl) (c : Chip) : iget i c = .ok (c.isl i, c) := rfl
@[simp] theorem iset_eq (i : Isl) (f : IslSt → IslSt) (c : Chip) : iset i f c = .ok ((), c.updIsl i f) := rfl
@[simp] theorem igetS_eq (i : Isl) (n : Nat) (c : Chip) :
    igetS i n c = .ok (if n = 0 then 0 else (c.isl i).file.s.get n 0, c) := rfl
@[simp] theorem isetP_eq (i : Isl) (n : Nat) (b : Bool) (c : Chip) :
    isetP i n b c = .ok ((), c.updIsl i fun s => { s with file := { s.file with p := setPred s.file.p n b } }) := rfl
theorem isetS_eq (i : Isl) (n : Nat) (v : W64) (c : Chip) :
    isetS i n v c = .ok ((), if n = 0 then c else c.updIsl i fun s => { s with file := { s.file with s := s.file.s.set n v } }) := by
  unfold isetS
  split <;> rfl

/-- A requirement of an island's instruction. -/
theorem ineed_eq (b : Bool) (code : Nat) (c : Chip) : ineed b code c = if b then .ok ((), c) else .error (code, c) := by
  cases b <;> rfl

end Sys2Proof.Machine
end

