-- ==== Sys2Proof/Laws/Issue.lean ====
section
/-! SUPPORT. What the shared frame of every instruction does: when its first steps succeed, the instruction is its own effect; when it does not execute, only those steps; and when a slot does not issue, nothing. -/

namespace Sys2Proof.Machine

/-- An instruction that runs is its own effect, or the fault that effect raises. -/
theorem instr_of_runs {c c1 : Chip} {r : CtxRef} {d : IDesc} {e : Enc} (h : Runs c r d e c1) (body : Nat → Ex Unit) :
    c.instr r d e body = match body (slotKey r) c1 with
      | .ok ((), c') => c'
      | .error t => (t.take (c.fetching r) (slotKey r) d.opc).lockFail (slotKey r) t := by
  obtain ⟨hi, hp⟩ := h
  unfold Chip.instr
  simp only [hi, if_true]
  simp only [Chip.fetching] at hp
  simp only [hp, Chip.fetching]
  all_goals rfl

/-- An instruction whose own effect succeeds leaves what that effect leaves. -/
theorem instr_ok {c c1 c2 : Chip} {r : CtxRef} {d : IDesc} {e : Enc} {body : Nat → Ex Unit} (h : Runs c r d e c1)
    (hb : body (slotKey r) c1 = .ok ((), c2)) : c.instr r d e body = c2 := by
  rw [instr_of_runs h, hb]

/-- An instruction that executes and traps has its fault taken; nothing else of its effect stays but what `Trap.rollback` keeps. -/
theorem instr_trap {c c1 : Chip} {r : CtxRef} {d : IDesc} {e : Enc} {body : Nat → Ex Unit} {t : Trap} (h : Runs c r d e c1)
    (hb : body (slotKey r) c1 = .error t) : c.instr r d e body = (t.take (c.fetching r) (slotKey r) d.opc).lockFail (slotKey r) t := by
  rw [instr_of_runs h, hb]

/-- A slot that does not issue leaves the block as it is. -/
theorem instr_idle {c : Chip} {r : CtxRef} (h : c.issues (slotKey r) = false) (d : IDesc) (e : Enc) (body : Nat → Ex Unit) :
    c.instr r d e body = c := by
  unfold Chip.instr
  simp [h]

/-- An island's instruction that runs is its own effect, or its trap. -/
theorem islInstr_of_runs {c c1 : Chip} {i : Isl} {d : IDesc} {e : Enc} (h : IRuns c i d e c1) (body : Isl → IEx Unit) :
    c.islInstr i d e body = match body i c1 with
      | .ok ((), c') => c'
      | .error (code, c') => c'.islTrap i code := by
  obtain ⟨hi, hp⟩ := h
  unfold Chip.islInstr
  simp only [hi, if_true, bind, StateT.bind, Except.bind, hp]
  all_goals rfl

/-- An island's instruction whose own effect succeeds leaves what that effect leaves. -/
theorem islInstr_ok {c c1 c2 : Chip} {i : Isl} {d : IDesc} {e : Enc} {body : Isl → IEx Unit} (h : IRuns c i d e c1)
    (hb : body i c1 = .ok ((), c2)) : c.islInstr i d e body = c2 := by
  rw [islInstr_of_runs h, hb]

/-- A row that a context and an island share, for a context whose instruction runs. -/
theorem either_ctx_ok {c c1 c2 : Chip} {r : CtxRef} {d : IDesc} {e : Enc} {body : Nat → Ex Unit} (isl : Option (Isl → IEx Unit)) (h : Runs c r d e c1)
    (hb : body (slotKey r) c1 = .ok ((), c2)) : c.either (.ctx r) d e body isl = c2 := instr_ok h hb

/-- The same row for an island's processor that has it. -/
theorem either_isl_ok {c c1 c2 : Chip} {i : Isl} {d : IDesc} {e : Enc} {isl : Isl → IEx Unit} (body : Nat → Ex Unit) (h : IRuns c i d e c1)
    (hb : isl i c1 = .ok ((), c2)) : c.either (.isl i) d e body (some isl) = c2 := islInstr_ok h hb

/-- A lifted effect completes, with the queue as it is. -/
theorem on_eq (s : State) (f : Chip → Chip) : s.on f = .next (s.withChip (f s.toChip)) := rfl

@[simp] theorem withChip_toChip (s : State) (c : Chip) : (s.withChip c).toChip = c := rfl
@[simp] theorem withChip_pending (s : State) (c : Chip) : (s.withChip c).pending = s.pending := rfl

end Sys2Proof.Machine
end

