-- ==== Sys2Proof/Laws/Memory.lean ====
section
/-! SUPPORT. The laws of the stores: every operation keeps the canonical form, a read after a write to the same key gives the byte written, and a write leaves every other key alone. -/

namespace Sys2Proof.Machine.Memory

/-- A higher lower bound is a stronger claim. -/
theorem wfFrom_mono {lo lo' : Nat} {m : Memory} (h : wfFrom lo' m = true) (hl : lo ≤ lo') : wfFrom lo m = true := by
  cases m with
  | nil => rfl
  | cons e m => simp [wfFrom] at h ⊢; exact ⟨⟨by omega, h.1.2⟩, h.2⟩

/-- A write at or above the bound keeps the form. -/
theorem wfFrom_write {lo a : Nat} {v : Byte} {m : Memory} (h : wfFrom lo m = true) (ha : lo ≤ a) : wfFrom lo (write m a v) = true := by
  induction m generalizing lo with
  | nil => by_cases hv : v = unlisted <;> simp [write, wfFrom, hv, ha]
  | cons e m ih =>
    simp only [wfFrom, Bool.and_eq_true, decide_eq_true_eq] at h
    obtain ⟨⟨h1, h2⟩, h3⟩ := h
    simp only [write]
    split
    · split
      · simp [wfFrom, h1, h2, h3]
      · next hlt hv => simp [wfFrom, ha, hv, h2, h3]; omega
    · split
      · split
        · exact wfFrom_mono h3 (by omega)
        · next heq hv => subst heq; simp [wfFrom, ha, hv, h3]
      · next h4 h5 => simp only [wfFrom, Bool.and_eq_true, decide_eq_true_eq]; exact ⟨⟨h1, h2⟩, ih h3 (by omega)⟩

/-- A write keeps the canonical form. -/
theorem wf_write {m : Memory} (h : m.wf = true) (a : Nat) (v : Byte) : (m.write a v).wf = true := wfFrom_write h (Nat.zero_le a)

/-- Writing bytes keeps the canonical form. -/
theorem wf_writeBytes {m : Memory} (h : m.wf = true) (a : Nat) (bs : List Byte) : (m.writeBytes a bs).wf = true := by
  induction bs generalizing m a with
  | nil => exact h
  | cons b bs ih => exact ih (wf_write h a b) (a + 1)

/-- Writing cells keeps the canonical form. -/
theorem wf_writeCells {m : Memory} (h : m.wf = true) (cs : List (Nat × Byte)) : (m.writeCells cs).wf = true := by
  induction cs generalizing m with
  | nil => exact h
  | cons e cs ih => exact ih (wf_write h e.1 e.2)

/-- Storing a number keeps the canonical form. -/
theorem wf_writeLE {m : Memory} (h : m.wf = true) (a n v : Nat) : (m.writeLE a n v).wf = true := wf_writeBytes h a _

/-- Dropping entries keeps the form. -/
theorem wfFrom_filter {lo : Nat} {m : Memory} (h : wfFrom lo m = true) (p : Host.Cell → Bool) : wfFrom lo (m.filter p) = true := by
  induction m generalizing lo with
  | nil => rfl
  | cons e m ih =>
    simp only [wfFrom, Bool.and_eq_true, decide_eq_true_eq] at h
    obtain ⟨⟨h1, h2⟩, h3⟩ := h
    simp only [List.filter_cons]
    split
    · simp only [wfFrom, Bool.and_eq_true, decide_eq_true_eq]; exact ⟨⟨h1, h2⟩, ih h3⟩
    · exact wfFrom_mono (ih h3) (by omega)

/-- Clearing a set of keys keeps the canonical form. -/
theorem wf_filter {m : Memory} (h : m.wf = true) (p : Host.Cell → Bool) : wf (m.filter p) = true := wfFrom_filter h p

/-- The empty store is in canonical form. -/
@[simp] theorem wf_nil : wf [] = true := rfl

/-- A key below the bound is not listed. -/
theorem read_below {lo a : Nat} {m : Memory} (h : wfFrom lo m = true) (ha : a < lo) : m.read a = unlisted := by
  cases m with
  | nil => rfl
  | cons e m => simp [wfFrom] at h; simp [read]; intro; omega

/-- A read after a write to the same key. -/
theorem read_write_same {m : Memory} (h : m.wf = true) (a : Nat) (v : Byte) : (m.write a v).read a = v := by
  have key : ∀ (lo : Nat) (m : Memory), wfFrom lo m = true → (m.write a v).read a = v := by
    intro lo m
    induction m generalizing lo with
    | nil => intro; by_cases hv : v = unlisted <;> simp [write, read, hv]
    | cons e m ih =>
      intro h
      simp only [wfFrom, Bool.and_eq_true, decide_eq_true_eq] at h
      simp only [write]
      split
      · next hlt => split <;> simp [read, *]
      · split
        · next heq =>
          split
          · next hv => rw [read_below h.2 (by omega), hv]
          · simp [read]
        · next h1 h2 => simp only [read]; rw [if_neg h1, if_neg h2]; exact ih _ h.2
  exact key 0 m h

/-- A write leaves every other key alone. -/
theorem read_write_ne {m : Memory} (h : m.wf = true) {a b : Nat} (hab : b ≠ a) (v : Byte) : (m.write a v).read b = m.read b := by
  have key : ∀ (lo : Nat) (m : Memory), wfFrom lo m = true → (m.write a v).read b = m.read b := by
    intro lo m
    induction m generalizing lo with
    | nil => intro; by_cases hv : v = unlisted <;> simp [write, read, hv]; omega
    | cons e m ih =>
      intro h
      simp only [wfFrom, Bool.and_eq_true, decide_eq_true_eq] at h
      simp only [write]
      split
      · split
        · rfl
        · by_cases hb : b < a
          · simp only [read]; rw [if_pos hb, if_pos (by omega)]
          · conv => lhs; unfold read
            rw [if_neg hb, if_neg hab]
      · split
        · next heq =>
          have hne : b ≠ e.1 := by omega
          split
          · by_cases hb : b < e.1
            · rw [read_below h.2 (by omega)]; simp [read, hb]
            · simp [read, hb, hne]
          · simp only [read]
            by_cases hb : b < e.1
            · rw [if_pos (by omega), if_pos hb]
            · rw [if_neg (by omega), if_neg (by omega), if_neg hb, if_neg hne]
        · simp only [read]; rw [ih _ h.2]
  exact key 0 m h

/-- A write of bytes leaves every key outside them alone. -/
theorem read_writeBytes_out {m : Memory} (h : m.wf = true) (a : Nat) (bs : List Byte) {b : Nat} (hb : b < a ∨ a + bs.length ≤ b) :
    (m.writeBytes a bs).read b = m.read b := by
  induction bs generalizing m a with
  | nil => rfl
  | cons v bs ih =>
    simp only [List.length_cons] at hb
    simp only [writeBytes]
    rw [ih (wf_write h a v) (a + 1) (by omega), read_write_ne h (by omega)]

/-- Bytes read where they were written. -/
theorem readBytes_writeBytes {m : Memory} (h : m.wf = true) (a : Nat) (bs : List Byte) : (m.writeBytes a bs).readBytes a bs.length = bs := by
  induction bs generalizing m a with
  | nil => rfl
  | cons v bs ih =>
    simp only [writeBytes, List.length_cons, readBytes]
    rw [ih (wf_write h a v) (a + 1), read_writeBytes_out (wf_write h a v) _ _ (by omega), read_write_same h]

end Sys2Proof.Machine.Memory
end

