-- ==== Sys2Proof/Laws/State.lean ====
section
/-! SUPPORT. What each named update of the block leaves alone, field by field, and what it leaves in the field it changes: so that no later proof unfolds a record update. -/

namespace Sys2Proof.Machine

/-! ## Finite maps -/

namespace AMap

variable {κ ν : Type} [DecidableEq κ]

/-- A look-up of the key that was set. -/
@[simp] theorem look_set_same (m : AMap κ ν) (k : κ) (v : ν) : (m.set k v).look k = some v := by
  induction m with
  | nil => simp [set, look]
  | cons e m ih => simp only [set]; split <;> simp [look, *]

/-- A look-up of another key. -/
theorem look_set_ne (m : AMap κ ν) {k j : κ} (h : j ≠ k) (v : ν) : (m.set k v).look j = m.look j := by
  induction m with
  | nil => simp [set, look, Ne.symm h]
  | cons e m ih =>
    simp only [set]
    split
    · next heq => simp [look, heq, Ne.symm h]
    · simp only [look]; split <;> simp_all

@[simp] theorem get_set_same (m : AMap κ ν) (k : κ) (v d : ν) : (m.set k v).get k d = v := by simp [get]

theorem get_set_ne (m : AMap κ ν) {k j : κ} (h : j ≠ k) (v d : ν) : (m.set k v).get j d = m.get j d := by simp [get, look_set_ne m h]

@[simp] theorem get_nil (k : κ) (d : ν) : get ([] : AMap κ ν) k d = d := rfl

@[simp] theorem get_upd_same (m : AMap κ ν) (k : κ) (d : ν) (f : ν → ν) : (m.upd k d f).get k d = f (m.get k d) := by simp [upd]

theorem get_upd_ne (m : AMap κ ν) {k j : κ} (h : j ≠ k) (d : ν) (f : ν → ν) : (m.upd k d f).get j d = m.get j d := by simp [upd, get_set_ne m h]

end AMap

/-! ## The field that an update changes -/

@[simp] theorem setReg_reg_same (c : Chip) (k : RegKey) (v : Nat) : (c.setReg k v).reg k = v % 2 ^ 64 := by simp [Chip.setReg, Chip.reg]
theorem setReg_reg_ne (c : Chip) {k j : RegKey} (h : j ≠ k) (v : Nat) : (c.setReg k v).reg j = c.reg j := by
  simp [Chip.setReg, Chip.reg, AMap.get_set_ne _ h]
theorem bump_reg_ne (c : Chip) {k j : RegKey} (h : j ≠ k) (n : Nat) : (c.bump k n).reg j = c.reg j := setReg_reg_ne c h _
@[simp] theorem updCtx_ctx_same (c : Chip) (k : Nat) (f : Ctx → Ctx) : (c.updCtx k f).ctx k = f (c.ctx k) := by
  simp [Chip.updCtx, Chip.setCtx, Chip.ctx]
theorem updCtx_ctx_ne (c : Chip) {k j : Nat} (h : j ≠ k) (f : Ctx → Ctx) : (c.updCtx k f).ctx j = c.ctx j := by
  simp [Chip.updCtx, Chip.setCtx, Chip.ctx, AMap.get_set_ne _ h]
@[simp] theorem updPart_part_same (c : Chip) (p : Nat) (f : Part → Part) : (c.updPart p f).part p = f (c.part p) := by simp [Chip.updPart, Chip.part]
theorem updPart_part_ne (c : Chip) {p q : Nat} (h : q ≠ p) (f : Part → Part) : (c.updPart p f).part q = c.part q := by
  simp [Chip.updPart, Chip.part, AMap.get_upd_ne _ h]
@[simp] theorem updSu_suSt_same (c : Chip) (n : Nat) (f : SuSt → SuSt) : (c.updSu n f).suSt n = f (c.suSt n) := by simp [Chip.updSu, Chip.suSt]
@[simp] theorem updCtl_ctl_same (c : Chip) (x : Ctl) (f : CfgSt → CfgSt) : (c.updCtl x f).ctl x = f (c.ctl x) := by simp [Chip.updCtl, Chip.ctl]
@[simp] theorem updIsl_isl_same (c : Chip) (i : Isl) (f : IslSt → IslSt) : (c.updIsl i f).isl i = f (c.isl i) := by cases i <;> rfl
theorem updIsl_isl_other (c : Chip) (i : Isl) (f : IslSt → IslSt) : (c.updIsl i f).isl (otherIsl i) = c.isl (otherIsl i) := by cases i <;> rfl

/-! ## The fields that an update leaves alone -/

@[simp] theorem setReg_time (c : Chip) (k : RegKey) (v : Nat) : (c.setReg k v).time = c.time := rfl
@[simp] theorem setReg_mem (c : Chip) (k : RegKey) (v : Nat) : (c.setReg k v).mem = c.mem := rfl
@[simp] theorem setReg_log (c : Chip) (k : RegKey) (v : Nat) : (c.setReg k v).log = c.log := rfl
@[simp] theorem setReg_core (c : Chip) (k : RegKey) (v : Nat) : (c.setReg k v).core = c.core := rfl
@[simp] theorem setReg_parts (c : Chip) (k : RegKey) (v : Nat) : (c.setReg k v).parts = c.parts := rfl
@[simp] theorem setReg_site (c : Chip) (k : RegKey) (v : Nat) : (c.setReg k v).site = c.site := rfl
@[simp] theorem setReg_pwr (c : Chip) (k : RegKey) (v : Nat) : (c.setReg k v).pwr = c.pwr := rfl
@[simp] theorem setReg_rails (c : Chip) (k : RegKey) (v : Nat) : (c.setReg k v).rails = c.rails := rfl
@[simp] theorem setReg_batch (c : Chip) (k : RegKey) (v : Nat) : (c.setReg k v).batch = c.batch := rfl
@[simp] theorem setReg_su (c : Chip) (k : RegKey) (v : Nat) : (c.setReg k v).su = c.su := rfl
@[simp] theorem setReg_islA (c : Chip) (k : RegKey) (v : Nat) : (c.setReg k v).islA = c.islA := rfl
@[simp] theorem setReg_islB (c : Chip) (k : RegKey) (v : Nat) : (c.setReg k v).islB = c.islB := rfl
@[simp] theorem setReg_pm (c : Chip) (k : RegKey) (v : Nat) : (c.setReg k v).pm = c.pm := rfl
@[simp] theorem setReg_boot (c : Chip) (k : RegKey) (v : Nat) : (c.setReg k v).boot = c.boot := rfl
@[simp] theorem setReg_spare (c : Chip) (k : RegKey) (v : Nat) : (c.setReg k v).spare = c.spare := rfl
@[simp] theorem setReg_acct (c : Chip) (k : RegKey) (v : Nat) : (c.setReg k v).acct = c.acct := rfl
@[simp] theorem setReg_rq (c : Chip) (k : RegKey) (v : Nat) : (c.setReg k v).rq = c.rq := rfl
@[simp] theorem setReg_yard (c : Chip) (k : RegKey) (v : Nat) : (c.setReg k v).yard = c.yard := rfl
@[simp] theorem setReg_cfg (c : Chip) (k : RegKey) (v : Nat) : (c.setReg k v).cfg = c.cfg := rfl
@[simp] theorem setReg_io (c : Chip) (k : RegKey) (v : Nat) : (c.setReg k v).io = c.io := rfl
@[simp] theorem setReg_fleet (c : Chip) (k : RegKey) (v : Nat) : (c.setReg k v).fleet = c.fleet := rfl
@[simp] theorem setReg_rots (c : Chip) (k : RegKey) (v : Nat) : (c.setReg k v).rots = c.rots := rfl
@[simp] theorem bump_time (c : Chip) (k : RegKey) (n : Nat) : (c.bump k n).time = c.time := rfl
@[simp] theorem bump_mem (c : Chip) (k : RegKey) (n : Nat) : (c.bump k n).mem = c.mem := rfl
@[simp] theorem bump_log (c : Chip) (k : RegKey) (n : Nat) : (c.bump k n).log = c.log := rfl
@[simp] theorem bump_core (c : Chip) (k : RegKey) (n : Nat) : (c.bump k n).core = c.core := rfl
@[simp] theorem bump_parts (c : Chip) (k : RegKey) (n : Nat) : (c.bump k n).parts = c.parts := rfl
@[simp] theorem bump_site (c : Chip) (k : RegKey) (n : Nat) : (c.bump k n).site = c.site := rfl
@[simp] theorem bump_pwr (c : Chip) (k : RegKey) (n : Nat) : (c.bump k n).pwr = c.pwr := rfl
@[simp] theorem bump_rails (c : Chip) (k : RegKey) (n : Nat) : (c.bump k n).rails = c.rails := rfl
@[simp] theorem bump_batch (c : Chip) (k : RegKey) (n : Nat) : (c.bump k n).batch = c.batch := rfl
@[simp] theorem bump_su (c : Chip) (k : RegKey) (n : Nat) : (c.bump k n).su = c.su := rfl
@[simp] theorem bump_islA (c : Chip) (k : RegKey) (n : Nat) : (c.bump k n).islA = c.islA := rfl
@[simp] theorem bump_islB (c : Chip) (k : RegKey) (n : Nat) : (c.bump k n).islB = c.islB := rfl
@[simp] theorem bump_pm (c : Chip) (k : RegKey) (n : Nat) : (c.bump k n).pm = c.pm := rfl
@[simp] theorem bump_boot (c : Chip) (k : RegKey) (n : Nat) : (c.bump k n).boot = c.boot := rfl
@[simp] theorem bump_spare (c : Chip) (k : RegKey) (n : Nat) : (c.bump k n).spare = c.spare := rfl
@[simp] theorem bump_acct (c : Chip) (k : RegKey) (n : Nat) : (c.bump k n).acct = c.acct := rfl
@[simp] theorem bump_rq (c : Chip) (k : RegKey) (n : Nat) : (c.bump k n).rq = c.rq := rfl
@[simp] theorem bump_yard (c : Chip) (k : RegKey) (n : Nat) : (c.bump k n).yard = c.yard := rfl
@[simp] theorem bump_cfg (c : Chip) (k : RegKey) (n : Nat) : (c.bump k n).cfg = c.cfg := rfl
@[simp] theorem bump_io (c : Chip) (k : RegKey) (n : Nat) : (c.bump k n).io = c.io := rfl
@[simp] theorem bump_fleet (c : Chip) (k : RegKey) (n : Nat) : (c.bump k n).fleet = c.fleet := rfl
@[simp] theorem bump_rots (c : Chip) (k : RegKey) (n : Nat) : (c.bump k n).rots = c.rots := rfl
@[simp] theorem countErr_time (c : Chip) (k : RegKey) : (c.countErr k).time = c.time := rfl
@[simp] theorem countErr_mem (c : Chip) (k : RegKey) : (c.countErr k).mem = c.mem := rfl
@[simp] theorem countErr_log (c : Chip) (k : RegKey) : (c.countErr k).log = c.log := rfl
@[simp] theorem countErr_core (c : Chip) (k : RegKey) : (c.countErr k).core = c.core := rfl
@[simp] theorem countErr_parts (c : Chip) (k : RegKey) : (c.countErr k).parts = c.parts := rfl
@[simp] theorem countErr_site (c : Chip) (k : RegKey) : (c.countErr k).site = c.site := rfl
@[simp] theorem countErr_pwr (c : Chip) (k : RegKey) : (c.countErr k).pwr = c.pwr := rfl
@[simp] theorem countErr_rails (c : Chip) (k : RegKey) : (c.countErr k).rails = c.rails := rfl
@[simp] theorem countErr_batch (c : Chip) (k : RegKey) : (c.countErr k).batch = c.batch := rfl
@[simp] theorem countErr_su (c : Chip) (k : RegKey) : (c.countErr k).su = c.su := rfl
@[simp] theorem countErr_islA (c : Chip) (k : RegKey) : (c.countErr k).islA = c.islA := rfl
@[simp] theorem countErr_islB (c : Chip) (k : RegKey) : (c.countErr k).islB = c.islB := rfl
@[simp] theorem countErr_pm (c : Chip) (k : RegKey) : (c.countErr k).pm = c.pm := rfl
@[simp] theorem countErr_boot (c : Chip) (k : RegKey) : (c.countErr k).boot = c.boot := rfl
@[simp] theorem countErr_spare (c : Chip) (k : RegKey) : (c.countErr k).spare = c.spare := rfl
@[simp] theorem countErr_acct (c : Chip) (k : RegKey) : (c.countErr k).acct = c.acct := rfl
@[simp] theorem countErr_rq (c : Chip) (k : RegKey) : (c.countErr k).rq = c.rq := rfl
@[simp] theorem countErr_yard (c : Chip) (k : RegKey) : (c.countErr k).yard = c.yard := rfl
@[simp] theorem countErr_cfg (c : Chip) (k : RegKey) : (c.countErr k).cfg = c.cfg := rfl
@[simp] theorem countErr_io (c : Chip) (k : RegKey) : (c.countErr k).io = c.io := rfl
@[simp] theorem countErr_fleet (c : Chip) (k : RegKey) : (c.countErr k).fleet = c.fleet := rfl
@[simp] theorem countErr_rots (c : Chip) (k : RegKey) : (c.countErr k).rots = c.rots := rfl
@[simp] theorem updPart_time (c : Chip) (p : Nat) (f : Part → Part) : (c.updPart p f).time = c.time := rfl
@[simp] theorem updPart_mem (c : Chip) (p : Nat) (f : Part → Part) : (c.updPart p f).mem = c.mem := rfl
@[simp] theorem updPart_regs (c : Chip) (p : Nat) (f : Part → Part) : (c.updPart p f).regs = c.regs := rfl
@[simp] theorem updPart_log (c : Chip) (p : Nat) (f : Part → Part) : (c.updPart p f).log = c.log := rfl
@[simp] theorem updPart_core (c : Chip) (p : Nat) (f : Part → Part) : (c.updPart p f).core = c.core := rfl
@[simp] theorem updPart_site (c : Chip) (p : Nat) (f : Part → Part) : (c.updPart p f).site = c.site := rfl
@[simp] theorem updPart_pwr (c : Chip) (p : Nat) (f : Part → Part) : (c.updPart p f).pwr = c.pwr := rfl
@[simp] theorem updPart_rails (c : Chip) (p : Nat) (f : Part → Part) : (c.updPart p f).rails = c.rails := rfl
@[simp] theorem updPart_batch (c : Chip) (p : Nat) (f : Part → Part) : (c.updPart p f).batch = c.batch := rfl
@[simp] theorem updPart_su (c : Chip) (p : Nat) (f : Part → Part) : (c.updPart p f).su = c.su := rfl
@[simp] theorem updPart_islA (c : Chip) (p : Nat) (f : Part → Part) : (c.updPart p f).islA = c.islA := rfl
@[simp] theorem updPart_islB (c : Chip) (p : Nat) (f : Part → Part) : (c.updPart p f).islB = c.islB := rfl
@[simp] theorem updPart_pm (c : Chip) (p : Nat) (f : Part → Part) : (c.updPart p f).pm = c.pm := rfl
@[simp] theorem updPart_boot (c : Chip) (p : Nat) (f : Part → Part) : (c.updPart p f).boot = c.boot := rfl
@[simp] theorem updPart_spare (c : Chip) (p : Nat) (f : Part → Part) : (c.updPart p f).spare = c.spare := rfl
@[simp] theorem updPart_acct (c : Chip) (p : Nat) (f : Part → Part) : (c.updPart p f).acct = c.acct := rfl
@[simp] theorem updPart_rq (c : Chip) (p : Nat) (f : Part → Part) : (c.updPart p f).rq = c.rq := rfl
@[simp] theorem updPart_yard (c : Chip) (p : Nat) (f : Part → Part) : (c.updPart p f).yard = c.yard := rfl
@[simp] theorem updPart_cfg (c : Chip) (p : Nat) (f : Part → Part) : (c.updPart p f).cfg = c.cfg := rfl
@[simp] theorem updPart_io (c : Chip) (p : Nat) (f : Part → Part) : (c.updPart p f).io = c.io := rfl
@[simp] theorem updPart_fleet (c : Chip) (p : Nat) (f : Part → Part) : (c.updPart p f).fleet = c.fleet := rfl
@[simp] theorem updPart_rots (c : Chip) (p : Nat) (f : Part → Part) : (c.updPart p f).rots = c.rots := rfl
@[simp] theorem postTo_time (c : Chip) (q : Nat) (r : EvtRec) : (c.postTo q r).time = c.time := rfl
@[simp] theorem postTo_mem (c : Chip) (q : Nat) (r : EvtRec) : (c.postTo q r).mem = c.mem := rfl
@[simp] theorem postTo_regs (c : Chip) (q : Nat) (r : EvtRec) : (c.postTo q r).regs = c.regs := rfl
@[simp] theorem postTo_core (c : Chip) (q : Nat) (r : EvtRec) : (c.postTo q r).core = c.core := rfl
@[simp] theorem postTo_parts (c : Chip) (q : Nat) (r : EvtRec) : (c.postTo q r).parts = c.parts := rfl
@[simp] theorem postTo_site (c : Chip) (q : Nat) (r : EvtRec) : (c.postTo q r).site = c.site := rfl
@[simp] theorem postTo_pwr (c : Chip) (q : Nat) (r : EvtRec) : (c.postTo q r).pwr = c.pwr := rfl
@[simp] theorem postTo_rails (c : Chip) (q : Nat) (r : EvtRec) : (c.postTo q r).rails = c.rails := rfl
@[simp] theorem postTo_batch (c : Chip) (q : Nat) (r : EvtRec) : (c.postTo q r).batch = c.batch := rfl
@[simp] theorem postTo_su (c : Chip) (q : Nat) (r : EvtRec) : (c.postTo q r).su = c.su := rfl
@[simp] theorem postTo_islA (c : Chip) (q : Nat) (r : EvtRec) : (c.postTo q r).islA = c.islA := rfl
@[simp] theorem postTo_islB (c : Chip) (q : Nat) (r : EvtRec) : (c.postTo q r).islB = c.islB := rfl
@[simp] theorem postTo_pm (c : Chip) (q : Nat) (r : EvtRec) : (c.postTo q r).pm = c.pm := rfl
@[simp] theorem postTo_boot (c : Chip) (q : Nat) (r : EvtRec) : (c.postTo q r).boot = c.boot := rfl
@[simp] theorem postTo_spare (c : Chip) (q : Nat) (r : EvtRec) : (c.postTo q r).spare = c.spare := rfl
@[simp] theorem postTo_acct (c : Chip) (q : Nat) (r : EvtRec) : (c.postTo q r).acct = c.acct := rfl
@[simp] theorem postTo_rq (c : Chip) (q : Nat) (r : EvtRec) : (c.postTo q r).rq = c.rq := rfl
@[simp] theorem postTo_yard (c : Chip) (q : Nat) (r : EvtRec) : (c.postTo q r).yard = c.yard := rfl
@[simp] theorem postTo_cfg (c : Chip) (q : Nat) (r : EvtRec) : (c.postTo q r).cfg = c.cfg := rfl
@[simp] theorem postTo_io (c : Chip) (q : Nat) (r : EvtRec) : (c.postTo q r).io = c.io := rfl
@[simp] theorem postTo_fleet (c : Chip) (q : Nat) (r : EvtRec) : (c.postTo q r).fleet = c.fleet := rfl
@[simp] theorem postTo_rots (c : Chip) (q : Nat) (r : EvtRec) : (c.postTo q r).rots = c.rots := rfl
@[simp] theorem sendErr_time (c : Chip) (r : ErrRec) : (c.sendErr r).time = c.time := rfl
@[simp] theorem sendErr_mem (c : Chip) (r : ErrRec) : (c.sendErr r).mem = c.mem := rfl
@[simp] theorem sendErr_regs (c : Chip) (r : ErrRec) : (c.sendErr r).regs = c.regs := rfl
@[simp] theorem sendErr_core (c : Chip) (r : ErrRec) : (c.sendErr r).core = c.core := rfl
@[simp] theorem sendErr_parts (c : Chip) (r : ErrRec) : (c.sendErr r).parts = c.parts := rfl
@[simp] theorem sendErr_site (c : Chip) (r : ErrRec) : (c.sendErr r).site = c.site := rfl
@[simp] theorem sendErr_pwr (c : Chip) (r : ErrRec) : (c.sendErr r).pwr = c.pwr := rfl
@[simp] theorem sendErr_rails (c : Chip) (r : ErrRec) : (c.sendErr r).rails = c.rails := rfl
@[simp] theorem sendErr_batch (c : Chip) (r : ErrRec) : (c.sendErr r).batch = c.batch := rfl
@[simp] theorem sendErr_su (c : Chip) (r : ErrRec) : (c.sendErr r).su = c.su := rfl
@[simp] theorem sendErr_islA (c : Chip) (r : ErrRec) : (c.sendErr r).islA = c.islA := rfl
@[simp] theorem sendErr_islB (c : Chip) (r : ErrRec) : (c.sendErr r).islB = c.islB := rfl
@[simp] theorem sendErr_pm (c : Chip) (r : ErrRec) : (c.sendErr r).pm = c.pm := rfl
@[simp] theorem sendErr_boot (c : Chip) (r : ErrRec) : (c.sendErr r).boot = c.boot := rfl
@[simp] theorem sendErr_spare (c : Chip) (r : ErrRec) : (c.sendErr r).spare = c.spare := rfl
@[simp] theorem sendErr_acct (c : Chip) (r : ErrRec) : (c.sendErr r).acct = c.acct := rfl
@[simp] theorem sendErr_rq (c : Chip) (r : ErrRec) : (c.sendErr r).rq = c.rq := rfl
@[simp] theorem sendErr_yard (c : Chip) (r : ErrRec) : (c.sendErr r).yard = c.yard := rfl
@[simp] theorem sendErr_cfg (c : Chip) (r : ErrRec) : (c.sendErr r).cfg = c.cfg := rfl
@[simp] theorem sendErr_io (c : Chip) (r : ErrRec) : (c.sendErr r).io = c.io := rfl
@[simp] theorem sendErr_fleet (c : Chip) (r : ErrRec) : (c.sendErr r).fleet = c.fleet := rfl
@[simp] theorem sendErr_rots (c : Chip) (r : ErrRec) : (c.sendErr r).rots = c.rots := rfl
@[simp] theorem setCtx_time (c : Chip) (k : Nat) (x : Ctx) : (c.setCtx k x).time = c.time := rfl
@[simp] theorem setCtx_mem (c : Chip) (k : Nat) (x : Ctx) : (c.setCtx k x).mem = c.mem := rfl
@[simp] theorem setCtx_regs (c : Chip) (k : Nat) (x : Ctx) : (c.setCtx k x).regs = c.regs := rfl
@[simp] theorem setCtx_log (c : Chip) (k : Nat) (x : Ctx) : (c.setCtx k x).log = c.log := rfl
@[simp] theorem setCtx_parts (c : Chip) (k : Nat) (x : Ctx) : (c.setCtx k x).parts = c.parts := rfl
@[simp] theorem setCtx_site (c : Chip) (k : Nat) (x : Ctx) : (c.setCtx k x).site = c.site := rfl
@[simp] theorem setCtx_pwr (c : Chip) (k : Nat) (x : Ctx) : (c.setCtx k x).pwr = c.pwr := rfl
@[simp] theorem setCtx_rails (c : Chip) (k : Nat) (x : Ctx) : (c.setCtx k x).rails = c.rails := rfl
@[simp] theorem setCtx_batch (c : Chip) (k : Nat) (x : Ctx) : (c.setCtx k x).batch = c.batch := rfl
@[simp] theorem setCtx_su (c : Chip) (k : Nat) (x : Ctx) : (c.setCtx k x).su = c.su := rfl
@[simp] theorem setCtx_islA (c : Chip) (k : Nat) (x : Ctx) : (c.setCtx k x).islA = c.islA := rfl
@[simp] theorem setCtx_islB (c : Chip) (k : Nat) (x : Ctx) : (c.setCtx k x).islB = c.islB := rfl
@[simp] theorem setCtx_pm (c : Chip) (k : Nat) (x : Ctx) : (c.setCtx k x).pm = c.pm := rfl
@[simp] theorem setCtx_boot (c : Chip) (k : Nat) (x : Ctx) : (c.setCtx k x).boot = c.boot := rfl
@[simp] theorem setCtx_spare (c : Chip) (k : Nat) (x : Ctx) : (c.setCtx k x).spare = c.spare := rfl
@[simp] theorem setCtx_acct (c : Chip) (k : Nat) (x : Ctx) : (c.setCtx k x).acct = c.acct := rfl
@[simp] theorem setCtx_rq (c : Chip) (k : Nat) (x : Ctx) : (c.setCtx k x).rq = c.rq := rfl
@[simp] theorem setCtx_yard (c : Chip) (k : Nat) (x : Ctx) : (c.setCtx k x).yard = c.yard := rfl
@[simp] theorem setCtx_cfg (c : Chip) (k : Nat) (x : Ctx) : (c.setCtx k x).cfg = c.cfg := rfl
@[simp] theorem setCtx_io (c : Chip) (k : Nat) (x : Ctx) : (c.setCtx k x).io = c.io := rfl
@[simp] theorem setCtx_fleet (c : Chip) (k : Nat) (x : Ctx) : (c.setCtx k x).fleet = c.fleet := rfl
@[simp] theorem setCtx_rots (c : Chip) (k : Nat) (x : Ctx) : (c.setCtx k x).rots = c.rots := rfl
@[simp] theorem updCtx_time (c : Chip) (k : Nat) (f : Ctx → Ctx) : (c.updCtx k f).time = c.time := rfl
@[simp] theorem updCtx_mem (c : Chip) (k : Nat) (f : Ctx → Ctx) : (c.updCtx k f).mem = c.mem := rfl
@[simp] theorem updCtx_regs (c : Chip) (k : Nat) (f : Ctx → Ctx) : (c.updCtx k f).regs = c.regs := rfl
@[simp] theorem updCtx_log (c : Chip) (k : Nat) (f : Ctx → Ctx) : (c.updCtx k f).log = c.log := rfl
@[simp] theorem updCtx_parts (c : Chip) (k : Nat) (f : Ctx → Ctx) : (c.updCtx k f).parts = c.parts := rfl
@[simp] theorem updCtx_site (c : Chip) (k : Nat) (f : Ctx → Ctx) : (c.updCtx k f).site = c.site := rfl
@[simp] theorem updCtx_pwr (c : Chip) (k : Nat) (f : Ctx → Ctx) : (c.updCtx k f).pwr = c.pwr := rfl
@[simp] theorem updCtx_rails (c : Chip) (k : Nat) (f : Ctx → Ctx) : (c.updCtx k f).rails = c.rails := rfl
@[simp] theorem updCtx_batch (c : Chip) (k : Nat) (f : Ctx → Ctx) : (c.updCtx k f).batch = c.batch := rfl
@[simp] theorem updCtx_su (c : Chip) (k : Nat) (f : Ctx → Ctx) : (c.updCtx k f).su = c.su := rfl
@[simp] theorem updCtx_islA (c : Chip) (k : Nat) (f : Ctx → Ctx) : (c.updCtx k f).islA = c.islA := rfl
@[simp] theorem updCtx_islB (c : Chip) (k : Nat) (f : Ctx → Ctx) : (c.updCtx k f).islB = c.islB := rfl
@[simp] theorem updCtx_pm (c : Chip) (k : Nat) (f : Ctx → Ctx) : (c.updCtx k f).pm = c.pm := rfl
@[simp] theorem updCtx_boot (c : Chip) (k : Nat) (f : Ctx → Ctx) : (c.updCtx k f).boot = c.boot := rfl
@[simp] theorem updCtx_spare (c : Chip) (k : Nat) (f : Ctx → Ctx) : (c.updCtx k f).spare = c.spare := rfl
@[simp] theorem updCtx_acct (c : Chip) (k : Nat) (f : Ctx → Ctx) : (c.updCtx k f).acct = c.acct := rfl
@[simp] theorem updCtx_rq (c : Chip) (k : Nat) (f : Ctx → Ctx) : (c.updCtx k f).rq = c.rq := rfl
@[simp] theorem updCtx_yard (c : Chip) (k : Nat) (f : Ctx → Ctx) : (c.updCtx k f).yard = c.yard := rfl
@[simp] theorem updCtx_cfg (c : Chip) (k : Nat) (f : Ctx → Ctx) : (c.updCtx k f).cfg = c.cfg := rfl
@[simp] theorem updCtx_io (c : Chip) (k : Nat) (f : Ctx → Ctx) : (c.updCtx k f).io = c.io := rfl
@[simp] theorem updCtx_fleet (c : Chip) (k : Nat) (f : Ctx → Ctx) : (c.updCtx k f).fleet = c.fleet := rfl
@[simp] theorem updCtx_rots (c : Chip) (k : Nat) (f : Ctx → Ctx) : (c.updCtx k f).rots = c.rots := rfl
@[simp] theorem updEng_time (c : Chip) (k : Nat) (f : ChkEng → ChkEng) : (c.updEng k f).time = c.time := rfl
@[simp] theorem updEng_mem (c : Chip) (k : Nat) (f : ChkEng → ChkEng) : (c.updEng k f).mem = c.mem := rfl
@[simp] theorem updEng_regs (c : Chip) (k : Nat) (f : ChkEng → ChkEng) : (c.updEng k f).regs = c.regs := rfl
@[simp] theorem updEng_log (c : Chip) (k : Nat) (f : ChkEng → ChkEng) : (c.updEng k f).log = c.log := rfl
@[simp] theorem updEng_parts (c : Chip) (k : Nat) (f : ChkEng → ChkEng) : (c.updEng k f).parts = c.parts := rfl
@[simp] theorem updEng_site (c : Chip) (k : Nat) (f : ChkEng → ChkEng) : (c.updEng k f).site = c.site := rfl
@[simp] theorem updEng_pwr (c : Chip) (k : Nat) (f : ChkEng → ChkEng) : (c.updEng k f).pwr = c.pwr := rfl
@[simp] theorem updEng_rails (c : Chip) (k : Nat) (f : ChkEng → ChkEng) : (c.updEng k f).rails = c.rails := rfl
@[simp] theorem updEng_batch (c : Chip) (k : Nat) (f : ChkEng → ChkEng) : (c.updEng k f).batch = c.batch := rfl
@[simp] theorem updEng_su (c : Chip) (k : Nat) (f : ChkEng → ChkEng) : (c.updEng k f).su = c.su := rfl
@[simp] theorem updEng_islA (c : Chip) (k : Nat) (f : ChkEng → ChkEng) : (c.updEng k f).islA = c.islA := rfl
@[simp] theorem updEng_islB (c : Chip) (k : Nat) (f : ChkEng → ChkEng) : (c.updEng k f).islB = c.islB := rfl
@[simp] theorem updEng_pm (c : Chip) (k : Nat) (f : ChkEng → ChkEng) : (c.updEng k f).pm = c.pm := rfl
@[simp] theorem updEng_boot (c : Chip) (k : Nat) (f : ChkEng → ChkEng) : (c.updEng k f).boot = c.boot := rfl
@[simp] theorem updEng_spare (c : Chip) (k : Nat) (f : ChkEng → ChkEng) : (c.updEng k f).spare = c.spare := rfl
@[simp] theorem updEng_acct (c : Chip) (k : Nat) (f : ChkEng → ChkEng) : (c.updEng k f).acct = c.acct := rfl
@[simp] theorem updEng_rq (c : Chip) (k : Nat) (f : ChkEng → ChkEng) : (c.updEng k f).rq = c.rq := rfl
@[simp] theorem updEng_yard (c : Chip) (k : Nat) (f : ChkEng → ChkEng) : (c.updEng k f).yard = c.yard := rfl
@[simp] theorem updEng_cfg (c : Chip) (k : Nat) (f : ChkEng → ChkEng) : (c.updEng k f).cfg = c.cfg := rfl
@[simp] theorem updEng_io (c : Chip) (k : Nat) (f : ChkEng → ChkEng) : (c.updEng k f).io = c.io := rfl
@[simp] theorem updEng_fleet (c : Chip) (k : Nat) (f : ChkEng → ChkEng) : (c.updEng k f).fleet = c.fleet := rfl
@[simp] theorem updEng_rots (c : Chip) (k : Nat) (f : ChkEng → ChkEng) : (c.updEng k f).rots = c.rots := rfl
@[simp] theorem setOffset_mem (c : Chip) (die : Nat) (o : Int) : (c.setOffset die o).mem = c.mem := rfl
@[simp] theorem setOffset_regs (c : Chip) (die : Nat) (o : Int) : (c.setOffset die o).regs = c.regs := rfl
@[simp] theorem setOffset_log (c : Chip) (die : Nat) (o : Int) : (c.setOffset die o).log = c.log := rfl
@[simp] theorem setOffset_core (c : Chip) (die : Nat) (o : Int) : (c.setOffset die o).core = c.core := rfl
@[simp] theorem setOffset_parts (c : Chip) (die : Nat) (o : Int) : (c.setOffset die o).parts = c.parts := rfl
@[simp] theorem setOffset_site (c : Chip) (die : Nat) (o : Int) : (c.setOffset die o).site = c.site := rfl
@[simp] theorem setOffset_pwr (c : Chip) (die : Nat) (o : Int) : (c.setOffset die o).pwr = c.pwr := rfl
@[simp] theorem setOffset_rails (c : Chip) (die : Nat) (o : Int) : (c.setOffset die o).rails = c.rails := rfl
@[simp] theorem setOffset_batch (c : Chip) (die : Nat) (o : Int) : (c.setOffset die o).batch = c.batch := rfl
@[simp] theorem setOffset_su (c : Chip) (die : Nat) (o : Int) : (c.setOffset die o).su = c.su := rfl
@[simp] theorem setOffset_islA (c : Chip) (die : Nat) (o : Int) : (c.setOffset die o).islA = c.islA := rfl
@[simp] theorem setOffset_islB (c : Chip) (die : Nat) (o : Int) : (c.setOffset die o).islB = c.islB := rfl
@[simp] theorem setOffset_pm (c : Chip) (die : Nat) (o : Int) : (c.setOffset die o).pm = c.pm := rfl
@[simp] theorem setOffset_boot (c : Chip) (die : Nat) (o : Int) : (c.setOffset die o).boot = c.boot := rfl
@[simp] theorem setOffset_spare (c : Chip) (die : Nat) (o : Int) : (c.setOffset die o).spare = c.spare := rfl
@[simp] theorem setOffset_acct (c : Chip) (die : Nat) (o : Int) : (c.setOffset die o).acct = c.acct := rfl
@[simp] theorem setOffset_rq (c : Chip) (die : Nat) (o : Int) : (c.setOffset die o).rq = c.rq := rfl
@[simp] theorem setOffset_yard (c : Chip) (die : Nat) (o : Int) : (c.setOffset die o).yard = c.yard := rfl
@[simp] theorem setOffset_cfg (c : Chip) (die : Nat) (o : Int) : (c.setOffset die o).cfg = c.cfg := rfl
@[simp] theorem setOffset_io (c : Chip) (die : Nat) (o : Int) : (c.setOffset die o).io = c.io := rfl
@[simp] theorem setOffset_fleet (c : Chip) (die : Nat) (o : Int) : (c.setOffset die o).fleet = c.fleet := rfl
@[simp] theorem setOffset_rots (c : Chip) (die : Nat) (o : Int) : (c.setOffset die o).rots = c.rots := rfl
@[simp] theorem at_mem (c : Chip) (t : Nat) : (c.at t).mem = c.mem := rfl
@[simp] theorem at_regs (c : Chip) (t : Nat) : (c.at t).regs = c.regs := rfl
@[simp] theorem at_log (c : Chip) (t : Nat) : (c.at t).log = c.log := rfl
@[simp] theorem at_core (c : Chip) (t : Nat) : (c.at t).core = c.core := rfl
@[simp] theorem at_parts (c : Chip) (t : Nat) : (c.at t).parts = c.parts := rfl
@[simp] theorem at_site (c : Chip) (t : Nat) : (c.at t).site = c.site := rfl
@[simp] theorem at_pwr (c : Chip) (t : Nat) : (c.at t).pwr = c.pwr := rfl
@[simp] theorem at_rails (c : Chip) (t : Nat) : (c.at t).rails = c.rails := rfl
@[simp] theorem at_batch (c : Chip) (t : Nat) : (c.at t).batch = c.batch := rfl
@[simp] theorem at_su (c : Chip) (t : Nat) : (c.at t).su = c.su := rfl
@[simp] theorem at_islA (c : Chip) (t : Nat) : (c.at t).islA = c.islA := rfl
@[simp] theorem at_islB (c : Chip) (t : Nat) : (c.at t).islB = c.islB := rfl
@[simp] theorem at_pm (c : Chip) (t : Nat) : (c.at t).pm = c.pm := rfl
@[simp] theorem at_boot (c : Chip) (t : Nat) : (c.at t).boot = c.boot := rfl
@[simp] theorem at_spare (c : Chip) (t : Nat) : (c.at t).spare = c.spare := rfl
@[simp] theorem at_acct (c : Chip) (t : Nat) : (c.at t).acct = c.acct := rfl
@[simp] theorem at_rq (c : Chip) (t : Nat) : (c.at t).rq = c.rq := rfl
@[simp] theorem at_yard (c : Chip) (t : Nat) : (c.at t).yard = c.yard := rfl
@[simp] theorem at_cfg (c : Chip) (t : Nat) : (c.at t).cfg = c.cfg := rfl
@[simp] theorem at_io (c : Chip) (t : Nat) : (c.at t).io = c.io := rfl
@[simp] theorem at_fleet (c : Chip) (t : Nat) : (c.at t).fleet = c.fleet := rfl
@[simp] theorem at_rots (c : Chip) (t : Nat) : (c.at t).rots = c.rots := rfl
@[simp] theorem setTag_time (c : Chip) (b : Nat) (t : Tag) : (c.setTag b t).time = c.time := rfl
@[simp] theorem setTag_regs (c : Chip) (b : Nat) (t : Tag) : (c.setTag b t).regs = c.regs := rfl
@[simp] theorem setTag_log (c : Chip) (b : Nat) (t : Tag) : (c.setTag b t).log = c.log := rfl
@[simp] theorem setTag_core (c : Chip) (b : Nat) (t : Tag) : (c.setTag b t).core = c.core := rfl
@[simp] theorem setTag_parts (c : Chip) (b : Nat) (t : Tag) : (c.setTag b t).parts = c.parts := rfl
@[simp] theorem setTag_site (c : Chip) (b : Nat) (t : Tag) : (c.setTag b t).site = c.site := rfl
@[simp] theorem setTag_pwr (c : Chip) (b : Nat) (t : Tag) : (c.setTag b t).pwr = c.pwr := rfl
@[simp] theorem setTag_rails (c : Chip) (b : Nat) (t : Tag) : (c.setTag b t).rails = c.rails := rfl
@[simp] theorem setTag_batch (c : Chip) (b : Nat) (t : Tag) : (c.setTag b t).batch = c.batch := rfl
@[simp] theorem setTag_su (c : Chip) (b : Nat) (t : Tag) : (c.setTag b t).su = c.su := rfl
@[simp] theorem setTag_islA (c : Chip) (b : Nat) (t : Tag) : (c.setTag b t).islA = c.islA := rfl
@[simp] theorem setTag_islB (c : Chip) (b : Nat) (t : Tag) : (c.setTag b t).islB = c.islB := rfl
@[simp] theorem setTag_pm (c : Chip) (b : Nat) (t : Tag) : (c.setTag b t).pm = c.pm := rfl
@[simp] theorem setTag_boot (c : Chip) (b : Nat) (t : Tag) : (c.setTag b t).boot = c.boot := rfl
@[simp] theorem setTag_spare (c : Chip) (b : Nat) (t : Tag) : (c.setTag b t).spare = c.spare := rfl
@[simp] theorem setTag_acct (c : Chip) (b : Nat) (t : Tag) : (c.setTag b t).acct = c.acct := rfl
@[simp] theorem setTag_rq (c : Chip) (b : Nat) (t : Tag) : (c.setTag b t).rq = c.rq := rfl
@[simp] theorem setTag_yard (c : Chip) (b : Nat) (t : Tag) : (c.setTag b t).yard = c.yard := rfl
@[simp] theorem setTag_cfg (c : Chip) (b : Nat) (t : Tag) : (c.setTag b t).cfg = c.cfg := rfl
@[simp] theorem setTag_io (c : Chip) (b : Nat) (t : Tag) : (c.setTag b t).io = c.io := rfl
@[simp] theorem setTag_fleet (c : Chip) (b : Nat) (t : Tag) : (c.setTag b t).fleet = c.fleet := rfl
@[simp] theorem setTag_rots (c : Chip) (b : Nat) (t : Tag) : (c.setTag b t).rots = c.rots := rfl
@[simp] theorem updIo_time (c : Chip) (f : IoSt → IoSt) : (c.updIo f).time = c.time := rfl
@[simp] theorem updIo_mem (c : Chip) (f : IoSt → IoSt) : (c.updIo f).mem = c.mem := rfl
@[simp] theorem updIo_regs (c : Chip) (f : IoSt → IoSt) : (c.updIo f).regs = c.regs := rfl
@[simp] theorem updIo_log (c : Chip) (f : IoSt → IoSt) : (c.updIo f).log = c.log := rfl
@[simp] theorem updIo_core (c : Chip) (f : IoSt → IoSt) : (c.updIo f).core = c.core := rfl
@[simp] theorem updIo_parts (c : Chip) (f : IoSt → IoSt) : (c.updIo f).parts = c.parts := rfl
@[simp] theorem updIo_site (c : Chip) (f : IoSt → IoSt) : (c.updIo f).site = c.site := rfl
@[simp] theorem updIo_pwr (c : Chip) (f : IoSt → IoSt) : (c.updIo f).pwr = c.pwr := rfl
@[simp] theorem updIo_rails (c : Chip) (f : IoSt → IoSt) : (c.updIo f).rails = c.rails := rfl
@[simp] theorem updIo_batch (c : Chip) (f : IoSt → IoSt) : (c.updIo f).batch = c.batch := rfl
@[simp] theorem updIo_su (c : Chip) (f : IoSt → IoSt) : (c.updIo f).su = c.su := rfl
@[simp] theorem updIo_islA (c : Chip) (f : IoSt → IoSt) : (c.updIo f).islA = c.islA := rfl
@[simp] theorem updIo_islB (c : Chip) (f : IoSt → IoSt) : (c.updIo f).islB = c.islB := rfl
@[simp] theorem updIo_pm (c : Chip) (f : IoSt → IoSt) : (c.updIo f).pm = c.pm := rfl
@[simp] theorem updIo_boot (c : Chip) (f : IoSt → IoSt) : (c.updIo f).boot = c.boot := rfl
@[simp] theorem updIo_spare (c : Chip) (f : IoSt → IoSt) : (c.updIo f).spare = c.spare := rfl
@[simp] theorem updIo_acct (c : Chip) (f : IoSt → IoSt) : (c.updIo f).acct = c.acct := rfl
@[simp] theorem updIo_rq (c : Chip) (f : IoSt → IoSt) : (c.updIo f).rq = c.rq := rfl
@[simp] theorem updIo_yard (c : Chip) (f : IoSt → IoSt) : (c.updIo f).yard = c.yard := rfl
@[simp] theorem updIo_cfg (c : Chip) (f : IoSt → IoSt) : (c.updIo f).cfg = c.cfg := rfl
@[simp] theorem updIo_fleet (c : Chip) (f : IoSt → IoSt) : (c.updIo f).fleet = c.fleet := rfl
@[simp] theorem updIo_rots (c : Chip) (f : IoSt → IoSt) : (c.updIo f).rots = c.rots := rfl
@[simp] theorem updChan_time (c : Chip) (i n : Nat) (f : Chan → Chan) : (c.updChan i n f).time = c.time := rfl
@[simp] theorem updChan_mem (c : Chip) (i n : Nat) (f : Chan → Chan) : (c.updChan i n f).mem = c.mem := rfl
@[simp] theorem updChan_regs (c : Chip) (i n : Nat) (f : Chan → Chan) : (c.updChan i n f).regs = c.regs := rfl
@[simp] theorem updChan_log (c : Chip) (i n : Nat) (f : Chan → Chan) : (c.updChan i n f).log = c.log := rfl
@[simp] theorem updChan_core (c : Chip) (i n : Nat) (f : Chan → Chan) : (c.updChan i n f).core = c.core := rfl
@[simp] theorem updChan_parts (c : Chip) (i n : Nat) (f : Chan → Chan) : (c.updChan i n f).parts = c.parts := rfl
@[simp] theorem updChan_site (c : Chip) (i n : Nat) (f : Chan → Chan) : (c.updChan i n f).site = c.site := rfl
@[simp] theorem updChan_pwr (c : Chip) (i n : Nat) (f : Chan → Chan) : (c.updChan i n f).pwr = c.pwr := rfl
@[simp] theorem updChan_rails (c : Chip) (i n : Nat) (f : Chan → Chan) : (c.updChan i n f).rails = c.rails := rfl
@[simp] theorem updChan_batch (c : Chip) (i n : Nat) (f : Chan → Chan) : (c.updChan i n f).batch = c.batch := rfl
@[simp] theorem updChan_su (c : Chip) (i n : Nat) (f : Chan → Chan) : (c.updChan i n f).su = c.su := rfl
@[simp] theorem updChan_islA (c : Chip) (i n : Nat) (f : Chan → Chan) : (c.updChan i n f).islA = c.islA := rfl
@[simp] theorem updChan_islB (c : Chip) (i n : Nat) (f : Chan → Chan) : (c.updChan i n f).islB = c.islB := rfl
@[simp] theorem updChan_pm (c : Chip) (i n : Nat) (f : Chan → Chan) : (c.updChan i n f).pm = c.pm := rfl
@[simp] theorem updChan_boot (c : Chip) (i n : Nat) (f : Chan → Chan) : (c.updChan i n f).boot = c.boot := rfl
@[simp] theorem updChan_spare (c : Chip) (i n : Nat) (f : Chan → Chan) : (c.updChan i n f).spare = c.spare := rfl
@[simp] theorem updChan_acct (c : Chip) (i n : Nat) (f : Chan → Chan) : (c.updChan i n f).acct = c.acct := rfl
@[simp] theorem updChan_rq (c : Chip) (i n : Nat) (f : Chan → Chan) : (c.updChan i n f).rq = c.rq := rfl
@[simp] theorem updChan_yard (c : Chip) (i n : Nat) (f : Chan → Chan) : (c.updChan i n f).yard = c.yard := rfl
@[simp] theorem updChan_cfg (c : Chip) (i n : Nat) (f : Chan → Chan) : (c.updChan i n f).cfg = c.cfg := rfl
@[simp] theorem updChan_fleet (c : Chip) (i n : Nat) (f : Chan → Chan) : (c.updChan i n f).fleet = c.fleet := rfl
@[simp] theorem updChan_rots (c : Chip) (i n : Nat) (f : Chan → Chan) : (c.updChan i n f).rots = c.rots := rfl
@[simp] theorem updPort_time (c : Chip) (d p : Nat) (f : Port → Port) : (c.updPort d p f).time = c.time := rfl
@[simp] theorem updPort_mem (c : Chip) (d p : Nat) (f : Port → Port) : (c.updPort d p f).mem = c.mem := rfl
@[simp] theorem updPort_regs (c : Chip) (d p : Nat) (f : Port → Port) : (c.updPort d p f).regs = c.regs := rfl
@[simp] theorem updPort_log (c : Chip) (d p : Nat) (f : Port → Port) : (c.updPort d p f).log = c.log := rfl
@[simp] theorem updPort_core (c : Chip) (d p : Nat) (f : Port → Port) : (c.updPort d p f).core = c.core := rfl
@[simp] theorem updPort_parts (c : Chip) (d p : Nat) (f : Port → Port) : (c.updPort d p f).parts = c.parts := rfl
@[simp] theorem updPort_site (c : Chip) (d p : Nat) (f : Port → Port) : (c.updPort d p f).site = c.site := rfl
@[simp] theorem updPort_pwr (c : Chip) (d p : Nat) (f : Port → Port) : (c.updPort d p f).pwr = c.pwr := rfl
@[simp] theorem updPort_rails (c : Chip) (d p : Nat) (f : Port → Port) : (c.updPort d p f).rails = c.rails := rfl
@[simp] theorem updPort_batch (c : Chip) (d p : Nat) (f : Port → Port) : (c.updPort d p f).batch = c.batch := rfl
@[simp] theorem updPort_su (c : Chip) (d p : Nat) (f : Port → Port) : (c.updPort d p f).su = c.su := rfl
@[simp] theorem updPort_islA (c : Chip) (d p : Nat) (f : Port → Port) : (c.updPort d p f).islA = c.islA := rfl
@[simp] theorem updPort_islB (c : Chip) (d p : Nat) (f : Port → Port) : (c.updPort d p f).islB = c.islB := rfl
@[simp] theorem updPort_pm (c : Chip) (d p : Nat) (f : Port → Port) : (c.updPort d p f).pm = c.pm := rfl
@[simp] theorem updPort_boot (c : Chip) (d p : Nat) (f : Port → Port) : (c.updPort d p f).boot = c.boot := rfl
@[simp] theorem updPort_spare (c : Chip) (d p : Nat) (f : Port → Port) : (c.updPort d p f).spare = c.spare := rfl
@[simp] theorem updPort_acct (c : Chip) (d p : Nat) (f : Port → Port) : (c.updPort d p f).acct = c.acct := rfl
@[simp] theorem updPort_rq (c : Chip) (d p : Nat) (f : Port → Port) : (c.updPort d p f).rq = c.rq := rfl
@[simp] theorem updPort_cfg (c : Chip) (d p : Nat) (f : Port → Port) : (c.updPort d p f).cfg = c.cfg := rfl
@[simp] theorem updPort_io (c : Chip) (d p : Nat) (f : Port → Port) : (c.updPort d p f).io = c.io := rfl
@[simp] theorem updPort_fleet (c : Chip) (d p : Nat) (f : Port → Port) : (c.updPort d p f).fleet = c.fleet := rfl
@[simp] theorem updPort_rots (c : Chip) (d p : Nat) (f : Port → Port) : (c.updPort d p f).rots = c.rots := rfl
@[simp] theorem updPwr_time (c : Chip) (n : Nat) (f : HallPwr → HallPwr) : (c.updPwr n f).time = c.time := rfl
@[simp] theorem updPwr_mem (c : Chip) (n : Nat) (f : HallPwr → HallPwr) : (c.updPwr n f).mem = c.mem := rfl
@[simp] theorem updPwr_regs (c : Chip) (n : Nat) (f : HallPwr → HallPwr) : (c.updPwr n f).regs = c.regs := rfl
@[simp] theorem updPwr_log (c : Chip) (n : Nat) (f : HallPwr → HallPwr) : (c.updPwr n f).log = c.log := rfl
@[simp] theorem updPwr_core (c : Chip) (n : Nat) (f : HallPwr → HallPwr) : (c.updPwr n f).core = c.core := rfl
@[simp] theorem updPwr_parts (c : Chip) (n : Nat) (f : HallPwr → HallPwr) : (c.updPwr n f).parts = c.parts := rfl
@[simp] theorem updPwr_site (c : Chip) (n : Nat) (f : HallPwr → HallPwr) : (c.updPwr n f).site = c.site := rfl
@[simp] theorem updPwr_rails (c : Chip) (n : Nat) (f : HallPwr → HallPwr) : (c.updPwr n f).rails = c.rails := rfl
@[simp] theorem updPwr_batch (c : Chip) (n : Nat) (f : HallPwr → HallPwr) : (c.updPwr n f).batch = c.batch := rfl
@[simp] theorem updPwr_su (c : Chip) (n : Nat) (f : HallPwr → HallPwr) : (c.updPwr n f).su = c.su := rfl
@[simp] theorem updPwr_islA (c : Chip) (n : Nat) (f : HallPwr → HallPwr) : (c.updPwr n f).islA = c.islA := rfl
@[simp] theorem updPwr_islB (c : Chip) (n : Nat) (f : HallPwr → HallPwr) : (c.updPwr n f).islB = c.islB := rfl
@[simp] theorem updPwr_pm (c : Chip) (n : Nat) (f : HallPwr → HallPwr) : (c.updPwr n f).pm = c.pm := rfl
@[simp] theorem updPwr_boot (c : Chip) (n : Nat) (f : HallPwr → HallPwr) : (c.updPwr n f).boot = c.boot := rfl
@[simp] theorem updPwr_spare (c : Chip) (n : Nat) (f : HallPwr → HallPwr) : (c.updPwr n f).spare = c.spare := rfl
@[simp] theorem updPwr_acct (c : Chip) (n : Nat) (f : HallPwr → HallPwr) : (c.updPwr n f).acct = c.acct := rfl
@[simp] theorem updPwr_rq (c : Chip) (n : Nat) (f : HallPwr → HallPwr) : (c.updPwr n f).rq = c.rq := rfl
@[simp] theorem updPwr_yard (c : Chip) (n : Nat) (f : HallPwr → HallPwr) : (c.updPwr n f).yard = c.yard := rfl
@[simp] theorem updPwr_cfg (c : Chip) (n : Nat) (f : HallPwr → HallPwr) : (c.updPwr n f).cfg = c.cfg := rfl
@[simp] theorem updPwr_io (c : Chip) (n : Nat) (f : HallPwr → HallPwr) : (c.updPwr n f).io = c.io := rfl
@[simp] theorem updPwr_fleet (c : Chip) (n : Nat) (f : HallPwr → HallPwr) : (c.updPwr n f).fleet = c.fleet := rfl
@[simp] theorem updPwr_rots (c : Chip) (n : Nat) (f : HallPwr → HallPwr) : (c.updPwr n f).rots = c.rots := rfl
@[simp] theorem updPm_time (c : Chip) (f : PwrSt → PwrSt) : (c.updPm f).time = c.time := rfl
@[simp] theorem updPm_mem (c : Chip) (f : PwrSt → PwrSt) : (c.updPm f).mem = c.mem := rfl
@[simp] theorem updPm_regs (c : Chip) (f : PwrSt → PwrSt) : (c.updPm f).regs = c.regs := rfl
@[simp] theorem updPm_log (c : Chip) (f : PwrSt → PwrSt) : (c.updPm f).log = c.log := rfl
@[simp] theorem updPm_core (c : Chip) (f : PwrSt → PwrSt) : (c.updPm f).core = c.core := rfl
@[simp] theorem updPm_parts (c : Chip) (f : PwrSt → PwrSt) : (c.updPm f).parts = c.parts := rfl
@[simp] theorem updPm_site (c : Chip) (f : PwrSt → PwrSt) : (c.updPm f).site = c.site := rfl
@[simp] theorem updPm_pwr (c : Chip) (f : PwrSt → PwrSt) : (c.updPm f).pwr = c.pwr := rfl
@[simp] theorem updPm_rails (c : Chip) (f : PwrSt → PwrSt) : (c.updPm f).rails = c.rails := rfl
@[simp] theorem updPm_batch (c : Chip) (f : PwrSt → PwrSt) : (c.updPm f).batch = c.batch := rfl
@[simp] theorem updPm_su (c : Chip) (f : PwrSt → PwrSt) : (c.updPm f).su = c.su := rfl
@[simp] theorem updPm_islA (c : Chip) (f : PwrSt → PwrSt) : (c.updPm f).islA = c.islA := rfl
@[simp] theorem updPm_islB (c : Chip) (f : PwrSt → PwrSt) : (c.updPm f).islB = c.islB := rfl
@[simp] theorem updPm_boot (c : Chip) (f : PwrSt → PwrSt) : (c.updPm f).boot = c.boot := rfl
@[simp] theorem updPm_spare (c : Chip) (f : PwrSt → PwrSt) : (c.updPm f).spare = c.spare := rfl
@[simp] theorem updPm_acct (c : Chip) (f : PwrSt → PwrSt) : (c.updPm f).acct = c.acct := rfl
@[simp] theorem updPm_rq (c : Chip) (f : PwrSt → PwrSt) : (c.updPm f).rq = c.rq := rfl
@[simp] theorem updPm_yard (c : Chip) (f : PwrSt → PwrSt) : (c.updPm f).yard = c.yard := rfl
@[simp] theorem updPm_cfg (c : Chip) (f : PwrSt → PwrSt) : (c.updPm f).cfg = c.cfg := rfl
@[simp] theorem updPm_io (c : Chip) (f : PwrSt → PwrSt) : (c.updPm f).io = c.io := rfl
@[simp] theorem updPm_fleet (c : Chip) (f : PwrSt → PwrSt) : (c.updPm f).fleet = c.fleet := rfl
@[simp] theorem updPm_rots (c : Chip) (f : PwrSt → PwrSt) : (c.updPm f).rots = c.rots := rfl
@[simp] theorem updRqo_time (c : Chip) (n : Nat) (f : RqO → RqO) : (c.updRqo n f).time = c.time := rfl
@[simp] theorem updRqo_mem (c : Chip) (n : Nat) (f : RqO → RqO) : (c.updRqo n f).mem = c.mem := rfl
@[simp] theorem updRqo_regs (c : Chip) (n : Nat) (f : RqO → RqO) : (c.updRqo n f).regs = c.regs := rfl
@[simp] theorem updRqo_log (c : Chip) (n : Nat) (f : RqO → RqO) : (c.updRqo n f).log = c.log := rfl
@[simp] theorem updRqo_core (c : Chip) (n : Nat) (f : RqO → RqO) : (c.updRqo n f).core = c.core := rfl
@[simp] theorem updRqo_parts (c : Chip) (n : Nat) (f : RqO → RqO) : (c.updRqo n f).parts = c.parts := rfl
@[simp] theorem updRqo_site (c : Chip) (n : Nat) (f : RqO → RqO) : (c.updRqo n f).site = c.site := rfl
@[simp] theorem updRqo_pwr (c : Chip) (n : Nat) (f : RqO → RqO) : (c.updRqo n f).pwr = c.pwr := rfl
@[simp] theorem updRqo_rails (c : Chip) (n : Nat) (f : RqO → RqO) : (c.updRqo n f).rails = c.rails := rfl
@[simp] theorem updRqo_batch (c : Chip) (n : Nat) (f : RqO → RqO) : (c.updRqo n f).batch = c.batch := rfl
@[simp] theorem updRqo_su (c : Chip) (n : Nat) (f : RqO → RqO) : (c.updRqo n f).su = c.su := rfl
@[simp] theorem updRqo_islA (c : Chip) (n : Nat) (f : RqO → RqO) : (c.updRqo n f).islA = c.islA := rfl
@[simp] theorem updRqo_islB (c : Chip) (n : Nat) (f : RqO → RqO) : (c.updRqo n f).islB = c.islB := rfl
@[simp] theorem updRqo_pm (c : Chip) (n : Nat) (f : RqO → RqO) : (c.updRqo n f).pm = c.pm := rfl
@[simp] theorem updRqo_boot (c : Chip) (n : Nat) (f : RqO → RqO) : (c.updRqo n f).boot = c.boot := rfl
@[simp] theorem updRqo_spare (c : Chip) (n : Nat) (f : RqO → RqO) : (c.updRqo n f).spare = c.spare := rfl
@[simp] theorem updRqo_acct (c : Chip) (n : Nat) (f : RqO → RqO) : (c.updRqo n f).acct = c.acct := rfl
@[simp] theorem updRqo_yard (c : Chip) (n : Nat) (f : RqO → RqO) : (c.updRqo n f).yard = c.yard := rfl
@[simp] theorem updRqo_cfg (c : Chip) (n : Nat) (f : RqO → RqO) : (c.updRqo n f).cfg = c.cfg := rfl
@[simp] theorem updRqo_io (c : Chip) (n : Nat) (f : RqO → RqO) : (c.updRqo n f).io = c.io := rfl
@[simp] theorem updRqo_fleet (c : Chip) (n : Nat) (f : RqO → RqO) : (c.updRqo n f).fleet = c.fleet := rfl
@[simp] theorem updRqo_rots (c : Chip) (n : Nat) (f : RqO → RqO) : (c.updRqo n f).rots = c.rots := rfl
@[simp] theorem updRqm_time (c : Chip) (d m : Nat) (f : RqM → RqM) : (c.updRqm d m f).time = c.time := rfl
@[simp] theorem updRqm_mem (c : Chip) (d m : Nat) (f : RqM → RqM) : (c.updRqm d m f).mem = c.mem := rfl
@[simp] theorem updRqm_regs (c : Chip) (d m : Nat) (f : RqM → RqM) : (c.updRqm d m f).regs = c.regs := rfl
@[simp] theorem updRqm_log (c : Chip) (d m : Nat) (f : RqM → RqM) : (c.updRqm d m f).log = c.log := rfl
@[simp] theorem updRqm_core (c : Chip) (d m : Nat) (f : RqM → RqM) : (c.updRqm d m f).core = c.core := rfl
@[simp] theorem updRqm_parts (c : Chip) (d m : Nat) (f : RqM → RqM) : (c.updRqm d m f).parts = c.parts := rfl
@[simp] theorem updRqm_site (c : Chip) (d m : Nat) (f : RqM → RqM) : (c.updRqm d m f).site = c.site := rfl
@[simp] theorem updRqm_pwr (c : Chip) (d m : Nat) (f : RqM → RqM) : (c.updRqm d m f).pwr = c.pwr := rfl
@[simp] theorem updRqm_rails (c : Chip) (d m : Nat) (f : RqM → RqM) : (c.updRqm d m f).rails = c.rails := rfl
@[simp] theorem updRqm_batch (c : Chip) (d m : Nat) (f : RqM → RqM) : (c.updRqm d m f).batch = c.batch := rfl
@[simp] theorem updRqm_su (c : Chip) (d m : Nat) (f : RqM → RqM) : (c.updRqm d m f).su = c.su := rfl
@[simp] theorem updRqm_islA (c : Chip) (d m : Nat) (f : RqM → RqM) : (c.updRqm d m f).islA = c.islA := rfl
@[simp] theorem updRqm_islB (c : Chip) (d m : Nat) (f : RqM → RqM) : (c.updRqm d m f).islB = c.islB := rfl
@[simp] theorem updRqm_pm (c : Chip) (d m : Nat) (f : RqM → RqM) : (c.updRqm d m f).pm = c.pm := rfl
@[simp] theorem updRqm_boot (c : Chip) (d m : Nat) (f : RqM → RqM) : (c.updRqm d m f).boot = c.boot := rfl
@[simp] theorem updRqm_spare (c : Chip) (d m : Nat) (f : RqM → RqM) : (c.updRqm d m f).spare = c.spare := rfl
@[simp] theorem updRqm_acct (c : Chip) (d m : Nat) (f : RqM → RqM) : (c.updRqm d m f).acct = c.acct := rfl
@[simp] theorem updRqm_yard (c : Chip) (d m : Nat) (f : RqM → RqM) : (c.updRqm d m f).yard = c.yard := rfl
@[simp] theorem updRqm_cfg (c : Chip) (d m : Nat) (f : RqM → RqM) : (c.updRqm d m f).cfg = c.cfg := rfl
@[simp] theorem updRqm_io (c : Chip) (d m : Nat) (f : RqM → RqM) : (c.updRqm d m f).io = c.io := rfl
@[simp] theorem updRqm_fleet (c : Chip) (d m : Nat) (f : RqM → RqM) : (c.updRqm d m f).fleet = c.fleet := rfl
@[simp] theorem updRqm_rots (c : Chip) (d m : Nat) (f : RqM → RqM) : (c.updRqm d m f).rots = c.rots := rfl
@[simp] theorem updBase_time (c : Chip) (n : Nat) (f : BaseQ → BaseQ) : (c.updBase n f).time = c.time := rfl
@[simp] theorem updBase_mem (c : Chip) (n : Nat) (f : BaseQ → BaseQ) : (c.updBase n f).mem = c.mem := rfl
@[simp] theorem updBase_regs (c : Chip) (n : Nat) (f : BaseQ → BaseQ) : (c.updBase n f).regs = c.regs := rfl
@[simp] theorem updBase_log (c : Chip) (n : Nat) (f : BaseQ → BaseQ) : (c.updBase n f).log = c.log := rfl
@[simp] theorem updBase_core (c : Chip) (n : Nat) (f : BaseQ → BaseQ) : (c.updBase n f).core = c.core := rfl
@[simp] theorem updBase_parts (c : Chip) (n : Nat) (f : BaseQ → BaseQ) : (c.updBase n f).parts = c.parts := rfl
@[simp] theorem updBase_site (c : Chip) (n : Nat) (f : BaseQ → BaseQ) : (c.updBase n f).site = c.site := rfl
@[simp] theorem updBase_pwr (c : Chip) (n : Nat) (f : BaseQ → BaseQ) : (c.updBase n f).pwr = c.pwr := rfl
@[simp] theorem updBase_rails (c : Chip) (n : Nat) (f : BaseQ → BaseQ) : (c.updBase n f).rails = c.rails := rfl
@[simp] theorem updBase_batch (c : Chip) (n : Nat) (f : BaseQ → BaseQ) : (c.updBase n f).batch = c.batch := rfl
@[simp] theorem updBase_su (c : Chip) (n : Nat) (f : BaseQ → BaseQ) : (c.updBase n f).su = c.su := rfl
@[simp] theorem updBase_islA (c : Chip) (n : Nat) (f : BaseQ → BaseQ) : (c.updBase n f).islA = c.islA := rfl
@[simp] theorem updBase_islB (c : Chip) (n : Nat) (f : BaseQ → BaseQ) : (c.updBase n f).islB = c.islB := rfl
@[simp] theorem updBase_pm (c : Chip) (n : Nat) (f : BaseQ → BaseQ) : (c.updBase n f).pm = c.pm := rfl
@[simp] theorem updBase_boot (c : Chip) (n : Nat) (f : BaseQ → BaseQ) : (c.updBase n f).boot = c.boot := rfl
@[simp] theorem updBase_spare (c : Chip) (n : Nat) (f : BaseQ → BaseQ) : (c.updBase n f).spare = c.spare := rfl
@[simp] theorem updBase_acct (c : Chip) (n : Nat) (f : BaseQ → BaseQ) : (c.updBase n f).acct = c.acct := rfl
@[simp] theorem updBase_yard (c : Chip) (n : Nat) (f : BaseQ → BaseQ) : (c.updBase n f).yard = c.yard := rfl
@[simp] theorem updBase_cfg (c : Chip) (n : Nat) (f : BaseQ → BaseQ) : (c.updBase n f).cfg = c.cfg := rfl
@[simp] theorem updBase_io (c : Chip) (n : Nat) (f : BaseQ → BaseQ) : (c.updBase n f).io = c.io := rfl
@[simp] theorem updBase_fleet (c : Chip) (n : Nat) (f : BaseQ → BaseQ) : (c.updBase n f).fleet = c.fleet := rfl
@[simp] theorem updBase_rots (c : Chip) (n : Nat) (f : BaseQ → BaseQ) : (c.updBase n f).rots = c.rots := rfl
@[simp] theorem updSu_time (c : Chip) (n : Nat) (f : SuSt → SuSt) : (c.updSu n f).time = c.time := rfl
@[simp] theorem updSu_mem (c : Chip) (n : Nat) (f : SuSt → SuSt) : (c.updSu n f).mem = c.mem := rfl
@[simp] theorem updSu_regs (c : Chip) (n : Nat) (f : SuSt → SuSt) : (c.updSu n f).regs = c.regs := rfl
@[simp] theorem updSu_log (c : Chip) (n : Nat) (f : SuSt → SuSt) : (c.updSu n f).log = c.log := rfl
@[simp] theorem updSu_core (c : Chip) (n : Nat) (f : SuSt → SuSt) : (c.updSu n f).core = c.core := rfl
@[simp] theorem updSu_parts (c : Chip) (n : Nat) (f : SuSt → SuSt) : (c.updSu n f).parts = c.parts := rfl
@[simp] theorem updSu_site (c : Chip) (n : Nat) (f : SuSt → SuSt) : (c.updSu n f).site = c.site := rfl
@[simp] theorem updSu_pwr (c : Chip) (n : Nat) (f : SuSt → SuSt) : (c.updSu n f).pwr = c.pwr := rfl
@[simp] theorem updSu_rails (c : Chip) (n : Nat) (f : SuSt → SuSt) : (c.updSu n f).rails = c.rails := rfl
@[simp] theorem updSu_batch (c : Chip) (n : Nat) (f : SuSt → SuSt) : (c.updSu n f).batch = c.batch := rfl
@[simp] theorem updSu_islA (c : Chip) (n : Nat) (f : SuSt → SuSt) : (c.updSu n f).islA = c.islA := rfl
@[simp] theorem updSu_islB (c : Chip) (n : Nat) (f : SuSt → SuSt) : (c.updSu n f).islB = c.islB := rfl
@[simp] theorem updSu_pm (c : Chip) (n : Nat) (f : SuSt → SuSt) : (c.updSu n f).pm = c.pm := rfl
@[simp] theorem updSu_boot (c : Chip) (n : Nat) (f : SuSt → SuSt) : (c.updSu n f).boot = c.boot := rfl
@[simp] theorem updSu_spare (c : Chip) (n : Nat) (f : SuSt → SuSt) : (c.updSu n f).spare = c.spare := rfl
@[simp] theorem updSu_acct (c : Chip) (n : Nat) (f : SuSt → SuSt) : (c.updSu n f).acct = c.acct := rfl
@[simp] theorem updSu_rq (c : Chip) (n : Nat) (f : SuSt → SuSt) : (c.updSu n f).rq = c.rq := rfl
@[simp] theorem updSu_yard (c : Chip) (n : Nat) (f : SuSt → SuSt) : (c.updSu n f).yard = c.yard := rfl
@[simp] theorem updSu_cfg (c : Chip) (n : Nat) (f : SuSt → SuSt) : (c.updSu n f).cfg = c.cfg := rfl
@[simp] theorem updSu_io (c : Chip) (n : Nat) (f : SuSt → SuSt) : (c.updSu n f).io = c.io := rfl
@[simp] theorem updSu_fleet (c : Chip) (n : Nat) (f : SuSt → SuSt) : (c.updSu n f).fleet = c.fleet := rfl
@[simp] theorem updSu_rots (c : Chip) (n : Nat) (f : SuSt → SuSt) : (c.updSu n f).rots = c.rots := rfl
@[simp] theorem updRot_time (c : Chip) (n : Nat) (f : StRot → StRot) : (c.updRot n f).time = c.time := rfl
@[simp] theorem updRot_mem (c : Chip) (n : Nat) (f : StRot → StRot) : (c.updRot n f).mem = c.mem := rfl
@[simp] theorem updRot_regs (c : Chip) (n : Nat) (f : StRot → StRot) : (c.updRot n f).regs = c.regs := rfl
@[simp] theorem updRot_log (c : Chip) (n : Nat) (f : StRot → StRot) : (c.updRot n f).log = c.log := rfl
@[simp] theorem updRot_core (c : Chip) (n : Nat) (f : StRot → StRot) : (c.updRot n f).core = c.core := rfl
@[simp] theorem updRot_parts (c : Chip) (n : Nat) (f : StRot → StRot) : (c.updRot n f).parts = c.parts := rfl
@[simp] theorem updRot_site (c : Chip) (n : Nat) (f : StRot → StRot) : (c.updRot n f).site = c.site := rfl
@[simp] theorem updRot_pwr (c : Chip) (n : Nat) (f : StRot → StRot) : (c.updRot n f).pwr = c.pwr := rfl
@[simp] theorem updRot_rails (c : Chip) (n : Nat) (f : StRot → StRot) : (c.updRot n f).rails = c.rails := rfl
@[simp] theorem updRot_batch (c : Chip) (n : Nat) (f : StRot → StRot) : (c.updRot n f).batch = c.batch := rfl
@[simp] theorem updRot_su (c : Chip) (n : Nat) (f : StRot → StRot) : (c.updRot n f).su = c.su := rfl
@[simp] theorem updRot_islA (c : Chip) (n : Nat) (f : StRot → StRot) : (c.updRot n f).islA = c.islA := rfl
@[simp] theorem updRot_islB (c : Chip) (n : Nat) (f : StRot → StRot) : (c.updRot n f).islB = c.islB := rfl
@[simp] theorem updRot_pm (c : Chip) (n : Nat) (f : StRot → StRot) : (c.updRot n f).pm = c.pm := rfl
@[simp] theorem updRot_boot (c : Chip) (n : Nat) (f : StRot → StRot) : (c.updRot n f).boot = c.boot := rfl
@[simp] theorem updRot_spare (c : Chip) (n : Nat) (f : StRot → StRot) : (c.updRot n f).spare = c.spare := rfl
@[simp] theorem updRot_acct (c : Chip) (n : Nat) (f : StRot → StRot) : (c.updRot n f).acct = c.acct := rfl
@[simp] theorem updRot_rq (c : Chip) (n : Nat) (f : StRot → StRot) : (c.updRot n f).rq = c.rq := rfl
@[simp] theorem updRot_yard (c : Chip) (n : Nat) (f : StRot → StRot) : (c.updRot n f).yard = c.yard := rfl
@[simp] theorem updRot_cfg (c : Chip) (n : Nat) (f : StRot → StRot) : (c.updRot n f).cfg = c.cfg := rfl
@[simp] theorem updRot_io (c : Chip) (n : Nat) (f : StRot → StRot) : (c.updRot n f).io = c.io := rfl
@[simp] theorem updRot_fleet (c : Chip) (n : Nat) (f : StRot → StRot) : (c.updRot n f).fleet = c.fleet := rfl
@[simp] theorem updCtl_time (c : Chip) (x : Ctl) (f : CfgSt → CfgSt) : (c.updCtl x f).time = c.time := rfl
@[simp] theorem updCtl_mem (c : Chip) (x : Ctl) (f : CfgSt → CfgSt) : (c.updCtl x f).mem = c.mem := rfl
@[simp] theorem updCtl_regs (c : Chip) (x : Ctl) (f : CfgSt → CfgSt) : (c.updCtl x f).regs = c.regs := rfl
@[simp] theorem updCtl_log (c : Chip) (x : Ctl) (f : CfgSt → CfgSt) : (c.updCtl x f).log = c.log := rfl
@[simp] theorem updCtl_core (c : Chip) (x : Ctl) (f : CfgSt → CfgSt) : (c.updCtl x f).core = c.core := rfl
@[simp] theorem updCtl_parts (c : Chip) (x : Ctl) (f : CfgSt → CfgSt) : (c.updCtl x f).parts = c.parts := rfl
@[simp] theorem updCtl_site (c : Chip) (x : Ctl) (f : CfgSt → CfgSt) : (c.updCtl x f).site = c.site := rfl
@[simp] theorem updCtl_pwr (c : Chip) (x : Ctl) (f : CfgSt → CfgSt) : (c.updCtl x f).pwr = c.pwr := rfl
@[simp] theorem updCtl_rails (c : Chip) (x : Ctl) (f : CfgSt → CfgSt) : (c.updCtl x f).rails = c.rails := rfl
@[simp] theorem updCtl_batch (c : Chip) (x : Ctl) (f : CfgSt → CfgSt) : (c.updCtl x f).batch = c.batch := rfl
@[simp] theorem updCtl_su (c : Chip) (x : Ctl) (f : CfgSt → CfgSt) : (c.updCtl x f).su = c.su := rfl
@[simp] theorem updCtl_islA (c : Chip) (x : Ctl) (f : CfgSt → CfgSt) : (c.updCtl x f).islA = c.islA := rfl
@[simp] theorem updCtl_islB (c : Chip) (x : Ctl) (f : CfgSt → CfgSt) : (c.updCtl x f).islB = c.islB := rfl
@[simp] theorem updCtl_pm (c : Chip) (x : Ctl) (f : CfgSt → CfgSt) : (c.updCtl x f).pm = c.pm := rfl
@[simp] theorem updCtl_boot (c : Chip) (x : Ctl) (f : CfgSt → CfgSt) : (c.updCtl x f).boot = c.boot := rfl
@[simp] theorem updCtl_spare (c : Chip) (x : Ctl) (f : CfgSt → CfgSt) : (c.updCtl x f).spare = c.spare := rfl
@[simp] theorem updCtl_acct (c : Chip) (x : Ctl) (f : CfgSt → CfgSt) : (c.updCtl x f).acct = c.acct := rfl
@[simp] theorem updCtl_rq (c : Chip) (x : Ctl) (f : CfgSt → CfgSt) : (c.updCtl x f).rq = c.rq := rfl
@[simp] theorem updCtl_yard (c : Chip) (x : Ctl) (f : CfgSt → CfgSt) : (c.updCtl x f).yard = c.yard := rfl
@[simp] theorem updCtl_io (c : Chip) (x : Ctl) (f : CfgSt → CfgSt) : (c.updCtl x f).io = c.io := rfl
@[simp] theorem updCtl_fleet (c : Chip) (x : Ctl) (f : CfgSt → CfgSt) : (c.updCtl x f).fleet = c.fleet := rfl
@[simp] theorem updCtl_rots (c : Chip) (x : Ctl) (f : CfgSt → CfgSt) : (c.updCtl x f).rots = c.rots := rfl
@[simp] theorem updIsl_time (c : Chip) (i : Isl) (f : IslSt → IslSt) : (c.updIsl i f).time = c.time := by cases i <;> rfl
@[simp] theorem updIsl_mem (c : Chip) (i : Isl) (f : IslSt → IslSt) : (c.updIsl i f).mem = c.mem := by cases i <;> rfl
@[simp] theorem updIsl_regs (c : Chip) (i : Isl) (f : IslSt → IslSt) : (c.updIsl i f).regs = c.regs := by cases i <;> rfl
@[simp] theorem updIsl_log (c : Chip) (i : Isl) (f : IslSt → IslSt) : (c.updIsl i f).log = c.log := by cases i <;> rfl
@[simp] theorem updIsl_core (c : Chip) (i : Isl) (f : IslSt → IslSt) : (c.updIsl i f).core = c.core := by cases i <;> rfl
@[simp] theorem updIsl_parts (c : Chip) (i : Isl) (f : IslSt → IslSt) : (c.updIsl i f).parts = c.parts := by cases i <;> rfl
@[simp] theorem updIsl_site (c : Chip) (i : Isl) (f : IslSt → IslSt) : (c.updIsl i f).site = c.site := by cases i <;> rfl
@[simp] theorem updIsl_pwr (c : Chip) (i : Isl) (f : IslSt → IslSt) : (c.updIsl i f).pwr = c.pwr := by cases i <;> rfl
@[simp] theorem updIsl_rails (c : Chip) (i : Isl) (f : IslSt → IslSt) : (c.updIsl i f).rails = c.rails := by cases i <;> rfl
@[simp] theorem updIsl_batch (c : Chip) (i : Isl) (f : IslSt → IslSt) : (c.updIsl i f).batch = c.batch := by cases i <;> rfl
@[simp] theorem updIsl_su (c : Chip) (i : Isl) (f : IslSt → IslSt) : (c.updIsl i f).su = c.su := by cases i <;> rfl
@[simp] theorem updIsl_pm (c : Chip) (i : Isl) (f : IslSt → IslSt) : (c.updIsl i f).pm = c.pm := by cases i <;> rfl
@[simp] theorem updIsl_boot (c : Chip) (i : Isl) (f : IslSt → IslSt) : (c.updIsl i f).boot = c.boot := by cases i <;> rfl
@[simp] theorem updIsl_spare (c : Chip) (i : Isl) (f : IslSt → IslSt) : (c.updIsl i f).spare = c.spare := by cases i <;> rfl
@[simp] theorem updIsl_acct (c : Chip) (i : Isl) (f : IslSt → IslSt) : (c.updIsl i f).acct = c.acct := by cases i <;> rfl
@[simp] theorem updIsl_rq (c : Chip) (i : Isl) (f : IslSt → IslSt) : (c.updIsl i f).rq = c.rq := by cases i <;> rfl
@[simp] theorem updIsl_yard (c : Chip) (i : Isl) (f : IslSt → IslSt) : (c.updIsl i f).yard = c.yard := by cases i <;> rfl
@[simp] theorem updIsl_cfg (c : Chip) (i : Isl) (f : IslSt → IslSt) : (c.updIsl i f).cfg = c.cfg := by cases i <;> rfl
@[simp] theorem updIsl_io (c : Chip) (i : Isl) (f : IslSt → IslSt) : (c.updIsl i f).io = c.io := by cases i <;> rfl
@[simp] theorem updIsl_fleet (c : Chip) (i : Isl) (f : IslSt → IslSt) : (c.updIsl i f).fleet = c.fleet := by cases i <;> rfl
@[simp] theorem updIsl_rots (c : Chip) (i : Isl) (f : IslSt → IslSt) : (c.updIsl i f).rots = c.rots := by cases i <;> rfl

end Sys2Proof.Machine
end

