-- ==== Sys2Proof/Tests/Slice0.lean ====
section
/-! SUPPORT. Small tests: ill-formed commands, values that the specification works out, and for every statement a state and operands that meet its hypotheses, clause by clause. -/

namespace Sys2Proof.Tests

open Sys2Proof Sys2Proof.Machine

set_option Elab.async false

/-! ## A small state -/

/-- Slot 0 of stable 0 at site 0. -/
def wR : CtxRef := ⟨0, 0, 0⟩

/-- A context descriptor with four tiles and eight pending pages. -/
def wD : CtxDesc :=
  { job := 0, hall := 0, stable := 0, pinned := false, nopre := false, nacc := 4, entry := 0x10000, fentry := 0x10000, arg := 0, pendBase := 0x24000, pendPages := 2, saveBase := 0x30000, savePages := 4, ranges := [(0, 1, false)], acclive := 0, cycles := 1000, umax := 0, fclk := 0, mode := 0, pers := 0 }

/-- A running partition that owns stable 0, with an execute window and a data window. -/
def wP : Part :=
  { state := 2, stables := 1, wins := [⟨0x10000, 1, true, false, true, false⟩, ⟨0x20000, 16, true, true, false, false⟩, ⟨0x4000000000, 1, true, true, false, false⟩], ctxs := [wD], jobs := [⟨0, 1, 0, 0, 1, 0, false⟩] }

/-- A tensor descriptor of dense rows, untagged, in no shard map. -/
def wT (base fmt esz : Nat) (dims : List Nat) : BitVec 256 :=
  let st := (dims.scanl (· * ·) esz).tail
  BitVec.ofNat 256 (base + fmt * 2 ^ 48 + dims.length * 2 ^ 53 + 2 ^ 56 + 63 * 2 ^ 58 + leNat [] + (dims.zipIdx.map fun q => (q.1 - 1) * 2 ^ (64 + 16 * q.2)).sum
    + ((st.take (dims.length - 1)).zipIdx.map fun q => q.1 * 2 ^ (160 + 18 * q.2)).sum)

/-- A running context: S1 to S8 hold addresses and small numbers, TD1 to TD4 FP32 tensors of shape 2 by 2, TD5 one of shape 2. -/
def wX : Ctx :=
  { state := 2, ia := 0x10000, s := [(1, 0x20000), (2, 5), (3, 0x10008), (4, 0x800000000000), (5, 0x4000000000)], tiles := [0, 1, 2, 3],
    td := [(1, wT 0x800000000000 0x0B 4 [2, 2]), (2, wT 0x800000001000 0x0B 4 [2, 2]), (3, wT 0x800000002000 0x0B 4 [2, 2]), (4, wT 0x800000003000 0x0B 4 [2, 2]), (5, wT 0x800000004000 0x0B 4 [2])] }

/-- The block that holds that context. -/
def wC (x : Ctx := wX) (p : Part := wP) : Chip := { core := { slots := [(0, x)], on := [0] }, parts := [(0, p)], site := { hallmap := [(0, 0)] } }

/-- Instruction words: NEXT, then D, A, B and C of the body with its low 20 bits. -/
def wE (next d a b c : Nat) (low : Nat := 0) (x0 : W64 := 0) (x1 : W64 := 0) : Enc :=
  { next := BitVec.ofNat 2 next, body := BitVec.ofNat 40 (d * 2 ^ 35 + a * 2 ^ 30 + b * 2 ^ 25 + c * 2 ^ 20 + low), x0 := x0, x1 := x1 }

/-- A condition among the hypotheses. -/
def ask (b : Bool) : Ex Unit := if b then pure () else raise 0

/-- The instruction runs, and the further hypotheses hold of the block in which its own effect begins. -/
def runs (c : Chip) (d : IDesc) (e : Enc) (h : Ex Unit) : Bool :=
  c.issues 0 && match prologue 0 d e (c.fetching wR) with
    | .ok (true, c1) => (match h c1 with
      | .ok _ => true
      | .error _ => false)
    | _ => false

/-- What `runs` says: the instruction runs, and the hypotheses can all be met. -/
theorem runs_sound {c : Chip} {d : IDesc} {e : Enc} {h : Ex Unit} (t : runs c d e h = true) : ∃ c1 c2, Runs c wR d e c1 ∧ h c1 = .ok ((), c2) := by
  unfold runs at t
  rw [Bool.and_eq_true] at t
  obtain ⟨hi, t⟩ := t
  split at t
  · next c1 hp =>
    split at t
    · next u hh => exact ⟨c1, u.2, ⟨hi, hp⟩, hh⟩
    · cases t
  · cases t

/-- The same on island A. -/
def iruns (c : Chip) (d : IDesc) (e : Enc) (h : IEx Unit) : Bool :=
  c.islIssues .A && match iprologue .A d e c with
    | .ok (true, c1) => (match h c1 with
      | .ok _ => true
      | .error _ => false)
    | _ => false

/-- A condition among the hypotheses of an island's instruction. -/
def iask (b : Bool) : IEx Unit := ineed b 0

/-- A block in which island A has started. -/
def wI : Chip := { islA := { up := true, ia := 0x28000, file := { s := [(1, 0x30000), (2, 5), (3, 0x28010)] } } }

/-- Every clause of a list holds. -/
def every (l : List Bool) : Bool := l.all id

/-- A state with that block and no waiting command. -/
def wS (c : Chip) : State := { toChip := c }

/-! ## Ill-formed commands -/

/-- A well-formed CAN frame's parts. -/
def wCan (fdf xlf : Bool) (n : Nat) : CanFrame := { id := 5, fdf := fdf, xlf := xlf, data := List.replicate n 0 }

theorem test_illformed_access : (Instr.badRegisterAccess .dcu 0 0).WellFormed = false ∧ (Instr.registerWindowAccess 0 0 0 4097 none).WellFormed = false := by decide
theorem test_illformed_host : (Instr.bar2Read 0 0 4097).WellFormed = false ∧ (Instr.bar2Write 0 0 []).WellFormed = false := by decide
theorem test_illformed_entry : (Instr.commandFetch 0 0 (List.replicate 63 0)).WellFormed = false := by decide
theorem test_illformed_can : (Instr.canFrameReceive (.iod 0 0) 0 (wCan false false 9)).WellFormed = false ∧ (Instr.canFrameReceive (.iod 0 0) 0 (wCan true false 65)).WellFormed = false := by decide
theorem test_illformed_eth : (Instr.ethernetFrameReceive (.iod 0 0) 0 (List.replicate 13 0) true).WellFormed = false := by decide
theorem test_illformed_sensors : (Instr.temperatureSample (.die (.iod 0)) [(0, true)] 0).WellFormed = false ∧ (Instr.temperatureSample (.isl .A) [] 0).WellFormed = false := by decide
theorem test_illformed_sensor : (Instr.sensorSuspect (.isl .A) 2 0).WellFormed = false ∧ (Instr.sensorSuspect (.die (.mb 0)) 4 0).WellFormed = false := by decide
theorem test_illformed_row : (Instr.stairRowTestDone 0 [0, 0, 0, 0, 0, 0, 0, 0]).WellFormed = false := by decide
theorem test_illformed_flits : (Instr.packetReceive 0 0 0 0 [0] [0] 0).WellFormed = false ∧ (Instr.packetReceive 0 0 0 0 (List.replicate 9 0) (List.replicate 10 0) 0).WellFormed = false := by decide
theorem test_illformed_stables : (Instr.hallDemand (.hall 0) 0 [1, 2, 3] [1, 2, 3, 4] [] 0).WellFormed = false := by decide
theorem test_illformed_monitors : (Instr.ageingMeasurement 0 (List.replicate 23 0) (List.replicate 8 0) 0).WellFormed = false := by decide
theorem test_illformed_factors : (Instr.efficiencyRunEnd [1, 2, 3] 0).WellFormed = false := by decide
theorem test_illformed_request : (Instr.requestIssue (.hall 0) (.fresh 0 0 0x3600000000 false 1) 0).WellFormed = false ∧ (Instr.requestIssue (.hall 0) (.fresh 0 0 0 false 257) 0).WellFormed = false := by decide
theorem test_illformed_pcie : (Instr.pcieLinkUp 7 16).WellFormed = false ∧ (Instr.pcieLinkUp 6 3).WellFormed = false := by decide
theorem test_wellformed : (Instr.commandFetch 0 0 (List.replicate 64 0)).WellFormed = true ∧ (Instr.canFrameReceive (.iod 0 0) 0 (wCan true false 64)).WellFormed = true
    ∧ (Instr.packetReceive 0 0 0 0 [0] [0, 0] 0).WellFormed = true ∧ (Instr.pcieLinkUp 6 16).WellFormed = true := by decide

/-! ## Values that the specification works out -/

/-- R161: data byte 0 is 1 and every other byte zero. -/
theorem test_check_symbols : checkSymbols (1 :: List.replicate 31 0) = (0x40, 0x78, 0x36, 0x0F) := by decide +kernel
/-- The MXFP8 block of Number formats: 300.0, -450.0 and 0.01 under scale 1. -/
theorem test_e4m3 : (ffE4M3.conv (f32 0x43960000)).1 = 0x79 ∧ (ffE4M3.conv (f32 0xC3E10000)).1 = 0xFE ∧ (ffE4M3.conv (f32 0x3C23D70A)).1 = 0x05 := by decide +kernel
/-- Positions of the example in which sites 12 and 40 fail. -/
theorem test_stair_positions : siteOfPos 13 = 13 ∧ siteOfPos 14 = 12 ∧ siteOfPos 15 = 11 ∧ siteOfPos 40 = 40 ∧ siteOfPos 65 = 69 ∧ siteOfPos 71 = 63 := by decide
/-- The grant of period 11 in the example of R388: 6.75 W. -/
theorem test_grant : grantOf 431900 512000 64 8000 = 6748 ∧ grantOf 518600 512000 64 8000 = 8000 := by decide
/-- The unit path of the example of Error records. -/
theorem test_unit_path : unitPath 0 14 1 2 0 5 = 0x00E60005 := by decide
/-- BIN of the same example: 71.5 degrees at point 15. -/
theorem test_bin : tempBin 1144 = 5 := by decide

/-- The same example as a whole: data byte 13 of a word of stall 6's bank at logical hall 12 is wrong by 4. -/
theorem test_error_record :
    (({ site := { hallmap := [(12, 14)], state := [(14, 0)] }, pwr := [(14, { hot := 1144, hotOk := true, vzone := 735, point := 15 })] } : Chip).senseWord false (278639223616 / 32) (4 * 2 ^ (8 * 17))).log.inbox.map
      (fun r => [r.unit, r.hall, r.cls, r.temp, r.volt, r.bin, r.synd, r.addr]) = [[0x00E60005, 0x0C, 0x10, 0x0478, 0x02DF, 0x5F, 0x0411, 0x0040C0312340]] := by decide +kernel

/-- The third row of the bank example: LD64 through the rotate alias at offset 28. -/
theorem test_rotate_alias :
    (let c := wC { wX with s := [(1, 0x80000300011C)] }
     let c : Chip := { c with mem := { cells := (List.range 32).foldl (fun m i => m.writeLE (274877907200 + i) 1 i) [] } }
     match exec (.ld (.ctx wR) 3 (wE 0 2 1 0 0)) (wS c) with
     | .next s => (s.ctx 0).rs 2
     | _ => 0) = 0x030201001F1E1D1C := by decide +kernel

/-- The start-up example: sites 12 and 40 fail. -/
theorem test_two_sites_fail :
    (match exec (.stairDone 0) (wS { boot := { step := 3, rows := 8, tests := [(12, 2), (40, 1)] }, site := { state := [(12, 2), (40, 2)] } }) with
     | .next s => ([13, 14, 38, 39, 63].map fun h => s.siteOf h, [12, 40, 68, 63, 11].map fun x => s.site.state.get x 1)
     | _ => ([], [])) = ([some 13, some 11, some 39, some 41, some 69], [2, 2, 1, 1, 0]) := by decide +kernel

/-- The configuration example: URGENT 900 against AGE 800 in stack 3 fails with rule 0x07 and names base die 3. -/
theorem test_urgent_age :
    (match exec (.cfgCheckDone .dcu) (wS { cfg := [(.dcu, { owner := some 0, state := 2, staged := [(mbK 3 0x800, 900 * 2 ^ 4 + 800 * 2 ^ 16 + 256 * 2 ^ 32)] })] }) with
     | .next s => ((s.ctl .dcu).state, (s.ctl .dcu).rule, (s.ctl .dcu).nfail, (s.ctl .dcu).unit == mbUnit 3 1)
     | _ => (0, 0, 0, false)) = (4, 7, 1, true) := by decide +kernel

/-- The example of a disagreement: block 1,000,000 runs its shadow pass with k = 3. -/
theorem test_block_rotation :
    (match exec (.chkb (.ctx wR) {}) (wS { wC with regs := [(stbK 0 0xA0, 1)], core := { wC.core with eng := [(0, { seq := 1000000 })] } }) with
     | .next s => (((s.ctx 0).blk.map Block.checked, (s.ctx 0).blk.map Block.k), (s.eng 0).seq)
     | _ => ((none, none), 0)) = ((some true, some 3), 1000001) := by decide +kernel

/-! ## Instructions: scalar -/

theorem witness_ScalarResults : every
    [runs wC dNop {} (pure ()), runs wC (dAlu 0) (wE 0 6 1 2 0) (pure ()), runs wC (dAlui 0x12) (wE 0 0 2 0 0 7) (pure ()), runs wC dLi (wE 1 6 0 0 0 0 9) (pure ()),
     runs wC (dCmp 0) (wE 0 3 1 2 0) (pure ()), runs wC (dCmpi 0) (wE 0 0 2 0 0 5) (pure ()), runs wC (dPlog 0) (wE 0 3 0 1 0) (pure ())] = true := by decide +kernel

theorem witness_FirstStepsAndNotExecuted : every
    [(wC.ctx 0).blk.isNone && !wC.checkedMode 0 && (wC.ctx 0).ia % 8 == 0 && wC.fetchOk 0 0 && dNop.decodes {},
     (match prologue 0 dNop { pneg := true } (wC.fetching wR) with
      | .ok (go, _) => wC.issues 0 && !go
      | _ => false),
     wC.issues 0 && (wC.fetching wR).fetchOk 0 0 && !dNop.decodes { rsv := true } && (wC.fetching wR).fetchOk 0 dNop.fmt.next,
     (let c := wC { wX with ia := 0x10FF8 }
      c.issues 0 && (c.fetching wR).fetchOk 0 0 && dLi.decodes (wE 1 6 0 0 0 0 9) && dLi.fmt.next == 1 && ((c.fetching wR).ctx 0).rp 0 && !(c.fetching wR).fetchOk 0 dLi.fmt.next),
     (wC { wX with ia := 0x20000 }).issues 0 && !((wC { wX with ia := 0x20000 }).fetching wR).fetchOk 0 0,
     (wC { wX with ia := 0x10004 }).issues 0 && ((wC { wX with ia := 0x10004 }).fetching wR).fetchOk 0 0,
     (wC { wX with ia := 0x20004 }).issues 0 && !((wC { wX with ia := 0x20004 }).fetching wR).fetchOk 0 0] = true := by decide +kernel

/-- A CHECKED block in its primary pass. -/
def wB : Block := { checked := true, state := 1, cbid := 1, chkbIa := 0x10000 }

/-- The context inside that block. -/
def wXB : Ctx := { wX with ia := 0x10008, blk := some wB }

theorem witness_BranchesAndStatusReads : every
    [runs wC (dBr 0) (wE 0 0 0 0 0 1) (do let x ← ctxOf 0; ask (brTarget (x.ia - 8) (wE 0 0 0 0 0 1) % 8 == 0 && x.blk.isNone)),
     runs (wC wXB) (dBr 1) (wE 0 0 0 0 0 0) (do let x ← ctxOf 0; ask (brTarget (x.ia - 8) (wE 0 0 0 0 0 0) == wB.chkbIa + 8)),
     runs wC (dJr 0) (wE 0 0 3 0 0) (do let x ← ctxOf 0; ask ((x.rs 3).toNat % 8 == 0 && x.blk.isNone)),
     runs wC (dJr 1) (wE 0 31 3 0 0) (do let x ← ctxOf 0; ask ((x.rs 3).toNat % 8 == 0 && x.blk.isNone)),
     runs wC (dMfs 0) (wE 0 6 0 0 0) (pure ()), runs wC (dMfs 1) (wE 0 6 0 0 0) (pure ()), runs wC (dMfs 2) (wE 0 6 0 0 0) (do ask (← ctxOf 0).chk.isNone),
     runs (wC wXB) (dMfs 2) (wE 0 6 0 0 0) (record 0 16 0),
     runs (wC { wXB with blk := some { wB with state := 2, recs := [{ bytes := 16, val := 7 }] } }) (dMfs 2) (wE 0 6 0 0 0)
       (do let x ← ctxOf 0; ask (x.chk.any fun b => b.state != 1 && (b.recs[b.recPos]?).any fun q => !q.bad && !q.fixed)),
     runs wC (dMfs 3) (wE 0 6 0 0 0) (pure ()), runs wC (dMfs 4) (wE 0 6 0 0 0) (pure ()), runs wC dEnd {} (do ask (← ctxOf 0).blk.isNone)] = true := by decide +kernel

theorem witness_LoadsAndStores : every
    [runs wC (dLd 3) (wE 0 6 1 0 0 0xFFC) (do let c ← get; ask !(c.asyncHit 0 0x20FFC 8); discard (scalarLoad 0 0x20FFC 8)),
     runs wC (dSt 3) (wE 0 2 1 0 0 0xFFC) (scalarStore 0 0x20FFC [1, 2, 3, 4, 5, 6, 7, 8]),
     runs { wC with mem := { cells := Memory.writeBytes [] 0x20000 (leBytes 32 (wT 0x800000000000 0x0B 4 [2, 2]).toNat) } } (dTd 0) (wE 0 6 1 0 0) (do let bs ← rd 0 0x20000 32; ask ((descFaults (BitVec.ofNat 256 (leNat bs))).all fun q => !q.1)),
     runs (wC { wX with s := [(1, 0x800003000007)] }) (dTd 0) (wE 0 6 1 0 0) (do ask (localAlias (((← ctxOf 0).rs 1).toNat / 32 * 32)).isSome),
     runs wC (dTd 1) (wE 0 1 1 0 0) (do ask ((descOf ((← ctxOf 0).td.get 1 0)).rank != 0); scalarStore 0 0x20000 (leBytes 32 7)),
     runs wC (dTd 2) (wE 0 1 4 0 0) (do let x ← ctxOf 0; ask ((descOf (x.td.get 1 0)).rank != 0 && (descFaults (setFld (x.td.get 1 0) 47 0 0x800000000000)).all fun q => !q.1))] = true := by decide +kernel

theorem witness_StoreFrame : every
    [runs wC (dSt 3) (wE 0 2 1 0 0 0xFFC) (do let c ← get; ask ((c.ctx 0).chk.isNone && c.mem.errs.isEmpty && (localAlias 0x20FFC).isNone && (c.xlate 0 0x20FFC 8 true).isSome)),
     runs wC (dTd 1) (wE 0 1 1 0 0) (do let c ← get; ask (c.xlate 0 0x20000 32 true).isSome)] = true := by decide +kernel

theorem witness_IslandScalarResults : every
    [iruns wI dNop {} (pure ()), iruns wI (dAlu 0) (wE 0 6 1 2 0) (pure ()), iruns wI (dAlui 0) (wE 0 6 2 0 0 7) (pure ()), iruns wI dLi (wE 1 6 0 0 0 0 9) (pure ()),
     iruns wI (dCmp 0) (wE 0 3 1 2 0) (pure ()), iruns wI (dCmpi 0) (wE 0 3 2 0 0 5) (pure ()), iruns wI (dPlog 0) (wE 0 3 0 1 0) (pure ()),
     iruns wI (dLd 3) (wE 0 6 1 0 0) (discard (iload .A 0x30000 8)), iruns wI (dSt 3) (wE 0 2 1 0 0) (istore .A 0x30000 [5, 0, 0, 0, 0, 0, 0, 0]),
     iruns wI (dBr 0) (wE 0 0 0 0 0 1) (do let s ← iget .A; iask (brTarget (s.ia - 8) (wE 0 0 0 0 0 1) % 8 == 0 && s.blk.isNone)),
     iruns wI (dJr 0) (wE 0 0 3 0 0) (pure ()), iruns wI (dBr 1) (wE 0 0 0 0 0 1) (pure ()), iruns wI (dJr 1) (wE 0 6 3 0 0) (pure ()),
     iruns wI (dMfs 2) (wE 0 6 0 0 0) (do iask (← iget .A).blk.isNone), iruns wI (dMfs 0) (wE 0 6 0 0 0) (pure ()), iruns wI (dMfs 3) (wE 0 6 0 0 0) (pure ()),
     iruns wI dEnd {} (do iask (← iget .A).blk.isNone)] = true := by decide +kernel

theorem witness_IslandTraps : every
    [wI.islIssues .A && (wI.isl .A).ia % 8 == 0 && islFetchOk (wI.isl .A).ia 0, (wI.isl .A).trap == 0 && (wI.isl .A).up, !(wC.isl .A).up] = true := by decide +kernel

/-! ## Instructions: movement, tensors and vectors -/

/-- The context with further descriptors: FP32 shapes [1, 2] (TD7), [2, 2] in the hall window (TD12); INT16 shapes [2] (TD6) and
    [1, 2] (TD8); INT8 shapes [4, 1] (TD9) and [4, 2] (TD10); FP32 [4, 1] (TD11); and for convolutions [1, 2, 2, 1] (TD13),
    [1, 1, 1, 1] (TD14) and [1, 1, 1] (TD15), INT8 [4, 1, 1, 1] (TD16), INT8 [4, 1, 1, 2] (TD17) and FP32 [4, 1, 1, 1] (TD18). -/
def wXT : Ctx :=
  { wX with td := wX.td ++ [(6, wT 0x800000005000 3 2 [2]), (7, wT 0x800000006000 0x0B 4 [1, 2]), (8, wT 0x800000007000 3 2 [1, 2]),
      (9, wT 0x800000008000 2 1 [4, 1]), (10, wT 0x800000009000 2 1 [4, 2]), (11, wT 0x80000000B000 0x0B 4 [4, 1]),
      (13, wT 0x80000000D000 0x0B 4 [1, 2, 2, 1]), (14, wT 0x80000000E000 0x0B 4 [1, 1, 1, 1]), (15, wT 0x80000000F000 0x0B 4 [1, 1, 1]),
      (16, wT 0x800000010000 2 1 [4, 1, 1, 1]), (17, wT 0x800000011000 2 1 [4, 2, 1, 1]), (18, wT 0x800000013000 0x0B 4 [4, 1, 1, 1]),
      (19, wT 0x800000014000 0x0B 4 [1, 2, 2, 1])] }

/-- The block for tensor instructions. -/
def wCT : Chip := wC wXT

/-- Format-T words: D, A, B, C and the low bits of the body, then the operand word. -/
def wET (d a b : Nat) (low : Nat := 0) (x0 : W64 := 0) : Enc := wE 1 d a b 0 low x0

/-- The mask bit ME with an all-zero mask register: every position is masked. -/
def wMask : Nat := 2 ^ 11

theorem witness_MovesAndAtomics : every
    [runs wCT (dMov 0) (wE 0 2 1 0 0) (do
       let c ← get
       let src := descOf (wT 0x800000000000 0x0B 4 [2, 2])
       let dst := descOf (wT 0x800000001000 0x0B 4 [2, 2])
       ask ((c.copyFaults 0 src dst).all fun q => !q.1)
       let w ← moveChunks 0 (dst.base / 4096) (copySrc 0 src dst) (copyPlan src dst) [] []
       copyTags 0 src dst w),
     runs wCT (dMov 1) (wE 0 1 0 2 0) (do
       let c ← get
       let dst := descOf (wT 0x800000000000 0x0B 4 [2, 2])
       ask (dst.usable && !isMX dst.fmt && dst.smap == 63 && !dst.touchesAlias && (fillPlan dst).all fun q => (c.xlate 0 q.dst q.n true).isSome)
       let w ← moveChunks 0 (dst.base / 4096) (fillSrc 0 dst 5) (fillPlan dst) [] []
       if dst.pol = 0 then tagKeys 0 (sortBy id w) else pure ()),
     runs wCT (dAtom 0) (wE 0 6 5 2 0) (do let c ← get; ask ((c.ctx 0).chk.isNone && (c.atomKeys 0 0x4000000000 8).isSome); atomBody 0 (wE 0 6 5 2 0) 0),
     runs wCT (dAtom 1) (wE 0 6 5 2 0) (atomBody 1 (wE 0 6 5 2 0) 0), runs wCT (dAtom 2) (wE 0 6 5 2 0) (atomBody 2 (wE 0 6 5 2 0) 0),
     runs wCT (dAtom 3) (wE 0 6 5 2 0) (atomBody 3 (wE 0 6 5 2 0) 0)] = true := by decide +kernel

theorem witness_BankReadModifyWrite : every
    [(match rmw [0x4000000000, 0x4000000001] false [3, 5] wC with
      | .ok _ => wC.mem.errs.isEmpty && wC.mem.cells.wf
      | .error _ => false)] = true := by decide +kernel

theorem witness_TensorProducts : every
    [runs wCT (dT 0x20 0 1) (wET 3 1 2) (prodWrite .mm (wET 3 1 2) 0), runs wCT (dT 0x20 2 1) (wET 11 9 10) (prodWrite .mmSp (wET 11 9 10) 0),
     runs wCT (dT 0x21 0 (maskOf 26 0)) (wET 19 13 14) (prodWrite .conv (wET 19 13 14) 0),
     runs wCT (dT 0x21 2 (maskOf 26 0)) (wET 19 13 15) (prodWrite .dw (wET 19 13 15) 0),
     runs wCT (dT 0x21 3 (maskOf 26 0)) (wET 18 16 17) (prodWrite .convSp (wET 18 16 17) 0),
     runs wCT (dT 0x20 1 1) (wET 3 1 2) (prodAcc .mm (wET 3 1 2) 0), runs wCT (dT 0x20 3 1) (wET 11 9 10) (prodAcc .mmSp (wET 11 9 10) 0),
     runs wCT (dT 0x21 1 (maskOf 26 0)) (wET 19 13 14) (prodAcc .conv (wET 19 13 14) 0),
     runs wCT (dT 0x22 0 1 (fA + fB)) (wET 3 0 0) (accstBody (wET 3 0 0) 0), runs wCT (dT 0x22 0 1 (fA + fB)) (wET 3 0 0 0 1) (accstBody (wET 3 0 0 0 1) 0),
     runs wCT (dT 0x23 0 3 (fD + fB)) (wET 0 1 0 0 1) (accldBody (wET 0 1 0 0 1) 0)] = true := by decide +kernel

theorem witness_TensorFunctionsAndElementwise : every
    [runs wCT (dT 0x24 0 7 (fB + fACC)) (wET 7 1 0) (reduceBody 0 (wET 7 1 0) 0), runs wCT (dT 0x24 1 7 (fB + fACC)) (wET 7 1 0) (reduceBody 1 (wET 7 1 0) 0),
     runs wCT (dT 0x24 2 7 (fB + fACC)) (wET 7 1 0) (reduceBody 2 (wET 7 1 0) 0), runs wCT (dT 0x24 3 7 (fB + fACC)) (wET 8 1 0) (reduceBody 3 (wET 8 1 0) 0),
     runs wCT (dT 0x25 0 0 (fB + fACC)) (wET 2 1 0 wMask) (softmaxBody false (wET 2 1 0 wMask) 0), runs wCT (dT 0x25 1 0 (fB + fACC)) (wET 2 1 0 wMask) (softmaxBody true (wET 2 1 0 wMask) 0),
     runs wCT (dT 0x26 0 0 fACC) (wET 2 1 6) (gatherBody (wET 2 1 6) 0), runs wCT (dT 0x26 1 0 fACC) (wET 2 1 6) (scatterBody false (wET 2 1 6) 0),
     runs wCT (dT 0x26 2 0 fACC) (wET 2 1 6) (scatterBody true (wET 2 1 6) 0), runs wCT (dT 0x27 0 (maskOf 17 0) (fB + fACC)) (wET 2 1 0 0 1) (transposeBody (wET 2 1 0 0 1) 0),
     runs wCT (dT 0x27 1 0 (fB + fACC)) (wET 2 1 0) (convertBody (wET 2 1 0) 0), runs wCT (dT 0x28 0 (maskOf 31 0) fACC) (wET 3 1 2 wMask) (normBody true (wET 3 1 2 wMask) 0),
     runs wCT (dT 0x28 1 (maskOf 31 0) fACC) (wET 3 1 5 wMask) (normBody false (wET 3 1 5 wMask) 0), runs wCT (dT 0x48 0 0 fACC) (wET 3 1 2) (ewBody 0 (wET 3 1 2) 0),
     runs wCT (dT 0x48 1 0 fACC) (wET 3 1 2) (ewBody 1 (wET 3 1 2) 0), runs wCT (dT 0x48 2 0 fACC) (wET 3 1 2) (ewBody 2 (wET 3 1 2) 0),
     runs wCT (dT 0x48 3 0 (fB + fACC)) (wET 3 1 0) (ewBody 3 (wET 3 1 0) 0)] = true := by decide +kernel

/-- Format-V words: VD, VA, VB, VC and the S register of SA. -/
def wEV (vd va vb vc sa : Nat) : Enc := { body := BitVec.ofNat 40 (vd * 2 ^ 36 + va * 2 ^ 32 + vb * 2 ^ 28 + vc * 2 ^ 24 + sa * 2 ^ 14) }

theorem witness_VectorUnit : every
    ([runs wC (dV 0x40 0 (fVA + fVB + fVC)) (wEV 1 0 0 0 4) (do ask (vecAddr 0x800000000000 1024); discard (rd 0 0x800000000000 1024)),
      runs wC (dV 0x40 1 (fVD + fVB + fVC)) (wEV 0 1 0 0 4) (vstBody (wEV 0 1 0 0 4) 0),
      runs wC (dV 0x40 2 (fVA + fVB + fVC)) (wEV 1 0 0 0 4) (do ask (vecAddr 0x800000000000 4); discard (rd 0 0x800000000000 4)),
      runs wC (dV 0x47 0 (fVA + fVB + fVC)) (wEV 1 0 0 0 2) (pure ()), runs wC (dV 0x44 0 fSA) (wEV 1 2 3 4 0) (pure ())]
     ++ (List.range 6).map (fun n => runs wC (dV 0x41 n (if n = 3 then fSA else fVC + fSA)) (wEV 1 2 3 0 0) (pure ()))
     ++ [6, 7].map (fun n => runs wC (dV 0x41 n (fVB + fVC + fSA)) (wEV 1 2 0 0 0) (pure ()))
     ++ (List.range 8).map (fun n => runs wC (dV 0x42 n (fVB + fVC + fSA)) (wEV 1 2 0 0 0) (pure ()))
     ++ (List.range 3).map (fun n => runs wC (dV 0x43 n (fVC + fSA)) (wEV 1 2 3 0 0) (pure ()))
     ++ (List.range 2).map (fun n => runs wC (dV 0x45 n (fVB + fVC + fSA)) (wEV 1 2 0 0 0) (pure ()))
     ++ (List.range 3).map (fun n => runs wC (dV 0x46 n (fVB + fVC + fSA)) (wEV 1 2 0 0 0) (pure ()))) = true := by decide +kernel

/-! ## Instructions: attention, geometry and the Search Unit -/

/-- A memory in which little-endian numbers stand at keys: (key, bytes, value). -/
def wM (l : List (Nat × Nat × Nat)) : MemSt := { cells := l.foldl (fun m q => m.writeLE q.1 q.2.1 q.2.2) [] }

/-- A registered KV table of four entries at local offset 0x20000: page 1 free with a frame of eight blocks, page 2 LIVE with one
    reference, page 3 LIVE with two; and page lists that name page 2 and page 3. -/
def wKV : Chip :=
  let put := fun (i w v : Nat) => (0x4000020000 + 16 * i + 8 * w, 8, v)
  let c := wC { wXT with
    s := [(2, 5), (6, 2), (7, 0x800000024000), (8, 0x800000024002), (9, 3)],
    td := [(1, wT 0x800000000000 9 2 [32, 1, 1]), (2, wT 0x800000001000 9 2 [32, 1, 1]), (3, wT 0x800000020000 3 2 [8, 4]), (4, wT 0x800000022000 3 2 [8, 1])] }
  { c with
    regs := [(stbK 0 0x60, 0x800000020001)],
    mem := wM [put 0 0 (1 + 1 * 2 ^ 16 + 0xFFFFFFFF * 2 ^ 32), put 0 1 (4 * 2 ^ 16), put 1 0 (0x28000 + 8 * 2 ^ 48), put 1 1 (0xFFFF * 2 ^ 48),
      put 2 0 (1 + 0x22000 + 8 * 2 ^ 48), put 2 1 1, put 3 0 (1 + 0x22000 + 8 * 2 ^ 48), put 3 1 2,
      (0x4000024000, 2, 2), (0x4000024002, 2, 3)] }

/-- Format-A words: the descriptors of the output, the queries, the table and the lengths. -/
def wEA (d a b c : Nat) (x0 x1 : W64) : Enc := wE 2 d a b c 0 x0 x1

theorem witness_AttentionRows : every
    [runs wKV (dAttn 0) (wEA 2 1 3 4 0 0) (attnBody 0 (wEA 2 1 3 4 0 0) 0), runs wKV (dAttn 1) (wEA 2 1 3 4 0 0) (attnBody 1 (wEA 2 1 3 4 0 0) 0),
     runs wKV (dAttn 2) (wEA 2 1 3 4 0x0001080000000000 0x800000023000) (attnBody 2 (wEA 2 1 3 4 0x0001080000000000 0x800000023000) 0),
     runs wKV dKvapp (wEA 2 1 3 4 0 0) (kvappBody (wEA 2 1 3 4 0 0) 0)] = true := by decide +kernel

theorem witness_KvPagesAndTables : every
    [(wKV.ctx 0).chk.isNone && wKV.kvOn 0, runs wKV (dKvpage 0) (wE 0 1 0 0 0) (kvHeader 0), runs wKV (dKvpage 0) (wE 0 1 0 0 0) (do ask !(← get).kvMustWait 0; kvAllocBody (wE 0 1 0 0 0) 0),
     runs wKV (dKvpage 1) (wE 0 1 6 0 0) (do let q ← kvLook 0 2; ask (q.st == 1 && q.ref == 1)), runs wKV (dKvpage 2) (wE 0 1 6 0 0) (do let q ← kvLook 0 2; ask (q.st == 1 && q.ref == 1); kvTail 0),
     runs wKV (dKvpage 2) (wE 0 1 9 0 0) (do let q ← kvLook 0 3; let c ← get; ask (q.st == 1 && decide (1 < (c.kvEnt 0 3).ref))),
     runs wKV (dKvpage 3) (wE 0 1 7 0 0) (do let bs ← rd 0 0x800000024000 2; let q ← kvLook 0 (leNat bs); ask (slotAddr 0x800000024000 2 && q.st == 1 && q.ref == 1)),
     runs wKV (dKvpage 3) (wE 0 1 8 0 0) (do
       let bs ← rd 0 0x800000024002 2
       let q ← kvLook 0 (leNat bs)
       let n ← kvTake 0 q.form q.fill
       ask (q.st == 1 && q.ref != 1 && n != leNat bs && n != 0xFFFF)
       let c ← get
       copyFrame 0 q.frm (c.kvEnt 0 n).frm q.form q.fill false
       wr 0 0 0x800000024002 (leBytes 2 n)),
     { wKV with batch := [(0, ⟨1, 1, 1, 0⟩)] }.spliceDue 0 && (({ wKV with batch := [(0, ⟨1, 1, 1, 0⟩)] }.kvSplice 0).ctx 0).wait == .none
       && (({ wKV with batch := [(0, ⟨1, 1, 1, 0⟩)] }.kvSplice 0).ctx 1).wait == .none,
     (let c := { wKV with core := {} }
      let d := c.setReg (stbK 0 0x60) 0x800000020001
      (c.ctx 0).state != 2 && (c.ctx 0).state != 3 && (c.ctx 1).state != 2 && bit 0x800000020001 0 && d.kvEntries 0 == 4 && bits (d.kvWord 0 0 1) 63 32 == 0),
     (wKV.ctx 0).state == 2] = true := by decide +kernel

/-- A CHECKED block whose pending pages stand for the block of a scene header at local offset 0x8000 and for that of the results, with
    scene slot 0 captured. -/
def wXG (td : AMap Nat (BitVec 256)) : Ctx :=
  { wX with ia := 0x10008, s := [(6, 0), (7, 0x800000008000), (8, 0x80000000A000)], td := td, blk := some { cbid := 1, checked := true, state := 1, chkbIa := 0x10000, scenes := [(0x800000008000, 1, true)], prim := { pages := [{ dest := 0x4000008, idx := 0, crc := 0 }, { dest := 0x4000000, idx := 1, crc := 0 }] } } }

/-- A block for geometry: records of types 1 to 4 at local offsets 0x1000 to 0x4000, a model of one body, and an empty scene header in
    the pending page. -/
def wG (td : AMap Nat (BitVec 256)) (blk : Bool := false) : Chip :=
  { wC (if blk then wXG td else { wXG td with blk := none }) with mem := wM [(0x4000001000, 4, 1), (0x4000002000, 4, 2), (0x4000003000, 4, 3), (0x4000004000, 4, 4), (0x400000500C, 4, 1), (0x2400C, 4, 0xFFFFFFFF)] }

/-- Result rows (TD1), one query (TD2), poses of one edge (TD4), a model (TD5), and the record tensor given (TD3). -/
def wTG (rec : Nat) : AMap Nat (BitVec 256) :=
  [(1, wT 0x800000000000 0x0B 4 [4, 1]), (2, wT 0x800000000100 0x0B 4 [4, 1]), (3, wT rec 0x0B 4 [16, 1]), (4, wT 0x800000000200 0x0B 4 [8, 2, 1]), (5, wT 0x800000005000 0x0B 4 [4, 2]),
   (6, wT 0x800000006000 0x0B 4 [16, 1]), (7, wT 0x800000007000 0x0B 4 [16, 1]), (9, wT 0x800000009000 0x0B 4 [4, 1, 1, 1]), (10, wT 0x80000000B000 2 1 [512])]

/-- Format-G words. -/
def wEG (d a b sa : Nat) (x0 : W64 := 0) : Enc := wE 1 d a b sa 0 x0

theorem witness_Geometry : every
    [runs (wG (wTG 0x800000002000)) (dGtest 0) (wEG 1 2 3 0) (gtestBody 0 (wEG 1 2 3 0) 0), runs (wG (wTG 0x800000001000)) (dGtest 1) (wEG 1 2 3 0) (gtestBody 1 (wEG 1 2 3 0) 0),
     runs (wG (wTG 0x800000003000)) (dGtest 2) (wEG 1 2 3 0) (gtestBody 2 (wEG 1 2 3 0) 0), runs (wG (wTG 0x800000004000)) (dGtest 3) (wEG 1 2 3 0) (gtestBody 3 (wEG 1 2 3 0) 0),
     runs (wG (wTG 0x800000003000) true) (dGtrav 0) (wEG 1 2 0 6) (gtravBody 0 (wEG 1 2 0 6) 0), runs (wG (wTG 0x800000003000) true) (dGtrav 1) (wEG 1 2 0 6) (gtravBody 1 (wEG 1 2 0 6) 0),
     runs (wG (wTG 0x800000003000) true) (dGtrav 2) (wEG 1 2 0 6) (gtravBody 2 (wEG 1 2 0 6) 0), runs (wG (wTG 0x800000003000) true) (dGsweep 0) (wEG 1 4 5 6) (gsweepBody 0 false (wEG 1 4 5 6) 0),
     runs (wG (wTG 0x800000003000) true) (dGsweep 1) (wEG 1 4 5 6) (gsweepBody 1 false (wEG 1 4 5 6) 0),
     runs (wG (wTG 0x800000003000) true) (dGsweep 0) (wEG 1 4 5 6 16) (gsweepBody 0 true (wEG 1 4 5 6 16) 0),
     runs (wG (wTG 0x800000003000)) (dGbuild 0) (wEG 6 3 7 8) (gbuildBody (wEG 6 3 7 8) 0), runs (wG (wTG 0x800000003000) true) (dGbuild 1) (wEG 0 0 0 7) (grefitBody (wEG 0 0 0 7) 0),
     runs (wG (wTG 0x800000003000)) (dGbuild 2) (wEG 10 9 0 6 1) (gdynBody (wEG 10 9 0 6 1) 0)] = true := by decide +kernel

/-- A context whose partition owns the hall's Search Unit, with addresses in S4 and S5, a queue word in S6 and job records in S7 and S8;
    SU_QCFG gives queue 0 one block of entries. -/
def wSu (u : SuSt) (q : Nat := 1) : Chip :=
  { wC { wX with s := [(1, 2 ^ 49), (2, 5), (4, 0x800000000000), (5, 0x800000001000), (6, 0x7777), (7, 0x800000002000), (8, 0x800000003000), (9, 1), (10, 2 ^ 48)] } with
    regs := [(suK 0 0, 0x100), (suK 0 8, q), (suK 0 0x200, 1)], su := [(0, u)],
    mem := wM [(0x4000002000, 8, 0x800000006000), (0x4000002008, 8, 0x800000007000), (0x4000002010, 4, 2), (0x4000003000, 8, 0x800000006000), (0x4000003008, 8, 0x800000008000),
      (0x4000003010, 4, 1), (0x4000003024, 2, 1)] }

theorem witness_SearchUnit : every
    [((wSu {}).ctx 0).chk.isNone && !(wSu {}).suDenied 0,
     runs (wSu {}) (dSuq 0) (wE 0 3 6 2 0) (do suqSound 0 0 0; ask (decide (0 < suCap ((← get).reg (suK 0 8)) 0))),
     runs (wSu {} 0) (dSuq 0) (wE 0 3 6 2 0) (do ask (suCap ((← get).reg (suK 0 8)) 0 == 0)),
     runs (wSu { queues := [(0, [(2 ^ 48 - 1, 2 ^ 32 - 1)])] }) (dSuq 1) (wE 0 3 0 0 12) (do ask (qMin (((← get).suSt 0).queues.get 0 []) == some (2 ^ 48 - 1, 2 ^ 32 - 1))),
     runs (wSu {}) (dSuq 1) (wE 0 3 0 0 12) (do ask (qMin (((← get).suSt 0).queues.get 0 [])).isNone),
     runs (wSu { queues := [(0, [(0, 0)])] }) (dSuq 2) (wE 0 3 0 0 12) (do ask (qMin (((← get).suSt 0).queues.get 0 []) == some (0, 0))),
     runs (wSu {}) (dSuq 3) (wE 0 3 0 0 0) (pure ()), runs (wSu {}) (dSuq 4) (wE 0 0 0 0 0) (pure ()),
     runs (wSu { nalloc := 32767 }) (dSunode 0) (wE 0 3 4 0 0) (do ask (decide (((← get).suSt 0).nalloc < 32768)); let bs ← rd 0 0x800000000000 64; wrNode 0 32767 bs),
     runs (wSu { nalloc := 32768 }) (dSunode 0) (wE 0 3 4 0 0) (pure ()),
     runs (wSu { nalloc := 1 }) (dSunode 1) (wE 0 0 0 4 0) (do let bs ← rdNode 0 0; wr 0 0 0x800000000000 bs),
     runs (wSu { nalloc := 1 }) (dSunode 2) (wE 0 0 0 4 0) (do let bs ← rd 0 0x800000000000 64; wrNode 0 0 bs),
     runs { wSu { nalloc := 1 } with mem := wM [(nodeKey 0 0 + 32, 1, 1)] } (dSunode 3) (wE 0 3 4 0 0) (do
       let bs ← rd 0 0x800000000000 64
       senseEx (nodeKey 0 0) (64 * ((← get).suSt 0).nalloc)
       let c ← get
       ask (nearestNode c 0 0 0 bs 1 0 none).isSome),
     runs (wSu {}) (dSunode 3) (wE 0 3 4 0 0) (do
       let bs ← rd 0 0x800000000000 64
       senseEx (nodeKey 0 0) 0
       let c ← get
       ask (nearestNode c 0 0 0 bs 0 0 none).isNone),
     bit ((wSu {}).reg (suK 0 0)) 8, !bit (wC.reg (suK 0 0)) 8, (wSu {}).suSt 0 == {},
     (wSu { queues := [(0, [(1, 1)])] }).suSt 0 != {}] = true := by decide +kernel

/-- A partition and a schedule under which a plan's deadline lies ahead. -/
def wPlan : SuSt := { sched := some ⟨0, 0, 33333333, 11666666⟩ }

/-- A SUPLAN that is answered at once. -/
def wDone (o : PlanOut) : Bool := match o with
  | .done _ => true
  | _ => false

/-- Cells of a well-formed draft of zeros, whose first sample is at the plan's deadline. -/
def wCells : Memory := (wM [(0x4000000000, 4, 0x4E414C50), (0x4000000010, 8, 45000000), (0x400000002C, 2, 400), (0x400000002E, 2, 400)]).cells

/-- A block whose context has that draft at S4. -/
def wDraft : Chip :=
  let c := wSu wPlan
  { c with mem := { cells := wCells } }

/-- The pieces of that draft. -/
def wKeys : List (Nat × Nat) := ((List.range 6).map fun i => (0x4000000000 + 4096 * i, 4096)) ++ [(0x4000006000, 1280)]

theorem read_free {m : Memory} {a : Nat} (h : ∀ e ∈ m, e.1 ≠ a) : m.read a = 0 := by
  induction m with
  | nil => rfl
  | cons e m ih =>
    have h1 := h e (by simp)
    simp only [Memory.read, Memory.unlisted]
    split
    · rfl
    · rw [if_neg (Ne.symm h1)]
      exact ih fun x hx => h x (by simp [hx])

theorem readBytes_free {m : Memory} {a n : Nat} (h : ∀ e ∈ m, e.1 < a) : m.readBytes a n = List.replicate n 0 := by
  induction n generalizing a with
  | zero => rfl
  | succ n ih =>
    rw [Memory.readBytes, read_free fun e he => Nat.ne_of_lt (h e he), ih fun e he => Nat.lt_succ_of_lt (h e he), List.replicate_succ]

theorem readBytes_add (m : Memory) (a i j : Nat) : m.readBytes a (i + j) = m.readBytes a i ++ m.readBytes (a + i) j := by
  induction i generalizing a with
  | zero => simp [Memory.readBytes]
  | succ i ih => simp [Nat.succ_add, Memory.readBytes, ih, Nat.add_assoc]

/-- The bytes of the draft: its header, and zeros. -/
def wRec : List Byte := wCells.readBytes 0x4000000000 256 ++ List.replicate 25600 0

theorem wKeys_bytes {c : Chip} (he : c.mem.errs.isEmpty = true) (hm : c.mem.cells = wCells) : c.piecesBytes wKeys = wRec := by
  have h : ∀ k n, c.bytesAt k n = wCells.readBytes k n := fun k n => by rw [Chip.bytesAt, if_pos he, hm]
  have e : (25600 : Nat) = 3840 + (4096 + (4096 + (4096 + (4096 + (4096 + 1280))))) := rfl
  rw [wRec, ← readBytes_free (m := wCells) (a := 0x4000000100) (by decide +kernel), e]
  simp only [readBytes_add]
  rw [← List.append_assoc, show (0x4000000100 : Nat) = 0x4000000000 + 256 from rfl, ← readBytes_add]
  simp [Chip.piecesBytes, wKeys, h, List.range_succ, List.range_zero]

theorem leNat_zeros (n : Nat) : leNat (List.replicate n 0) = 0 := by
  induction n with
  | zero => rfl
  | succ n ih => rw [List.replicate_succ, leNat, ih]; rfl

theorem wRec_field {off n : Nat} (h : 256 ≤ off) : fieldAt wRec off n = 0 := by
  have hl : (wCells.readBytes 0x4000000000 256).length = 256 := by decide +kernel
  rw [fieldAt, wRec, List.drop_append, List.drop_eq_nil_of_le (by omega), List.nil_append, List.drop_replicate, List.take_replicate, leNat_zeros]

theorem wRec_form : draftForm false wRec 44999999 = true := by
  have f : ∀ b, 256 ≤ b → trajFinite wRec b = true ∧ trajZero wRec b = true := fun b hb => by
    constructor
    · simp only [trajFinite, List.all_eq_true]
      intro k _ j _
      rw [wRec_field (by omega)]; decide
    · simp only [trajZero, List.all_eq_true]
      intro k _
      rw [wRec_field (by omega)]; decide
  obtain ⟨h1, h2⟩ := f 0x3300 (by omega)
  obtain ⟨h3, h4⟩ := f 0x100 (by omega)
  unfold draftForm
  rw [h1, h2, h3, h4]
  decide +kernel

/-- What a block has that meets the conditions of R236 for that draft. -/
def planReady (c : Chip) : Bool :=
  bit (c.reg (suK 0 0x200)) 0 && (c.suSt 0).sched == some ⟨0, 0, 33333333, 11666666⟩ && (c.planDeadline 0 0).any (fun d => !decide (d ≤ (c.localTime 0 : Int)))
    && (c.suSt 0).sent == none && c.mem.errs == [] && c.mem.cells == wCells && ((c.part 0).scenes.get 0 {}).epoch == 0

/-- The draft is sent, and the SUPLAN stays open. -/
theorem planPort_open {c : Chip} (h : planReady c = true) : (c.planPort 0 0 0 0 0 wKeys false).2 = .open := by
  simp only [planReady, Bool.and_eq_true, beq_iff_eq, Option.any_eq_true, Bool.not_eq_true', decide_eq_false_iff_not] at h
  obtain ⟨⟨⟨⟨⟨⟨h1, h2⟩, d, hd, h3⟩, h4⟩, h5⟩, h6⟩, h7⟩ := h
  have hs : ∀ (l : List (Nat × Nat)) , l.foldl (fun (q : Chip × Bool) k => let (c, b) := q.1.sense k.1 k.2; (c, q.2 || b)) (c, false) = (c, false) := fun l => by
    induction l with
    | nil => rfl
    | cons k l ih => simpa [Chip.sense, Chip.badWords, h5] using ih
  have hr := wKeys_bytes (c := c) (by simp [h5]) h6
  unfold Chip.planPort
  simp only [h1, h2, hd, h3, h4, hr, hs]
  have e1 : fieldAt wRec 0x24 4 = 0 := by decide +kernel
  have e2 : fieldAt wRec 0x23 1 = 0 := by decide +kernel
  have e3 : ((sampleAt wRec 0x100 0).take 28 != (sampleAt wRec 0x3300 0).take 28) = false := by decide +kernel
  have e4 : stopsAtRest wRec = true := by decide +kernel
  have e0 : draftForm false wRec (Sched.deadline ⟨0, 0, 33333333, 11666666⟩ 0) = true := by
    rw [show Sched.deadline ⟨0, 0, 33333333, 11666666⟩ 0 = 44999999 by decide]; exact wRec_form
  simp [e0, e1, e2, e3, e4, h7]

theorem witness_PathsAndPlans : every
    [runs (wSu {}) (dSupath 0) (wE 0 3 7 0 0) (do
       let (out, rmin, wps) ← smoothRead (wE 0 3 7 0 0) 0
       ask !smoothBad wps
       ask (((← get).xlate 0 out (64 * (wps.length - 1)) true).isSome && rmin == rmin)),
     runs (wSu {}) (dSupath 1) (wE 0 3 8 0 0) (do let a ← tscaleRead (wE 0 3 8 0 0) 0; ask !a.bad; let c ← get; ask (c.xlate 0 0x800000008000 32 true).isSome),
     runs (wSu wPlan) (dSuplan 0) (wE 0 3 4 0 0) (do
       let keys ← draftAt 0x800000000000 0
       ask (wDone ((← get).planPort 0 0 0 0 0 keys false).2)),
     runs wDraft (dSuplan 0) (wE 0 3 4 0 0) (do
       let keys ← draftAt 0x800000000000 0
       ask (keys == wKeys)
       ask (planReady (← get))),
     runs (wSu wPlan) (dSuplan 1) (wE 0 3 4 0 0) (do let keys ← draftAt 0x800000000000 0; ask (wDone ((← get).planPort 0 0 0 0 1 keys false).2)),
     runs (wSu wPlan) (dSuplan 1) (wE 0 3 4 9 0) (do let keys ← draftAt 0x800000000000 0; ask (((← ctxOf 0).rs 9) == 1 && wDone ((← get).planPort 0 0 0 0 2 keys false).2)),
     runs (wSu { exch := [⟨1, false, false, 0, 0, 0, true⟩] }) dSusync (wE 0 3 0 0 0) (do let c ← get; ask (!c.suDenied 0 && (c.ctx 0).chk.isNone && c.planOpen 0 0 0 != [])),
     runs (wSu {}) dSusync (wE 0 3 0 0 0) (do let c ← get; ask (!c.suDenied 0 && (c.ctx 0).chk.isNone && (c.suSt 0).exch.isEmpty)),
     (let c : Chip := { wSu { exch := [⟨1, false, false, 0, 0, 0, true⟩] } with islA := { ackOut := [(0, 1)] } }
      (c.isl .A).ackOut.contains (0, 1) && ((c.suSt 0).exch.find? fun q => q.seq == 1).isSome),
     ((((wSu { exch := [⟨1, false, false, 0, 0, 0, true⟩] }).at 20000).suSt 0).exch.find? fun q => q.seq == 1).any fun q => decide (q.sent + 20000 ≤ 20000),
     (let c := (wSu { wPlan with arm := some ⟨0, 0, 0, []⟩ }).at 100000000
      (c.planDeadline 0 0).any fun d => decide (d ≤ (c.localTime 0 : Int)) && decide (((c.suSt 0).enAt : Int) < d) && (c.suSt 0).passed.isNone && (c.suSt 0).sentF.isEmpty && bit (c.reg (suK 0 0x200)) 0),
     (let c : Chip := { wC with time := { fixed := true } }
      c.crossable 0 && c.schedule.isSome)] = true := by decide +kernel

/-- A descriptor of four FP32 elements, tagged, with a map of the partition's table (63: none). -/
def wTM (base smap : Nat) : BitVec 256 := wT base 0x0B 4 [4] - BitVec.ofNat 256 (63 * 2 ^ 58 + 2 ^ 56) + BitVec.ofNat 256 (smap * 2 ^ 58)

/-- A block whose partition's table holds a split map (0) and a replicated map (1), each of stable 0 alone, and a replicated map (2) of
    stable 1. -/
def wCo (p : Part := { wP with shard := 0x20000 }) : Chip :=
  { wC { wX with td := [(1, wTM 0x22000 63), (2, wTM 0 0), (3, wTM 0 1), (4, wTM 0 2)] } p with
    mem := wM [(0x20000, 8, 1 * 2 ^ 8 + 4 * 2 ^ 16), (0x20020, 8, 2 ^ 10 + 0x1000 * 2 ^ 16), (0x20400, 8, 8 + 1 * 2 ^ 8), (0x20420, 8, 2 ^ 10 + 0x2000 * 2 ^ 16),
      (0x20800, 8, 8 + 1 * 2 ^ 8), (0x20820, 8, 2 ^ 10 + 1 * 2 ^ 8 + 0x2000 * 2 ^ 16)] }

/-- Slot `k`'s context alone waits for the oldest instance. -/
def wAlone (c : Chip) (i : Coll) (k : Nat) : Bool :=
  let stb := k / 2
  [2 * stb, 2 * stb + 1].filter (fun k => (c.ctx k).part == i.part && (c.ctx? k).isSome) == [k] && c.core.saved.isEmpty && (c.ctx k).joins.isEmpty
    && (c.ctx (otherSlot k)).joins.isEmpty && (c.ctx k).wait == .coll i.inst && (c.ctx k).colls == [i.inst]

/-- The instance, whose sources verify, completes at stable 0, the first of its participants at which it does: it copies the shards. -/
def wCompletes (c : Chip) (i : Coll) (last : Bool) : Bool :=
  let sd := descOf i.tds
  let dd := descOf i.tdd
  let ss := c.shardsOf sd i.smap
  let c2 := c.sumsAgree i []
  let vals := ss.map fun x => (c2.1.shardElems i.part sd x).toArray
  let filled := (c2.1.shardsOf dd i.dmap).foldl (fun (q : Chip × List (Nat × Bool × Bool)) x =>
    let e := q.1.fillShard i.part i.sub dd ss vals ((c2.1.keyOf (i.members.headD 0)).getD 0) x
    (e.1, q.2 ++ [e.2])) (c2.1, [])
  let moved := filled.1.countShards filled.2
  c.logStb 0 == some 0 && c.core.colls == [i] && i.members.contains 0 && i.members.all (fun m => i.issued.contains m) && i.done == [] && c2.2 && moved.core.colls == [i]
    && wAlone moved i 0 && i.members.all (· == 0) == last

/-- The block of the source holds a tag that its contents meet. -/
def wTagged : Chip := { wCo with mem := { wCo.mem with tags := [(0x22, { crc := wCo.blockCrc 0x22 { prod := 0 }, prod := 0 })] } }

/-- The instance that RESHARD of TD1 into TD2 begins, one of two participants that has completed at neither, and the block in which
    the context waits. -/
def wOne : Coll := ⟨0, 0, 0, 5, 0, wTM 0 0, wTM 0x22000 63, [], wCo.bytesAt 0x20000 1024, [0], [0], []⟩

def wTwo : Coll := { wOne with members := [0, 1], issued := [0, 1] }

def wWaits (i : Coll) : Chip := { wTagged with core := { wTagged.core with slots := [(0, { wX with state := 3, wait := .coll 0, colls := [0] })], nextInst := 1, colls := [i] } }

/-- A block verifies when its slot, the one listed, holds the CRC of its contents. -/
theorem tagGood_of {b c : Chip} {blk : Nat} (he : b.mem.errs = []) (h : c.mem = { b.mem with tags := [(blk, { crc := b.blockCrc blk { prod := 0 }, prod := 0 })] }) : c.tagGood blk = true := by
  have hb : ∀ a n, c.bytesAt a n = b.bytesAt a n := by intro a n; unfold Chip.bytesAt; rw [h]; simp [he]
  have ht : c.tagOf blk = { crc := b.blockCrc blk { prod := 0 }, prod := 0 } := by
    unfold Chip.tagOf; rw [h]; simp [AMap.get, AMap.look]
  unfold Chip.tagGood
  rw [ht]
  unfold Chip.blockCrc
  rw [hb]
  simp [Tag.tail]

/-- A source of one shard in one good block verifies, which leaves the block as it is. -/
theorem verified {c : Chip} {i : Coll} {s : Shard} {b : Nat} (hs : c.shardsOf (descOf i.tds) i.smap = [s]) (good : c.tagGood b = true)
    (sense : senseEx (b * 4096) 4096 c = .ok ((), c))
    (only : ((((List.range s.rows).map fun r => (c.spotPieces i.part s.spot (s.rowOff (descOf i.tds) r) (s.rowBytes (descOf i.tds)) false).getD []).flatten).map fun q => q.1 / 4096).eraseDups = [b]) :
    c.verifySources i (c.shardsOf (descOf i.tds) i.smap) = (c, true) := by
  have one : ∀ stb, ([b].forM fun b => do senseEx (b * 4096) 4096; verify stb b : Ex PUnit) c = .ok ((), c) := by
    intro stb
    show ((do senseEx (b * 4096) 4096; verify stb b : Ex PUnit) >>= fun _ => pure ()) c = _
    simp only [ex_bind, sense, verify, good, if_true, ex_pure]
  rw [hs]
  unfold Chip.verifySources verifyShard
  simp only [ex_bind, ex_get, only, one]
  rfl

theorem wWaits_mem (i : Coll) : (wWaits i).mem = { wCo.mem with tags := [(0x22, { crc := wCo.blockCrc 0x22 { prod := 0 }, prod := 0 })] } := rfl

theorem wWaits_sense (i : Coll) : senseEx (0x22 * 4096) 4096 (wWaits i) = .ok ((), wWaits i) := by
  unfold senseEx Chip.sense
  rw [show (wWaits i).badWords (0x22 * 4096) 4096 = [] from rfl]
  rfl

/-- The sources of both instances verify. -/
theorem witness_CollectiveSources : ∀ i ∈ [wOne, wTwo], (wWaits i).verifySources i ((wWaits i).shardsOf (descOf i.tds) i.smap) = (wWaits i, true) := by
  intro i hi
  simp only [List.mem_cons, List.not_mem_nil, or_false] at hi
  obtain rfl | rfl := hi <;>
    exact verified (s := ⟨.dev 0x22000, [4], 0, 0⟩) rfl (tagGood_of (b := wCo) rfl (wWaits_mem _)) (wWaits_sense _) (by decide +kernel)

theorem witness_Collectives : every
    (([(0, 2, 1), (1, 3, 1), (2, 3, 2), (3, 2, 3)].map fun (q : Nat × Nat × Nat) =>
       runs wCo (dColl q.1) (wE 0 q.2.1 q.2.2 2 0) (do
         let (_, _, sm, dm) ← collCheck q.1 (wE 0 q.2.1 q.2.2 2 0) 0
         let c ← get
         let x := c.ctx 0
         ask (c.logStb 0 == some 0 && x.chk.isNone && (collMembers sm dm).contains 0 && c.planOpen 0 0 0 == [] && x.colls == []
           && (c.openColl 0 0 { lfc := x.lfc, id := 5, sub := q.1, tdd := x.td.get q.2.1 0, tds := x.td.get q.2.2 0, smap := sm, dmap := dm }).isNone && c.core.colls.isEmpty)))
     ++ [runs { wCo with core := { wCo.core with colls := [{ wTwo with issued := [1] }] } } (dColl 0) (wE 0 2 1 2 0) (do
           let (_, _, sm, dm) ← collCheck 0 (wE 0 2 1 2 0) 0
           let c ← get
           let q : CollReq := { lfc := (c.ctx 0).lfc, id := 5, sub := 0, tdd := wTM 0 0, tds := wTM 0x22000 63, smap := sm, dmap := dm }
           ask ((c.openColl 0 0 q).isNone && (c.core.colls.find? fun i => i.matches 0 q && !i.issued.contains 0).isSome)),
         runs (wCo { wP with shard := 0x20000, stables := 3 }) (dColl 1) (wE 0 4 1 2 0) (do
           let (_, _, sm, dm) ← collCheck 1 (wE 0 4 1 2 0) 0
           ask !(collMembers sm dm).contains 0),
         wCompletes (wWaits wOne) wOne true, wCompletes (wWaits wTwo) wTwo false,
         (let i := { wTwo with done := [1] }
          i.done != [] && wAlone (wWaits i) i 0 && i.members.all fun m => m == 0 || i.done.contains m)]) = true := by decide +kernel
/-! ## Registers and frames -/

/-- A state whose frames run: start(0) is 0, frame 1 has begun. -/
def wF (x : Ctx := wX) : Chip := { wC x with time := { now := 40000000, fixed := true, running := true, frame := 1 } }

theorem witness_RegisterWrites : every
    [(let k := dcuK 0x8020; (wC.target 0x5300008020 == .reg k) && wC.unmirror k == k && (wC.settleFor k).unmirror k == k && !wC.regGone k && regBad k 3 && (bar0Only .dcu 0x5300008020).isNone),
     (let k := dcuK 0x8024; wC.target 0x5300008024 == .reg k && regBad k 8),
     (let k := dcuK 0x8010; !regBad k 8 && (regRow k.whole).isSome && (regRow (dcuK 0x8018)).any fun r => r.acc == .ro),
     (regRow (dcuK 0x8108)).any fun r => r.acc == .wo && !r.ok 0,
     (let k := mbK 5 0x438; wC.target 0x5105000418 == .reg (mbK 5 0x418) && (regRow k).any fun r => r.acc == .ro),
     (regRow (mbK 5 0x418)).any fun r => r.acc == .rw && r.ok (2 ^ 64 - 1)] = true := by decide +kernel

theorem witness_FrameTimes : every
    [(wF.time.fixed && !wF.boot.held), (wF { wX with moveTo := some 1 }).ctx? 0 == some { wX with moveTo := some 1 }, wF.time.running && decide (0 < wF.time.frame)] = true := by decide +kernel

/-! ## Check blocks and heartbeats -/

/-- The stable in CHECKED mode. -/
def wK (x : Ctx) (g : ChkEng := {}) : Chip :=
  let c := wC x
  { c with regs := [(stbK 0 0xA0, 1)], core := { c.core with eng := [(0, g)] } }

theorem witness_CheckBlocks : every
    [runs wC dChkb (wE 0 0 0 0 0 0xFFFF) (do let c ← get; ask ((c.ctx 0).blk.isNone && !c.checkedMode 0)),
     runs (wK wX) dChkb (wE 0 0 0 0 0 0) (do let c ← get; ask ((c.ctx 0).blk.isNone && c.checkedMode 0 && ((c.desc? (c.ctx 0)).any fun d => decide (0 < d.pendPages)) && (c.eng 0).hb == 0)),
     runs (wK wX { hb := 1 }) dChkb (wE 0 0 0 0 0 0) (do let c ← get; ask ((c.ctx 0).blk.isNone && c.checkedMode 0 && (c.eng 0).hb == 1)),
     runs (wC { wXB with blk := some { wB with checked := false } }) dChke {} (do ask ((← ctxOf 0).blk.any fun b => !b.checked)),
     runs (wK wXB) dChke {} (do finishPass 0; ask ((← ctxOf 0).blk.any fun b => b.checked && b.state == 1)),
     runs (wK { wXB with blk := some { wB with state := 2 } }) dChke {} (do finishPass 0; ask ((← ctxOf 0).blk.any fun b => b.state == 2))] = true := by decide +kernel

/-- A block that waits for its arbiter, is being arbitrated, or commits. -/
def wA (b : Block) (two : Bool := false) : Chip :=
  let c := wK { wX with blk := some b, wait := .commit, state := 3 }
  if two then { c with parts := [(0, { wP with stables := 3 })], core := { c.core with on := [0, 1] }, regs := (stbK 1 0xA0, 1) :: c.regs } else c

theorem witness_CommitAndHeartbeat : every
    [(let c := wA { wB with state := 4 } true
      (c.arbiterOf 0 0).any fun a => c.atBoundary a),
     (let b : Block := { wB with state := 5, arbiter := some 1, arbDone := true }
      b.arb.sig == b.prim.sig),
     (let b : Block := { wB with state := 5, arbiter := some 1, arbDone := true, prim := { sigLo := 0 } }
      b.arb.sig != b.prim.sig && b.arb.sig == b.shad.sig),
     (let b : Block := { wB with state := 5, arbiter := some 1, arbDone := true, prim := { sigLo := 0 }, shad := { sigLo := 1 } }
      b.arb.sig != b.prim.sig && b.arb.sig != b.shad.sig),
     (match publishPages 0 0 [] [] (wA { wB with state := 6 }) with
      | .ok _ => true
      | .error _ => false),
     ((wK wX).at 100000000).checkedMode 0 && decide (bits ((wK wX).reg (stbK 0 0xA8)) 15 0 * 1000000 ≤ 100000000),
     (wK { wX with state := 3 } { hb := 1 }).hbFree 0, ((wK wX { hb := 2 }).eng 0).hb == 2,
     ({ wK wX { hb := 2 } with site := {} } : Chip).partOfStb 0 == none, (wK wX { hb := 2 }).partOfStb 0 == some 0] = true := by decide +kernel

/-! ## Synchronisation -/

/-- The context waits for the plan port: an exchange of its own is open. -/
def wOpen : Chip := { wC with su := [(0, { exch := [⟨1, false, false, 0, 0, 0, true⟩] })] }

theorem witness_EventsBarriersFence : every
    [runs wC (dEvt 0) (wE 0 0 2 0 0) (do ask ((← ctxOf 0).chk.isNone && (← get).planOpen 0 0 0 == [])), runs wC (dEvt 2) (wE 0 0 2 0 0) (do ask (← ctxOf 0).chk.isNone),
     runs (wC wXB) (dEvt 0) (wE 0 0 2 0 0) (hold 0 0x72 0 [5]),
     runs (wC wX { wP with flags := 2 ^ 5 }) (dEvt 1) (wE 0 0 2 0 0) (do let c ← get; ask (bit (c.part 0).flags 5)),
     runs wC (dEvt 1) (wE 0 0 2 0 0) (do let c ← get; ask !(bit (c.part 0).flags 5)), runs wC (dEvt 3) (wE 0 0 1 2 0) (do ask ((← ctxOf 0).chk.isNone && (← get).planOpen 0 0 0 == [])),
     runs wOpen (dEvt 0) (wE 0 0 2 0 0) (do ask ((← ctxOf 0).chk.isNone && (← get).planOpen 0 0 0 != [])),
     iruns wI (dEvt 0) (wE 0 0 2 0 0) (do let s ← iget .A; iask (s.blk.isNone && decide ((s.file.s.get 2 0).toNat < 7))),
     iruns wI (dEvt 2) (wE 0 0 2 0 0) (do let s ← iget .A; iask s.blk.isNone), wC.isHome 0 0, !wC.isHome 1 0,
     runs (wC wX { wP with bars := [(5, (7, 0, 1))] }) (dBar 0) (wE 0 3 2 0 0) (do ask (((← get).part 0).bar 5 == (7, 0, 1))),
     runs (wC wX { wP with bars := [(5, (7, 0, 2))] }) (dBar 0) (wE 0 3 2 0 0) (do ask (((← get).part 0).bar 5 == (7, 0, 2))),
     runs wC (dBar 0) (wE 0 3 2 0 0) (do ask (((← get).part 0).bar 5 == (0, 0, 0))),
     runs (wC wX { wP with bars := [(5, (6, 0, 2))] }) (dBar 1) (wE 0 0 2 2 0) (do ask (((← get).part 0).bar 5 != (5, 0, 2))),
     runs (wC wX { wP with bars := [(5, (5, 0, 2))] }) (dBar 1) (wE 0 0 2 2 0) (do ask ((((← get).part 0).bar 5).1 == 5)),
     runs wC dFence {} (pure ())] = true := by decide +kernel

theorem witness_WaitsAndLandings : every
    [runs { wC with time := { now := 5 } } dWaitt (wE 0 3 2 0 0) (do ask (decide (5 ≤ (← get).localTime 0))),
     runs wC dWaitt (wE 0 3 2 0 0) (do ask (decide ((← get).localTime 0 < 5))),
     (let c := (wC { wX with state := 3, wait := .time 100 3 }).at 100
      c.slotOf 0 0 == some 0 && decide (100 ≤ c.localTime 0) && ((c.resume 0).ctx 0).chk.isNone),
     (let c : Chip := ({ wC with core := { saved := [((0, 0), { wX with state := 3, wait := .time 100 3 })] } } : Chip).at 100
      c.slotOf 0 0 == none && (c.core.saved.look (0, 0)).isSome && (c.homeKey (c.descOf wX)).any fun k => decide (100 ≤ c.localTime (k / 4))),
     (let c : Chip := ({ wI with islA := { wI.islA with wait := .time 100 0 } } : Chip).at 100
      (c.isl .A).wait == .time 100 0 && decide (100 ≤ c.localTime (islDie .A))),
     runs wF (dLand 0) (wE 0 3 0 0 0) (do let c ← get; ask (c.time.running && decide (c.start 1 ≤ c.time.now))),
     runs wC (dLand 0) (wE 0 3 0 0 0) (do ask !(← get).time.running), runs wC (dLand 1) {} (do ask ((← ctxOf 0).blk.isNone && (← get).planOpen 0 0 0 == []))] = true := by decide +kernel

/-! ## Scenes, partitions, contexts and regulation -/

/-- The partition with its scene slot 7 retiring. -/
def wScene : Part := { wP with scenes := [(7, { ret := true, retAddr := 0x100, retEpoch := 1 })] }

theorem witness_ScenesAndScrub : every
    [wC.isHome 0 0, !wC.isHome 71 31,
     (let c := wC wX wScene
      ((c.part 0).scenes.get 7 {}).ret && c.sceneBusy 0 7 == 0),
     ({ wC with mem := { wb := [(5, 1)] } } : Chip).mem.wb.look 5 == some 1,
     (let c : Chip := { wC with regs := [(scrubKey 71, 0)] }
      !bit (c.reg (scrubKey 71)) 0),
     (let c : Chip := { wC with regs := [(scrubKey 71, 1)], mem := { scrubPos := [(71, hallWords - 2)] } }
      bit (c.reg (scrubKey 71)) 0 && c.scrubbed 71 && decide (c.mem.scrubPos.get 71 0 + 1 < hallWords)),
     (let c : Chip := { wC with regs := [(scrubKey 77, 1)] }
      bit (c.reg (scrubKey 77)) 0 && c.scrubbed 77 && decide (1 < stackWords))] = true := by decide +kernel

theorem witness_PartitionCommands : every
    [(let c : Chip := {}
      (c.part 31).state == 0 && c.createCheck 31 (c.readDraft 31 (bits (c.reg (dcuK (0x1000 + 31 * 0x20))) 47 9 * 512) 0) c.checkedMode false != 0),
     ((wC wX wP).part 0).state == 2, ((wC wX { wP with state := 5 }).part 0).state == 5, ((wC wX { wP with state := 3 }).part 0).state == 3,
     (wC.part 0).state == 2 && decide (16 ≤ (wC.part 0).func)] = true := by decide +kernel

/-- Bytes with fields (offset, bytes, value) on zeros. -/
def wBytes (n : Nat) (fs : List (Nat × Nat × Nat)) : List Byte :=
  fs.foldl (fun l f => l.take f.1 ++ leBytes f.2.1 f.2.2 ++ l.drop (f.1 + f.2.1)) (List.replicate n 0)

/-- The live map and the WCET table of partition 0 in an image: one context, one live page, 10,000 cycles at 312.5 MHz. -/
def wImg : List Byte := wBytes 0x88 [(0x10, 8, 0x20), (0x18, 4, 2), (0x20, 2, 7), (0x28, 8, 0x60), (0x30, 8, 8), (0x38, 8, 2 ^ 40), (0x40, 2, 8), (0x48, 8, 0x68), (0x50, 8, 32), (0x58, 8, 2 ^ 40),
  (0x60, 2, 1), (0x68, 8, 10000), (0x70, 4, 100), (0x74, 4, 312500)]

/-- A block that keeps that image, whose site 0 is active with a plan, and in whose DRAM a descriptor of partition 0 stands. -/
def wCreate : Chip :=
  { boot := { image := wImg }, site := { hallmap := [(0, 0)], state := [(0, 0)] }, regs := [(dcuK 0x1000, 0x100000), (dcuK 0x6090, 33333333 + 2000000 * 2 ^ 32)],
    pm := { plan := { sites := [(0, { valid := true, vtab := (List.range 8).map fun b => (16 * b, 2 ^ 10 + 800) })] } },
    mem := wM [(0x100000, 8, 0x54524150 + 0xFF * 2 ^ 40 + 1 * 2 ^ 48), (0x100008, 4, 1 + 1 * 2 ^ 16), (0x100010, 1, 1), (0x100058, 8, 0x200), (0x100060, 8, 0x240),
      (0x100100, 8, 0x200000), (0x100108, 8, 64 + 2 ^ 36 + 2 ^ 37 + 2 ^ 40), (0x100206, 2, 1), (0x100246, 1, 1), (0x100260, 8, 0x220000), (0x100270, 8, 0x200000), (0x100278, 4, 8)] }

/-- The sections and the context of that image and descriptor, as a block sees them. -/
def wKept (c : Chip) : Bool :=
  c.sects.map (fun s => (s.load, s.size)) == [(1099511627776, 8), (1099511627776, 32)] && c.sects.all (fun s => s.typ != 1) && (c.readDraft 0 0x100000 0).part.wins.all (fun w => !w.x)
    && (c.readDraft 0 0x100000 0).part.ctxs.map (fun d => (d.saveBase, d.savePages, d.pend, d.pendBase)) == [(0x200000, 8, (0x220000, 0), 0x220000)]

/-- The save area of the context meets no section, wherever the share of the partition begins (log 31). -/
theorem apart_of_kept {c : Chip} (h : wKept c = true) : c.ctxsApart (c.readDraft 0 0x100000 0).part.ctxs = true := by
  simp only [wKept, Bool.and_eq_true, beq_iff_eq] at h
  obtain ⟨⟨⟨hs, _⟩, _⟩, hc⟩ := h
  have all : (c.sects.all fun s => !Machine.overlap 0x200000 (8 * 4096) s.addr s.size) = true := by
    rw [List.all_eq_true]
    intro s h
    have := List.mem_map_of_mem (f := fun s : Sect => (s.load, s.size)) h
    rw [hs] at this
    simp only [List.mem_cons, List.not_mem_nil, or_false, Prod.mk.injEq] at this
    have far : ¬ s.addr < 0x200000 + 8 * 4096 := by
      show ¬ (Config.shareBase s.part + s.load < _)
      obtain ⟨hl, _⟩ | ⟨hl, _⟩ := this <;> rw [hl] <;> omega
    unfold Machine.overlap
    rw [decide_eq_false far, Bool.and_false]
    rfl
  obtain ⟨d, hx⟩ : ∃ d, (c.readDraft 0 0x100000 0).part.ctxs = [d] := by
    match hx : (c.readDraft 0 0x100000 0).part.ctxs, congrArg List.length hc with
    | [d], _ => exact ⟨d, rfl⟩
  rw [hx] at hc ⊢
  simp only [List.map_cons, List.map_nil, List.cons.injEq, Prod.mk.injEq, and_true] at hc
  obtain ⟨h1, h2, h3, h4⟩ := hc
  have areas : c.pendAreas d = [(0x220000, 0)] := by unfold Chip.pendAreas; rw [if_neg (by rw [h4]; decide), h3]
  simp only [Chip.ctxsApart, List.all_cons, List.all_nil, h1, h2, areas, all, pairs, List.map_nil, List.append_nil]
  decide

/-- No section holds code and no window is an execute window, so every section lies where its type must. -/
theorem sects_inWins {c : Chip} (h : wKept c = true) : ((c.sectsOf 0).all fun s => s.inWins (c.readDraft 0 0x100000 0).part) = true := by
  simp only [wKept, Bool.and_eq_true, beq_iff_eq, List.all_eq_true] at h
  obtain ⟨⟨⟨_, ht⟩, hw⟩, _⟩ := h
  rw [List.all_eq_true]
  intro s hs
  have h1 : s.typ ≠ 1 := by simpa using ht s ((List.mem_filter.mp hs).1)
  have hx : ∀ a, (c.readDraft 0 0x100000 0).part.execAt a = false := by
    intro a
    unfold Part.execAt
    rw [List.any_eq_false]
    intro w hin
    simp [by simpa using hw w hin]
  unfold Sect.inWins
  simp only [h1, if_false, Bool.not_eq_true', List.any_eq_false]
  intro a _
  rw [hx a]; exact Bool.false_ne_true

/-- The other checks of a descriptor. -/
def wChecks (c : Chip) (chk : Nat → Bool) (again : Bool) : Bool :=
  let d := c.readDraft 0 0x100000 0
  let q := d.part
  d.clean && ((stableList q.stables).all (c.stableFree 0) && q.landmap &&& q.stables == q.landmap)
    && ((q.func == 0xFF || (c.others 0).all fun o => o.func != q.func) && q.evq != 0 && (c.others 0).all fun o => o.evq != q.evq) && (q.wins.all fun w => w.placed q.stables && (!w.x || (w.r && !w.w))
      && (!w.w || ((c.others 0).all fun o => o.wins.all fun v => !Machine.overlap w.base (w.pages * 4096) v.base (v.pages * 4096))))
    && (q.ctxs.zip d.offs).all (fun x => c.ctxOk 0 q chk x.1 x.2) && (refusedJobs q (c.checkedOf chk q.stables).length == [] && (q.ctxs.zip d.offs).map Prod.fst == q.ctxs)
    && (stableList q.stables).all (c.admits q chk (if again then ceilDiv q.dataBytes 64 else 0) q.ctxs) && (!q.chkreq && c.figureOk q)
    && ((List.range 64).all fun h => !bit q.suhalls h || (bits q.stables (4 * h + 3) (4 * h) != 0 && (c.others 0).all fun o => !bit o.suhalls h)) && again == again

theorem createCheck_of {c : Chip} {chk : Nat → Bool} {again : Bool} (hk : wKept c = true) (h : wChecks c chk again = true) :
    c.createCheck 0 (c.readDraft 0 0x100000 0) chk again = 0 := by
  have ha := apart_of_kept hk
  have hs := sects_inWins hk
  simp only [wChecks, Bool.and_eq_true, beq_self_eq_true, and_true] at h
  obtain ⟨⟨⟨⟨⟨⟨⟨⟨h1, h2⟩, h3⟩, h4⟩, h5⟩, h6, h7⟩, h8⟩, h9, h10⟩, h11⟩ := h
  have skip : (if again = true then refusedJobs (c.readDraft 0 0x100000 0).part (c.checkedOf chk (c.readDraft 0 0x100000 0).part.stables).length else []) = [] := by
    rw [beq_iff_eq.mp h6]; split <;> rfl
  have hf : ∀ l : List (CtxDesc × Nat × Nat), (l.filter fun _ => true) = l := fun l => List.filter_eq_self.mpr fun _ _ => rfl
  have h4' : c.winsOk 0 (c.readDraft 0 0x100000 0).part = true := by
    unfold Chip.winsOk; rw [hs, h4]; rfl
  unfold Chip.createCheck
  simp only [Bool.not_eq_true'] at h9
  simp only [skip, List.contains_nil, Bool.not_false, hf, beq_iff_eq.mp h7, h1, h2.1, beq_iff_eq.mp h2.2, h3.1.1, h3.1.2, h3.2, h4', h5, ha, h8, h9, h10, h11, Bool.not_true, Bool.and_true, Bool.and_false, Bool.false_and, Bool.false_eq_true, if_false, beq_self_eq_true]

theorem witness_PartitionCreated :
    (wCreate.part 0).state = 0 ∧ (let n := wCreate.senseDraft (bits (wCreate.reg (dcuK (0x1000 + 0 * 0x20))) 47 9 * 512) 0
      n.createCheck 0 (n.readDraft 0 (bits (wCreate.reg (dcuK (0x1000 + 0 * 0x20))) 47 9 * 512) 0) n.checkedMode false = 0) := by
  refine ⟨by decide +kernel, ?_⟩
  rw [show bits (wCreate.reg (dcuK (0x1000 + 0 * 0x20))) 47 9 * 512 = 0x100000 by decide +kernel]
  exact createCheck_of (by decide +kernel) (by decide +kernel)

/-- A running partition whose reset is due with class 3 and whose descriptor is the one in DRAM; it has reset at these frames. -/
def wReset (st : Nat) (fs : List Nat) : Chip := { wCreate with parts := [(0, { wP with state := st, resetDue := some 3, descAddr := 0x100000, evq := 1, ctxs := [], jobs := [], resetFrames := fs })] }

/-- A first variant that passes is taken. -/
theorem first_variant {c : Chip} {d : Draft} {base : Nat} (hd : d = c.readDraft 0 base 0) (hu : (stableList d.part.stables).all (c.stableFree 0) = true)
    (hc : c.createCheck 0 d (fun k => c.checkedMode k && !((c.checkedOf c.checkedMode d.part.stables).length == 1)) true = 0) :
    (c.variants 0 base 8 0).find? (fun v => v.2 == 0) = some (d, 0) := by
  subst hd
  simp only [Chip.variants, hu, if_true, hc]
  rfl

theorem witness_ResetsOfPartitions : every
    [(let st := wC.stopPart 0
      (st.part 0).state == 2 && (st.part 0).resetDue == none),
     (let st := (wC wX { wP with resetDue := some 0 }).stopPart 0
      (st.part 0).state == 2 && (st.part 0).resetDue == some 0),
     (let st := (wC wX { wP with state := 3 }).stopPart 0
      (st.part 0).state == 3 && (st.part 0).resetDue == none),
     (((wC wX { wP with state := 5 }).stopPart 0).part 0).state == 5, (wC.part 0).resetDue == none,
     (let c := wC wX { wP with resetDue := some 4, state := 3, descAddr := 0x100000 }
      (((c.resetClear 0 4).variants 0 0x100000 8 0).find? fun v => v.2 == 0) == none),
     (let c := wC wX { wP with state := 3, reloading := true }
      (c.part 0).state == 3 && (c.part 0).reloading && (c.part 0).resetDue == none)] = true := by decide +kernel

/-- Resets of a running partition, the fourth in 1,000 frames and one that is the first. -/
theorem witness_ResetFourth : ∃ v, (((wReset 2 [0, 0, 0]).resetClear 0 3).variants 0 0x100000 8 0).find? (fun v => v.2 == 0) = some v ∧
    fourResets ((wReset 2 [0, 0, 0]).part 0).resetFrames ((List.range (((wReset 2 [0, 0, 0]).resetClear 0 3).variants 0 0x100000 8 0).length).foldl
      (fun c v => c.senseDraft 0x100000 v) ((wReset 2 [0, 0, 0]).resetClear 0 3)).curFrame = true :=
  ⟨_, first_variant rfl (by decide +kernel) (createCheck_of (by decide +kernel) (by decide +kernel)), by decide +kernel⟩

theorem witness_ResetTaken : ∃ v, (((wReset 2 []).resetClear 0 3).variants 0 0x100000 8 0).find? (fun v => v.2 == 0) = some v ∧
    fourResets ((wReset 2 []).part 0).resetFrames ((List.range (((wReset 2 []).resetClear 0 3).variants 0 0x100000 8 0).length).foldl
      (fun c v => c.senseDraft 0x100000 v) ((wReset 2 []).resetClear 0 3)).curFrame = false :=
  ⟨_, first_variant rfl (by decide +kernel) (createCheck_of (by decide +kernel) (by decide +kernel)), by decide +kernel⟩

/-- A block that prepares site 71, whose ports are up, and the ports of that site which are not up though their peer is alive. -/
def wSpare : Chip := { wC with spare := { site := 71, state := 1 }, yard := { ports := (portsOf 71).map fun p => (portKey 71 p, { state := 2 }) } }

def wDown (c : Chip) : List Nat := (portsOf 71).filter fun p => (c.port 71 p).state != 2 && c.peerAlive 71 p

theorem witness_SwitchesAndSpares : every
    [(let hi : Ctx := { wX with idx := 1, state := 5 }
      let c : Chip := { wC wX { wP with ctxs := [wD, { wD with job := 1, nacc := 16 }], jobs := [⟨0, 1, 0, 0, 1, 0, false⟩, ⟨1, 9, 0, 1, 1, 0, false⟩] } with core := { slots := [(0, wX)], saved := [((0, 1), hi)], on := [0] } }
      (c.chosen 0).any (fun e => e.2.2.contains 0) && (c.ctx 0).blk.isNone && !(c.hallPwr 0).idle),
     (let hi : Ctx := { wX with idx := 1, state := 5 }
      let c : Chip := { wC wX { wP with ctxs := [wD, { wD with job := 1, nacc := 12, ranges := [(1, 1, false)] }], jobs := [⟨0, 1, 0, 0, 1, 0, false⟩, ⟨1, 9, 0, 1, 1, 0, false⟩] } with core := { slots := [(0, wX)], saved := [((0, 1), hi)], on := [0] } }
      (c.chosen 0).any (fun e => e.2.2 == []) && !(c.residents 0).contains 1 && !(c.hallPwr 0).idle),
     (let c := wC { wX with saving := some 0 }
      (c.ctx 0).saving.isSome && (c.ctx 0).blk.isNone && !(c.hallPwr 0).idle),
     (wC.ctx? 0).any (fun x => x.state == 2 && decide ((wC.descOf x).cycles < 1001)),
     (wC.ctx? 0).any (fun x => x.state == 2 && decide (1000 ≤ (wC.descOf x).cycles) && decide (x.budget ≤ 1000)),
     (let c : Chip := { wC with spare := { state := 2 }, site := { state := [(71, 3)] } }
      c.spare.state != 1 && c.site.state.get 71 1 == 3),
     wSpare.spare.state == 1 && wDown wSpare == [] && wSpare.site.state.get 71 1 == 1,
     (let c : Chip := { wSpare with site := { state := [(71, 3)] } }
      c.spare.state == 1 && wDown c == [] && c.site.state.get 71 1 != 1)] = true := by decide +kernel

/-! ## Bandwidth regulation -/

/-- A request of master 0 of site 0 to stack 5, issued by partition 0 with a deadline. -/
def wReq : Req := { id := 7, owner := 0, master := 0, stack := 5, row := 0, dl := 4, line := 3, wr := false, bytes := 256 }

/-- A block whose base die 5 holds these requests. -/
def wRq (q : List Req) : Chip := { wC with rq := { flying := [wReq], back := [wReq], dies := [(5, { q := q })] }, regs := [(mbK 5 0x800, 1 + 3 * 2 ^ 32 + 100 * 2 ^ 4 + 1000 * 2 ^ 16)] }

theorem witness_BaseDieQueue : every
    [(let c := (wRq []).at 100
      (c.rq.flying.find? fun r => r.id == 7) == some wReq && ({ c with rq := { c.rq with flying := c.rq.flying.erase wReq } } : Chip).entryFor wReq == some 2),
     (let c := (wRq (List.replicate 3 { wReq with entry := 2 })).at 100
      (c.rq.flying.find? fun r => r.id == 7) == some wReq && ({ c with rq := { c.rq with flying := c.rq.flying.erase wReq } } : Chip).entryFor wReq == none),
     (let r : Req := { wReq with dl := 0, pri := 3 }
      let c := (wRq [r]).at 100
      c.pickReq 5 100 == some r && c.urgent r 100 == none),
     ((wRq []).at 100).pickReq 5 100 == none,
     (let c := (wRq []).at 100
      (c.rq.back.find? fun r => r.id == 7) == some wReq && decide (c.site.state.get wReq.owner 1 < 2)),
     (let c := ({ wRq [] with site := { state := [(0, 2)] } } : Chip).at 100
      (c.rq.back.find? fun r => r.id == 7) == some wReq && decide (2 ≤ c.site.state.get wReq.owner 1))] = true := by decide +kernel

/-- A block in which master 0 of site 0 holds a request back. -/
def wHeld (thr : Nat) : Chip := { wC with rq := { masters := [(0, { held := [wReq] })] }, regs := [(rqK 0 0x30, thr)] }

theorem witness_RegulationRequests : every
    [(let c : Chip := ({ wC with regs := [(rqK 0 0x30, 1)] } : Chip).at 100
      let q : Req := { id := 0, owner := 0, master := 0, stack := 5, row := c.rqRow 0 0 0, line := (0x35FFFFF / 6 * 4096 + 4095) / 256, wr := true, bytes := 256 }
      rqHas 0 0 && decide (0x35FFFFFFFF < 0x3600000000) && (c.rqm 0 0).held == [] && 0x35FFFFF % 6 == 5 && c.mayIssue q),
     (let c := (wHeld 1).at 100
      (c.rqm 0 0).held.any fun h => h.stack == 5),
     (let c : Chip := ({ wC with regs := [(rqK 0 0x30, 0)] } : Chip).at 100
      let q : Req := { wReq with stack := 0 }
      rqHas 0 0 && (c.rqm 0 0).held == [] && !c.mayIssue q),
     (let c := (wHeld 1).at 100
      ((c.rqm 0 0).held.find? fun r => r.stack == 5) == some wReq && c.mayIssue wReq),
     (let c := (wHeld 0).at 100
      ((c.rqm 0 0).held.find? fun r => r.stack == 5) == some wReq && !c.mayIssue wReq),
     (let c := ({ wHeld 1 with rq := { (wHeld 1).rq with owners := [(0, { tdm := 2 ^ 5 })] } } : Chip).at 0
      (c.rqm 0 0).held == [wReq] && (List.range 6).all (fun m => m == 0 || (c.rqm 0 m).held.isEmpty) && bit (c.rqo 0).tdm 5 && c.mayIssue wReq),
     (let c := (wHeld 1).at 100
      (List.range 6).all fun m => (c.rqm 0 m).held.all fun h => !bit (c.rqo 0).tdm h.stack),
     (let c := wC.at 100
      (List.range 6).all fun m => (c.rqm 0x4F m).held == []),
     (let c : Chip := ({ wC with regs := [(rqK 0x4F 0x18, 8)] } : Chip).at 100000
      rqHas 0x4F 3 && c.ch16 0x4F 3 && !c.ch16 0x4F 2 && decide ((c.rqm 0x4F 3).winAt + bits (c.reg (rqK 0x4F 0x38)) 15 0 * 100 ≤ 100000)),
     (let c : Chip := ({ wC with regs := [(rqK 0x4F 0x18, 8), (rqK 0x4F 0x38, 2)] } : Chip).at 199
      rqHas 0x4F 3 && c.ch16 0x4F 3 && decide (199 < (c.rqm 0x4F 3).winAt + bits (c.reg (rqK 0x4F 0x38)) 15 0 * 100))] = true := by decide +kernel

theorem witness_LevelFeedback : every
    [((wRq []).at 100).fben 5, !(({ wC with regs := [(mbK 5 0x800, 0)] } : Chip).at 100).fben 5,
     (let c := ({ wC with rq := { dies := [(5, { msgs := 1, lvl := 7 })] } } : Chip).at 100
      (c.baseQ 5).msgs != (c.rqo 71).seen.get 5 0 && decide (7 ≤ (c.baseQ 5).lvl)),
     (let c := ({ wC with rq := { dies := [(5, { msgs := 1, lvl := 6 })] } } : Chip).at 100
      (c.baseQ 5).msgs != (c.rqo 71).seen.get 5 0 && decide ((c.baseQ 5).lvl < 7)),
     (let c := (wRq []).at 4000
      !bit (c.rqo 71).tdm 5 && decide ((c.rqo 71).at'.get 5 0 + 4000 ≤ 4000)),
     (let c := ({ wC with regs := [(mbK 5 0x800, 0)] } : Chip).at 100
      !bit (c.rqo 71).tdm 5 && !c.fben 5),
     (let c : Chip := { wC with rq := { owners := [(71, { tdm := 2 ^ 5, run := [(5, 8)] })] } }
      bit (c.rqo 71).tdm 5 && decide (8 ≤ (c.rqo 71).run.get 5 0))] = true := by decide +kernel

/-! ## Islands and Loop Engines -/

/-- A block whose island B is up and has these fields. -/
def wIB (x : IslSt) (regs : AMap RegKey Nat := []) : Chip := { islB := x, regs := regs }

/-- A compare message of a sample at 100 µs. -/
def wMsg (outs : List (Nat × Nat) := []) : CmpMsg := { time := 100000, pmode := 1, cause := 0, frame := 1, seq := 1, badrun := 0, bad100 := 0, sp := [], outs := outs, dthold := false }

theorem witness_ControlAndComparePoints : every
    [(let c := (wIB { up := true, sampled := some 99999 } [(siK .B 8, 1)]).at 100000
      c.leSettle .B == c && c.islB.up && c.islB.sampled.all (fun u => decide (u < 100000)) && c.instant (islDie .B) (c.csp .B) == some 100000 && c.islB.trap == 0),
     (let c := (wIB { up := true, trap := 0x20 } [(siK .B 8, 31)]).at 3100000
      c.islB.up && c.islB.sampled.isNone && c.instant (islDie .B) (c.csp .B) == some 3100000 && c.islB.trap != 0 && !c.islB.safe),
     (let c := (wIB { up := true, trap := 0x20, safe := true } [(siK .B 8, 1)]).at 99980
      c.islB.up && c.islB.sampled.isNone && c.instant (islDie .B) (c.csp .B) == some 100000 && c.islB.trap != 0 && c.islB.safe),
     (let c := (wIB { up := true } [(siK .B 8, 1)]).at 50000
      c.instant (islDie .B) (c.csp .B) == none),
     (let c : Chip := { islA := { up := true, link := some wMsg }, islB := { up := true } }
      let d := c.updIsl .A fun y => { y with link := none }
      c.islA.link == some wMsg && d.islB.up && d.peerLink .B && d.islB.trap == 0 && !wMsg.dthold && !(d.updIsl .B fun y => { y with got := some wMsg }).islB.dthold),
     (let c := (wIB { up := true, sent := some wMsg } [(siK .B 8, 1)]).at 150000
      c.islB.sent == some wMsg && c.islB.up && c.islB.trap == 0 && decide (wMsg.time + c.csp .B / 2 ≤ 150000) && c.islB.got.isNone),
     (let x : IslSt := { up := true, sent := some (wMsg [(3, 0x3F800000)]), got := some (wMsg [(3, 0x3F800001)]) }
      let c := (wIB x [(siK .B 8, 1 + 5 * 2 ^ 24)]).at 150000
      c.islB.got == some (wMsg [(3, 0x3F800001)]) && (xcmpRuns x (wMsg [(3, 0x3F800000)]) (wMsg [(3, 0x3F800001)])).all fun e => decide (e.2 < bits (c.reg (siK .B 8)) 27 24)),
     (let m : CmpMsg := { wMsg with time := 200000 }
      m.time != wMsg.time)] = true := by decide +kernel

/-- An island with a schedule of 33,333,333 ns that decides frame 2 next. -/
def wDec (x : IslSt) : IslSt := { x with up := true, timed := true, fs := some ⟨0, 0, 33333333, 11666666⟩, decided := some 1 }

theorem witness_IslandPlansTimeStops : every
    [(let c : Chip := { wIB { up := true } [(siK .B 0x20, 2 ^ 16)] with site := { hallmap := [(0, 71)] } }
      c.hallOf 71 == some 0 && bits (c.reg (siK .B 0x20)) 7 0 == 0 && c.planCheck .B 3 == 7),
     (let c : Chip := { wIB { up := true } with site := { hallmap := [(1, 71)] } }
      c.hallOf 71 != some (bits (c.reg (siK .B 0x20)) 7 0)),
     (let c : Chip := { islA := { accOut := [(2, 1, 0xFFFFFFFF)] }, islB := { up := true } }
      c.islA.accOut == (2, 1, 0xFFFFFFFF) :: [] && (c.updIsl .A fun y => { y with accOut := [] }).islB.up && (c.updIsl .A fun y => { y with accOut := [] }).peerLink .B),
     (let c : Chip := { islA := { accOut := [(2, 1, 0xFFFFFFFF)] }, islB := { up := true }, yard := { ports := [(16 * islDie .A + 1, { state := 4 })] } }
      c.islB.up && !(c.updIsl .A fun y => { y with accOut := [] }).peerLink .B),
     (let c := (wIB { wDec { mine := [(2, (1, 9))] } with decided := none }).at 111666665
      c.islB.decided.isNone && c.islB.mine.all (fun e => decide (2 ≤ e.1)) && decide (c.islB.deadline 2 ≤ (c.localTime (islDie .B) : Int))),
     (let c := (wIB (wDec { mine := [(2, (1, 9))], peers := [(2, (1, 9))] })).at 111666665
      c.islB.fs.isSome && decide (c.islB.deadline 2 ≤ (c.localTime (islDie .B) : Int)) && c.islB.mine.look 2 == some (1, 9) && c.islB.peers.look 2 == some (1, 9)),
     (let c := (wIB (wDec { mine := [(2, (1, 9))], peers := [(2, (1, 8))] })).at 111666665
      c.islB.mine.look 2 != c.islB.peers.look 2),
     (let c := (wIB { up := true, timed := true }).at 100000
      !c.islB.dthold && decide (c.islB.timeAt + 100000 ≤ c.localTime (islDie .B))),
     (let c := (wIB { timeBack := some 5, dthold := true }).at 1000005
      c.islB.timeBack == some 5 && c.islB.dthold && decide (5 + 1000000 ≤ c.localTime (islDie .B))),
     (let c : Chip := { boot := { acting := 1 } }
      !c.boot.held && 0x4E != 0x4E + c.boot.acting && 0x4F == 0x4E + c.boot.acting),
     (let c : Chip := { wIB { timed := true, held := false } with boot := { acting := 1 }, yard := { ports := [(portKey 0x4F 8, { state := 2 })] } }
      decide (c.boot.acting < 2) && !c.boot.held && !c.islB.held && c.islB.timed && c.islLink .B && !c.islB.dthold && !c.islA.dthold),
     (let c : Chip := { wIB { timed := true, held := false } with islA := { dthold := true }, yard := { ports := [(portKey 0x4F 8, { state := 2 })] } }
      decide (c.boot.acting < 2) && !c.boot.held && !c.islB.held && c.islB.timed && c.islLink .B && c.islA.dthold),
     (wIB { pmode := 3 }).islB.pmode == 3,
     (let c := (wIB {} [(siK .B 0xA8, 1)]).at 100000
      decide (c.islB.wdtAt + bits (c.reg (siK .B 0xA8)) 15 0 * 100000 ≤ c.localTime (islDie .B))),
     (wIB { up := true }).islB.trap == 0,
     (let c : Chip := { wIB { ring := [.evt ⟨0, 0, 0, [], []⟩, .err {}] } with yard := { ports := [(16 * 0x4F + 8, { state := 2 })] } }
      c.linkHears .B),
     (wIB { ring := [.err {}] }).islB.ring == .err {} :: [], wI.islB.ring == []] = true := by decide +kernel

/-- A channel of island B that is due at 1 ms: period 1,000 µs, its bank's words 6, 7, 10 and 11 are limits. -/
def wLe (h : LeCh) (kind : Nat := 0) : Chip :=
  (wIB { up := true, le := [(31, h)] } [(leK .B 0, 1), (chK .B 31 0, 1000 * 2 ^ 32), (chK .B 31 8, kind)]).at 1000000

/-- Words of a bank: limits -1 and 1 for input and output. -/
def wLim : AMap Nat Nat := [(6, 0xBF800000), (7, 0x3F800000), (10, 0x3F800000), (11, 0xBF800000)]

/-- The measurement of channel 31 and whether it is inside its limits. -/
def wInside (c : Chip) : Bool :=
  let h := (c.isl .B).ch 31
  let w := h.word h.bankact
  let y := fadd32 (fmul32 (w 8) (c.leSource .B 31 (c.reg (chK .B 31 8)))) (w 9)
  !(!fin32 y || flt32 y (w 10) || flt32 (w 11) y)

theorem witness_LoopEngineAndIslandRegisters : every
    [(let c := wLe { st := 2 }
      c.islB.up && c.islB.trap == 0 && c.leOn .B && chPer (c.reg (chK .B 31 0)) != 0 && 1000000 / 1000 % chPer (c.reg (chK .B 31 0)) == chPhase (c.reg (chK .B 31 0))),
     (let c := wLe { st := 2 }
      c.leSettle .B == c && c.instant (islDie .B) 1000 == some 1000000 && !c.islB.safe && (c.islB.ch 31).last.isNone),
     ((wLe { st := 2 }).at 1000100).instant (islDie .B) 1000 == none, (wLe { st := 2, last := some 1000000 }).instant (islDie .B) 1000 == some 1000000,
     (let c := wLe { st := 4 }
      (c.islB.ch 31).st == 4),
     (let c := (wLe { st := 2 } 4).at 3000000
      c.srcLost .B (c.reg (chK .B 31 8)) (chPer (c.reg (chK .B 31 0))) 3000000),
     (let c := wLe { st := 2, words := wLim }
      !c.srcLost .B (c.reg (chK .B 31 8)) 1000 1000000 && !wInside c),
     (let c := wLe { st := 2 }
      wInside c && (c.islB.ch 31).limitsBad 0),
     (let c := wLe { st := 2, words := [(6, 0xBF800000), (7, 0x3F800000), (10, 0xBF800000), (11, 0x3F800000)] }
      wInside c && !(c.islB.ch 31).limitsBad 0),
     !(wIB { up := true }).leOn .B, (List.range 3).any (fun b => wI.islMay .B .dcu .w1s 0x18 (2 ^ b)),
     (let c := wIB { up := true } [(siK .B 8, 2 ^ 9)]
      let q := leK .B (0x1400 + 31 * 0x1000 + 0x400 + 4 * 127)
      !regBad q 4 && (regRow q.whole).any (fun r => r.acc == .rw && r.ok (setBits (c.live q.whole) (q.off % 8 * 8 + 31) (q.off % 8 * 8) 0x7F7FFFFF))
        && c.islMay .B (.isl .B) .rw q.off 0x7F7FFFFF && bankWord q.off == some (31, 1, 127))] = true := by decide +kernel

/-! ## Configuration, start-up and power -/

/-- A block whose configuration set has these fields. -/
def wCfg (g : CfgSt) (c : Chip := {}) : Chip := { c with cfg := [(.dcu, g)] }

theorem witness_StagedSets : every
    [(let c : Chip := {}
      (c.ctl .dcu).owner.isNone && reqCode (.fn 15) == 15 && reaches (.fn 15) .dcu), (wCfg { owner := some 3 }).ownsSet (.fn 3) .dcu, !reaches (.isl .A) .dcu,
     (let c := wCfg { owner := some 3 }
      !c.ownsSet (.fn 4) .dcu),
     (let c := wCfg { owner := some 16 }
      let k := dcuK 0x1810
      c.regAt .dcu 0x5300001810 == some k && c.unmirror k == k && k.whole == k && !regBad k 8 && (regRow k).any (fun r => r.acc == .ws && r.ok 0x27FFF)
        && (bar0Only .dcu 0x5300001810).isNone && c.target 0x5300001810 == .reg k && !c.regGone k && (c.ctl .dcu).state != 5),
     (regRow (dcuK 0x1810)).any (fun r => !r.ok 0x30000), (wCfg { owner := some 16, state := 5 }).ownsSet .dcu .dcu] = true := by decide +kernel

theorem witness_ConfigurationSets : every
    [(let c := wCfg { owner := some 16, state := 1 }
      c.ownsSet .dcu .dcu && (c.ctl .dcu).state != 5), (wCfg { state := 2 }).ctl .dcu == { state := 2 },
     (let c := wCfg { owner := some 16, state := 3, tick := 200000 }
      c.ownsSet .dcu .dcu && decide (c.ctlTime .dcu + 200000 ≤ (c.ctl .dcu).tick) && decide ((c.ctl .dcu).tick ≤ 60000000000)),
     (let c := wCfg { owner := some 16, state := 3, tick := 199999 }
      c.ownsSet .dcu .dcu && !decide (c.ctlTime .dcu + 200000 ≤ (c.ctl .dcu).tick)),
     (let c := wCfg { state := 5, mode := 1, armTo := 1000000, prepared := [.hall 71] }
      (c.armTick .dcu).isSome && (c.ctl .dcu).prepared.contains (unitBlk (.hall 71)) && !(c.ctl .dcu).acks.contains (unitBlk (.hall 71)) && c.site.state.get 71 1 != 3),
     (let c := (wCfg { state := 5, mode := 1, armTo := 1000000 }).at 980000
      c.armTick .dcu == some 1000000 && decide (1000000 ≤ c.ctlTime .dcu + 20000) && !(c.ctl .dcu).sent),
     (let c := (wCfg { state := 5, mode := 1, armTo := 1000000, prepared := [.dcu], acks := [.dcu], again := some ([], 0) }).at 990000
      let g := c.ctl .dcu
      c.armTick .dcu == some 1000000 && !g.sent && decide (1000000 ≤ c.ctlTime .dcu + 10000) && (g.again.getD (c.failing .dcu true)).1 == [] && (g.prepared.filter fun b => !g.acks.contains b) == []),
     (let c := (wCfg { state := 5, mode := 1, armTo := 1000000, prepared := [.dcu, .mb 5], again := some ([], 0) }).at 990000
      let g := c.ctl .dcu
      (g.prepared.filter fun b => !g.acks.contains b) == .dcu :: [.mb 5]),
     (let c := (wCfg { state := 5, mode := 1, armTo := 1000000, again := some ([1, 2], 0) }).at 990000
      ((c.ctl .dcu).again.getD (c.failing .dcu true)).1 == 1 :: [2]),
     (let c := (wCfg { state := 5, mode := 1, armTo := 1000000, sent := true }).at 1000000
      c.armTick .dcu == some 1000000 && (c.ctl .dcu).sent && (c.ctl .dcu).mode != 2),
     (let g := (wCfg { state := 4 }).ctl .dcu
      !g.sent && g.state != 5)] = true := by decide +kernel

theorem witness_ResetsAndIslandBoot : every
    [({ boot := { held := true } } : Chip).boot.held && !({ boot := { held := true } } : Chip).boot.rail, ({} : Chip).islB.held, !({ wI.islA with held := false } : IslSt).held && !wI.islA.timed,
     (let c : Chip := { wIB { held := false } with boot := { times := [(1, 5)] }, yard := { ports := [(portKey 0x4F 8, { state := 2 })] } }
      !c.islB.held && !c.islB.timed && !c.boot.held && c.islLink .B && c.boot.times.get 1 0 != 0),
     ({ islA := { notice := true, up := true } } : Chip).islA.notice] = true := by decide +kernel

/-- A block whose start-up has ended step `n`. -/
def wBoot (n : Nat) (rows : Nat := 0) : Chip := { boot := { step := n, rows := rows } }

theorem witness_StartUp : every
    [(wBoot 0).canEnd 2, (wBoot 1).canEnd 2, (wBoot 2).canEnd 3, (wBoot 3 7).canEnd 4, (wBoot 3 8).boot.rows == 8,
     ({ boot := { step := 3, rows := 8, tests := (List.range 72).map fun s => (s, 6) } } : Chip).passing == [], (wBoot 3 8).passing != [], (wBoot 4).canEnd 5, !(wBoot 5).canEnd 2, !(wBoot 3).canEnd 3, !(wBoot 3).canEnd 5,
     (wBoot 1).directory == none, !((wBoot 2).heard .A && (wBoot 2).heard .B) && ((wBoot 2).stepEnd 3).adopts.isNone, (wBoot 6).planStored == none,
     (wBoot 5).canEnd 6, (wBoot 6).canEnd 7, (wBoot 7).canEnd 8, (wBoot 8).canEnd 9, (wBoot 8).pkgBoot.canEnd 9 && (wBoot 8).pkgBoot.boot.image == [],
     (let c : Chip := { boot := { step := 8, image := [0, 0, 0, 0, 0, 0, BitVec.ofNat 8 capsMajor, 0] } }
      c.canEnd 9 && c.pkgBoot.canEnd 9 && c.pkgBoot.boot.image != [] && fieldAt c.pkgBoot.boot.image 6 2 == capsMajor),
     (let c : Chip := { boot := { step := 8, image := [0, 0, 0, 0, 0, 0, 0xFF, 0xFF] } }
      c.canEnd 9 && c.pkgBoot.canEnd 9 && c.pkgBoot.boot.image != [] && fieldAt c.pkgBoot.boot.image 6 2 != capsMajor),
     (let c := wBoot 9
      c.boot.step == 9 && !c.boot.held && !c.boot.halted && !c.time.fixed)] = true := by decide +kernel

theorem witness_StandbyAndKeys : every
    [(let c := ({ boot := { standby := true } } : Chip).at 500000
      c.boot.standby && decide (c.boot.ackAt + 500000 ≤ c.time.now) && decide (c.boot.gotAt + 500000 ≤ c.time.now)), !({} : Chip).boot.standby,
     (let b : BootSt := { fwslot := 1, fwkey := 3 }
      bit 8 b.fwkey && b.fwslot != 0 && !bit 7 b.fwkey)] = true := by decide +kernel

/-- A hall at this site and frame grant, with a settled voltage and a plan that allows every point. -/
def wHall (q : HallPwr) : Chip :=
  { pwr := [(71, { hotOk := true, frozen := some 15, vzone := 850, grant := 2000, prev := 2000, spentIn := 1, period := 1 } |> fun (d : HallPwr) => { d with point := q.point, spent := q.spent, lost := q.lost })],
    pm := { plan := { sites := [(71, { valid := true, vtab := (List.range 128).map fun n => (n, 2 ^ 11 + 2 ^ 10 + 800) })] } } }

/-- The energy check's comparisons at a hall and time. -/
def wPro (c : Chip) (site uj t : Nat) : Bool × Bool :=
  let q := c.hallPwr site
  let n := (t - 1) / 1000000
  let spent := (if q.spentIn = n then q.spent else 0) + uj
  let pro := (if n < q.period then q.prev else q.grant) * (t - n * 1000000)
  (decide (102 * pro < 100 * spent * 1000000), decide (100 * spent * 1000000 < 95 * pro))

theorem witness_PowerRegulation : every
    [(let c : Chip := ({} : Chip).at 1000000
      c.pm.cool != 2 && c.activeSites == [] && !c.pm.flowOk),
     (let c : Chip := ({ pm := { flowOk := true, reading := 499 } } : Chip).at 1000000
      c.pm.cool != 2 && c.pm.flowOk && decide (1000000 ≤ c.pm.flowAt + 10000000) && decide (c.pm.reading < 500)),
     (let c : Chip := { pm := { dieHot := [(8, 1)] } }
      c.pm.dieHot.get 5 0 == 0 && c.pm.dieHot.get (8 + 0) 0 != 0),
     (({} : Chip).at 1000000).periodKind 1000000 == 0,
     (let c := (wHall {}).at 5000000
      !(c.hallPwr 71).lost && decide ((c.hallPwr 71).period + 4 ≤ 5000000 / 1000000)),
     (let c : Chip := { pm := { zone := [(7, 850)] } }
      c.pm.zone.look 7 == some 850),
     (let c := (wHall { point := 1 }).at 1500000
      (wPro c 71 1021 1500000).1 && (c.hallPwr 71).point != 0 && c.pointOk 71 0), ((wHall { point := 0 }).hallPwr 71).point == 0,
     (let c := (wHall { point := 14 }).at 1500000
      let c1 := c.updPwr 71 fun x => { x with energy := (x.energy + 949) % 2 ^ 64, spent := 949, spentIn := 1 }
      !(wPro c 71 949 1500000).1 && (wPro c 71 949 1500000).2 && decide (15 ≤ c1.ceilOf 71) && c1.pointOk 71 15),
     (let c := (wHall { point := 15 }).at 1500000
      !(wPro c 71 949 1500000).1 && !decide ((c.hallPwr 71).point < 15))] = true := by decide +kernel

theorem witness_HeatAndAgeing : every
    [readingOk 2000 true && !readingOk 2401 true && !readingOk 1999 false,
     (let x : Sens := ({} : Sens).read 0 2000 true 5
      !bit x.sus 0 && x.temps.look 0 == some 2000 && bit (({} : Sens).read 1 2401 false 5).sus 1),
     (let c : Chip := ({} : Chip).at 10000000
      decide ((c.hallPwr 71).seen.get 3 0 + 10000000 ≤ 10000000) && decide ((c.sens 5).seen.get 3 0 + 10000000 ≤ 10000000)),
     (let c : Chip := ({ pwr := [(71, { pairD := true })] } : Chip).at 10000001
      !(c.hallPwr 71).pair && (c.hallPwr 71).pairD && decide ((c.hallPwr 71).pairT + 10000000 < 10000001)),
     (let c : Chip := ({ pm := { flowOk := true } } : Chip).at 9999999
      decide (9999999 < c.pm.coolAt + 1000000000) && c.pm.flowOk && decide (9999999 ≤ c.pm.flowAt + 10000000) && decide (0 < c.coolCfg.2.2)),
     (let c : Chip := {}
      c.pm.cool == 0 && decide (c.pm.flow < c.coolCfg.2.1)),
     (let c : Chip := ({ pm := { cool := 1 } } : Chip).at 60000000000
      c.pm.cool == 1 && decide (c.pm.degAt + 60000000000 ≤ 60000000000)),
     (let c : Chip := ({ pm := { cool := 1, okFrom := some 0 } } : Chip).at 60000000000
      c.pm.okFrom == some 0), (let c : Chip := { pm := { cool := 2, flow := 65535 } }
      c.pm.cool == 2 && decide (c.coolCfg.2.2 ≤ c.pm.flow)), ({} : Chip).pm.cool != 2,
     (let c : Chip := { site := { state := [(71, 0)] }, time := { running := true, fixed := true, frame := 27000 }, regs := [(dcuK 0x6090, 33333334 + 2000000 * 2 ^ 32)] }
      let t := c.start 27000 + 1999999
      let c := c.at t
      c.siteActive 71 && c.time.running && decide (c.start c.time.frame ≤ t) && decide (t < c.start c.time.frame + c.L) && decide ((c.planBase.sites.get 71 {}).measured + 15 ≤ c.minutes)),
     !(({} : Chip).siteActive 71), ({ pm := { planWrite := true } } : Chip).pm.planWrite,
     ({} : Chip).parts.all (fun q => q.2.state == 0), wC.parts.any (fun q => q.2.state != 0),
     (({ pm := { effEnd := some 5 } } : Chip).at 5).pm.effEnd == some 5] = true := by decide +kernel

/-! ## Logs, packages, links and the outside -/

/-- A record of a unit's class and address. -/
def wErr (cls addr : Nat) : ErrRec := { cls := cls, addr := addr }

theorem witness_ErrorLog : every
    [(let c : Chip := { log := { inbox := [wErr 0x10 5], merging := [wErr 0x10 5] } }
      c.log.inbox == wErr 0x10 5 :: [] && mergeable 0x10 && c.log.merging.any fun m => m.same (wErr 0x10 5)),
     (let c : Chip := { log := { inbox := [wErr 0x1B 5], merging := [wErr 0x1B 6], taken := 0 } }
      mergeable 0x1B && !(c.log.merging.any fun m => m.same (wErr 0x1B 5)) && decide (c.log.taken < c.errRate)),
     (let c : Chip := { log := { taken := 65535 } }
      !decide (c.log.taken < c.errRate)), !mergeable 0x11] = true := by decide +kernel

/-- A block whose fleet store holds package 7, and where a self-test slot of stable 0 is due in a landing. -/
def wPkg : Chip := { fleet := { pkgs := [{ id := 7, ver := 1, img := [] }] } }

def wSlot (run : Option (Nat × Nat)) (q : List StSlot) : Chip :=
  { time := { running := true, fixed := true, frame := 3 }, regs := [(dcuK 0x6090, 33333333 + 2000000 * 2 ^ 32)], rots := [(32, { queue := q, run := run })] }

theorem witness_PackagesAndSelfTest : every
    [wPkg.fleet.state != 1, ({ wPkg with fleet := { state := 1 } } : Chip).fleet.state == 1, wPkg.fleet.pkgs.any (fun x => x.id == 7), wPkg.fleet.pkgs.all (fun x => x.id != 8),
     (let q : StSlot := ⟨287, 0, 1⟩
      let c := (wSlot none [q]).at (100000000)
      let stop := c.start c.curFrame + c.L
      c.time.running && bit (c.reg (dcuK 0x3800)) 0 && (c.rot 32).queue == q :: [] && (c.rot 32).run.isNone && decide (c.time.now < stop) && c.stFree 287 && !c.stBusy 287),
     (let c := (wSlot (some (287, 100166667)) []).at 100166666
      (c.rot 32).run == some (287, 100166667) && decide (c.time.now < 100166667)),
     (let c := (wSlot (some (287, 100166667)) [⟨286, 1, 2⟩]).at 100166667
      let idle := c.updRot 32 fun r => { r with run := none }
      let freed : Chip := { idle with core := { idle.core with testing := idle.core.testing.filter (· ≠ 287) } }
      let off := ((freed.bump (stbK 287 0x188)).stSet 287 4 4 1).domainsOff [287]
      (c.rot 32).run == some (287, 100166667) && (off.rot 32).queue != [])] = true := by decide +kernel

/-- Zeros are no package, whatever the keys. -/
theorem witness_PackageRefused :
    ({ fleet := { state := 1 } } : Chip).fleet.state = 1 ∧ pkgReject 0 (({ fleet := { state := 1 } } : Chip).devRead 0 (pkgBytes (({ fleet := { state := 1 } } : Chip).devRead 0 128))) ≠ 0 := by
  refine ⟨rfl, ?_⟩
  rw [show ({ fleet := { state := 1 } } : Chip).devRead 0 (pkgBytes (({ fleet := { state := 1 } } : Chip).devRead 0 128)) = [] by decide +kernel]
  simp only [pkgReject]
  split
  · decide
  · rw [if_pos (by decide +kernel)]
    decide

/-- A header of an ordinary packet with this LSEQ. -/
def wHdr (lseq data : Nat) : BitVec 256 := BitVec.ofNat 256 (lseq * 2 ^ 128 + data * 2 ^ 17)

/-- A block with the ends of a link: port 1 of site 0 and port 3 of site 1. -/
def wLink (x y : Port) (extra : Chip := {}) : Chip := { extra with yard := { extra.yard with ports := [(1, x), (16 * 1 + 3, y)] } }

theorem witness_Links : every
    [(let c := wLink { state := 2, replay := [⟨(wHdr 65535 0).toNat, []⟩] } { acks := [(false, 65535)] }
      (c.port 0 1).state == 2 && c.peerSent 0 1 false 65535 && (((c.heardAt 0 1).peerLeft 0 1 false 65535).port 0 1).replay.any fun k => k.lseq == 65535),
     (let c := wLink { state := 2 } { acks := [(false, 65535)] }
      (c.port 0 1).state == 2 && c.peerSent 0 1 false 65535 && !((((c.heardAt 0 1).peerLeft 0 1 false 65535).port 0 1).replay.any fun k => k.lseq == 65535)),
     !(wLink { state := 2 } { acks := [(true, 65535)] }).peerSent 0 1 false 65535,
     (let c := (wLink { state := 2 } { state := 2 }).at 256
      (c.port 0 1).state == 2 && decide ((c.port 0 1).txAt + 256 ≤ 256) && peerOf 0 1 == some (1, 3) && ((c.updPort 0 1 fun x => { x with txAt := 256 }).port 1 3).state == 2),
     (let c := (wLink { state := 2, replay := [⟨(wHdr 9 0).toNat, []⟩], nak := 9, nakRun := 6 } { acks := [(true, 9)] }).at 1
      let z := ((c.heardAt 0 1).peerLeft 0 1 true 9).port 0 1
      (c.port 0 1).state == 2 && c.peerSent 0 1 true 9 && z.replay.any (fun k => k.lseq == 9) && z.nakRun + 1 != 8),
     (let c := (wLink { state := 2, replay := [⟨(wHdr 9 0).toNat, []⟩], nak := 9, nakRun := 7 } { acks := [(true, 9)] }).at 1
      let z := ((c.heardAt 0 1).peerLeft 0 1 true 9).port 0 1
      c.peerSent 0 1 true 9 && z.replay.any (fun k => k.lseq == 9) && z.nakRun != 0 && z.nak == 9 && z.nakRun + 1 == 8),
     !(wLink { state := 2 } { acks := [(false, 9)] }).peerSent 0 1 true 9,
     (let c := (wLink { state := 2 } { wait := [⟨(wHdr 8 0).toNat, []⟩] }).at 1
      (c.port 0 1).state == 2 && (c.wasSent 0 1 ⟨(wHdr 9 0).toNat, []⟩).isNone && peerOf 0 1 == some (1, 3)),
     (let c := (wLink { state := 2, rxSeq := 65535 } {}).at 1
      (c.port 0 1).state == 2 && (c.wasSent 0 1 ⟨(wHdr 65535 8).toNat, List.replicate 8 0⟩).isSome && hdrOk (wHdr 65535 8).toNat && bits (wHdr 65535 8).toNat 20 17 == 8 && bits (wHdr 65535 8).toNat 143 128 == (c.port 0 1).rxSeq),
     (List.replicate 9 0).all (fun e => !isUE e), isUE (1 + 2 ^ 8), bits (wHdr 3 0).toNat 143 128 != 0, !hdrOk (BitVec.ofNat 256 (2 ^ 63)).toNat,
     (let c := (wLink { state := 2 } {}).at 2000
      (c.port 0 1).state == 2 && !(c.port 0 1).told && decide ((c.port 0 1).rxAt + 2000 ≤ 2000)),
     (let c := (wLink { state := 2, groups := [[143]], win := [(143, 65535)], failed := [143] } {}).at 999999
      let x := c.port 0 1
      x.state == 2 && x.winAt / 1000000 == 999999 / 1000000 && decide (c.lthr 0 1 ≤ x.win.get 143 0) && x.groups.any (fun g => g.contains 143) && x.spares == []),
     (let c := (wLink { state := 2, groups := [[143]], win := [(143, 1024)], failed := [142] } {}).at 999999
      decide (c.lthr 0 1 ≤ (c.port 0 1).win.get 143 0) && !(c.port 0 1).failed.contains 143 && (c.port 0 1).spares == []),
     (let c := (wLink { state := 2, groups := [[143]], win := [(143, 1024)], spares := [144] } {}).at 999999
      let x := c.port 0 1
      x.state == 2 && decide (c.lthr 0 1 ≤ x.win.get 143 0) && x.spares.zipIdx.find? (fun r => (x.steer.look r.2).isNone) == some (144, 0) && peerOf 0 1 == some (1, 3)),
     ((wLink { state := 4 } {}).port 0 1).state == 4,
     (let c := (wLink { state := 3 } {}).at 20001
      (c.port 0 1).state == 3 && peerOf 0 1 == some (1, 3) && decide ((c.port 0 1).reAt + 20000 < 20001)),
     (let c := (wLink { state := 3 } {}).at 20000
      let y := (c.port 0 1).train (narrow 0 1) (ioPort 0 1) (c.wmax 0 1) fun l => !([143] : List Nat).contains l
      decide (20000 ≤ (c.port 0 1).reAt + 20000) && y.state != 4),
     (let c := wLink { state := 4 } {}
      (portsOf 0).any (fun p => (c.port 0 p).state == 4) && decide (c.site.state.get 0 1 < 2)),
     ({ yard := { due := some 5 } } : Chip).yard.due == some 5] = true := by decide +kernel

/-- A started host command of this kind. -/
def wCmd (n : Nat) (daddr : Nat := 0x20000) (len : Nat := 8) : HostCmd := { opc := n, flags := 2, cid := 65535, len := len, haddr := 0x1000, daddr := daddr, value := 3 }

/-- A block with such commands in queue 3 of function 15, which is bound to partition 0. -/
def wHost (l : List HostCmd) : Chip := { wC wX { wP with func := 15 } with io := { cmds := [(63, l)] } }

/-- The first started command of a kind. -/
def wFirst (c : Chip) (n : Nat) : Bool := ((startedCmds (c.hostCmds 15 3)).find? fun y => y.opc == n && y.cid == 65535 && y.done.isNone).isSome

theorem witness_HostPort : every
    [(let c := wHost []
      c.fnMay 15 (c.bar2Addr 15 0x20000) 8 false && (c.busRead (c.bar2Addr 15 0x20000) 8).2.2 != .unmapped), !(wHost []).fnMay 14 0x20000 8 false,
     (let c : Chip := { wHost [] with regs := [(dcuK 0xA000, 0x60 * 2 ^ 32)] }
      (c.busRead (c.bar2Addr 0 0xFFFFFFFFF) 1).2.2 == .unmapped),
     ((wHost []).hostWrite 15 0x20000 [1]).2 != .unmapped, ((wHost []).hostWrite 15 0x10000 [1]).2 == .unmapped,
     (let c : Chip := { wHost [] with regs := [(dcuK 0xA008, 0x5300000000)] }
      c.target (c.winAddr 0 0 0x6090) == .reg (dcuK 0x6090)),
     (let c : Chip := { wHost [] with regs := [(dcuK (0xA000 + 15 * 0x100 + 0x40 + 32 * 3 + 8), 4 + 2 ^ 8), (dcuK (0xA000 + 15 * 0x100 + 0x40 + 32 * 3 + 0x10), 1)] }
      !decide ((15 + 65536 - c.io.heads.get 63 0) % 65536 ≥ 2 ^ bits (c.reg (dcuK (0xA000 + 15 * 0x100 + 0x40 + 32 * 3 + 8))) 4 0)
        && decide ((16 + 65536 - c.io.heads.get 63 0) % 65536 ≥ 2 ^ bits (c.reg (dcuK (0xA000 + 15 * 0x100 + 0x40 + 32 * 3 + 8))) 4 0)
        && bit (c.reg (dcuK (0xA000 + 15 * 0x100 + 0x40 + 32 * 3 + 8))) 8 && c.io.heads.get 63 0 != c.reg (dcuK (0xA000 + 15 * 0x100 + 0x40 + 32 * 3 + 0x10))),
     wFirst (wHost [wCmd 1]) 1, wFirst (wHost [{ wCmd 1 with gone := true }]) 1, wFirst (wHost [wCmd 4]) 4 && (wHost [wCmd 4]).boundPart 15 == some 0, wFirst (wHost [wCmd 2]) 2,
     wFirst (wHost [wCmd 3 0x20000000]) 3 && !(wHost []).fnMay 15 0x20000000 8 false,
     (let c := wHost [wCmd 3]
      wFirst c 3 && c.fnMay 15 0x20000 8 false && c.busPieces 0x20000 8 == [(0x20000, 8)] && (c.busRead 0x20000 8).2.2 == .ok),
     wFirst (wHost [wCmd 5 0x400E400010]) 5 && (wHost []).cmdReg 15 0x400E400010, wFirst (wHost [wCmd 5]) 5 && !(wHost []).cmdReg 15 0x20000, wFirst (wHost [wCmd 6]) 6, wFirst (wHost [wCmd 7]) 7,
     (let c := wHost [{ wCmd 4 with done := some 0 }]
      (startedCmds (c.hostCmds 15 3)).any fun y => y.cid == 65535 && y.done.isSome && bit y.flags 1 && !y.quiet),
     (let c := wHost [{ wCmd 4 with flags := 0, done := some 0 }]
      (startedCmds (c.hostCmds 15 3)).any fun y => y.cid == 65535 && !bit y.flags 1 && y.done == some 0)] = true := by decide +kernel

/-- A block whose event queue 63 is enabled with 16 slots. -/
def wEvq (l : LogSt) : Chip := { log := l, regs := [(evqK 63 8, 4 + 2 ^ 8 + 1 * 2 ^ 16)] }

theorem witness_EventQueues : every
    [(let r : Nat × EvtRec := (63, ⟨1, 0, 0, [], []⟩)
      let c := wEvq { outbox := [r] }
      (c.log.outbox.find? fun r => r.1 == 63) == some r),
     (let c : Chip := { log := { pidx := [(63, 0)], cidx := [(63, 4294967295)] } }
      c.evqMay (.fn 0) 63 && decide ((0 + 2 ^ 32 - (c.evqIdx 63).2) % 2 ^ 32 ≤ c.evqUsed 63) && !bit (c.reg (evqK 63 8)) 8),
     (let c := wEvq { pidx := [(63, 1)] }
      c.evqMay .dcu 63 && decide (c.evqUsed 63 < (2 + 2 ^ 32 - (c.evqIdx 63).2) % 2 ^ 32)),
     (let c := (wEvq { times := [(63, [0])] }).at 5
      c.log.times.get 63 [] == 0 :: [] && bit (c.reg (evqK 63 8)) 8 && decide (0 + bits (c.reg (evqK 63 8)) 47 32 * 1000 ≤ c.time.now)),
     (let cfg := Nat.land (setBits (16 + 2 ^ 8 + 65535 * 2 ^ 16) 8 8 1) (evqMask 63)
      bit cfg 8 && !bit (({} : Chip).reg (evqK 63 8)) 8 && decide (4 ≤ bits cfg 4 0) && decide (bits cfg 4 0 ≤ 16) && bits cfg 31 16 != 0),
     !({} : Chip).evqMay (.isl .A) 63] = true := by decide +kernel

/-- A block whose camera channel 31 of I/O die 1 is on with this many lines per slot. -/
def wCam (lps : Nat) (x : Chan := {}) : Chip := { regs := [(ichK 1 31 0, 1 + lps * 2 ^ 32)], io := { chans := [(64 + 31, x)] } }

/-- A block whose channel 53 of I/O die 1 can be enabled: its ring header has 16 slots of 128 bytes in an ASYNC window of partition 0. -/
def wRing : Chip :=
  { wC wX { wP with wins := [⟨0x20000, 16, true, true, false, true⟩] } with mem := wM [(0x20008, 4, 16), (0x2000C, 4, 128)], regs := [(ichK 1 52 8, 0x20000)] }

theorem witness_Ingest : every
    [bit (((wCam 1).at 5).reg (ichK 1 31 0)) 0,
     (let c := (wCam 1).at 5
      let lined := c.updChan 1 31 fun x => { x with line := x.line + 1 }
      decide (bits (lined.reg (ichK 1 31 0)) 47 32 ≤ 1)),
     (let c := (wCam 2).at 5
      !decide (bits (c.reg (ichK 1 31 0)) 47 32 ≤ 1)),
     (let c : Chip := { regs := [(iodK 1 0x0305000, 1), (iodK 1 (0x0310008 + 16 * 15), 2 ^ 15 + 2 ^ (16 + 5))] }
      bit (c.reg (iodK 1 (0x0300000 + 0x1000 * 5))) 0 && ((List.range 16).find? fun k => c.ethMatch 1 5 k []) == some 15),
     (let c : Chip := { regs := [(iodK 1 0x0305000, 1)] }
      ((List.range 16).find? fun k => c.ethMatch 1 5 k []) == none),
     (let r : CanRef := .iod 1 3
      let c : Chip := { regs := [(canK r 0, 2), (canK r (0x100 + 32 * 15), 2 ^ 31 + 0x7FF + 0x7FF * 2 ^ 32)] }
      bits (c.reg (canK r 0)) 1 0 == 2 && (List.range 16).any fun s => c.canMatch r s 0x7FF false),
     (let r : CanRef := .iod 1 3
      let c : Chip := { regs := [(canK r 0, 1)] }
      bits (c.reg (canK r 0)) 1 0 == 1 && !(List.range 16).any fun s => c.canMatch r s 0x7FF false),
     (let c := wCam 1
      bit (c.reg (ichK 1 31 0)) 0 && decide (((c.chan 1 31).pidx + 2 ^ 32 - leNat (c.devRead (c.ringAddr 1 31 + 4) 4)) % 2 ^ 32 ≤ (c.chan 1 31).nslot)),
     (let c := wRing
      let cfg := Nat.land (setBits (16 * 2 ^ 8) 0 0 1) (maskOf 1 0 + maskOf 28 8 + maskOf 47 32)
      let hdr := c.devRead (c.ringAddr 1 52) 64
      let size := 64 + 128 * fieldAt hdr 8 4
      !bit (c.reg (ichK 1 52 0)) 0 && !bit cfg 1 && (c.part (bits cfg 28 24)).held && (c.part 0).inWin (c.ringAddr 1 52) size (fun w => w.r && w.w && w.async) && fieldAt hdr 8 4 == 16 && fieldAt hdr 0xC 4 == 128
        && decide (bits cfg 23 8 ≤ 16) && !blockRing 52),
     (let c : Chip := { wRing with regs := [(ichK 0 53 8, 0x20000)] }
      let cfg := Nat.land (setBits (16 * 2 ^ 8) 0 0 1) (maskOf 1 0 + maskOf 28 8 + maskOf 47 32)
      !bit (c.reg (ichK 0 53 0)) 0 && !bit cfg 1 && (c.part 0).inWin (c.ringAddr 0 53) (64 + 128 * 16) (fun w => w.r && w.w && w.async) && decide (bits cfg 23 8 ≤ 16) && !blockRing 53),
     decide (54 ≤ (63 : Nat))] = true := by decide +kernel

theorem witness_CanSentTimeFlash : every
    [(let r : CanRef := .isl .B 1
      let c : Chip := { regs := [(canK r (0x310 + 32 * 15), 1000)] }
      bits (c.reg (canK r (0x310 + 32 * 15))) 31 0 != 0 && bits ((c.setReg (canK r (0x308 + 32 * 15)) 5).reg (canK r (0x310 + 32 * 15))) 31 0 != 0),
     ({} : Chip).settleFor (canK (.isl .B 1) 0) == {}, bits (({} : Chip).reg (canK (.isl .B 1) (0x310 + 32 * 15))) 31 0 == 0 && bits ((({} : Chip).setReg (canK (.isl .B 1) (0x308 + 32 * 15)) 5).reg (canK (.isl .B 1) (0x310 + 32 * 15))) 31 0 == 0,
     (let c : Chip := ({ regs := [(iodK 0 0x0600000, 2 ^ 24), (iodK 0 0x0600008, 0x41200000), (iodK 0 0x0600010, 0x3F800000)] } : Chip).at 5
      let read : Chip := { c with pm := { c.pm with reading := 20000, flowOk := true, flowAt := c.time.now, coolAt := c.time.now } }
      bit (c.reg (iodK 0 0x0600000)) 24 && c.sentValue 0x0600008 2000 == some 20000 && read.sentValue 0x0600010 2400 == some 2400),
     !bit (({} : Chip).reg (iodK 0 0x0600000)) 24,
     (let c : Chip := ({ regs := [(dcuK 0xB000, 1)] } : Chip).at 5
      c.timeSrc == 1 && !c.boot.die0 && decide (1000000 < (1000001 : Int).natAbs) && decide ((-1000000 : Int).natAbs ≤ 1000000)),
     ({} : Chip).timeSrc != 1,
     (let c : Chip := ({ regs := [(dcuK 0xB000, 2 + 11 * 2 ^ 4), (iodK 1 0x0305000, 5)] } : Chip).at 5
      let mac := c.reg (iodK (11 / 6) (0x0300000 + 0x1000 * (11 % 6)))
      c.timeSrc == 2 && bits (c.reg (dcuK 0xB000)) 7 4 == 11 && bit mac 0 && bit mac 2),
     (let c : Chip := ({ io := { lock := true } } : Chip).at 2000000000
      c.io.lock && decide (c.io.refAt + 2000000000 ≤ c.time.now)),
     (let c : Chip := {}
      !c.boot.die0 && c.io.fstate != 1 && !c.flashGuard c.flashAddr),
     (let c : Chip := { boot := { fwslot := 1, prot := [(0x20000, 4096)] }, regs := [(iodK 0 0x0800008, 0x20000)] }
      c.flashGuard c.flashAddr), ({ io := { fstate := 1 } } : Chip).io.fstate == 1,
     [1, 2, 3].all (fun n => ({ io := { fcmd := some (n, 0x20000) } } : Chip).io.fcmd == some (n, 0x20000))] = true := by decide +kernel

theorem witness_BoardIo : every
    [({} : Chip).target 0x5300000000 == .reg (dcuK 0), !({} : Chip).boot.die0,
     (let c := ({} : Chip).at 10000000
      !c.io.silent.contains 13 && decide (c.io.pmbAt.get 13 0 + 10000000 ≤ c.time.now)),
     ({ boot := { rail := true } } : Chip).boot.rail, !({} : Chip).boot.rail,
     (let c : Chip := { regs := [(sioK .B 0x300, 2 ^ 16 + 16)] }
      bit (c.reg (sioK .B 0x300)) 16 && decide (15 < bits (c.reg (sioK .B 0x300)) 7 0)), !bit (({} : Chip).reg (sioK .B 0x300)) 16,
     (let c : Chip := { boot := { step := 3 } }
      !c.boot.held && c.boot.acting != 1 && !c.boot.standby)] = true := by decide +kernel

/-! ## The whole block -/

theorem witness_MemoryCanonical : State.reset.memOk = true ∧ (wS { wC with mem := wM [(0x20000, 8, 5)] }).memOk = true := by decide +kernel

theorem witness_StepTakesTheFront : State.reset.pending = [] := by decide

theorem witness_RegisterFiles : (1 : Nat) ≠ 0 ∧ (31 : Nat) ≠ 1 ∧ (15 : Nat) < 16 := by decide

theorem witness_WordCode : every
    [(List.replicate 32 (0xFF : Byte)).length == 32, decide (35 < 36), decide (0 < 255), decide (255 < 256),
     ({ mem := { errs := [(1, 255 * 2 ^ (8 * 35))] } } : Chip).mem.errs.get (32 / 32) 0 == 255 * 2 ^ (8 * 35),
     ((symbols (1 + 255 * 2 ^ 280)).filter (· ≠ 0)).length == 2, ((symbols (1 + 3 * 2 ^ 128 + 255 * 2 ^ 280)).filter (· ≠ 0)).length == 3] = true := by decide +kernel

theorem witness_StairPositions : 71 < 72 ∧ 71 / 9 % 2 ≠ 0 ∧ 0 / 9 % 2 = 0 := by decide

theorem witness_CancelArmedSet : every
    [(let c := wCfg { owner := some 16, state := 5, mode := 1, armTo := 1000000 }
      c.ownsSet .dcu .dcu && (c.ctl .dcu).state == 5 && c.armTick .dcu == some 1000000 && decide (c.ctlTime .dcu + 20000 < 1000000)),
     (let c := (wCfg { owner := some 16, state := 5, mode := 1, armTo := 1000000 }).at 980000
      c.ownsSet .dcu .dcu && c.armTick .dcu == some 1000000 && decide (1000000 ≤ c.ctlTime .dcu + 20000)),
     (let c := wCfg { owner := some 16, state := 3 }
      c.ownsSet .dcu .dcu && (c.ctl .dcu).state != 5)] = true := by decide +kernel

theorem witness_PackagesRefused : every
    [({ fleet := { state := 1 } } : Chip).fleet.state == 1, wPkg.fleet.pkgs.all fun p => p.id != 8, (({} : Chip).log.slots.look (({} : Chip).reg (dcuK 0x8020))).isNone] = true := by decide +kernel
end Sys2Proof.Tests
end

/-! SUPPORT and PROOFS. Register accesses by device address (R4, R6, R7): where a master's access goes, and how the general row of a register answers a write. -/

namespace Sys2Proof.Machine

/-! ## Where an access of a master other than an island goes -/

/-- A write whose device address names a register in reach is the general write of that register. -/
theorem registerWrite_of_reg {c : Chip} {m : Master} {a : Nat} {k : RegKey} (hbar : bar0Only m a = none) (hm : ∀ i, m ≠ .isl i)
    (ht : c.target a = .reg k) (hg : c.regGone k = false) (wide : Bool) (v : Nat) :
    c.registerWrite m a wide v = c.regWrite m k (if wide then 8 else 4) v := by
  cases m with
  | isl i => exact absurd rfl (hm i)
  | dcu => simp [Chip.registerWrite, hbar, ht, hg]
  | fn f => simp [Chip.registerWrite, hbar, ht, hg]

/-- An access that R7 answers with zero or discards, at a device address that names a register in reach, is counted at its owner. -/
theorem badAccess_of_reg {c : Chip} {m : Master} {a n : Nat} {k : RegKey} (hbar : bar0Only m a = none) (hm : ∀ i, m ≠ .isl i)
    (ht : c.target a = .reg k) (hg : c.regGone k = false) (hbad : regBad (c.unmirror k) n = true) :
    c.badAccess m a n = c.countErr (c.unmirror k) := by
  cases m with
  | isl i => exact absurd rfl (hm i)
  | dcu => simp [Chip.badAccess, hbar, ht, hg, hbad]
  | fn f => simp [Chip.badAccess, hbar, ht, hg, hbad]

/-! ## The general write of a register -/

section
variable {c : Chip} {k q : RegKey} (hq : (c.settleFor k).unmirror k = q) {n : Nat} {row : RegRow}
include hq

/-- A write of a wrong size, alignment or offset is discarded and counted (R7). -/
theorem regWrite_of_bad (hbad : regBad q n = true) (m : Master) (v : Nat) : c.regWrite m k n v = (c.settleFor k).countErr q := by
  simp [Chip.regWrite, hq, hbad]

variable (hok : regBad q n = false) (hrow : regRow q.whole = some row)
include hok hrow

/-- A write of a read-only register outside the islands is discarded and counted (R4). -/
theorem regWrite_of_ro (hisl : ∀ i, q.blk ≠ .isl i) (hro : row.acc = .ro) (m : Master) (v : Nat) :
    c.regWrite m k n v = (c.settleFor k).countErr q.whole := by
  have hblk : ∀ i, q.whole.blk ≠ .isl i := hisl
  simp only [Chip.regWrite, hq, hok, hrow, hro]
  cases hb : q.whole.blk with
  | isl i => exact absurd hb (hblk i)
  | _ => simp

/-- A write that would place a reserved encoding in a write-only register outside the islands is discarded and counted (R6); bits
    that a 32-bit access does not name are 0. -/
theorem regWrite_of_wo_reserved (hisl : ∀ i, q.blk ≠ .isl i) (hwo : row.acc = .wo) (m : Master) (v : W64)
    (hres : row.ok (if n = 8 then v.toNat else setBits 0 (q.off % 8 * 8 + 31) (q.off % 8 * 8) v.toNat) = false) :
    c.regWrite m k n v.toNat = (c.settleFor k).countErr q.whole := by
  have hblk : ∀ i, q.whole.blk ≠ .isl i := hisl
  simp only [Chip.regWrite, hq, hok, hrow, hwo, BitVec.toNat_mod_cancel]
  cases hb : q.whole.blk with
  | isl i => exact absurd hb (hblk i)
  | _ => simp [hres]

/-- A whole write of a base die's RW register stores the writable bits and keeps the others (R4, R5). -/
theorem regWrite_of_mb_rw {b : Nat} (hmb : q.blk = .mb b) (hn : n = 8) (hrw : row.acc = .rw) (m : Master) (v : W64)
    (hv : row.ok v.toNat = true) : c.regWrite m k n v.toNat = (c.settleFor k).keepWrite q.whole row.mask v.toNat := by
  have hblk : q.whole.blk = .mb b := hmb
  subst hn
  simp only [Chip.regWrite, hq, hok, hrow, hrw, hblk, BitVec.toNat_mod_cancel]
  simp [hv]

end

/-! ## The statement -/

/-- Settles O29: the access reaches the general row of its register, whose answer is that of its access code. -/
theorem registerWrites : Obligations.RegisterWrites := by
  intro s m a wide v n k row b c0 q0 q size half write hbar hm ht hg
  have hsize : size = 8 ↔ wide = true := by cases wide <;> decide
  have hwrite : write = .next (s.withChip (s.regWrite m k size v.toNat)) := by
    rw [← registerWrite_of_reg hbar hm ht hg]
    rfl
  rw [hwrite]
  refine ⟨fun hbad => ?_, fun hbad => ?_, fun hisl hok hrow hro => ?_, fun hisl hok hrow hwo hres => ?_, fun hmb hok hrow hrw hv hw => ?_⟩
  · rw [← badAccess_of_reg hbar hm ht hg hbad]
    rfl
  · rw [regWrite_of_bad rfl hbad]
  · rw [regWrite_of_ro rfl hok hrow hisl hro]
  · rw [regWrite_of_wo_reserved rfl hok hrow hisl hwo]
    simpa only [hsize] using hres
  · have hn := hsize.mpr hw
    rw [regWrite_of_mb_rw rfl (hn ▸ hok) hrow hmb hn hrw m v hv]
    rfl

end Sys2Proof.Machine

/-! SUPPORT and PROOFS. The register clause of the reset state at a Decner port that no die has. -/

namespace Sys2Proof.Machine

/-- From die 0x50 up there is no Decner port, so LNK_CFG reads 0 there. -/
theorem readLnk_cfg_of_no_die (c : Chip) {die : Nat} (h : 0x50 ≤ die) (p : Nat) : c.readLnk die p 0 = 0 := by
  have hk : lnkK die p 0 = none := by
    unfold lnkK
    rw [if_neg (by omega), if_neg (by omega), if_neg (by omega)]
  simp [Chip.readLnk, hk, within]

/-- The register window of a hall leads to its first Decner port at 0xEC0_0000. -/
theorem live_hall_lnkCfg (c : Chip) (site : Nat) : c.live ⟨.hall site, 0xEC00000⟩ = c.readLnk site 0 0 := by
  simp [Chip.live, Chip.readHall, within]

/-- At any site number the table gives that LNK_CFG the RW row of a four-lane port. -/
theorem regRow_hall_lnkCfg (site : Nat) : regRow ⟨.hall site, 0xEC00000⟩ = (lnkRows 4 false).head? := by
  simp [regRow, hallRow, within, findRow, lnkRows]

/-- Refutes O37: its register clause speaks of every register key, so also of site 80, which the panel does not have. There the table
    of a hall names LNK_CFG with reset value 0x40004, and the read finds no port and gives 0. -/
theorem not_resetState : ¬ Obligations.ResetState := by
  rintro ⟨-, -, -, -, -, -, -, -, -, hregs⟩
  have hread := hregs ⟨.hall 80, 0xEC00000⟩ _ (regRow_hall_lnkCfg 80) (by simp)
  rw [live_hall_lnkCfg, readLnk_cfg_of_no_die _ (by decide)] at hread
  simp [resetOf, regRow_hall_lnkCfg, lnkRows] at hread

end Sys2Proof.Machine

/-! SUPPORT and PROOFS. The stair (R15): it runs the rows of the panel in turn, every other one backwards, so it is its own inverse. -/

namespace Sys2Proof.Machine

/-- A position's site lies in the position's row. -/
theorem siteOfPos_div (p : Nat) : siteOfPos p / 9 = p / 9 := by
  unfold siteOfPos
  split <;> omega

/-- The column of a position's site: even rows run forwards, odd rows backwards. -/
theorem siteOfPos_mod (p : Nat) : siteOfPos p % 9 = if p / 9 % 2 = 0 then p % 9 else 8 - p % 9 := by
  unfold siteOfPos
  split <;> omega

/-- Walking a row backwards twice is walking it forwards. -/
theorem siteOfPos_siteOfPos (p : Nat) : siteOfPos (siteOfPos p) = p := by
  rw [siteOfPos, siteOfPos_div, siteOfPos_mod]
  split <;> omega

/-- The sites of the panel's 72 positions are sites of the panel. -/
theorem siteOfPos_lt {p : Nat} (h : p < 72) : siteOfPos p < 72 := by
  have hrow := siteOfPos_div p
  omega

/-- Settles O41: the one position of a site is the stair's own value there. -/
theorem stairPositions : Obligations.StairPositions := by
  refine ⟨?_, fun site hsite => ⟨siteOfPos site, siteOfPos_lt hsite, siteOfPos_siteOfPos site, ?_⟩⟩
  · rintro p _ _ - rfl rfl
    rfl
  · rintro q - rfl
    exact (siteOfPos_siteOfPos q).symm

end Sys2Proof.Machine

/-! SUPPORT and PROOFS. Frame times: the landing start, a landing move that is owed, and the commit deadline (R25, R50, R447). -/

namespace Sys2Proof.Machine

/-- What an operation leaves in the case at hand is what its command leaves. -/
theorem exec_eq_next {s : State} {i : Instr} {c d : Chip} (hexec : exec i s = .next (s.withChip c)) (hcase : c = d) : exec i s = .next (s.withChip d) := by
  rw [hexec, hcase]

/-- With a fixed schedule and no hold the landing start runs R447's actions in their order. -/
theorem landingStart_of_fixed {c : Chip} (hfixed : c.time.fixed = true) (hheld : c.boot.held = false) :
    c.landingStart =
      let n := c.nextFrame
      let started := c.frameStarts n
      let landed := (started.cfgLand (started.start n)).planLand.scenesLand.disarmStale
      let moved := ((landed.detachAll n).moveContexts n).landResume n
      (((moved.startContexts n).stLanding.keepGuards n).scheduleIsl .A).scheduleIsl .B := by
  simp [Chip.landingStart, hfixed, hheld]

/-- A landing move that is owed happens at an instruction boundary outside a block. -/
theorem applyMove_of_owed {c : Chip} {k n : Nat} (hmove : (c.ctx k).moveTo = some n) (hblk : (c.ctx k).blk = none) :
    c.applyMove k = (c.updCtx k fun y => { y with lfc := n, moveTo := none, budget := c.lfcBudget y }).frameDone (c.ctx k).part := by
  simp [Chip.applyMove, hmove, hblk]

/-- A slot that holds a context takes the move it owes. -/
theorem landingMove_of_resident {c : Chip} {k : Nat} {x : Ctx} (h : c.ctx? k = some x) : c.landingMove k = c.applyMove k := by
  simp [Chip.landingMove, h]

/-- The commit deadline of an earlier frame stops the resident contexts that work for it, then the saved ones. -/
theorem commitDeadline_of_due {c : Chip} {n : Nat} (hrun : c.time.running = true) (hn : n < c.time.frame) (hheld : c.boot.held = false) :
    c.commitDeadline n =
      let due := c.at (c.start (n + 1) + c.L)
      let late := fun (x : Ctx) => x.lfc == n && (x.state == 1 || x.state == 2 || x.state == 3 || x.state == 5)
      ((due.core.saved.filter fun e => late e.2).map Prod.fst).foldl Chip.overrunSaved
        (((due.core.slots.filter fun e => late e.2).map Prod.fst).foldl Chip.frameOverrun due) := by
  simp [Chip.commitDeadline, hrun, hn, hheld]

/-- Settles O52: each clause is the case in which the shared operation of its command acts. -/
theorem frameTimes : Obligations.FrameTimes := by
  intro s r n x f late due
  refine ⟨fun hfixed hheld => ?_, fun hx hmove hblk hctx => ?_, fun hrun hn hheld => ?_⟩
  · exact exec_eq_next rfl (landingStart_of_fixed hfixed hheld)
  · subst hctx
    exact exec_eq_next rfl ((landingMove_of_resident hx).trans (applyMove_of_owed hmove hblk))
  · exact exec_eq_next rfl (commitDeadline_of_due hrun hn hheld)

end Sys2Proof.Machine

/-! SUPPORT and PROOFS. Plan records at the islands and their frame outcomes (R306-R308). -/

namespace Sys2Proof.Machine

section
variable {c : Chip} {i : Isl} {site : Nat} (hup : (c.isl i).up = true)
include hup

/-- A doorbell of a hall that SI_PLANSRC does not name is counted (R300). -/
theorem planDoorbell_of_unnamed (hhall : c.hallOf site ≠ some (bits (c.reg (siK i 0x20)) 7 0)) (buf : Nat) :
    c.planDoorbell i site buf = c.bump (siK i 0xC0) := by
  simp [Chip.planDoorbell, hup, hhall]

variable (hhall : c.hallOf site = some (bits (c.reg (siK i 0x20)) 7 0)) {buf : Nat}
include hhall

/-- A record that every check passes is noted as accepted and pending, to be told to the other island and, without a trap,
    acknowledged to the port (R306, R307). -/
theorem planDoorbell_of_accepted (hcheck : c.planCheck i buf = 0) :
    c.planDoorbell i site buf =
      let r := c.planBuf i (c.isl i).wbuf
      let frame := fieldAt r 8 8
      let seq := fieldAt r 0x28 4
      let crc := fieldAt r 4 4
      c.updIsl i fun y =>
        let y := { y with lastAcc := some (frame, seq), mine := y.mine.set frame (seq, crc), pend := y.pend ++ [buf], accOut := y.accOut ++ [(frame, seq, crc)],
                          ackOut := if y.trap = 0 then y.ackOut ++ [(site, seq)] else y.ackOut }
        { y with wbuf := y.freeBuf } := by
  simp [Chip.planDoorbell, hup, hhall, hcheck]

/-- A record that fails a check is counted, with its code and frame, and reported (R306). -/
theorem planDoorbell_of_refused {code : Nat} (hcheck : c.planCheck i buf = code) (hcode : code ≠ 0) :
    c.planDoorbell i site buf =
      let frame := fieldAt (c.planBuf i (c.isl i).wbuf) 8 8
      ((c.bump (siK i 0x58)).setReg (siK i 0x78) (code + frame % 2 ^ 32 * 2 ^ 32)).islEvent i .PLAN_REJECTED code frame := by
  simp only [Chip.planDoorbell, hup, hhall, hcheck]
  cases code with
  | zero => exact absurd rfl hcode
  | succ n => simp

end

/-- The other island's oldest acceptance leaves its queue; an island that is up notes it, where their link is not fenced (R307). -/
theorem acceptReceive_of_cons {c : Chip} {i : Isl} {f q crc : Nat} {rest : List (Nat × Nat × Nat)} (h : (c.isl (otherIsl i)).accOut = (f, q, crc) :: rest) :
    c.acceptReceive i =
      let sent := c.updIsl (otherIsl i) fun y => { y with accOut := rest }
      if (sent.isl i).up && sent.peerLink i then sent.updIsl i fun y => { y with peers := y.peers.set f (q, crc) } else sent := by
  simp only [Chip.acceptReceive, h]

/-- Frame `f` is the next one to decide: the one after the last decided frame or, before any, none later than any accepted record's (R308). -/
def IslSt.decidesNext (x : IslSt) (f : Nat) : Prop := (x.decided = none ∧ ∀ e ∈ x.mine, f ≤ e.1) ∨ ∃ g, x.decided = some g ∧ f = g + 1

/-- The island decides frame `f` now: it is up, with time and a schedule, and D(f) of its next frame has come (R306, R308). -/
def Chip.decides (c : Chip) (i : Isl) (f : Nat) : Prop :=
  let x := c.isl i
  x.up = true ∧ x.fs ≠ none ∧ x.timed = true ∧ x.decidesNext f ∧ x.deadline f ≤ (c.localTime (islDie i) : Int)

/-- Both islands accepted the same record for frame `f` (R307). -/
def IslSt.agreed (x : IslSt) (f : Nat) : Prop := ∃ a, x.mine.look f = some a ∧ x.peers.look f = some a

/-- The state of an island that has decided frame `f` (R308). -/
def Chip.frameDecided (c : Chip) (i : Isl) (f : Nat) (good : Bool) : Chip :=
  (c.updIsl i fun x =>
    let x := { x with decided := some f, outs := (good :: x.outs).take 100, badrun := if good then 0 else x.badrun + 1, pend := x.pend.filter (fun b => good || c.bufFrame i b != f),
                      mine := x.mine.filter fun e => decide (f < e.1), peers := x.peers.filter fun e => decide (f < e.1) }
    { x with trig := if x.badrun ≥ 3 ∨ x.bad100 > 5 then x.trig ++ [1] else x.trig }).islFlag i 4

/-- A frame that is decided is good where both islands accepted the same record, and is counted as bad otherwise (R308). -/
theorem frameOutcome_of_decides {c : Chip} {i : Isl} {f : Nat} {good : Bool} (h : c.decides i f) (hgood : good = true ↔ (c.isl i).agreed f) :
    c.frameOutcome i f = (if good then c else c.bump (siK i 0x60)).frameDecided i f good := by
  obtain ⟨hup, hfs, htimed, hnext, hdue⟩ := h
  have hopen : ¬ (c.localTime (islDie i) : Int) < (c.isl i).deadline f := Int.not_lt.mpr hdue
  have hlook : good = (((c.isl i).mine.look f).any fun a => (c.isl i).peers.look f == some a) := by
    rw [Bool.eq_iff_iff, hgood, Option.any_eq_true]
    simp [IslSt.agreed]
  subst hlook
  rcases hnext with ⟨hfirst, hmine⟩ | ⟨g, hlast, rfl⟩
  · have hall : ((c.isl i).mine.all fun e => decide (f ≤ e.1)) = true := by simpa only [List.all_eq_true, decide_eq_true_eq] using hmine
    cases hm : (c.isl i).mine.look f <;> simp [Chip.frameOutcome, Chip.frameDecided, hup, hfs, htimed, hfirst, hall, hopen, hm]
  · cases hm : (c.isl i).mine.look (g + 1) <;> simp [Chip.frameOutcome, Chip.frameDecided, hup, hfs, htimed, hlast, hopen, hm]

end Sys2Proof.Machine

/-! SUPPORT and PROOFS. Time, requests, watchdog, clock and records of the islands (R21, R298, R301, R303, R304, R313). -/

namespace Sys2Proof.Machine

section
variable {c : Chip} {i : Isl}

/-- An island that is up and has had time goes into hold 100 µs after its last value (R298). -/
theorem dtholdEnter_of_late (hup : (c.isl i).up = true) (htimed : (c.isl i).timed = true) (hfree : (c.isl i).dthold = false)
    (hlate : (c.isl i).timeAt + 100000 ≤ c.localTime (islDie i)) :
    c.dtholdEnter i = c.updIsl i fun y => { y with dthold := true, timeBack := none } := by
  simp [Chip.dtholdEnter, hup, htimed, hfree, hlate]

/-- The hold ends 1 ms after time returned (R298). -/
theorem dtholdClear_of_back {b : Nat} (hback : (c.isl i).timeBack = some b) (hhold : (c.isl i).dthold = true)
    (hdue : b + 1000000 ≤ c.localTime (islDie i)) :
    c.dtholdClear i = c.updIsl i fun y => { y with dthold := false, timeBack := none } := by
  simp [Chip.dtholdClear, hback, hhold, hdue]

/-- The acting DCU's own die is sent no time (R21). -/
theorem devtimeTo_of_acting {die : Nat} (hown : die = 0x4E + c.boot.acting) (off : Int) : c.devtimeTo die off = c := by
  simp [Chip.devtimeTo, hown]

/-- Time reaches every other die that is no island (R21). -/
theorem devtimeTo_of_die {die : Nat} (hrun : c.boot.held = false) (hown : die ≠ 0x4E + c.boot.acting) (hA : die ≠ 0x50) (hB : die ≠ 0x51) (off : Int) :
    c.devtimeTo die off = c.setOffset die off := by
  simp [Chip.devtimeTo, hrun, hown, hA, hB]

/-- An island keeps its own copy while it is in hold, and island B also while A is (R298). -/
def Chip.keepsTime (c : Chip) (i : Isl) : Bool := (c.isl i).dthold || (i == .B && c.islA.dthold)

/-- The Boolean test says what R298 says. -/
theorem keepsTime_iff : c.keepsTime i = true ↔ (c.isl i).dthold = true ∨ (i = .B ∧ c.islA.dthold = true) := by
  simp [Chip.keepsTime]

/-- An island that time reaches over its I/O die link notes that it arrived, and takes it unless it keeps its own copy (R21, R298). -/
theorem devtimeTo_of_isl {die : Nat} (hdie : die = islDie i) (hacting : c.boot.acting < 2) (hrun : c.boot.held = false) (hout : (c.isl i).held = false)
    (htimed : (c.isl i).timed = true) (hlink : c.islLink i = true) (hdie0 : i = .A → c.boot.die0 = false) (off : Int) :
    c.devtimeTo die off = (if c.keepsTime i then c else c.setOffset die off).timeToIsl i := by
  have hown : die ≠ 0x4E + c.boot.acting := by
    unfold islDie at hdie
    omega
  cases i with
  | A =>
    obtain rfl : die = 0x50 := hdie
    simp [Chip.devtimeTo, Chip.keepsTime, hown, hrun, hout, htimed, hlink, hdie0]
  | B =>
    obtain rfl : die = 0x51 := hdie
    simp [Chip.devtimeTo, Chip.keepsTime, hown, hrun, hout, htimed, hlink]

/-- RESUME clears SI_STOPREQ in STOP (R313). -/
theorem siResume_of_stop (h : (c.isl i).pmode = 3) : c.siResume i = (c.setReg (siK i 0x18) 0).updIsl i fun y => { y with resumed := true } :=
  if_pos h

/-- Outside STOP, RESUME is ignored (R313). -/
theorem siResume_of_not_stop (h : (c.isl i).pmode ≠ 3) : c.siResume i = c :=
  if_neg h

/-- A key that is neither 0x5A nor 0xA5 traps (R304). -/
theorem watchdogKey_of_other {v : Nat} (h5A : v ≠ 0x5A) (hA5 : v ≠ 0xA5) : c.watchdogKey i v = c.islTrap i 0x20 := by
  rw [Chip.watchdogKey, if_neg h5A, if_neg hA5]

/-- WDTIME without the pair of keys traps (R304). -/
theorem watchdogExpiry_of_passed (h : (c.isl i).wdtAt + bits (c.reg (siK i 0xA8)) 15 0 * 100000 ≤ c.localTime (islDie i)) :
    c.watchdogExpiry i = c.islTrap i 0x20 :=
  if_pos h

/-- A bad crystal traps an island that is up and has no trap (R301). -/
theorem clockTrap_of_up (hup : (c.isl i).up = true) (htrap : (c.isl i).trap = 0) : c.clockTrap i = c.islTrap i 0x22 := by
  simp [Chip.clockTrap, hup, htrap]

/-- An empty ring has nothing to copy. -/
theorem ringCopy_of_nil (h : (c.isl i).ring = []) (up : Bool) : c.ringCopy i up = c := by
  simp [Chip.ringCopy, h]

/-- Over a link that carries it, the oldest event leaves the ring for queue 0 (R303, R449). -/
theorem ringCopy_of_evt {r : EvtRec} {rest : List RingRec} {up : Bool} (h : (c.isl i).ring = .evt r :: rest) (hup : up = true) :
    c.ringCopy i up = (c.updIsl i fun y => { y with ring := rest }).postTo 0 r := by
  simp [Chip.ringCopy, h, hup]

/-- Over a link that carries it, the oldest error leaves the ring for the DCU's log (R303, R449). -/
theorem ringCopy_of_err {er : ErrRec} {rest : List RingRec} {up : Bool} (h : (c.isl i).ring = .err er :: rest) (hup : up = true) :
    c.ringCopy i up =
      let c := c.updIsl i fun y => { y with ring := rest }
      { c with log := { c.log with inbox := c.log.inbox ++ [{ er with flags := er.flags + 4 }] } } := by
  simp [Chip.ringCopy, h, hup]

end

end Sys2Proof.Machine

/-! SUPPORT and PROOFS. Plans, time and stops of the islands, clause by clause. -/

namespace Sys2Proof.Machine

/-- Settles O17: each clause is the case in which the shared operation of its command acts, or leaves the block as it is. -/
theorem islandPlansTimeStops : Obligations.IslandPlansTimeStops := by
  constructor
  · intro s i site buf code f q crc t rest x r frame seq named key sent c y next agreed decided
    refine ⟨fun hup hhall hcheck => ?_, fun hup hhall hcheck hcode => ?_, fun hup hhall => ?_, fun hout hup hlink => ?_, fun hout hdeaf => ?_,
      fun hnext hagreed => ?_, fun hnext hagreed => ?_⟩
    · exact exec_eq_next rfl (planDoorbell_of_accepted hup hhall hcheck)
    · exact exec_eq_next rfl (planDoorbell_of_refused hup hhall hcheck hcode)
    · exact exec_eq_next rfl (planDoorbell_of_unnamed hup hhall buf.val)
    · exact exec_eq_next rfl ((acceptReceive_of_cons hout).trans (if_pos (Bool.and_eq_true_iff.mpr ⟨hup, hlink⟩)))
    · exact exec_eq_next rfl ((acceptReceive_of_cons hout).trans (if_neg (Bool.eq_false_iff.mp (Bool.and_eq_false_iff.mpr hdeaf))))
    · exact exec_eq_next rfl (frameOutcome_of_decides hnext (iff_of_true rfl hagreed))
    · exact exec_eq_next rfl (frameOutcome_of_decides hnext (iff_of_false Bool.false_ne_true hagreed))
  · intro s i t b v die off r er rest c x now y holds
    refine ⟨fun hup htimed hfree hlate => ?_, fun hback hhold hdue => ?_, fun hrun hown hA hB => ?_,
      fun hdie hacting hrun hout htimed hlink hdie0 hholds => ?_, fun hdie hacting hrun hout htimed hlink hdie0 hholds => ?_, fun hown => ?_,
      fun hstop => ?_, fun hstop => ?_, fun hv => ?_, fun hv => ?_, fun h5A hA5 => ?_, fun hpassed => ?_, fun hup htrap => ?_,
      fun hring hlink => ?_, fun hring hlink => ?_, fun hring => ?_⟩
    · exact exec_eq_next rfl (dtholdEnter_of_late hup htimed hfree hlate)
    · exact exec_eq_next rfl (dtholdClear_of_back hback hhold hdue)
    · exact exec_eq_next rfl (devtimeTo_of_die hrun hown hA hB _)
    · exact exec_eq_next rfl ((devtimeTo_of_isl hdie hacting hrun hout htimed hlink hdie0 _).trans (by rw [if_pos (keepsTime_iff.mpr hholds)]))
    · exact exec_eq_next rfl ((devtimeTo_of_isl hdie hacting hrun hout htimed hlink hdie0 _).trans (by rw [if_neg (mt keepsTime_iff.mp hholds)]))
    · exact exec_eq_next rfl (devtimeTo_of_acting hown _)
    · exact exec_eq_next rfl (siResume_of_stop hstop)
    · exact exec_eq_next rfl (siResume_of_not_stop hstop)
    · subst hv
      rfl
    · subst hv
      rfl
    · exact exec_eq_next rfl (watchdogKey_of_other (by simpa [BitVec.toNat_eq] using h5A) (by simpa [BitVec.toNat_eq] using hA5))
    · exact exec_eq_next rfl (watchdogExpiry_of_passed hpassed)
    · exact exec_eq_next rfl (clockTrap_of_up hup htrap)
    · exact exec_eq_next rfl (ringCopy_of_evt hring hlink)
    · exact exec_eq_next rfl (ringCopy_of_err hring hlink)
    · exact exec_eq_next rfl (ringCopy_of_nil hring _)

end Sys2Proof.Machine

/-! SUPPORT and PROOFS. The first steps of an instruction of a context: fetch, decode and predicate, and the faults that they raise (R33, R41, R45, R55, R56). -/

namespace Sys2Proof.Machine

/-- A condition that holds alone raises its class, without MULTI. -/
theorem checks_cons_true {l : List (Bool × Nat)} (h : ∀ q ∈ l, q.1 = false) (n : Nat) (c : Chip) :
    checks ((true, n) :: l) c = .error { cls := n, chip := c } := by
  have hrest : l.filter Prod.fst = [] := by
    rw [List.filter_eq_nil_iff]
    intro q hq
    simp [h q hq]
  simp [checks, hrest, lowest]

/-- Outside a block no instruction is counted. -/
theorem countInsn_of_no_block {c : Chip} {k : Nat} (h : (c.ctx k).blk = none) (executes : Bool) : countInsn k executes c = .ok ((), c) := by
  simp [countInsn, flushSig, Ctx.chk, ex_bind, h]

/-- A context's update leaves the mode of every stable. -/
@[simp] theorem updCtx_checkedMode (c : Chip) (k : Nat) (f : Ctx → Ctx) (key : Nat) : (c.updCtx k f).checkedMode key = c.checkedMode key := rfl

/-- The instruction executes: P[PRED] differs from PNEG (R41). -/
def Ctx.executes (x : Ctx) (e : Enc) : Bool := x.rp e.pred.toNat != e.pneg

theorem executes_iff {x : Ctx} {e : Enc} : x.executes e = true ↔ x.rp e.pred.toNat ≠ e.pneg := bne_iff_ne

theorem not_executes_iff {x : Ctx} {e : Enc} : x.executes e = false ↔ x.rp e.pred.toNat = e.pneg := bne_eq_false_iff_eq

/-! ## What the first steps answer -/

section
variable {c : Chip} {k : Nat}

/-- The checks of the base word's fetch: its alignment and its execute window (R33). -/
def Chip.fetchChecks (c : Chip) (k : Nat) : List (Bool × Nat) := [((c.ctx k).ia % 8 != 0, ALIGNMENT), (!c.fetchOk k 0, ACCESS)]

theorem checks_fetch_ok (hia : (c.ctx k).ia % 8 = 0) (hbase : c.fetchOk k 0 = true) : checks (c.fetchChecks k) c = .ok ((), c) :=
  checks_ok (by simp [Chip.fetchChecks, hia, hbase])

theorem checks_fetch_outside (hia : (c.ctx k).ia % 8 = 0) (hbase : c.fetchOk k 0 = false) :
    checks (c.fetchChecks k) c = .error { cls := ACCESS, chip := c } := by
  rw [Chip.fetchChecks, checks_cons _ _ _ (by simp [hia]), hbase]
  exact checks_cons_true (by simp) ACCESS c

theorem checks_fetch_misaligned (hia : (c.ctx k).ia % 8 ≠ 0) (hbase : c.fetchOk k 0 = true) :
    checks (c.fetchChecks k) c = .error { cls := ALIGNMENT, chip := c } := by
  rw [Chip.fetchChecks, bne_iff_ne.mpr hia]
  exact checks_cons_true (by simp [hbase]) ALIGNMENT c

/-- Both classes together: the lower one, with MULTI (R45). -/
theorem checks_fetch_misaligned_outside (hia : (c.ctx k).ia % 8 ≠ 0) (hbase : c.fetchOk k 0 = false) :
    checks (c.fetchChecks k) c = .error { cls := ACCESS, multi := true, chip := c } := by
  rw [Chip.fetchChecks, bne_iff_ne.mpr hia, hbase]
  rfl

variable {d : IDesc} {e : Enc}

/-- The checks of decode, and of the extension words of an instruction that executes (R55, R56). -/
def Chip.decodeChecks (c : Chip) (k : Nat) (d : IDesc) (e : Enc) : List (Bool × Nat) :=
  [(!d.decodes e, ILLEGAL_INSTRUCTION), ((c.ctx k).executes e && e.alt.isNone && e.next.toNat == d.fmt.next && !c.fetchOk k d.fmt.next, ACCESS)]

/-- Accepted words pass, where an instruction that executes has its extension words. -/
theorem checks_decode_ok (hdec : d.decodes e = true) (hext : (c.ctx k).executes e = true → c.fetchOk k d.fmt.next = true) :
    checks (c.decodeChecks k d e) c = .ok ((), c) := by
  refine checks_ok ?_
  cases hgo : (c.ctx k).executes e with
  | false => simp [Chip.decodeChecks, hdec, hgo]
  | true => simp [Chip.decodeChecks, hdec, hext hgo]

/-- Words that decode rejects raise ILLEGAL_INSTRUCTION alone, where an instruction that executes has its extension words. -/
theorem checks_decode_rejected (hdec : d.decodes e = false) (hext : c.fetchOk k d.fmt.next = true ∨ (c.ctx k).executes e = false) :
    checks (c.decodeChecks k d e) c = .error { cls := ILLEGAL_INSTRUCTION, chip := c } := by
  rw [Chip.decodeChecks, hdec]
  refine checks_cons_true (List.forall_mem_singleton.mpr ?_) ILLEGAL_INSTRUCTION c
  rcases hext with hext | hgo
  · simp [hext]
  · simp [hgo]

/-- An extension word outside its window raises ACCESS where the instruction executes. -/
theorem checks_decode_outside (hdec : d.decodes e = true) (halt : e.alt = none) (hnext : e.next.toNat = d.fmt.next)
    (hgo : (c.ctx k).executes e = true) (hext : c.fetchOk k d.fmt.next = false) :
    checks (c.decodeChecks k d e) c = .error { cls := ACCESS, chip := c } := by
  rw [Chip.decodeChecks, checks_cons _ _ _ (by simp [hdec])]
  simpa [halt, hnext, hgo, hext] using checks_cons_true (l := []) (by simp) ACCESS c

/-- A fault of the base word's fetch comes before everything else. -/
theorem prologue_of_fetch_fault {t : Trap} (h : checks (c.fetchChecks k) c = .error t) : prologue k d e c = .error t := by
  rw [Chip.fetchChecks] at h
  simp [prologue, ex_bind, h]

variable (hfetch : checks (c.fetchChecks k) c = .ok ((), c))
include hfetch

/-- With its base word fetched, an instruction meets the checks of decode. -/
theorem prologue_of_decode_fault {t : Trap} (h : checks (c.decodeChecks k d e) c = .error t) : prologue k d e c = .error t := by
  rw [Chip.fetchChecks] at hfetch
  rw [Chip.decodeChecks, Ctx.executes] at h
  simp [prologue, ex_bind, hfetch, h]

/-- Outside a block and CHECKED mode, words that pass only move IADDR past themselves. -/
theorem prologue_of_unchecked (hwords : checks (c.decodeChecks k d e) c = .ok ((), c)) (hblk : (c.ctx k).blk = none)
    (hmode : c.checkedMode (k / 2) = false) :
    prologue k d e c = .ok ((c.ctx k).executes e, c.updCtx k fun x => { x with ia := (x.ia + 8 * (1 + d.fmt.next)) % 2 ^ 48 }) := by
  rw [Chip.fetchChecks] at hfetch
  rw [Chip.decodeChecks, Ctx.executes] at hwords
  simp [prologue, Ctx.executes, ex_bind, hfetch, hwords, countInsn_of_no_block, hblk, hmode]

end

/-! ## What an instruction leaves whose first steps do not lead to its own effect -/

section
variable {c : Chip} {r : CtxRef} (hissues : c.issues (slotKey r) = true) {d : IDesc} {e : Enc} (body : Nat → Ex Unit)
include hissues

/-- An instruction that does not execute leaves what its first steps leave (R41). -/
theorem instr_of_not_executed {c1 : Chip} (h : prologue (slotKey r) d e (c.fetching r) = .ok (false, c1)) : c.instr r d e body = c1 := by
  simp only [Chip.fetching] at h
  simp [Chip.instr, hissues, h]

/-- A fault below CHECK_SCOPE that the first steps raise is taken in the block in which the instruction was fetched (R45). -/
theorem instr_of_first_fault {cls : Nat} {multi : Bool} (hcls : cls < CHECK_SCOPE)
    (h : prologue (slotKey r) d e (c.fetching r) = .error { cls := cls, multi := multi, chip := c.fetching r }) :
    c.instr r d e body = (c.fetching r).takeFault (slotKey r) { cls := cls, multi := multi, opc := e.opcOr d.opc } := by
  have hscope : cls ≠ CHECK_SCOPE := Nat.ne_of_lt hcls
  have hfail : cls ≠ CHECK_FAIL := Nat.ne_of_lt (Nat.lt_trans hcls (by decide))
  simp only [Chip.fetching] at h
  simp only [Chip.instr, hissues, if_true, h, if_neg hscope, Chip.lockFail, hfail, false_and, if_false]
  rfl

end

/-- Settles O20: an accepted instruction passes both lists of checks; each other clause is the check that stops the instruction. -/
theorem firstStepsAndNotExecuted : Obligations.FirstStepsAndNotExecuted := by
  refine ⟨fun c k d e hblk hmode hia hbase hdec hext => ?_, fun c c1 r d e body hissues => ?_⟩
  · have hwords := checks_decode_ok hdec fun hgo => hext (executes_iff.mp hgo)
    exact prologue_of_unchecked (checks_fetch_ok hia hbase) hwords hblk hmode
  · have below : ILLEGAL_INSTRUCTION < CHECK_SCOPE ∧ ACCESS < CHECK_SCOPE ∧ ALIGNMENT < CHECK_SCOPE := by decide
    obtain ⟨hillegal, haccess, halignment⟩ := below
    refine ⟨fun h => instr_of_not_executed hissues body h, fun hia hbase hdec hext => ?_, fun hia hbase hdec halt hnext hgo hext => ?_,
      fun hia hbase => ?_, fun hia hbase => ?_, fun hia hbase => ?_⟩
    · have hwords := checks_decode_rejected hdec (hext.imp_right not_executes_iff.mpr)
      exact instr_of_first_fault hissues body hillegal (prologue_of_decode_fault (checks_fetch_ok hia hbase) hwords)
    · have hwords := checks_decode_outside hdec halt hnext (executes_iff.mpr hgo) hext
      exact instr_of_first_fault hissues body haccess (prologue_of_decode_fault (checks_fetch_ok hia hbase) hwords)
    · exact instr_of_first_fault hissues body haccess (prologue_of_fetch_fault (checks_fetch_outside hia hbase))
    · exact instr_of_first_fault hissues body halignment (prologue_of_fetch_fault (checks_fetch_misaligned hia hbase))
    · exact instr_of_first_fault hissues body haccess (prologue_of_fetch_fault (checks_fetch_misaligned_outside hia hbase))

end Sys2Proof.Machine

/-! SUPPORT and PROOFS. Scalar register instructions, branches, status reads and END of a context (R35, R59, R60, R64, R146). -/

namespace Sys2Proof.Machine

/-- A command that a context and an island share leaves, at a context whose instruction runs, what the instruction's effect leaves. -/
theorem exec_ctx_ok {s : State} {i : Instr} {r : CtxRef} {d : IDesc} {e : Enc} {body : Nat → Ex Unit} {isl : Option (Isl → IEx Unit)} {c c' : Chip}
    (hexec : exec i s = .next (s.withChip (s.toChip.either (.ctx r) d e body isl))) (h : Runs s.toChip r d e c) (hb : body (slotKey r) c = .ok ((), c')) :
    exec i s = .next (s.withChip c') :=
  exec_eq_next hexec (either_ctx_ok isl h hb)

/-! ## Register instructions -/

section
variable (k : Nat) (e : Enc) (sub : Nat) (c : Chip)

theorem aluBody_eq : aluBody sub e k c = .ok ((), c.updCtx k fun x => x.ws e.d (aluOp sub (x.rs e.a) (x.rs e.b))) := by
  simp [aluBody, ex_bind, Chip.updCtx]

theorem aluiBody_eq : aluiBody sub e k c = .ok ((), c.updCtx k fun x => x.ws e.d (aluOp sub (x.rs e.a) e.imm30)) := by
  simp [aluiBody, ex_bind, Chip.updCtx]

theorem cmpBody_eq : cmpBody sub e k c = .ok ((), c.updCtx k fun x => x.wp e.d (cmpOp sub (x.rs e.a) (x.rs e.b))) := by
  simp [cmpBody, ex_bind, Chip.updCtx]

theorem cmpiBody_eq : cmpiBody sub e k c = .ok ((), c.updCtx k fun x => x.wp e.d (cmpOp sub (x.rs e.a) e.imm30)) := by
  simp [cmpiBody, ex_bind, Chip.updCtx]

theorem plogBody_eq : plogBody sub e k c = .ok ((), c.updCtx k fun x => x.wp e.d (plogOp sub (x.rp e.a) (x.rp e.b))) := by
  simp [plogBody, ex_bind, Chip.updCtx]

end

/-- Settles O44: each row is the effect of its body. -/
theorem scalarResults : Obligations.ScalarResults := by
  intro s r e c sub
  refine ⟨fun h => ?_, fun h => ?_, fun h => ?_, fun h => ?_, fun h => ?_, fun h => ?_, fun h => ?_⟩
  · exact exec_ctx_ok rfl h (ex_pure () c)
  · exact exec_ctx_ok rfl h (aluBody_eq _ e _ c)
  · exact exec_ctx_ok rfl h (aluiBody_eq _ e _ c)
  · exact exec_ctx_ok rfl h (setS_eq _ e.d e.x0 c)
  · exact exec_ctx_ok rfl h (cmpBody_eq _ e _ c)
  · exact exec_ctx_ok rfl h (cmpiBody_eq _ e _ c)
  · exact exec_ctx_ok rfl h (plogBody_eq _ e _ c)

/-! ## Branches -/

/-- A branch may be taken to an address: it is 8-byte aligned and not below the instruction after an open block's CHKB (R60, R147). -/
def Ctx.lands (x : Ctx) (a : Nat) : Prop := a % 8 = 0 ∧ ∀ b, x.blk = some b → b.chkbIa + 8 ≤ a

/-- A register write leaves the block open as it is. -/
@[simp] theorem ws_blk (x : Ctx) (i : Nat) (v : W64) : (x.ws i v).blk = x.blk := by
  unfold Ctx.ws
  split <;> rfl

theorem ws_lands_iff {x : Ctx} {i : Nat} {v : W64} {a : Nat} : (x.ws i v).lands a ↔ x.lands a := by
  rw [Ctx.lands, ws_blk, Ctx.lands]

section
variable {c : Chip} {k : Nat} {e : Enc}

/-- A branch that may be taken moves IADDR, modulo 2^48. -/
theorem branchTo_of_lands {a : Nat} (h : (c.ctx k).lands a) : branchTo k a c = .ok ((), c.updCtx k fun y => { y with ia := a % 2 ^ 48 }) := by
  obtain ⟨halign, hinside⟩ := h
  have hpass : ∀ leaves, leaves = false → checks [(a % 8 != 0, ALIGNMENT), (leaves, CHECK_SCOPE)] c = .ok ((), c) := by
    rintro _ rfl
    exact checks_ok (by simp [halign])
  cases hblk : (c.ctx k).blk with
  | none => simp [branchTo, ex_bind, hblk, hpass, -Nat.reducePow]
  | some b => simp [branchTo, ex_bind, hblk, hpass, hinside b hblk, -Nat.reducePow]

/-- A return address is written before the branch, which it cannot change. -/
theorem branchTo_of_linked {a i : Nat} {v : W64} (h : (c.ctx k).lands a) :
    (do setS k i v; branchTo k a : Ex Unit) c = .ok ((), (c.updCtx k fun y => y.ws i v).updCtx k fun y => { y with ia := a % 2 ^ 48 }) :=
  branchTo_of_lands (by rwa [updCtx_ctx_same, ws_lands_iff])

theorem brBody_of_lands (h : (c.ctx k).lands (brTarget ((c.ctx k).ia - 8) e)) :
    brBody e k c = .ok ((), c.updCtx k fun y => { y with ia := brTarget ((c.ctx k).ia - 8) e % 2 ^ 48 }) := by
  rw [brBody, ex_bind_ok (ctxOf_eq k c), branchTo_of_lands h]

theorem callBody_of_lands (h : (c.ctx k).lands (brTarget ((c.ctx k).ia - 8) e)) :
    callBody e k c = .ok ((), (c.updCtx k fun y => y.ws 31 (BitVec.ofNat 64 (c.ctx k).ia)).updCtx k
      fun y => { y with ia := brTarget ((c.ctx k).ia - 8) e % 2 ^ 48 }) := by
  rw [callBody, ex_bind_ok (ctxOf_eq k c), branchTo_of_linked h]

theorem jrBody_of_lands (h : (c.ctx k).lands ((c.ctx k).rs e.a).toNat) :
    jrBody e k c = .ok ((), c.updCtx k fun y => { y with ia := ((c.ctx k).rs e.a).toNat % 2 ^ 48 }) := by
  rw [jrBody, ex_bind_ok (getS_eq k e.a c), branchTo_of_lands h]

theorem jrlBody_of_lands (h : (c.ctx k).lands ((c.ctx k).rs e.a).toNat) :
    jrlBody e k c = .ok ((), (c.updCtx k fun y => y.ws e.d (BitVec.ofNat 64 (c.ctx k).ia)).updCtx k
      fun y => { y with ia := ((c.ctx k).rs e.a).toNat % 2 ^ 48 }) := by
  rw [jrlBody, ex_bind_ok (getS_eq k e.a c), ex_bind_ok (ctxOf_eq k c), branchTo_of_linked h]

end

/-! ## DEVTIME -/

section
variable {c c2 : Chip} {k n v : Nat} {act : Ex Nat} {b : Block}

/-- In the primary pass of a CHECKED block a value is obtained and recorded (R64). -/
theorem recorded_of_primary (hblk : (c.ctx k).chk = some b) (hstate : b.state = 1) (hact : act c = .ok (v, c)) (hrec : record k n v c = .ok ((), c2)) :
    recorded k n act c = .ok (v, c2) := by
  simp [recorded, ex_bind, ex_map, hblk, hstate, hact, hrec]

/-- In a later pass the next record without an error is the value (R64). -/
theorem recorded_of_later {q : DlyRec} (hblk : (c.ctx k).chk = some b) (hstate : b.state ≠ 1) (hrec : b.recs[b.recPos]? = some q) (hbad : q.bad = false)
    (hfixed : q.fixed = false) :
    recorded k n act c = .ok (q.val, c.updCtx k fun y => { y with blk := y.blk.map fun b => { b with recPos := b.recPos + 1 } }) := by
  simp [recorded, replay, ex_bind, hblk, hstate, hrec, hbad, hfixed]

/-- MFS.DEVTIME writes the value that its pass gives. -/
theorem mfsDevtimeBody_of_recorded {e : Enc} (h : recorded k 16 (return (← get).localTime (k / 8)) c = .ok (v, c2)) :
    mfsDevtimeBody e k c = .ok ((), c2.updCtx k fun y => y.ws e.d (BitVec.ofNat 64 v)) := by
  rw [mfsDevtimeBody, ex_bind_ok h, setS_eq]

end

/-- END outside a block stops the context, and its stable's saves are considered again (R146). -/
theorem endBody_of_no_block {c : Chip} {k : Nat} (h : (c.ctx k).blk = none) :
    endBody k c = .ok ((), ((c.updCtx k fun y => { y with state := 0, wait := .none, saving := none }).frameDone (c.ctx k).part).reconsider (k / 2)) := by
  simp [endBody, ex_bind, h, need_true]

/-- Settles O21: a taken branch passes its checks, and each status read writes its value. -/
theorem branchesAndStatusReads : Obligations.BranchesAndStatusReads := by
  refine ⟨fun s r e c => ⟨fun h hl => ?_, fun h hl => ?_, fun h hl => ?_, fun h hl => ?_⟩, fun s r e c c2 b q => ⟨fun h => ?_, fun h => ?_, fun h hout => ?_,
    fun h hblk hstate hrec => ?_, fun h hblk hstate hrec hbad hfixed => ?_, fun h => ?_, fun h => ?_, fun h hblk => ?_⟩⟩
  · exact exec_ctx_ok rfl h (brBody_of_lands hl)
  · exact exec_ctx_ok rfl h (callBody_of_lands hl)
  · exact exec_ctx_ok rfl h (jrBody_of_lands hl)
  · exact exec_ctx_ok rfl h (jrlBody_of_lands hl)
  · exact exec_ctx_ok rfl h (setS_eq _ e.d _ c)
  · exact exec_ctx_ok rfl h (setS_eq _ e.d _ c)
  · exact exec_ctx_ok rfl h (mfsDevtimeBody_of_recorded (recorded_out hout))
  · exact exec_ctx_ok rfl h (mfsDevtimeBody_of_recorded (recorded_of_primary hblk hstate rfl hrec))
  · exact exec_ctx_ok rfl h (mfsDevtimeBody_of_recorded (recorded_of_later hblk hstate hrec hbad hfixed))
  · exact exec_ctx_ok rfl h (setS_eq _ e.d _ c)
  · exact exec_ctx_ok rfl h (setS_eq _ e.d _ c)
  · exact exec_ctx_ok rfl h (endBody_of_no_block hblk)

end Sys2Proof.Machine

/-! SUPPORT and PROOFS. The instructions of an island's processor: scalar, memory and control rows (R59, R60, R63, R64, R146). -/

namespace Sys2Proof.Machine

/-- A command that a context and an island share leaves, at an island whose instruction runs, what the instruction's effect leaves. -/
theorem exec_isl_ok {s : State} {n : Instr} {i : Isl} {d : IDesc} {e : Enc} {body : Nat → Ex Unit} {isl : Isl → IEx Unit} {c c' : Chip}
    (hexec : exec n s = .next (s.withChip (s.toChip.either (.isl i) d e body (some isl)))) (h : IRuns s.toChip i d e c) (hb : isl i c = .ok ((), c')) :
    exec n s = .next (s.withChip c') :=
  exec_eq_next hexec (either_isl_ok body h hb)

theorem iex_bind_ok {α β : Type} {x : IEx α} {f : α → IEx β} {c c' : Chip} {a : α} (h : x c = .ok (a, c')) : (x >>= f) c = f a c' := by
  rw [iex_bind, h]

/-! ## Register instructions -/

/-- S[n] as an instruction reads it. -/
def IslSt.rs (x : IslSt) (n : Nat) : W64 := if n = 0 then 0 else x.file.s.get n 0

/-- The block after an instruction's write of S[n]. -/
def Chip.islWs (c : Chip) (i : Isl) (n : Nat) (v : W64) : Chip :=
  if n = 0 then c else c.updIsl i fun y => { y with file := { y.file with s := y.file.s.set n v } }

/-- The block after an instruction's write of P[n]. -/
def Chip.islWp (c : Chip) (i : Isl) (n : Nat) (b : Bool) : Chip := c.updIsl i fun y => { y with file := { y.file with p := setPred y.file.p n b } }

theorem igetS_rs (i : Isl) (n : Nat) (c : Chip) : igetS i n c = .ok ((c.isl i).rs n, c) := igetS_eq i n c
theorem isetS_islWs (i : Isl) (n : Nat) (v : W64) (c : Chip) : isetS i n v c = .ok ((), c.islWs i n v) := isetS_eq i n v c
theorem isetP_islWp (i : Isl) (n : Nat) (b : Bool) (c : Chip) : isetP i n b c = .ok ((), c.islWp i n b) := isetP_eq i n b c

section
variable {i : Isl} {e : Enc} {sub : Nat} {c : Chip}

theorem ialu_eq : ialu sub e i c = .ok ((), c.islWs i e.d (aluOp sub ((c.isl i).rs e.a) ((c.isl i).rs e.b))) := by
  rw [ialu, iex_bind_ok (igetS_rs i e.a c), iex_bind_ok (igetS_rs i e.b c), isetS_islWs]

theorem ialui_eq : ialui sub e i c = .ok ((), c.islWs i e.d (aluOp sub ((c.isl i).rs e.a) e.imm30)) := by
  rw [ialui, iex_bind_ok (igetS_rs i e.a c), isetS_islWs]

theorem icmp_eq : icmp sub e i c = .ok ((), c.islWp i e.d (cmpOp sub ((c.isl i).rs e.a) ((c.isl i).rs e.b))) := by
  rw [icmp, iex_bind_ok (igetS_rs i e.a c), iex_bind_ok (igetS_rs i e.b c), isetP_islWp]

theorem icmpi_eq : icmpi sub e i c = .ok ((), c.islWp i e.d (cmpOp sub ((c.isl i).rs e.a) e.imm30)) := by
  rw [icmpi, iex_bind_ok (igetS_rs i e.a c), isetP_islWp]

theorem iplog_eq : iplog sub e i c = .ok ((), c.islWp i e.d (plogOp sub ((c.isl i).rp e.a) ((c.isl i).rp e.b))) := by
  rw [iplog, iex_bind_ok (iget_eq i c), isetP_islWp]

/-! ## Loads and stores -/

variable {c2 : Chip}

theorem ild_of_loaded {v : Nat} (h : iload i ((c.isl i).rs e.a + e.imm30).toNat (ldBytes sub) c = .ok (v, c2)) :
    ild sub e i c = .ok ((), c2.islWs i e.d (ldExtend sub v)) := by
  rw [ild, iex_bind_ok (igetS_rs i e.a c), iex_bind_ok h, isetS_islWs]

theorem ist_of_stored (h : istore i ((c.isl i).rs e.a + e.imm30).toNat (leBytes (2 ^ (sub % 4)) ((c.isl i).rs e.d).toNat) c = .ok ((), c2)) :
    ist sub e i c = .ok ((), c2) := by
  rw [ist, iex_bind_ok (igetS_rs i e.a c), iex_bind_ok (igetS_rs i e.d c), h]

/-! ## Branches -/

/-- A branch may be taken to an address: it is 8-byte aligned and not below the instruction after an open block's CHKB (R60, R147). -/
def IslSt.lands (x : IslSt) (a : Nat) : Prop := a % 8 = 0 ∧ ∀ b, x.blk = some b → b.ia + 8 ≤ a

/-- A register write leaves the block open as it is. -/
theorem islWs_blk (c : Chip) (i : Isl) (n : Nat) (v : W64) : ((c.islWs i n v).isl i).blk = (c.isl i).blk := by
  unfold Chip.islWs
  split
  · rfl
  · rw [updIsl_isl_same]

theorem islWs_lands_iff {n a : Nat} {v : W64} : ((c.islWs i n v).isl i).lands a ↔ (c.isl i).lands a := by
  rw [IslSt.lands, islWs_blk, IslSt.lands]

/-- A branch that may be taken moves the address to its target, of which an island keeps every bit. -/
theorem ibranch_of_lands {a : Nat} (h : (c.isl i).lands a) : ibranch i a c = .ok ((), c.updIsl i fun y => { y with ia := a }) := by
  obtain ⟨halign, hinside⟩ := h
  cases hblk : (c.isl i).blk with
  | none => simp [ibranch, iex_bind, ineed_eq, hblk, halign]
  | some b => simp [ibranch, iex_bind, ineed_eq, hblk, halign, hinside b hblk]

/-- A return address is written before the branch, which it cannot change. -/
theorem ibranch_of_linked {n a : Nat} {v : W64} (h : (c.isl i).lands a) :
    (do isetS i n v; ibranch i a : IEx Unit) c = .ok ((), (c.islWs i n v).updIsl i fun y => { y with ia := a }) := by
  rw [iex_bind_ok (isetS_islWs i n v c), ibranch_of_lands (islWs_lands_iff.mpr h)]

theorem ibr_of_lands (h : (c.isl i).lands (brTarget ((c.isl i).ia - 8) e)) :
    ibr e i c = .ok ((), c.updIsl i fun y => { y with ia := brTarget ((c.isl i).ia - 8) e }) := by
  rw [ibr, iex_bind_ok (iget_eq i c), ibranch_of_lands h]

theorem icall_of_lands (h : (c.isl i).lands (brTarget ((c.isl i).ia - 8) e)) :
    icall e i c = .ok ((), (c.islWs i 31 (BitVec.ofNat 64 (c.isl i).ia)).updIsl i fun y => { y with ia := brTarget ((c.isl i).ia - 8) e }) := by
  rw [icall, iex_bind_ok (iget_eq i c), ibranch_of_linked h]

theorem ijr_of_lands (h : (c.isl i).lands ((c.isl i).rs e.a).toNat) :
    ijr e i c = .ok ((), c.updIsl i fun y => { y with ia := ((c.isl i).rs e.a).toNat }) := by
  rw [ijr, iex_bind_ok (igetS_rs i e.a c), ibranch_of_lands h]

theorem ijrl_of_lands (h : (c.isl i).lands ((c.isl i).rs e.a).toNat) :
    ijrl e i c = .ok ((), (c.islWs i e.d (BitVec.ofNat 64 (c.isl i).ia)).updIsl i fun y => { y with ia := ((c.isl i).rs e.a).toNat }) := by
  rw [ijrl, iex_bind_ok (igetS_rs i e.a c), iex_bind_ok (iget_eq i c), ibranch_of_linked h]

/-! ## Status reads and END -/

theorem imfsCsw_eq : imfsCsw e i c = .ok ((), c.islWs i e.d (BitVec.ofNat 64 (c.isl i).csw)) := by
  rw [imfsCsw, iex_bind_ok (iget_eq i c), isetS_islWs]

theorem imfsIaddr_eq : imfsIaddr e i c = .ok ((), c.islWs i e.d (BitVec.ofNat 64 ((c.isl i).ia - 8))) := by
  rw [imfsIaddr, iex_bind_ok (iget_eq i c), isetS_islWs]

/-- Outside a block a recorded value is the value itself. -/
theorem irecorded_of_no_block {act : IEx Nat} (h : (c.isl i).blk = none) : irecorded i act c = act c := by
  rw [irecorded, iex_bind_ok (iget_eq i c), h]

theorem imfsDevtime_of_no_block (h : (c.isl i).blk = none) : imfsDevtime e i c = .ok ((), c.islWs i e.d (BitVec.ofNat 64 (c.localTime (islDie i)))) := by
  rw [imfsDevtime, iex_bind_ok ((irecorded_of_no_block h).trans rfl), isetS_islWs]

/-- END outside a block halts the processor. -/
theorem iend_of_no_block (h : (c.isl i).blk = none) : iend i c = .ok ((), c.updIsl i fun y => { y with ended := true }) := by
  simp [iend, iex_bind, ineed_eq, h]

end

/-- Settles O46: each row is the effect of its body at the island. -/
theorem islandScalarResults : Obligations.IslandScalarResults := by
  intro s i e c c2 sub v
  refine ⟨fun h => ?_, fun h => ?_, fun h => ?_, fun h => ?_, fun h => ?_, fun h => ?_, fun h => ?_, fun h hload => ?_, fun h hstore => ?_, fun h hl => ?_,
    fun h hl => ?_, fun h hl => ?_, fun h hl => ?_, fun h hblk => ?_, fun h => ?_, fun h => ?_, fun h hblk => ?_⟩
  · exact exec_isl_ok rfl h (iex_pure () c)
  · exact exec_isl_ok rfl h ialu_eq
  · exact exec_isl_ok rfl h ialui_eq
  · exact exec_isl_ok rfl h (isetS_islWs i e.d e.x0 c)
  · exact exec_isl_ok rfl h icmp_eq
  · exact exec_isl_ok rfl h icmpi_eq
  · exact exec_isl_ok rfl h iplog_eq
  · exact exec_isl_ok rfl h (ild_of_loaded hload)
  · exact exec_isl_ok rfl h (ist_of_stored hstore)
  · exact exec_isl_ok rfl h (ibr_of_lands hl)
  · exact exec_isl_ok rfl h (ijr_of_lands hl)
  · exact exec_isl_ok rfl h (icall_of_lands hl)
  · exact exec_isl_ok rfl h (ijrl_of_lands hl)
  · exact exec_isl_ok rfl h (imfsDevtime_of_no_block hblk)
  · exact exec_isl_ok rfl h imfsCsw_eq
  · exact exec_isl_ok rfl h imfsIaddr_eq
  · exact exec_isl_ok rfl h (iend_of_no_block hblk)

end Sys2Proof.Machine

/-! SUPPORT and PROOFS. The traps of an island's processor (R67, R301, R305). -/

namespace Sys2Proof.Machine

/-! ## What a trap leaves -/

section
variable {c : Chip} {i : Isl}

/-- A trap of an island that is up and has none puts it in FAULT, with an error record (R301, R305). -/
theorem islTrap_of_up (htrap : (c.isl i).trap = 0) (hup : (c.isl i).up = true) (code : Nat) :
    c.islTrap i code = (c.updIsl i fun y => { y with trap := code, blk := none, wait := .none }).islErr i 1 0x18 code := by
  simp [Chip.islTrap, htrap, hup]

/-- A trapped island, or one that is down, takes no further trap. -/
theorem islTrap_of_trapped_or_down (h : (c.isl i).trap ≠ 0 ∨ (c.isl i).up = false) (code : Nat) : c.islTrap i code = c :=
  if_pos (h.imp_right fun hup => by rw [hup]; rfl)

theorem settleWord_isl (c : Chip) (w : Nat) (i : Isl) : (c.settleWord w).isl i = c.isl i := by
  cases i <;> rfl

/-- Storing bytes leaves the islands' processors as they are. -/
theorem putRaw_isl (c : Chip) (key : Nat) (bs : List Byte) (i : Isl) : (c.putRaw key bs).isl i = c.isl i := by
  have hfold : ∀ (ws : List (Nat × Nat)) (c : Chip), (ws.foldl (fun c w => c.settleWord w.1) c).isl i = c.isl i := by
    intro ws
    induction ws with
    | nil => exact fun c => rfl
    | cons w ws ih => exact fun c => (ih _).trans (settleWord_isl c w.1 i)
  rw [← hfold (c.badWords key bs.length) c]
  cases i <;> rfl

/-- A record in the ring leaves everything else of the processor. -/
theorem ringPut_isl (c : Chip) (i : Isl) (r : RingRec) :
    (c.ringPut i r).isl i = { c.isl i with ringIdx := (c.isl i).ringIdx + 1, ring := (c.isl i).ring ++ [r] } := by
  rw [Chip.ringPut, updIsl_isl_same, putRaw_isl]

/-- An error record leaves the trap and the block of the processor. -/
theorem islErr_keeps (c : Chip) (i : Isl) (sub cls synd : Nat) :
    ((c.islErr i sub cls synd).isl i).trap = (c.isl i).trap ∧ ((c.islErr i sub cls synd).isl i).blk = (c.isl i).blk := by
  simp [Chip.islErr, ringPut_isl]

/-- A processor in FAULT issues no instruction. -/
theorem not_islIssues_of_trap (h : (c.isl i).trap ≠ 0) : c.islIssues i = false := by
  simp [Chip.islIssues, h]

/-! ## Encodings that an Eflia-S processor does not decode -/

/-- With its base word fetched, such an encoding traps as ILLEGAL_INSTRUCTION (R67). -/
theorem islIllegal_of_fetched (hissues : c.islIssues i = true) (hia : (c.isl i).ia % 8 = 0) (hbase : islFetchOk (c.isl i).ia 0 = true) :
    c.islIllegal i = c.islTrap i ILLEGAL_INSTRUCTION := by
  simp [Chip.islIllegal, hissues, hia, hbase]

end

/-- Settles O47: an encoding that only contexts have is a trap at an island, and the trap's record leaves what the trap has set. -/
theorem islandTraps : Obligations.IslandTraps := by
  refine ⟨fun s i e hissues hia hbase => ?_, fun c i code hcode htrap hup => ?_, fun c i code => ⟨fun htrap hup => ?_, fun h => ?_⟩⟩
  · intro trap
    have traps {n : Instr} (hexec : exec n s = .next (s.withChip (s.toChip.islIllegal i))) : exec n s = trap :=
      exec_eq_next hexec (islIllegal_of_fetched hissues hia hbase)
    exact ⟨traps rfl, traps rfl, traps rfl, traps rfl, traps rfl, traps rfl, traps rfl, traps rfl, traps rfl, traps rfl, traps rfl, traps rfl, traps rfl,
      traps rfl, traps rfl, fun u => traps rfl, traps rfl, traps rfl, traps rfl, traps rfl, traps rfl, traps rfl⟩
  · rw [islTrap_of_up htrap hup]
    obtain ⟨hcodeKept, hblkKept⟩ := islErr_keeps (c.updIsl i fun y => { y with trap := code, blk := none, wait := .none }) i 1 0x18 code
    rw [updIsl_isl_same] at hcodeKept hblkKept
    exact ⟨hcodeKept, hblkKept, not_islIssues_of_trap (hcodeKept ▸ hcode)⟩
  · exact islTrap_of_up htrap hup code
  · exact islTrap_of_trapped_or_down h code

end Sys2Proof.Machine

/-! SUPPORT and PROOFS. The ALU's sub-operations as operations on integers (Scalar semantics, R59). -/

namespace Sys2Proof.Machine

/-! ## Words and the integers they stand for -/

/-- A word is zero exactly where its unsigned value is. -/
theorem word_eq_zero_iff_toNat {b : W64} : b = 0 ↔ b.toNat = 0 := BitVec.toNat_inj.symm

/-- A word is zero exactly where its signed value is. -/
theorem word_eq_zero_iff_toInt {b : W64} : b = 0 ↔ b.toInt = 0 := BitVec.toInt_inj.symm

/-- A number no larger than a word's value is a word of that value. -/
theorem toNat_ofNat_of_le {n : Nat} {a : W64} (h : n ≤ a.toNat) : (BitVec.ofNat 64 n).toNat = n :=
  Nat.mod_eq_of_lt (Nat.lt_of_le_of_lt h a.isLt)

/-- An integer in the signed range is a word of that value. -/
theorem toInt_ofInt_of_mem {n : Int} (hlo : -2 ^ 63 ≤ n) (hhi : n < 2 ^ 63) : (BitVec.ofInt 64 n).toInt = n :=
  BitVec.toInt_ofInt_eq_self (by decide) hlo hhi

theorem toInt_natAbs_le (a : W64) : a.toInt.natAbs ≤ 2 ^ 63 := by
  have hlo : -2 ^ 63 ≤ a.toInt := a.le_toInt
  have hhi : a.toInt < 2 ^ 63 := a.toInt_lt
  omega

/-- The amount of a shift is B[5:0]. -/
theorem shiftAmount_eq (b : W64) : fld b 5 0 = b.toNat % 64 := rfl

section
variable (a b : W64)

/-! ## Sums, shifts and products -/

theorem toNat_aluOp_sub : (aluOp 0x01 a b).toNat = (2 ^ 64 + a.toNat - b.toNat) % 2 ^ 64 := by
  have hsub : (aluOp 0x01 a b).toNat = (2 ^ 64 - b.toNat + a.toNat) % 2 ^ 64 := BitVec.toNat_sub a b
  rw [hsub, Nat.sub_add_comm (Nat.le_of_lt b.isLt)]

theorem toNat_aluOp_shl : (aluOp 0x05 a b).toNat = a.toNat * 2 ^ (b.toNat % 64) % 2 ^ 64 := by
  rw [aluOp, shiftAmount_eq, BitVec.toNat_shiftLeft, Nat.shiftLeft_eq]

theorem toNat_aluOp_shr : (aluOp 0x06 a b).toNat = a.toNat / 2 ^ (b.toNat % 64) := by
  rw [aluOp, shiftAmount_eq, BitVec.toNat_ushiftRight, Nat.shiftRight_eq_div_pow]

theorem toInt_aluOp_sra : (aluOp 0x07 a b).toInt = a.toInt / (2 ^ (b.toNat % 64) : Nat) := by
  rw [aluOp, shiftAmount_eq, BitVec.toInt_sshiftRight, Int.shiftRight_eq_div_pow]

theorem toNat_aluOp_mulhu : (aluOp 0x09 a b).toNat = a.toNat * b.toNat / 2 ^ 64 :=
  toNat_ofNat_of_le (a := a) (Nat.div_le_of_le_mul (Nat.mul_comm (2 ^ 64) _ ▸ Nat.mul_le_mul_left a.toNat (Nat.le_of_lt b.isLt)))

/-- The high half of a signed product is in range: the product lies between -2^126 and 2^126. -/
theorem toInt_aluOp_mulhs : (aluOp 0x0A a b).toInt = a.toInt * b.toInt / (2 ^ 64 : Nat) := by
  have hlo : -2 ^ 126 ≤ a.toInt * b.toInt := BitVec.le_toInt_mul_toInt
  have hhi : a.toInt * b.toInt ≤ 2 ^ 126 := BitVec.toInt_mul_toInt_le
  exact toInt_ofInt_of_mem (by omega) (by omega)

/-! ## The smaller and the larger -/

theorem toInt_aluOp_min : (aluOp 0x0B a b).toInt = min a.toInt b.toInt := by
  simp only [aluOp, apply_ite BitVec.toInt, BitVec.slt_iff_toInt_lt]
  split <;> omega

theorem toInt_aluOp_max : (aluOp 0x0C a b).toInt = max a.toInt b.toInt := by
  simp only [aluOp, apply_ite BitVec.toInt, BitVec.slt_iff_toInt_lt]
  split <;> omega

theorem toNat_aluOp_minu : (aluOp 0x0D a b).toNat = min a.toNat b.toNat := by
  simp only [aluOp, apply_ite BitVec.toNat, BitVec.ult_iff_toNat_lt]
  split <;> omega

theorem toNat_aluOp_maxu : (aluOp 0x0E a b).toNat = max a.toNat b.toNat := by
  simp only [aluOp, apply_ite BitVec.toNat, BitVec.ult_iff_toNat_lt]
  split <;> omega

/-! ## Division -/

theorem toNat_aluOp_divu : (aluOp 0x0F a b).toNat = if b.toNat = 0 then 2 ^ 64 - 1 else a.toNat / b.toNat := by
  simp only [aluOp, word_eq_zero_iff_toNat]
  split
  · rfl
  · exact toNat_ofNat_of_le (Nat.div_le_self a.toNat b.toNat)

theorem toNat_aluOp_remu : (aluOp 0x11 a b).toNat = if b.toNat = 0 then a.toNat else a.toNat % b.toNat := by
  simp only [aluOp, word_eq_zero_iff_toNat]
  split
  · rfl
  · exact toNat_ofNat_of_le (Nat.mod_le a.toNat b.toNat)

/-- The signed quotient overflows only for the smallest integer by -1, where it wraps round to that integer. -/
theorem toInt_aluOp_divs :
    (aluOp 0x10 a b).toInt = if b.toInt = 0 then -1 else if a.toInt = -2 ^ 63 ∧ b.toInt = -1 then -2 ^ 63 else a.toInt.tdiv b.toInt := by
  simp only [aluOp, divS, word_eq_zero_iff_toInt]
  split
  · rfl
  · split
    next h =>
      obtain ⟨ha, hb⟩ := h
      rw [ha, hb]
      rfl
    next h =>
      have hne : a ≠ BitVec.intMin 64 ∨ b ≠ -1#64 := by
        rw [← Decidable.not_and_iff_not_or_not]
        rintro ⟨rfl, rfl⟩
        exact h (by decide)
      rw [BitVec.toInt_ofInt, ← BitVec.toInt_sdiv, BitVec.toInt_sdiv_of_ne_or_ne a b hne]

theorem toInt_aluOp_rems : (aluOp 0x12 a b).toInt = if b.toInt = 0 then a.toInt else a.toInt.tmod b.toInt := by
  simp only [aluOp, remS, word_eq_zero_iff_toInt]
  split
  · rfl
  · have hlt : (a.toInt.tmod b.toInt).natAbs < b.toInt.natAbs := by
      rw [Int.natAbs_tmod]
      exact Nat.mod_lt _ (by omega)
    have hle := toInt_natAbs_le b
    exact toInt_ofInt_of_mem (by omega) (by omega)

end

/-- Settles O45: each sub-operation is its operation on the integers that the words stand for. -/
theorem aluTable : Obligations.AluTable := fun a b =>
  ⟨BitVec.toNat_add a b, toNat_aluOp_sub a b, toNat_aluOp_shl a b, toNat_aluOp_shr a b, toInt_aluOp_sra a b, BitVec.toNat_mul a b, toNat_aluOp_mulhu a b,
    toInt_aluOp_mulhs a b, toInt_aluOp_min a b, toInt_aluOp_max a b, toNat_aluOp_minu a b, toNat_aluOp_maxu a b, toNat_aluOp_divu a b, toInt_aluOp_divs a b,
    toNat_aluOp_remu a b, toInt_aluOp_rems a b⟩

end Sys2Proof.Machine

/-! SUPPORT and PROOFS. Scalar loads and stores of a context, and the descriptor moves (R37, R61, R63, R66). -/

namespace Sys2Proof.Machine

/-- A fault that is no CHECK_FAIL, raised by an instruction's own effect, is taken in the block in which the instruction was fetched. -/
theorem exec_ctx_trap {s : State} {i : Instr} {r : CtxRef} {d : IDesc} {e : Enc} {body : Nat → Ex Unit} {isl : Option (Isl → IEx Unit)} {c : Chip} {t : Trap}
    (hexec : exec i s = .next (s.withChip (s.toChip.either (.ctx r) d e body isl))) (h : Runs s.toChip r d e c) (hb : body (slotKey r) c = .error t)
    (hcls : t.cls ≠ CHECK_FAIL) : exec i s = .next (s.withChip (t.take (s.toChip.fetching r) (slotKey r) d.opc)) :=
  exec_eq_next hexec ((instr_trap h hb).trans (if_neg fun hfail => hcls hfail.1))

/-- A trap ends a sequence. -/
theorem ex_bind_error {α β : Type} {x : Ex α} {f : α → Ex β} {c : Chip} {t : Trap} (h : x c = .error t) : (x >>= f) c = .error t := by
  rw [ex_bind, h]

/-- Checks that pass leave what follows them. -/
theorem joined_of_ok {α : Type} {pre : Ex Unit} {act : Ex α} {c c' : Chip} (h : pre c = .ok ((), c')) : joined pre act c = act c' := by
  rw [joined, h]

section
variable {k : Nat} {e : Enc} {c c2 : Chip}

/-- The byte address of a load or store. -/
def Ctx.addr (x : Ctx) (e : Enc) : Nat := (x.rs e.a + e.imm30).toNat

/-- The 32-byte word that holds a descriptor. -/
def Ctx.descAddr (x : Ctx) (e : Enc) : Nat := x.addr e / 32 * 32

/-! ## Loads and stores -/

/-- LD extends the loaded bytes, where no value of an ASYNC window is to be recorded (R63). -/
theorem ldBody_of_loaded {sub v : Nat} (hasync : (c.asyncHit k ((c.ctx k).addr e) (ldBytes sub) && (c.ctx k).chk.isSome) = false)
    (hload : scalarLoad k ((c.ctx k).addr e) (ldBytes sub) c = .ok (v, c2)) :
    ldBody sub e k c = .ok ((), c2.updCtx k fun y => y.ws e.d (ldExtend sub v)) := by
  rw [Ctx.addr] at hasync hload
  rw [ldBody, ex_bind_ok (getS_eq k e.a c), ex_bind_ok (ex_get c), hasync, if_neg Bool.false_ne_true, ex_bind_ok hload, setS_eq]

/-- ST stores the low bytes (R63). -/
theorem stBody_of_stored {sub : Nat} (hstore : scalarStore k ((c.ctx k).addr e) (leBytes (2 ^ (sub % 4)) ((c.ctx k).rs e.d).toNat) c = .ok ((), c2)) :
    stBody sub e k c = .ok ((), c2) := by
  rw [stBody, ex_bind_ok (getS_eq k e.a c), ex_bind_ok (getS_eq k e.d c)]
  exact hstore

/-! ## Descriptors -/

/-- An access of 32 bytes has a width that no view takes (R156, R157). -/
theorem aliasBad_descriptor (kind off : Nat) : aliasBad kind off 32 = true := by
  unfold aliasBad
  split <;> rfl

/-- A load of 32 bytes through a view reads zero and is counted (R156). -/
theorem scalarLoad_descriptor_of_alias {a : Nat} (h : (localAlias a).isSome = true) :
    scalarLoad k a 32 c = .ok (0, c.bump (hallMemK (k / 8) 0x10)) := by
  obtain ⟨⟨kind, x⟩, hx⟩ := Option.isSome_iff_exists.mp h
  simp [scalarLoad, hx, aliasBad_descriptor, ex_map]

/-- The all-zero word is no descriptor, and its BASE is aligned (R37). -/
theorem checks_descFaults_zero (c : Chip) : checks (descFaults (BitVec.ofNat 256 0)) c = .error { cls := DESCRIPTOR, chip := c } :=
  rfl

/-- TDLD through a view is given the all-zero word, which it does not accept (R66, R156). -/
theorem tdldBody_of_alias (h : (localAlias ((c.ctx k).descAddr e)).isSome = true) :
    tdldBody e k c = .error { cls := DESCRIPTOR, chip := c.bump (hallMemK (k / 8) 0x10) } := by
  have hload := scalarLoad_descriptor_of_alias (k := k) (c := c) h
  rw [Ctx.descAddr, Ctx.addr] at h hload
  rw [tdldBody, ex_bind_ok (getS_eq k e.a c), ex_bind_ok (ex_get c), if_pos h, ex_bind_ok hload]
  exact ex_bind_error (checks_descFaults_zero _)

/-- TDLD of a word that is a descriptor loads it, where no value of an ASYNC window is to be recorded (R66). -/
theorem tdldBody_of_read {bs : List Byte} (hplain : (localAlias ((c.ctx k).descAddr e)).isSome = false)
    (hasync : (c.asyncHit k ((c.ctx k).descAddr e) 32 && (c.ctx k).chk.isSome) = false) (hread : rd k ((c.ctx k).descAddr e) 32 c = .ok (bs, c2))
    (hdesc : ∀ q ∈ descFaults (BitVec.ofNat 256 (leNat bs)), q.1 = false) :
    tdldBody e k c = .ok ((), c2.updCtx k fun y => { y with td := y.td.set e.d (BitVec.ofNat 256 (leNat bs)) }) := by
  have hval : (do return leNat (← rd k ((c.ctx k).descAddr e) 32) : Ex Nat) c = .ok (leNat bs, c2) := ex_bind_ok hread
  rw [Ctx.descAddr, Ctx.addr] at hplain hasync hval
  rw [tdldBody, ex_bind_ok (getS_eq k e.a c), ex_bind_ok (ex_get c), hplain, if_neg Bool.false_ne_true, hasync, if_neg Bool.false_ne_true]
  rw [ex_bind_ok hval]
  exact ex_bind_ok (checks_ok hdesc)

/-- TDST stores a descriptor whose RANK is not 0 (R61, R66). -/
theorem tdstBody_of_stored (hrank : (descOf ((c.ctx k).td.get e.d 0)).rank ≠ 0)
    (hstore : scalarStore k ((c.ctx k).descAddr e) (leBytes 32 ((c.ctx k).td.get e.d 0).toNat) c = .ok ((), c2)) :
    tdstBody e k c = .ok ((), c2) := by
  have hneed : need ((descOf ((c.ctx k).td.get e.d 0)).rank != 0) ILLEGAL_OPERAND c = .ok ((), c) := by
    rw [bne_iff_ne.mpr hrank, need_true]
  rw [tdstBody, ex_bind_ok (getS_eq k e.a c), ex_bind_ok (getTD_eq k e.d c), joined_of_ok hneed]
  exact hstore

/-- TDBASE replaces BASE where the result is a descriptor (R66). -/
theorem tdbaseBody_of_desc (hrank : (descOf ((c.ctx k).td.get e.d 0)).rank ≠ 0) (hbase : (c.ctx k).addr e < 2 ^ 48)
    (hdesc : ∀ q ∈ descFaults (setFld ((c.ctx k).td.get e.d 0) 47 0 ((c.ctx k).descAddr e)), q.1 = false) :
    tdbaseBody e k c =
      .ok ((), c.updCtx k fun y => { y with td := y.td.set e.d (setFld ((c.ctx k).td.get e.d 0) 47 0 ((c.ctx k).descAddr e)) }) := by
  have hpass : checks (((descOf ((c.ctx k).td.get e.d 0)).rank == 0, ILLEGAL_OPERAND) :: (decide (2 ^ 48 ≤ (c.ctx k).addr e), DESCRIPTOR) ::
      descFaults (setFld ((c.ctx k).td.get e.d 0) 47 0 ((c.ctx k).descAddr e))) c = .ok ((), c) := by
    rw [checks_cons _ _ _ (beq_false_of_ne hrank), checks_cons _ _ _ (decide_eq_false (Nat.not_le_of_lt hbase)), checks_ok hdesc]
  rw [Ctx.descAddr, Ctx.addr] at hpass ⊢
  rw [tdbaseBody, ex_bind_ok (getS_eq k e.a c), ex_bind_ok (getTD_eq k e.d c), ex_bind_ok hpass, setTD_eq]

end

/-- Settles O22: each row is the effect of its body; a descriptor through a view is the fault of its body. -/
theorem loadsAndStores : Obligations.LoadsAndStores := by
  intro s r e c c2 sub v bs
  refine ⟨fun h hasync hload => ?_, fun h hstore => ?_, fun h halias => ?_, fun h hplain hasync hread hdesc => ?_, fun h hrank hstore => ?_,
    fun h hrank hbase hdesc => ?_⟩
  · exact exec_ctx_ok rfl h (ldBody_of_loaded hasync hload)
  · exact exec_ctx_ok rfl h (stBody_of_stored hstore)
  · exact exec_ctx_trap rfl h (tdldBody_of_alias halias) (show DESCRIPTOR ≠ CHECK_FAIL by decide)
  · exact exec_ctx_ok rfl h (tdldBody_of_read hplain hasync hread hdesc)
  · exact exec_ctx_ok rfl h (tdstBody_of_stored hrank hstore)
  · exact exec_ctx_ok rfl h (tdbaseBody_of_desc hrank hbase hdesc)

end Sys2Proof.Machine

/-! SUPPORT and PROOFS. Loop Engine channels, and the registers of an island (R300, R310, R318, R320, R321, R322, R357). -/

namespace Sys2Proof.Machine

/-! ## The sample of a channel -/

@[simp] theorem updCh_reg (c : Chip) (i : Isl) (n : Nat) (f : LeCh → LeCh) (k : RegKey) : (c.updCh i n f).reg k = c.reg k := by
  cases i <;> rfl

/-- A sample of the channel is due at DEVTIME `g`: the island is up with its safe outputs not yet taken, the engine is on, the channel has no
    sample of that time or later, and `g` stands at its period and phase (R318). -/
def Chip.sampleDue (c : Chip) (i : Isl) (n g : Nat) : Prop :=
  let cfg := c.reg (chK i n 0)
  (c.isl i).up = true ∧ (c.isl i).safe = false ∧ c.leOn i = true ∧ (∀ u, ((c.isl i).ch n).last = some u → u < g) ∧ chPer cfg ≠ 0 ∧ g / 1000 % chPer cfg = chPhase cfg

section
variable (c : Chip) (i : Isl) (n g : Nat) (held : Bool)

/-- The block once the channel's sample has its time. -/
def Chip.sampleBegun : Chip := c.updCh i n fun h => { h with last := some g }

/-- The bank switch of a sample (R322). -/
def Chip.sampleBank : Chip := (c.sampleBegun i n g).updCh i n fun h => h.swap (bits (c.reg (chK i n 0x10)) 0 0)

/-- The channel that a sample reads its bank words from. -/
def Chip.sampled : LeCh := ((c.sampleBank i n g).isl i).ch n

/-- Word `j` of the bank that a sample uses. -/
def Chip.sampledWord (j : Nat) : Nat := (c.sampled i n g).word (c.sampled i n g).bankact j

/-- The measurement of a sample (R318). -/
def Chip.measured : Nat :=
  fadd32 (fmul32 (c.sampledWord i n g 8) ((c.sampleBegun i n g).leSource i n (c.reg (chK i n 8)))) (c.sampledWord i n g 9)

/-- The block once the waiting command is taken (R320). -/
def Chip.commanded : Chip := (c.sampleBank i n g).leCommand i n (c.measured i n g) held

/-- The state in which the channel then is. -/
def Chip.commandedSt : Nat := (((c.commanded i n g held).isl i).ch n).st

/-- The source of a sample is lost. -/
def Chip.sourceLost : Bool := (c.sampleBegun i n g).srcLost i (c.reg (chK i n 8)) (chPer (c.reg (chK i n 0))) g

/-- The measurement is not finite, or outside the bank's limits (R318). -/
def Chip.inputOutside : Bool :=
  !fin32 (c.measured i n g) || flt32 (c.measured i n g) (c.sampledWord i n g 10) || flt32 (c.sampledWord i n g 11) (c.measured i n g)

variable {c i n g held} {ev : LeEval} {late : Bool}

/-- A sample that is not due changes nothing. -/
theorem chSampleAt_of_not_due (h : ¬ c.sampleDue i n g) : c.chSampleAt i n g ev late held = c := by
  refine if_pos (Classical.byContradiction fun hno => h ?_)
  cases hl : ((c.isl i).ch n).last <;> simpa [Chip.sampleDue, hl, and_assoc] using hno

/-- A sample that is due takes the bank switch and the command, and then does what its state and its checks call for (R318, R320, R322). -/
theorem chSampleAt_of_due (h : c.sampleDue i n g) :
    c.chSampleAt i n g ev late held =
      if c.commandedSt i n g held = 0 ∨ c.commandedSt i n g held = 4 then c.commanded i n g held
      else if c.sourceLost i n g then (c.commanded i n g held).leTrip i n 6
      else if c.inputOutside i n g then (c.commanded i n g held).leTrip i n 1
      else if (c.sampled i n g).limitsBad (c.sampled i n g).bankact then (c.commanded i n g held).leTrip i n 2
      else (c.commanded i n g held).leEval i n g (c.measured i n g) ev late := by
  obtain ⟨hup, hsafe, hon, hlater, hper, hphase⟩ := h
  simp only [Chip.chSampleAt, updCh_reg]
  rw [if_neg]
  · rfl
  · cases hl : ((c.isl i).ch n).last with
    | none => simp [hup, hsafe, hon, hper, hphase]
    | some u => simp [hup, hsafe, hon, hper, hphase, hlater u hl]

/-- OFF and TRIPPED channels evaluate nothing (R320). -/
theorem chSampleAt_of_stopped (h : c.sampleDue i n g) (hst : c.commandedSt i n g held = 0 ∨ c.commandedSt i n g held = 4) :
    c.chSampleAt i n g ev late held = c.commanded i n g held :=
  (chSampleAt_of_due h).trans (if_pos hst)

section
variable (h : c.sampleDue i n g) (hoff : c.commandedSt i n g held ≠ 0) (htripped : c.commandedSt i n g held ≠ 4)
include h hoff htripped

/-- A running channel whose source is lost trips for that, whatever its input is (R318). -/
theorem chSampleAt_of_lost (hlost : c.sourceLost i n g = true) : c.chSampleAt i n g ev late held = (c.commanded i n g held).leTrip i n 6 := by
  rw [chSampleAt_of_due h, if_neg (not_or.mpr ⟨hoff, htripped⟩), if_pos hlost]

variable (hlost : c.sourceLost i n g = false)
include hlost

theorem chSampleAt_of_outside (hout : c.inputOutside i n g = true) : c.chSampleAt i n g ev late held = (c.commanded i n g held).leTrip i n 1 := by
  rw [chSampleAt_of_due h, if_neg (not_or.mpr ⟨hoff, htripped⟩), if_neg (Bool.eq_false_iff.mp hlost), if_pos hout]

variable (hin : c.inputOutside i n g = false)
include hin

theorem chSampleAt_of_limitsBad (hbad : (c.sampled i n g).limitsBad (c.sampled i n g).bankact = true) :
    c.chSampleAt i n g ev late held = (c.commanded i n g held).leTrip i n 2 := by
  rw [chSampleAt_of_due h, if_neg (not_or.mpr ⟨hoff, htripped⟩), if_neg (Bool.eq_false_iff.mp hlost), if_neg (Bool.eq_false_iff.mp hin), if_pos hbad]

/-- Without a trip the law is evaluated (R318). -/
theorem chSampleAt_of_good (hgood : (c.sampled i n g).limitsBad (c.sampled i n g).bankact = false) :
    c.chSampleAt i n g ev late held = (c.commanded i n g held).leEval i n g (c.measured i n g) ev late := by
  rw [chSampleAt_of_due h, if_neg (not_or.mpr ⟨hoff, htripped⟩), if_neg (Bool.eq_false_iff.mp hlost), if_neg (Bool.eq_false_iff.mp hin),
    if_neg (Bool.eq_false_iff.mp hgood)]

end

/-- A sample is taken at the microsecond at which the island's own DEVTIME copy stands. -/
theorem channelSample_of_instant (h : c.instant (islDie i) 1000 = some g) : c.channelSample i n ev late held = c.chSampleAt i n g ev late held := by
  rw [Chip.channelSample, h]

theorem channelSample_of_no_instant (h : c.instant (islDie i) 1000 = none) : c.channelSample i n ev late held = c := by
  rw [Chip.channelSample, h]

end

/-! ## Writes of an island's registers -/

section
variable {c : Chip} {k q : RegKey} (hq : (c.settleFor k).unmirror k = q) {n : Nat} {row : RegRow} {i : Isl} {m : Master} {v : Nat}
  (hok : regBad q n = false) (hrow : regRow q.whole = some row) (hblk : q.blk = .isl i) (hmay : (c.settleFor k).islMay i m row.acc q.off v = true)
include hq hok hrow hblk hmay

/-- A 32-bit write of a bank word by a master that may make it stores the word (R321). -/
theorem regWrite_of_coefficient {ch b x : Nat} (hn : n = 4) (hrw : row.acc = .rw) (hbank : bankWord q.off = some (ch, b, x))
    (hvalid : row.ok (setBits ((c.settleFor k).live q.whole) (q.off % 8 * 8 + 31) (q.off % 8 * 8) v) = true) :
    c.regWrite m k n v = (c.settleFor k).coefWrite i ch b x [v % 2 ^ 32] := by
  have hwhole : q.whole.blk = .isl i := hblk
  subst hn
  rw [hrw] at hmay
  simp only [Chip.regWrite, hq, hok, hrow, hrw, hwhole, hmay, hbank]
  simp [hvalid]

/-- A whole write of another write-one-to-set register, by a master that may make it (R4, R300). -/
theorem regWrite_of_isl_w1s (hn : n = 8) (hw1s : row.acc = .w1s) (hbank : bankWord q.off = none) (hvalid : row.ok (v % 2 ^ 64) = true) :
    c.regWrite m k n v = (c.settleFor k).writeIsl i m q.whole.off row.mask (v % 2 ^ 64) := by
  have hwhole : q.whole.blk = .isl i := hblk
  subst hn
  rw [hw1s] at hmay
  simp only [Chip.regWrite, hq, hok, hrow, hw1s, hwhole, hmay, hbank]
  simp [hvalid, -Nat.reducePow]

end

/-- The table's row of SI_STOPREQ. -/
def stopreqRow : RegRow := { off := 0x18, acc := .w1s, mask := 7 }

theorem whole_stopreq (i : Isl) : (siK i 0x18).whole = siK i 0x18 := by
  simp [siK, RegKey.whole]

theorem islRow_stopreq : islRow 0x18 = some stopreqRow := rfl

theorem regRow_stopreq (i : Isl) : regRow (siK i 0x18).whole = some stopreqRow := by
  rw [whole_stopreq]
  exact islRow_stopreq

theorem regBad_stopreq (i : Isl) : regBad (siK i 0x18) 8 = false := by
  rw [regBad, regRow_stopreq]
  simp [sizeBad, siK]

/-- SI_STOPREQ collects the bits that are written (R310). -/
theorem writeIsl_stopreq (c : Chip) (i : Isl) (m : Master) (v : Nat) :
    c.writeIsl i m 0x18 7 v = c.setReg (siK i 0x18) (Nat.lor (c.reg (siK i 0x18)) (Nat.land v 7)) := rfl

/-- A bit of SI_STOPREQ is a writable bit. -/
theorem stopreq_bit_writable (b : Fin 3) : Nat.land (2 ^ b.val % 2 ^ 64) stopreqRow.mask = 2 ^ b.val := by
  revert b
  decide

/-- A bit of SI_STOPREQ that its master may set is set, and the others stay (R310). -/
theorem regWrite_stopreq_of_may {c : Chip} {i : Isl} {m : Master} {b : Fin 3} (hmay : (c.leSettle i).islMay i m .w1s 0x18 (2 ^ b.val) = true) :
    c.regWrite m (siK i 0x18) 8 (2 ^ b.val) = (c.leSettle i).setReg (siK i 0x18) (Nat.lor ((c.leSettle i).reg (siK i 0x18)) (2 ^ b.val)) := by
  rw [regWrite_of_isl_w1s (q := siK i 0x18) rfl (regBad_stopreq i) (regRow_stopreq i) rfl hmay rfl rfl rfl rfl, whole_stopreq]
  exact (writeIsl_stopreq _ i m _).trans (congrArg (fun bit => Chip.setReg _ _ (Nat.lor _ bit)) (stopreq_bit_writable b))

/-- One bank word is stored (R321). -/
theorem coefWrite_singleton (c : Chip) (i : Isl) (ch b x v : Nat) :
    c.coefWrite i ch b x [v % 2 ^ 32] = c.updCh i ch fun h => { h with words := h.words.set (128 * b + x) (v % 2 ^ 32) } := by
  simp [Chip.coefWrite]

/-- Settles O19: a sample is the branch of its state and its first check that fails; each register command is the write of its register. -/
theorem loopEngineAndIslandRegisters : Obligations.LoopEngineAndIslandRegisters := by
  constructor
  · intro s i n t g ev late c cfg route at' due c0 sw h w y c1 st lost inside is waits
    have sampled (hat : at') {o : Chip} (ho : c.chSampleAt i n.val g ev late (s.chHeld i n.val) = o) : is o :=
      exec_eq_next rfl ((channelSample_of_instant hat).trans ho)
    refine ⟨fun hat hdue hst => ?_, fun hat hdue hoff htripped hlost => ?_, fun hat hdue hoff htripped hlost hin => ?_,
      fun hat hdue hoff htripped hlost hin hbad => ?_, fun hat hdue hoff htripped hlost hin hgood => ?_, fun hat hdue => ?_, fun hat => ?_, rfl, rfl, rfl, rfl⟩
    · exact sampled hat (chSampleAt_of_stopped hdue hst)
    · exact sampled hat (chSampleAt_of_lost hdue hoff htripped hlost)
    · exact sampled hat (chSampleAt_of_outside hdue hoff htripped hlost (eq_true_of_ne_false hin))
    · exact sampled hat (chSampleAt_of_limitsBad hdue hoff htripped hlost hin hbad)
    · exact sampled hat (chSampleAt_of_good hdue hoff htripped hlost hin hgood)
    · exact sampled hat (chSampleAt_of_not_due hdue)
    · exact exec_eq_next rfl (channelSample_of_no_instant hat)
  · intro s i m b n bank w v row c0 q
    refine ⟨fun hmay => ?_, fun hok hrow hrw hmay hvalid hbank => ?_, rfl⟩
    · exact exec_eq_next rfl (regWrite_stopreq_of_may hmay)
    · exact exec_eq_next rfl ((regWrite_of_coefficient (c := s.toChip) (k := q) rfl hok hrow rfl (hrw ▸ hmay) rfl hrw hbank hvalid).trans (coefWrite_singleton ..))

end Sys2Proof.Machine

/-! SUPPORT and PROOFS. Vector instructions: loads and stores, elements, and reductions (R98-R101). -/

namespace Sys2Proof.Machine

/-! ## Sequencing -/

section
variable {α β : Type} {c c' : Chip}

/-- A requirement that holds leaves what follows it. -/
theorem ex_bind_need {b : Bool} (h : b = true) (cls : Nat) (f : Unit → Ex α) : (need b cls >>= f) c = f () c := by
  subst h
  exact ex_bind_ok (need_true cls c)

/-- A choice between two actions, one of which succeeds, goes on with its answer. -/
theorem ex_bind_ite_ok {p : Prop} [Decidable p] {x y : Ex α} {f : α → Ex β} {v : α} (h : (if p then x else y) c = .ok (v, c')) :
    (if p then x >>= f else y >>= f) c = f v c' := by
  rw [← apply_ite (· >>= f)]
  exact ex_bind_ok h

end

/-! ## Rows that only contexts have -/

/-- Command `i` is the instruction of slot `r` with this decode and this effect, and no island has it. -/
def CtxRow (s : State) (i : Instr) (r : CtxRef) (d : IDesc) (e : Enc) (body : Nat → Ex Unit) : Prop :=
  exec i s = .next (s.withChip (s.toChip.either (.ctx r) d e body none))

/-- Such a command leaves, where its instruction runs, what the instruction's effect leaves. -/
theorem CtxRow.leaves {s : State} {i : Instr} {r : CtxRef} {d : IDesc} {e : Enc} {body : Nat → Ex Unit} {c c' : Chip} (hrow : CtxRow s i r d e body)
    (h : Runs s.toChip r d e c) (hb : body (slotKey r) c = .ok ((), c')) : exec i s = .next (s.withChip c') :=
  exec_ctx_ok hrow h hb

/-! ## Lanes -/

/-- The context with the enabled elements of V[VD] replaced (R98). -/
def Ctx.setLanes (x : Ctx) (e : Enc) (f : Nat → W32) : Ctx :=
  { x with v := x.v.setAll (((List.range 256).filter (x.von e)).map fun i => (e.vd * 256 + i, f i)) }

/-- The context with every element of V[VD] at one word (R101). -/
def Ctx.fillLanes (x : Ctx) (e : Enc) (w : W32) : Ctx :=
  { x with v := x.v.setAll ((List.range 256).map fun i => (e.vd * 256 + i, w)) }

section
variable (k : Nat) (e : Enc) (c : Chip)

@[simp] theorem setV_eq (f : Nat → W32) : setV k e f c = .ok ((), c.updCtx k fun x => x.setLanes e f) := rfl

/-- An operation whose elements are worked out from the context's registers writes them to the enabled lanes. -/
theorem setV_of_ctx (f : Ctx → Nat → W32) : (ctxOf k >>= fun x => setV k e (f x)) c = .ok ((), c.updCtx k fun x => x.setLanes e (f (c.ctx k))) :=
  (ex_bind_ok (ctxOf_eq k c)).trans (setV_eq k e c _)

end

/-! ## Loads, stores and broadcasts -/

section
variable {k : Nat} {e : Enc} {c c2 : Chip} {bs : List Byte}

/-- Element `i` of the 1,024 bytes that VLD reads (R99). -/
def vldWord (bs : List Byte) (i : Nat) : W32 := BitVec.ofNat 32 (leNat ((List.range 4).map fun j => bs.toArray.getD (4 * i + j) 0))

theorem vldBody_of_read (haddr : vecAddr ((c.ctx k).rs e.saV).toNat 1024 = true) (hread : rd k ((c.ctx k).rs e.saV).toNat 1024 c = .ok (bs, c2)) :
    vldBody e k c = .ok ((), c2.updCtx k fun x => x.setLanes e (vldWord bs)) := by
  rw [vldBody, ex_bind_ok (getS_eq k e.saV c), ex_bind_need haddr, ex_bind_ok hread, setV_eq]
  rfl

theorem vldBcBody_of_read (haddr : vecAddr ((c.ctx k).rs e.saV).toNat 4 = true) (hread : rd k ((c.ctx k).rs e.saV).toNat 4 c = .ok (bs, c2)) :
    vldBcBody e k c = .ok ((), c2.updCtx k fun x => x.setLanes e fun _ => BitVec.ofNat 32 (leNat bs)) := by
  rw [vldBcBody, ex_bind_ok (getS_eq k e.saV c), ex_bind_need haddr, ex_bind_ok hread, setV_eq]

/-- The bytes of the enabled elements, by 64-element unit, as VST stores them at address `a` (R99). -/
def Ctx.vstCells (x : Ctx) (e : Enc) (a : Nat) : List (Nat × Nat × Byte) :=
  ((List.range 256).filter (x.von e)).flatMap fun i => (leBytes 4 (x.rv e.va i).toNat).zipIdx.map fun q => (i / 64, a + 4 * i + q.2, q.1)

theorem vstBody_of_stored (haddr : vecAddr ((c.ctx k).rs e.saV).toNat 1024 = true)
    (hstore : emit k false ((c.ctx k).vstCells e ((c.ctx k).rs e.saV).toNat) c = .ok ((), c2)) : vstBody e k c = .ok ((), c2) := by
  rw [vstBody, ex_bind_ok (getS_eq k e.saV c), ex_bind_need haddr, ex_bind_ok (ctxOf_eq k c)]
  exact hstore

theorem vbcastBody_eq : vbcastBody e k c = .ok ((), c.updCtx k fun x => x.setLanes e fun _ => ((c.ctx k).rs e.saV).setWidth 32) := by
  rw [vbcastBody, ex_bind_ok (getS_eq k e.saV c), setV_eq]

end

/-! ## Elements -/

/-- Element `j` of V[q] as an FP32 value. -/
def Ctx.rvF (x : Ctx) (q j : Nat) : FV := f32 (x.rv q j).toNat

/-- The comparison of VCMP by SUB (R98). -/
def vcmpOp (sub : Nat) (a b : FV) : Bool := match sub with
  | 0 => a.eq b
  | 1 => a.lt b
  | _ => a.le b

section
variable (sub k : Nat) (e : Enc) (c : Chip)

theorem varithBody_eq :
    varithBody sub e k c = .ok ((), c.updCtx k fun y => y.setLanes e fun j =>
      BitVec.ofNat 32 (varith sub ((c.ctx k).rvF e.va j) ((c.ctx k).rvF e.vb j) ((c.ctx k).rvF e.vc j))) :=
  setV_of_ctx k e c fun x j => BitVec.ofNat 32 (varith sub (x.rvF e.va j) (x.rvF e.vb j) (x.rvF e.vc j))

theorem vactBody_eq : vactBody sub e k c = .ok ((), c.updCtx k fun y => y.setLanes e fun j => BitVec.ofNat 32 (vactFn sub ((c.ctx k).rvF e.va j))) :=
  setV_of_ctx k e c fun x j => BitVec.ofNat 32 (vactFn sub (x.rvF e.va j))

theorem vcmpBody_eq :
    vcmpBody sub e k c = .ok ((), c.updCtx k fun y => y.setLanes e fun j =>
      if vcmpOp sub ((c.ctx k).rvF e.va j) ((c.ctx k).rvF e.vb j) then 0xFFFFFFFF#32 else 0#32) :=
  setV_of_ctx k e c fun x j => if vcmpOp sub (x.rvF e.va j) (x.rvF e.vb j) then 0xFFFFFFFF#32 else 0#32

end

/-! ## Reductions -/

/-- What a disabled element enters a reduction as, by SUB (R101). -/
def vredIdent (sub : Nat) : FV := if sub = 0 then FV.zero else .inf (sub == 1)

/-- The step of a reduction, by SUB (R101). -/
def vredOp (sub : Nat) : FV → FV → FV := match sub with
  | 0 => fun a b => r32 (a.add b)
  | 1 => FV.max
  | _ => FV.min

/-- The tree of a reduction over V[VA] (R101). -/
def Ctx.vredWord (x : Ctx) (e : Enc) (ident : FV) (op : FV → FV → FV) : W32 :=
  BitVec.ofNat 32 (rne32 ((treeFold op 8 ((List.range 256).map fun j => if x.von e j then x.rvF e.va j else ident)).headD FV.zero))

theorem vredBody_eq (sub k : Nat) (e : Enc) (c : Chip) :
    vredBody sub e k c = .ok ((), c.updCtx k fun y => y.fillLanes e ((c.ctx k).vredWord e (vredIdent sub) (vredOp sub))) :=
  ex_bind_ok (ctxOf_eq k c)

/-- Settles O49: each row is the effect of its body, an elementwise one that of `setV` on the elements it works out from the registers. -/
theorem vectorUnit : Obligations.VectorUnit := by
  refine ⟨fun s r e c c2 bs => ⟨fun h haddr hread => ?_, fun h haddr hstore => ?_, fun h haddr hread => ?_, fun h => ?_⟩, ?_, ?_⟩
  · exact CtxRow.leaves rfl h (vldBody_of_read haddr hread)
  · exact CtxRow.leaves rfl h (vstBody_of_stored haddr hstore)
  · exact CtxRow.leaves rfl h (vldBcBody_of_read haddr hread)
  · exact CtxRow.leaves rfl h vbcastBody_eq
  · intro s r e c k x g row arith act cmp
    have lanes {d i f body} (hrow : CtxRow s i r d e body) (hbody : body k c = .ok ((), c.updCtx k fun y => y.setLanes e f)) : row d i f :=
      fun h => hrow.leaves h hbody
    have arithmetic {sub i} (hrow : CtxRow s i r _ e (varithBody sub e)) : arith sub i := lanes hrow (varithBody_eq sub k e c)
    have activation {sub i} (hrow : CtxRow s i r _ e (vactBody sub e)) : act sub i := lanes hrow (vactBody_eq sub k e c)
    have comparison {sub i} (hrow : CtxRow s i r _ e (vcmpBody sub e)) : cmp sub (vcmpOp sub) i := lanes hrow (vcmpBody_eq sub k e c)
    exact ⟨arithmetic rfl, arithmetic rfl, arithmetic rfl, arithmetic rfl, arithmetic rfl, arithmetic rfl,
      lanes rfl (setV_of_ctx k e c fun x j => x.rv e.va j &&& 0x7FFFFFFF#32), lanes rfl (setV_of_ctx k e c fun x j => x.rv e.va j ^^^ 0x80000000#32),
      activation rfl, activation rfl, activation rfl, activation rfl, activation rfl, activation rfl, activation rfl, activation rfl,
      comparison rfl, comparison rfl, comparison rfl,
      lanes rfl (setV_of_ctx k e c fun x j => if x.rv e.vc j != 0 then x.rv e.va j else x.rv e.vb j),
      lanes rfl (setV_of_ctx k e c fun x j => BitVec.ofInt 32 (convInt 32 (x.rvF e.va j)).1),
      lanes rfl (setV_of_ctx k e c fun x j => BitVec.ofNat 32 (rne32 (FV.ofInt (x.rv e.va j).toInt)))⟩
  · intro s r e c k x row
    have reduction {sub i} (hrow : CtxRow s i r _ e (vredBody sub e)) : row sub (vredIdent sub) (vredOp sub) i :=
      fun h => hrow.leaves h (vredBody_eq sub k e c)
    exact ⟨reduction rfl, reduction rfl, reduction rfl⟩

end Sys2Proof.Machine

/-! SUPPORT and PROOFS. Matrix products, convolutions and accumulator moves (R79-R92). -/

namespace Sys2Proof.Machine

@[simp] theorem descAt_eq (k i : Nat) (c : Chip) : descAt k i c = .ok (descOf ((c.ctx k).td.get i 0), c) := rfl

@[simp] theorem finishFlags_eq (k sp : Nat) (f : NumFlags) (c : Chip) : finishFlags k sp f c = .ok ((), c.noteFlags k sp f) := rfl

section
variable {k : Nat} {e : Enc} {c c1 c2 c3 c4 : Chip}

/-- Without CE there is no operand C to read (R73). -/
theorem readC_of_no_ce (hce : e.ce = false) (od : Desc) : readC k e od c = .ok (none, c) := by
  rw [readC, hce]
  rfl

/-! ## Products -/

section
variable {a b od : Desc} (ha : descAt k e.a c = .ok (a, c)) (hb : descAt k e.b c = .ok (b, c)) (hd : descAt k e.d c = .ok (od, c))
  {o : MacOp} {p : MacProd}
include ha hb hd

theorem prodWrite_of_written {co : Option COp} {f : NumFlags} (hok : ∀ q ∈ c.macFaults k o true e a b od, q.1 = false) (hread : o.read k e a b c = .ok (p, c2))
    (hC : readC k e od c2 = .ok (co, c3))
    (hwrite : writeTensor k od (((c3.ctx k).prodVals e p co).map Prod.fst) e.sr e.seed (fun j => p.unit (j / p.n)) c3 = .ok (f, c4)) :
    prodWrite o e k c = .ok ((), (c4.updCtx k fun x => x.zeroTiles e.acc).noteFlags k e.sp (f.or { sat := ((c3.ctx k).prodVals e p co).any Prod.snd })) := by
  rw [prodWrite, ex_bind_ok ha, ex_bind_ok hb, ex_bind_ok hd, ex_bind_ok (ex_get c), ex_bind_ok (ex_get c), ex_bind_ok (checksAt_ok _ hok),
    ex_bind_ok hread, ex_bind_ok hC, ex_bind_ok (ctxOf_eq k c3), ex_bind_ok hwrite, ex_bind_ok (updC_eq ..), finishFlags_eq]

theorem prodAcc_of_sensed (hok : ∀ q ∈ c.macFaults k o false e a b od, q.1 = false) (hread : o.read k e a b c = .ok (p, c2))
    (hsense : senseTiles k (((c2.ctx k).accVals e p).map Prod.fst) c2 = .ok ((), c3)) :
    prodAcc o e k c = .ok ((), ((c3.updCtx k fun x => x.setAcc (some p.int) (((c2.ctx k).accVals e p).map fun q => (q.1, BitVec.ofNat 32 q.2.1))).cleanTiles k
        (((c2.ctx k).accVals e p).map Prod.fst)).noteFlags k e.sp
      { sat := ((c2.ctx k).accVals e p).any fun q => q.2.2, nan := !p.int && ((c2.ctx k).accVals e p).any fun q => f32 q.2.1 == .nan }) := by
  rw [prodAcc, ex_bind_ok ha, ex_bind_ok hb, ex_bind_ok hd, ex_bind_ok (ex_get c), ex_bind_ok (ex_get c), ex_bind_ok (checksAt_ok _ hok),
    ex_bind_ok hread, ex_bind_ok (ctxOf_eq k c2), ex_bind_ok hsense, ex_bind_ok (updC_eq ..), ex_bind_ok (ex_modify ..), finishFlags_eq]

end

/-! ## Accumulator moves -/

/-- Work unit of linear element `i` of a tensor that tiles are moved to (R82). -/
def Desc.accUnitOf (od : Desc) (i : Nat) : Nat := (accUnit od (i / od.len)).1

section
variable {od : Desc} (hd : descAt k e.d c = .ok (od, c)) (hok : ∀ q ∈ c.accstFaults k e od, q.1 = false)
include hd hok

/-- ACCST through the epilogue (R83). -/
theorem accstBody_of_written {co : Option COp} {f : NumFlags} (hC : readC k e od c = .ok (co, c1))
    (hsense : senseTiles k ((c1.ctx k).tileKeysOf e od true) c1 = .ok ((), c2)) (hraw : bit e.prm 0 = false)
    (hwrite : writeTensor k od ((c1.ctx k).accstVals e od co) e.sr e.seed od.accUnitOf c2 = .ok (f, c3)) :
    accstBody e k c = .ok ((), c3.noteFlags k e.sp f) := by
  rw [accstBody, ex_bind_ok hd, ex_bind_ok (ex_get c), ex_bind_ok (ex_get c), ex_bind_ok (checksAt_ok _ hok), ex_bind_ok hC, ex_bind_ok (ctxOf_eq k c1),
    ex_bind_ok hsense, hraw, if_neg Bool.false_ne_true]
  exact ex_bind_ok hwrite

/-- ACCST.RAW (R83). -/
theorem accstBody_of_raw {cells : List (Nat × Nat × Byte)} (hce : e.ce = false) (hraw : bit e.prm 0 = true)
    (hsense : senseTiles k ((c.ctx k).tileKeysOf e od true) c = .ok ((), c1))
    (hcells : elemCells k od ((c.ctx k).accstRaw e od) od.accUnitOf c1 = .ok (cells, c2)) (hemit : emit k (od.pol == 0) cells c2 = .ok ((), c3)) :
    accstBody e k c = .ok ((), c3.noteFlags k e.sp { nan := ((c.ctx k).accstRaw e od).any fun w => w.any fun n => f32 n == .nan }) := by
  rw [accstBody, ex_bind_ok hd, ex_bind_ok (ex_get c), ex_bind_ok (ex_get c), ex_bind_ok (checksAt_ok _ hok), ex_bind_ok (readC_of_no_ce hce od),
    ex_bind_ok (ctxOf_eq k c), ex_bind_ok hsense, if_pos hraw]
  exact (ex_bind_ok hcells).trans (ex_bind_ok hemit)

end

theorem accldBody_of_read {a : Desc} (ha : descAt k e.a c = .ok (a, c)) {es : List Nat} (hok : ∀ q ∈ c.accldFaults k e a, q.1 = false)
    (hread : readRaw k a c = .ok (es, c1)) (hsense : senseTiles k ((c1.ctx k).tileKeysOf e a false) c1 = .ok ((), c2)) :
    accldBody e k c = .ok ((), ((c2.updCtx k fun x => x.accld e a es).cleanTiles k ((List.range (4096 * a.tiles)).map (· + 4096 * e.acc))).noteFlags k e.sp
      { nan := (c1.ctx k).accldNan e a es }) := by
  rw [accldBody, ex_bind_ok ha, ex_bind_ok (ex_get c), ex_bind_ok (ex_get c), ex_bind_ok (checksAt_ok _ hok), ex_bind_ok hread, ex_bind_ok (ctxOf_eq k c1),
    ex_bind_ok hsense, ex_bind_ok (updC_eq ..), ex_bind_ok (ex_modify ..), finishFlags_eq]

end

/-- Settles O24: a product's row is `prodWrite` or `prodAcc` of its operation, an accumulator move's row the effect of its body. -/
theorem tensorProducts : Obligations.TensorProducts := by
  refine ⟨?_, ?_, fun s r e c c1 c2 c3 co f cells es => ⟨fun h hok hC hsense hraw hwrite => ?_, fun h hok hce hraw hsense hcells hemit => ?_,
    fun h hok hread hsense => ?_⟩⟩
  · intro s r e c c2 c3 c4 p co f k a b od row
    have written {d o i} (hrow : CtxRow s i r d e (prodWrite o e)) : row d o i :=
      fun h hok hread hC hwrite => hrow.leaves h (prodWrite_of_written (descAt_eq ..) (descAt_eq ..) (descAt_eq ..) hok hread hC hwrite)
    exact ⟨written rfl, written rfl, written rfl, written rfl, written rfl⟩
  · intro s r e c c2 c3 p k a b od row
    have accumulated {d o i} (hrow : CtxRow s i r d e (prodAcc o e)) : row d o i :=
      fun h hok hread hsense => hrow.leaves h (prodAcc_of_sensed (descAt_eq ..) (descAt_eq ..) (descAt_eq ..) hok hread hsense)
    exact ⟨accumulated rfl, accumulated rfl, accumulated rfl⟩
  · exact CtxRow.leaves rfl h (accstBody_of_written (descAt_eq ..) hok hC hsense hraw hwrite)
  · exact CtxRow.leaves rfl h (accstBody_of_raw (descAt_eq ..) hok hce hraw hsense hcells hemit)
  · exact CtxRow.leaves rfl h (accldBody_of_read (descAt_eq ..) hok hread hsense)

end Sys2Proof.Machine

/-! SUPPORT and PROOFS. Reductions, softmax, gathers, scatters, reshapes, norms and the elementwise group (R94-R96, R112). -/

namespace Sys2Proof.Machine

section
variable {k : Nat} {e : Enc} {c c0 c1 c2 c3 c4 : Chip} {a b d : Desc} {vs gb : List FV} {ix : List Nat} {f g : NumFlags}

/-- Values that are written to D under the mask, with what the instruction found besides (R71, R75). -/
theorem storeT_of_written {vals : List (Option FV)} (hwrite : writeTensor k d ((c.ctx k).masked e d vals) e.sr e.seed (rowUnit d) c = .ok (g, c1)) :
    storeT k e d vals f c = .ok ((), c1.noteFlags k e.sp (g.or f)) := by
  rw [storeT, ex_bind_ok (ctxOf_eq k c), ex_bind_ok hwrite, finishFlags_eq]

/-! ## Reductions -/

section
variable {sub : Nat} (hops : reduceOps sub e k c = .ok ((a, d), c1)) (hread : readF32 k a c1 = .ok (vs, c2))
include hops hread

theorem reduceBody_of_fold (hsub : sub ≠ 3)
    (hwrite : writeTensor k d ((c2.ctx k).masked e d ((reduceLines e.prm a d vs).map fun l => some (reduceFold sub l))) e.sr e.seed (rowUnit d) c2 = .ok (g, c3)) :
    reduceBody sub e k c = .ok ((), c3.noteFlags k e.sp (g.or {})) :=
  (ex_bind_ok hops).trans ((ex_bind_ok hread).trans ((congrFun (if_neg hsub) c2).trans (storeT_of_written hwrite)))

/-- REDUCE.ARGMAX writes index patterns (R94). -/
theorem reduceBody_of_argmax (hsub : sub = 3) {cells : List (Nat × Nat × Byte)}
    (hcells : elemCells k d ((c2.ctx k).masked e d ((reduceLines e.prm a d vs).map fun l => some (argmaxOf l % 65536))) (rowUnit d) c2 = .ok (cells, c3))
    (hemit : emit k (d.pol == 0) cells c3 = .ok ((), c4)) : reduceBody sub e k c = .ok ((), c4.noteFlags k e.sp {}) := by
  refine (ex_bind_ok hops).trans ((ex_bind_ok hread).trans ((congrFun (if_pos hsub) c2).trans ?_))
  rw [ex_bind_ok (ctxOf_eq k c2), ex_bind_ok hcells, ex_bind_ok hemit, finishFlags_eq]

end

/-! ## Softmax and norms -/

theorem softmaxBody_of_written {log : Bool} (hops : sameOps e k false false c = .ok ((a, d), c1)) (hread : readF32 k a c1 = .ok (vs, c2))
    (hwrite : writeTensor k d ((((c2.ctx k).softmaxRows log e d vs).map Prod.fst).flatten.map some) e.sr e.seed (rowUnit d) c2 = .ok (g, c3)) :
    softmaxBody log e k c = .ok ((), c3.noteFlags k e.sp (g.or { mask := ((c2.ctx k).softmaxRows log e d vs).any Prod.snd })) :=
  (ex_bind_ok hops).trans ((ex_bind_ok hread).trans ((ex_bind_ok (ctxOf_eq k c2)).trans (ex_bind_ok hwrite)))

theorem normBody_of_written {layer : Bool} (hops : normOps layer e k c = .ok ((a, d, b), c1)) (hread : readF32 k a c1 = .ok (vs, c2))
    (hgains : readF32 k b c2 = .ok (gb, c3))
    (hwrite : writeTensor k d ((c3.ctx k).masked e d ((normVals layer (f32 e.prm) a d vs gb).map some)) e.sr e.seed (rowUnit d) c3 = .ok (g, c4)) :
    normBody layer e k c = .ok ((), c4.noteFlags k e.sp (g.or {})) :=
  (ex_bind_ok hops).trans ((ex_bind_ok hread).trans ((ex_bind_ok hgains).trans (storeT_of_written hwrite)))

/-! ## Gathers and scatters -/

/-- GATHER reads the rows of the table that an index names (R94). -/
theorem gatherBody_of_written (hops : gatherOps e k c = .ok ((a, d, b), c1)) (hidx : readIdx k b c1 = .ok (ix, c2))
    (hread : readF32On ix.contains k a c2 = .ok (vs, c3))
    (hwrite : writeTensor k d ((c3.ctx k).masked e d (gatherVals a vs ix)) e.sr e.seed (rowUnit d) c3 = .ok (g, c4)) :
    gatherBody e k c = .ok ((), c4.noteFlags k e.sp (g.or { idx := ix.any fun j => decide (j ≥ a.rows) })) :=
  (ex_bind_ok hops).trans ((ex_bind_ok hidx).trans ((ex_bind_ok hread).trans (storeT_of_written hwrite)))

/-- SCATTER.ADD also reads the rows of D that an index names (R94). -/
theorem scatterBody_of_written {add : Bool} {old : List FV} (hops : scatterOps e k c = .ok ((a, d, b), c0)) (hread : readF32 k a c0 = .ok (vs, c1))
    (hidx : readIdx k b c1 = .ok (ix, c2)) (hold : (if add then readF32On ix.contains k d else pure []) c2 = .ok (old, c3))
    (hwrite : writeTensor k d ((c3.ctx k).masked e d (scatterVals add a d vs old ix)) e.sr e.seed (rowUnit d) c3 = .ok (g, c4)) :
    scatterBody add e k c = .ok ((), c4.noteFlags k e.sp (g.or { idx := ix.any fun j => decide (j ≥ d.rows) })) :=
  (ex_bind_ok hops).trans ((ex_bind_ok hread).trans ((ex_bind_ok hidx).trans ((ex_bind_ite_ok hold).trans (storeT_of_written hwrite))))

/-! ## Reshapes -/

theorem transposeBody_of_written (hops : transposeOps e k c = .ok ((a, d), c1)) (hread : readF32 k a c1 = .ok (vs, c2))
    (hwrite : writeTensor k d ((c2.ctx k).masked e d ((transposeVals e a d vs).map some)) e.sr e.seed (rowUnit d) c2 = .ok (g, c3)) :
    transposeBody e k c = .ok ((), c3.noteFlags k e.sp (g.or {})) :=
  (ex_bind_ok hops).trans ((ex_bind_ok hread).trans (storeT_of_written hwrite))

theorem convertBody_of_written (hops : sameOps e k true true c = .ok ((a, d), c1)) (hread : readF32 k a c1 = .ok (vs, c2))
    (hwrite : writeTensor k d ((c2.ctx k).masked e d (vs.map some)) e.sr e.seed (rowUnit d) c2 = .ok (g, c3)) :
    convertBody e k c = .ok ((), c3.noteFlags k e.sp (g.or {})) :=
  (ex_bind_ok hops).trans ((ex_bind_ok hread).trans (storeT_of_written hwrite))

/-! ## The elementwise group -/

/-- EW.ACT reads no operand B (R96). -/
theorem ewBody_of_written {sub : Nat} {av bv : List FV} (ha : descAt k e.a c = .ok (a, c)) (hd : descAt k e.d c = .ok (d, c)) (hb : descAt k e.b c = .ok (b, c))
    (hok : ∀ q ∈ c.ewFaults k sub e a b d, q.1 = false) (hread : readF32 k a c = .ok (av, c2))
    (hreadB : (if sub = 3 then pure [] else readF32 k b) c2 = .ok (bv, c3))
    (hwrite : writeTensor k d ((c3.ctx k).masked e d ((ewVals sub e b d av bv).map some)) e.sr e.seed (fun j => j / 64) c3 = .ok (f, c4)) :
    ewBody sub e k c = .ok ((), c4.noteFlags k e.sp f) := by
  rw [ewBody, ex_bind_ok ha, ex_bind_ok hd, ex_bind_ok hb, ex_bind_ok (ex_get c), ex_bind_ok (ex_get c), ex_bind_ok (checksAt_ok _ hok), ex_bind_ok hread,
    ex_bind_ite_ok hreadB]
  exact (ex_bind_ok (ctxOf_eq k c3)).trans (ex_bind_ok hwrite)

end

/-- Settles O25: each row is the effect of its body, whose operands, reads and write are those of the clause. -/
theorem tensorFunctionsAndElementwise : Obligations.TensorFunctionsAndElementwise := by
  constructor
  · intro s r e c c0 c1 c2 c3 c4 a b d vs gb ix g cells k stored reduce soft norm scatter
    have fold {sub i} (hrow : CtxRow s i r _ e (reduceBody sub e)) (hsub : sub ≠ 3) : reduce sub i :=
      fun h hops hread hwrite => hrow.leaves h (reduceBody_of_fold hops hread hsub hwrite)
    have softmax {sub i} (hrow : CtxRow s i r _ e (softmaxBody (sub == 1) e)) : soft sub i :=
      fun h hops hread hwrite => hrow.leaves h (softmaxBody_of_written hops hread hwrite)
    have normed {sub i} (hrow : CtxRow s i r _ e (normBody (sub == 0) e)) : norm sub i :=
      fun h hops hread hgains hwrite => hrow.leaves h (normBody_of_written hops hread hgains hwrite)
    have scattered {sub i} (hrow : CtxRow s i r _ e (scatterBody (sub == 2) e)) : scatter sub i :=
      fun h hops hread hidx hold hwrite =>
        hrow.leaves h (scatterBody_of_written hops hread hidx (by simpa only [beq_iff_eq] using hold) hwrite)
    refine ⟨fold rfl (by decide), fold rfl (by decide), fold rfl (by decide), fun h hops hread hcells hemit => ?_, softmax rfl, softmax rfl,
      fun h hops hidx hread hwrite => ?_, scattered rfl, scattered rfl, fun h hops hread hwrite => ?_, fun h hops hread hwrite => ?_, normed rfl, normed rfl⟩
    · exact CtxRow.leaves rfl h (reduceBody_of_argmax hops hread rfl hcells hemit)
    · exact CtxRow.leaves rfl h (gatherBody_of_written hops hidx hread hwrite)
    · exact CtxRow.leaves rfl h (transposeBody_of_written hops hread hwrite)
    · exact CtxRow.leaves rfl h (convertBody_of_written hops hread hwrite)
  · intro s r e c c2 c3 c4 av bv f k a b d row
    have elementwise {sub i} (hrow : CtxRow s i r _ e (ewBody sub e)) : row sub i :=
      fun h hok hread hreadB hwrite => hrow.leaves h (ewBody_of_written (descAt_eq ..) (descAt_eq ..) (descAt_eq ..) hok hread hreadB hwrite)
    exact ⟨elementwise rfl, elementwise rfl, elementwise rfl, elementwise rfl⟩

end Sys2Proof.Machine

/-! SUPPORT and PROOFS. The bank's read-modify-write (R134, R156, R158). -/

namespace Sys2Proof.Machine

/-! ## Cells written each at a key of its own -/

namespace Memory

variable {m : Memory} (hwf : m.wf = true)
include hwf

/-- Cells leave every key that they do not name alone. -/
theorem read_writeCells_out {cs : List (Nat × Byte)} {a : Nat} (h : a ∉ cs.map Prod.fst) : (m.writeCells cs).read a = m.read a := by
  induction cs generalizing m with
  | nil => rfl
  | cons q cs ih =>
    obtain ⟨hhead, htail⟩ := not_or.mp (mt List.mem_cons.mpr h)
    exact (ih (wf_write hwf q.1 q.2) htail).trans (read_write_ne hwf hhead q.2)

/-- Cells at distinct keys read as they were written. -/
theorem read_writeCells_of_mem {cs : List (Nat × Byte)} (hkeys : (cs.map Prod.fst).Nodup) {a : Nat} {b : Byte} (h : (a, b) ∈ cs) :
    (m.writeCells cs).read a = b := by
  induction cs generalizing m with
  | nil => cases h
  | cons q cs ih =>
    obtain ⟨hout, hrest⟩ := List.nodup_cons.mp hkeys
    rcases List.mem_cons.mp h with rfl | htail
    · exact (read_writeCells_out (wf_write hwf a b) hout).trans (read_write_same hwf a b)
    · exact ih (wf_write hwf q.1 q.2) hrest htail

end Memory

/-! ## Stores without a stored error -/

/-- The block with other bytes in its stores. -/
def Chip.withCells (c : Chip) (m : Memory) : Chip := { c with mem := { c.mem with cells := m } }

section
variable {c : Chip} (herrs : c.mem.errs = [])
include herrs

theorem byteAt_of_no_errs (a : Nat) : c.byteAt a = c.mem.cells.read a := by
  simp [Chip.byteAt, Chip.errByte, herrs]

/-- The same with other bytes in the stores. -/
theorem byteAt_withCells_of_no_errs (m : Memory) (a : Nat) : (c.withCells m).byteAt a = m.read a :=
  byteAt_of_no_errs (c := c.withCells m) herrs a

theorem badWords_of_no_errs (key n : Nat) : c.badWords key n = [] := by
  rw [Chip.badWords, herrs, List.filter_nil]

/-- Sensing good words changes nothing. -/
theorem senseEx_of_no_errs (key n : Nat) : senseEx key n c = .ok ((), c) := by
  simp [senseEx, Chip.sense, badWords_of_no_errs herrs]

theorem forM_senseEx_of_no_errs (ws : List Nat) (n : Nat) : (ws.forM fun w => senseEx (w * 32) n) c = .ok ((), c) := by
  induction ws with
  | nil => rfl
  | cons w ws ih => exact (ex_bind_ok (senseEx_of_no_errs herrs (w * 32) n)).trans ih

/-- A stored byte is one cell. -/
theorem putRaw_singleton_of_no_errs (a : Nat) (b : Byte) : c.putRaw a [b] = c.withCells (c.mem.cells.write a b) := by
  rw [Chip.putRaw, badWords_of_no_errs herrs]
  rfl

theorem foldl_putRaw_of_no_errs (cs : List (Nat × Byte)) :
    cs.foldl (fun c q => c.putRaw q.1 [q.2]) c = c.withCells (c.mem.cells.writeCells cs) := by
  induction cs generalizing c with
  | nil => rfl
  | cons q cs ih =>
    rw [List.foldl_cons, putRaw_singleton_of_no_errs herrs]
    exact ih (c := c.withCells _) herrs

end

/-! ## The read-modify-write -/

/-- The cells that the bank's read-modify-write leaves: each byte set or cleared by its byte of the data (R134). -/
def Chip.rmwCells (c : Chip) (keys : List Nat) (clr : Bool) (data : List Byte) : List (Nat × Byte) :=
  (keys.zip ((keys.map c.byteAt).zip data)).map fun q => (q.1, aliasByte (if clr then 1 else 0) q.2.1 q.2.2)

/-- On good words it answers the old bytes and writes its cells (R134, R136). -/
theorem rmw_of_no_errs {c : Chip} (herrs : c.mem.errs = []) (keys : List Nat) (clr : Bool) (data : List Byte) :
    rmw keys clr data c = .ok (keys.map c.byteAt, c.withCells (c.mem.cells.writeCells (c.rmwCells keys clr data))) := by
  rw [← foldl_putRaw_of_no_errs herrs]
  exact ex_bind_ok (forM_senseEx_of_no_errs herrs _ 32)

section
variable {c : Chip} {keys : List Nat} {clr : Bool} {data : List Byte} (hlen : keys.length = data.length)
include hlen

theorem rmwCells_keys : (c.rmwCells keys clr data).map Prod.fst = keys := by
  rw [Chip.rmwCells, List.map_map]
  have hle : keys.length ≤ ((keys.map c.byteAt).zip data).length := by
    rw [List.length_zip, List.length_map]
    omega
  exact List.map_fst_zip hle

theorem mem_rmwCells {i : Nat} (h : i < keys.length) :
    (keys[i], aliasByte (if clr then 1 else 0) (c.byteAt keys[i]) (data.getD i 0)) ∈ c.rmwCells keys clr data := by
  have hdata : i < data.length := hlen ▸ h
  have hget : data.getD i 0 = data[i] := by
    rw [List.getD_eq_getElem?_getD, List.getElem?_eq_getElem hdata, Option.getD_some]
  have hzip : i < (keys.zip ((keys.map c.byteAt).zip data)).length := by
    rw [List.length_zip, List.length_zip, List.length_map]
    omega
  have hmem : (keys[i], c.byteAt keys[i], data[i]) ∈ keys.zip ((keys.map c.byteAt).zip data) := by
    refine List.mem_iff_getElem.mpr ⟨i, hzip, ?_⟩
    rw [List.getElem_zip, List.getElem_zip, List.getElem_map]
  rw [hget]
  exact List.mem_map.mpr ⟨_, hmem, rfl⟩

end

/-- Settles O48: on good words the operation writes one cell for each of its bytes. -/
theorem bankReadModifyWrite : Obligations.BankReadModifyWrite := by
  intro c c2 keys clr data old herrs hdistinct hlen hwf hrmw
  rw [rmw_of_no_errs herrs] at hrmw
  cases hrmw
  have hkeys : (c.rmwCells keys clr data).map Prod.fst = keys := rmwCells_keys hlen
  refine ⟨rfl, fun a ha => ?_, rfl, fun i h => ?_⟩
  · rw [byteAt_withCells_of_no_errs herrs, byteAt_of_no_errs herrs, Memory.read_writeCells_out hwf (hkeys.symm ▸ ha)]
  · rw [byteAt_withCells_of_no_errs herrs, Memory.read_writeCells_of_mem hwf (hkeys.symm ▸ hdistinct) (mem_rmwCells hlen h)]

end Sys2Proof.Machine

/-! SUPPORT and PROOFS. MOV and ATOM (R123, R124, R134). -/

namespace Sys2Proof.Machine

section
variable {k : Nat} {e : Enc} {c c2 c3 : Chip} {a d : Desc} {w : List Nat}

/-- COPY moves its chunks and then sets its tags (R123, R125). -/
theorem copyBody_of_moved (ha : descAt k e.a c = .ok (a, c)) (hd : descAt k e.d c = .ok (d, c)) (hok : ∀ q ∈ c.copyFaults k a d, q.1 = false)
    (hmove : moveChunks k (d.base / 4096) (copySrc k a d) (copyPlan a d) [] [] c = .ok (w, c2)) (htags : copyTags k a d w c2 = .ok ((), c3)) :
    copyBody e k c = .ok ((), c3) := by
  rw [copyBody, ex_bind_ok ha, ex_bind_ok hd, ex_bind_ok (ex_get c), ex_bind_ok (checks_ok hok), ex_bind_ok hmove, htags]

/-- The pattern that FILL repeats in a tensor: the low bits of S[SA] (R124). -/
def Ctx.fillPattern (x : Ctx) (e : Enc) (d : Desc) : Nat := (x.rs e.b).toNat % 2 ^ d.bits

/-- FILL of a tensor that it accepts moves its chunks and then sets the tags of a tagged tensor (R124, R125). -/
theorem fillBody_of_moved (hd : descAt k e.d c = .ok (d, c)) (husable : d.usable = true) (hmx : isMX d.fmt = false) (hmap : d.smap = 63)
    (halias : d.touchesAlias = false) (hreach : ∀ q ∈ fillPlan d, (c.xlate k q.dst q.n true).isSome = true)
    (hmove : moveChunks k (d.base / 4096) (fillSrc k d ((c.ctx k).fillPattern e d)) (fillPlan d) [] [] c = .ok (w, c2))
    (htags : (if d.pol = 0 then tagKeys k (sortBy id w) else pure ()) c2 = .ok ((), c3)) : fillBody e k c = .ok ((), c3) := by
  have hall : ((fillPlan d).all fun q => (c.xlate k q.dst q.n true).isSome) = true := List.all_eq_true.mpr hreach
  rw [fillBody, ex_bind_ok hd, ex_bind_ok (getS_eq k e.b c), ex_bind_ok (ex_get c)]
  refine (ex_bind_ok (checks_ok ?_)).trans ((ex_bind_ok hmove).trans htags)
  simp [husable, hmx, hmap, halias, hall]

/-- ATOM outside a CHECKED block answers the old bytes of its word at the bank (R134). -/
theorem atomBody_of_rmw {sub : Nat} {ks : List Nat} {old : List Byte} (hchk : (c.ctx k).chk = none)
    (hkeys : c.atomKeys k ((c.ctx k).rs e.a).toNat (if sub < 2 then 8 else 4) = some ks)
    (hrmw : rmw ks (sub % 2 == 1) (leBytes (if sub < 2 then 8 else 4) ((c.ctx k).rs e.b).toNat) c = .ok (old, c2)) :
    atomBody sub e k c = .ok ((), c2.updCtx k fun y => y.ws e.d (BitVec.ofNat 64 (leNat old))) := by
  have hatom : atomAt k sub ((c.ctx k).rs e.a).toNat ((c.ctx k).rs e.b) c = .ok (old, c2) := by
    rw [atomAt, ex_bind_ok (ex_get c), hkeys]
    exact hrmw
  rw [atomBody, ex_bind_ok (getS_eq k e.a c), ex_bind_ok (getS_eq k e.b c), ex_bind_ok (inChk_eq k c), hchk]
  exact ex_bind_ok hatom

end

/-- Settles O23: each row is the effect of its body. -/
theorem movesAndAtomics : Obligations.MovesAndAtomics := by
  intro s r e c c2 c3 w ks old k x src dst pat atom
  have atomic {sub i} (hrow : CtxRow s i r _ e (atomBody sub e)) : atom sub i :=
    fun h hchk hkeys hrmw => hrow.leaves h (atomBody_of_rmw hchk hkeys hrmw)
  refine ⟨fun h hok hmove htags => ?_, fun h husable hmx hmap halias hreach hmove htags => ?_, atomic rfl, atomic rfl, atomic rfl, atomic rfl⟩
  · exact CtxRow.leaves rfl h (copyBody_of_moved (descAt_eq ..) (descAt_eq ..) hok hmove htags)
  · exact CtxRow.leaves rfl h (fillBody_of_moved (descAt_eq ..) husable hmx hmap halias hreach hmove htags)

end Sys2Proof.Machine

/-! SUPPORT and PROOFS. Event flags, posts, barriers and FENCE (R121, R122, R139-R141). -/

namespace Sys2Proof.Machine

/-! ## Releases behind a plan -/

/-- No plan port exchange of the context in a slot is open (R221). -/
def Chip.calm (c : Chip) (k : Nat) : Prop := c.planOpen (k / 8) (c.ctx k).part (c.ctx k).idx = []

section
variable {c : Chip} {k : Nat} {op : Held} {now : Chip → Chip}

/-- With no exchange open a release takes effect at once. -/
theorem owe_of_calm (h : c.calm k) : c.owe k op now = now c := by
  rw [Chip.calm] at h
  simp only [Chip.owe, h]

/-- Behind open exchanges a release is owed until they have ended. -/
theorem owe_of_not_calm (h : ¬ c.calm k) :
    c.owe k op now = c.updSu (k / 8) fun u => { u with owed := u.owed ++
      [{ after := c.planOpen (k / 8) (c.ctx k).part (c.ctx k).idx, part := (c.ctx k).part, idx := (c.ctx k).idx, slot := k, lfc := (c.ctx k).lfc, op := op }] } := by
  rw [Chip.calm] at h
  simp only [Chip.owe]

end

/-! ## Event flags and posts of a context -/

/-- Flag `f` of the partition is set or cleared at once. -/
def Chip.evtNow (c : Chip) (clr : Bool) (p f : Nat) : Chip := if clr then c.evtClr p f else c.evtSet p f

/-- The flag that an EVT names. -/
def Ctx.evtFlag (x : Ctx) (e : Enc) : Nat := (x.rs e.a).toNat % 256

/-- An EVT.SET or EVT.CLR as a block holds it. -/
def evtOp (clr : Bool) (f : Nat) : Held := { opc := 0x72, sub := if clr then 2 else 0, ops := [BitVec.ofNat 64 f] }

section
variable {c : Chip} {k : Nat} {e : Enc}

/-- Outside a CHECKED block the end of a wait is not recorded. -/
theorem recordDone_out (h : (c.ctx k).chk = none) : recordDone k c = .ok ((), c) := by
  rw [recordDone, ex_bind_ok ((recorded_out h).trans (ex_pure 1 c)), ex_pure]

/-- Outside a CHECKED block EVT.SET and EVT.CLR are releases (R139, R221). -/
theorem evtSetBody_out (h : (c.ctx k).chk = none) (clr : Bool) :
    evtSetBody clr e k c = .ok ((), c.owe k (evtOp clr ((c.ctx k).evtFlag e)) fun c => c.evtNow clr (c.ctx k).part ((c.ctx k).evtFlag e)) := by
  simp [evtSetBody, ex_bind, h]
  rfl

/-- Inside one they are held (R149). -/
theorem evtSetBody_held (h : (c.ctx k).chk.isSome = true) (clr : Bool) :
    evtSetBody clr e k c = .ok ((), c.updCtx k fun y => { y with blk := y.blk.map fun b => b.updCur fun p =>
      { p with held := p.held ++ [evtOp clr ((c.ctx k).evtFlag e)] } }) := by
  obtain ⟨b, hb⟩ := Option.isSome_iff_exists.mp h
  simp [evtSetBody, ex_bind, hb, hold, evtOp, Ctx.evtFlag]

theorem evtWaitBody_of_set (h : (c.ctx k).chk = none) (hset : bit (c.part (c.ctx k).part).flags ((c.ctx k).evtFlag e) = true) :
    evtWaitBody e k c = .ok ((), c) := by
  rw [Ctx.evtFlag] at hset
  simp [evtWaitBody, ex_bind, h, hset, recordDone_out]

theorem evtWaitBody_of_clear (h : (c.ctx k).chk = none) (hclear : bit (c.part (c.ctx k).part).flags ((c.ctx k).evtFlag e) = false) :
    evtWaitBody e k c = .ok ((), c.block k (.evt ((c.ctx k).evtFlag e) false)) := by
  rw [Ctx.evtFlag] at hclear ⊢
  simp [evtWaitBody, ex_bind, h, hclear]

/-- EVT.POST outside a CHECKED block, with no exchange open, writes its record (R139). -/
theorem evtPostBody_of_calm (h : (c.ctx k).chk = none) (hcalm : c.calm k) :
    evtPostBody e k c = .ok ((), c.evtPost k ((c.ctx k).rs e.a) ((c.ctx k).rs e.b)) := by
  simp [evtPostBody, ex_bind, h, owe_of_calm hcalm]

end

/-! ## Event flags of an island, and writes of the home's flag registers -/

/-- An island's EVT.SET and EVT.CLR on a flag that it has, outside a block, act on its own flags (R302, R303). -/
theorem ievtSet_of_flag {c : Chip} {i : Isl} {e : Enc} {f : Nat} (hf : ((c.isl i).rs e.a).toNat % 256 = f) (hflag : f < 7 ∨ 16 ≤ f ∧ f ≤ 31)
    (hblk : (c.isl i).blk = none) (clr : Bool) : ievtSet clr e i c = .ok ((), c.islHeld i (evtOp clr f)) := by
  have hneed : iflag i e c = .ok (f, c) := by
    have hpass : (decide (f < 7) || within 16 31 f) = true := by simpa [within] using hflag
    rw [iflag, iex_bind_ok (igetS_rs i e.a c), hf, hpass]
    rfl
  rw [ievtSet, iex_bind_ok hneed, ievtDo, iex_bind_ok (iget_eq i c), hblk]
  rfl

section
variable {c : Chip} {site p : Nat}

/-- At the home each 1 bit acts on its flag (R122). -/
theorem hallEvtWrite_of_home (h : c.isHome site p = true) (k v : Nat) (clr : Bool) :
    c.hallEvtWrite site p k v clr = ((List.range 64).filter (bit v)).foldl (fun c j => c.evtNow clr p (64 * k + j)) c :=
  if_pos h

/-- Away from it the write is counted (R144). -/
theorem hallEvtWrite_of_not_home (h : c.isHome site p = false) (k v : Nat) (clr : Bool) : c.hallEvtWrite site p k v clr = c.bump (syncK site p 0x148) :=
  if_neg (Bool.eq_false_iff.mp h)

end

/-! ## Barriers -/

section
variable {c : Chip} {p b g a n : Nat} (hbar : (c.part p).bar b = (g, a, n))
include hbar

/-- The arrival that completes COUNT advances GEN (R141). -/
theorem barArrive_of_last (hn : 0 < n) (hlast : n ≤ a + 1) :
    c.barArrive p b = c.updPart p fun q => { q with bars := q.bars.set b ((g + 1) % 2 ^ 32, 0, n) } := by
  simp only [Chip.barArrive, hbar]
  rw [if_neg (Nat.ne_of_gt hn), if_pos hlast]

theorem barArrive_of_earlier (hmore : a + 1 < n) : c.barArrive p b = c.updPart p fun q => { q with bars := q.bars.set b (g, a + 1, n) } := by
  simp only [Chip.barArrive, hbar]
  rw [if_neg (by omega), if_neg (Nat.not_le_of_lt hmore)]

/-- A barrier without a COUNT takes no arrival (R141). -/
theorem barArrive_of_no_count (hn : n = 0) : c.barArrive p b = c := by
  simp only [Chip.barArrive, hbar]
  rw [if_pos hn]

end

/-- The barrier that a BAR names. -/
def Ctx.barNo (x : Ctx) (e : Enc) : Nat := (x.rs e.a).toNat % 32

/-- The generation that a BAR.WAIT names. -/
def Ctx.barGen (x : Ctx) (e : Enc) : Nat := (x.rs e.b).toNat % 2 ^ 32

section
variable {c : Chip} {k : Nat} {e : Enc} (hchk : (c.ctx k).chk = none)
include hchk

/-- BAR.ARRIVE outside a CHECKED block, with no exchange open, arrives and answers the generation (R141). -/
theorem barArriveBody_of_calm (hcalm : c.calm k) :
    barArriveBody e k c = .ok ((), (c.barArrive (c.ctx k).part ((c.ctx k).barNo e)).updCtx k fun y =>
      y.ws e.d (BitVec.ofNat 64 ((c.part (c.ctx k).part).bar ((c.ctx k).barNo e)).1)) := by
  simp [barArriveBody, ex_bind, ex_map, recorded_out hchk, hchk, owe_of_calm hcalm, Ctx.barNo]

theorem barWaitBody_of_moved_on (h : ((c.part (c.ctx k).part).bar ((c.ctx k).barNo e)).1 ≠ (c.ctx k).barGen e) : barWaitBody e k c = .ok ((), c) := by
  rw [Ctx.barNo, Ctx.barGen] at h
  simp [barWaitBody, ex_bind, hchk, h, recordDone_out, -Nat.reducePow]

theorem barWaitBody_of_current (h : ((c.part (c.ctx k).part).bar ((c.ctx k).barNo e)).1 = (c.ctx k).barGen e) :
    barWaitBody e k c = .ok ((), c.block k (.bar ((c.ctx k).barNo e) ((c.ctx k).barGen e))) := by
  rw [Ctx.barNo, Ctx.barGen] at h ⊢
  simp [barWaitBody, ex_bind, hchk, h]

end

/-- Settles O31: each instruction's row is the effect of its body; the wakings are the shared operation of their command. -/
theorem eventsBarriersFence : Obligations.EventsBarriersFence := by
  constructor
  · intro s r i e c h site p f k4 v k x n w64 calm held fi isFlag wi own woken each
    refine ⟨fun hrun hout hcalm => ?_, fun hrun hout hcalm => ?_, fun hrun hchk hheld => ?_, fun hrun hout hset => ?_, fun hrun hout hclear => ?_,
      fun hrun hout hopen => ?_, fun hrun hout hcalm => ?_, rfl, fun hrun hflag hblk => ?_, fun hrun hflag hblk => ?_, fun hhome => ?_, fun hhome => ?_,
      fun hhome => ?_⟩
    · exact exec_ctx_ok rfl hrun ((evtSetBody_out hout false).trans (by rw [owe_of_calm hcalm]; rfl))
    · exact exec_ctx_ok rfl hrun ((evtSetBody_out hout true).trans (by rw [owe_of_calm hcalm]; rfl))
    · rw [show h = evtOp false n from hheld]
      exact exec_ctx_ok rfl hrun (evtSetBody_held hchk false)
    · exact exec_ctx_ok rfl hrun (evtWaitBody_of_set hout hset)
    · exact exec_ctx_ok rfl hrun (evtWaitBody_of_clear hout hclear)
    · exact exec_ctx_ok rfl hrun ((evtSetBody_out hout false).trans (by rw [owe_of_not_calm hopen]; rfl))
    · exact exec_ctx_ok rfl hrun (evtPostBody_of_calm hout hcalm)
    · exact exec_isl_ok rfl hrun (ievtSet_of_flag rfl hflag hblk false)
    · exact exec_isl_ok rfl hrun (ievtSet_of_flag rfl hflag hblk true)
    · exact exec_eq_next rfl (hallEvtWrite_of_home hhome ..)
    · exact exec_eq_next rfl (hallEvtWrite_of_home hhome ..)
    · exact exec_eq_next rfl (hallEvtWrite_of_not_home hhome ..)
  · intro s r e c g a n p b k x q put woken
    have arrives {c' : Chip} {m : Nat} (hrun : Runs s.toChip r (dBar 0) e c) (hout : x.chk = none) (hcalm : c.calm k) (hbar : (c.part x.part).bar q = (g, a, m))
        (harrive : c.barArrive x.part q = c') : exec (.barArrive (.ctx r) e) s = .next (put c') := by
      have hbody := barArriveBody_of_calm (e := e) hout hcalm
      rw [show (c.part (c.ctx k).part).bar ((c.ctx k).barNo e) = (g, a, m) from hbar] at hbody
      rw [show c.barArrive (c.ctx k).part ((c.ctx k).barNo e) = c' from harrive] at hbody
      exact CtxRow.leaves rfl hrun hbody
    refine ⟨fun hrun hout hcalm hbar hn hlast => ?_, fun hrun hout hcalm hbar hmore => ?_, fun hrun hout hcalm hbar => ?_, fun hrun hout hgen => ?_,
      fun hrun hout hgen => ?_, rfl, fun hrun => ?_⟩
    · exact arrives hrun hout hcalm hbar (barArrive_of_last hbar hn hlast)
    · exact arrives hrun hout hcalm hbar (barArrive_of_earlier hbar hmore)
    · exact arrives hrun hout hcalm hbar (barArrive_of_no_count hbar rfl)
    · exact CtxRow.leaves rfl hrun (barWaitBody_of_moved_on hout hgen)
    · exact CtxRow.leaves rfl hrun (barWaitBody_of_current hout hgen)
    · exact exec_ctx_ok rfl hrun (ex_pure () c)

end Sys2Proof.Machine

/-! SUPPORT and PROOFS. WAITT and the landing instructions (R142, R145, R146). -/

namespace Sys2Proof.Machine

/-! ## WAITT -/

section
variable {c : Chip} {k : Nat} {e : Enc} (hchk : (c.ctx k).chk = none)
include hchk

theorem waittBody_of_reached (h : ((c.ctx k).rs e.a).toNat ≤ c.localTime (k / 8)) :
    waittBody e k c = .ok ((), c.updCtx k fun y => y.ws e.d (BitVec.ofNat 64 (c.localTime (k / 8)))) := by
  simp [waittBody, ex_bind, hchk, h, recorded_out]

theorem waittBody_of_ahead (h : c.localTime (k / 8) < ((c.ctx k).rs e.a).toNat) :
    waittBody e k c = .ok ((), c.block k (.time ((c.ctx k).rs e.a).toNat e.d)) := by
  simp [waittBody, ex_bind, hchk, Nat.not_le_of_lt h]

end

section
variable {c : Chip} {g d : Nat}

/-- An effect that succeeds is what a slot's resuming leaves. -/
theorem resumeWith_ok {k opc : Nat} {act : Ex Unit} {c' : Chip} (h : act (c.resume k) = .ok ((), c')) : c.resumeWith k opc act = c' := by
  rw [Chip.resumeWith, Chip.runEx, h]

/-- A context that is due resumes with the time it then reads, where no CHECKED block records it (R142). -/
theorem waittResume_of_due {k : Nat} (hwait : (c.ctx k).wait = .time g d) (hstate : (c.ctx k).state = 3) (hdue : g ≤ c.localTime (k / 8))
    (hchk : ((c.resume k).ctx k).chk = none) :
    c.waittResume k = (c.resume k).updCtx k fun q => q.ws d (BitVec.ofNat 64 ((c.resume k).localTime (k / 8))) := by
  simp only [Chip.waittResume, hwait]
  rw [if_pos ⟨hstate, hdue⟩]
  exact resumeWith_ok (ex_bind_ok (recorded_out hchk))

section
variable {p j : Nat}

theorem timeReached_of_resident {k : Nat} (h : c.slotOf p j = some k) : c.timeReached p j = c.waittResume k := by
  rw [Chip.timeReached, h]

/-- A saved context goes by its home's copy (R142, R276). -/
theorem timeReached_of_saved {y : Ctx} {stb : Nat} (hslot : c.slotOf p j = none) (hsaved : c.core.saved.look (p, j) = some y) (hwait : y.wait = .time g d)
    (hhome : c.homeKey (c.descOf y) = some stb) (hdue : g ≤ c.localTime (stb / 4)) :
    c.timeReached p j = c.updSaved (p, j) fun q => { q.ws d (BitVec.ofNat 64 (c.localTime (stb / 4))) with wait := .none } := by
  simp only [Chip.timeReached, hslot, hsaved, hwait, hhome]
  exact if_pos hdue

end

/-- An island's WAITT that names S0 only ends the wait (R302). -/
theorem islWaittResume_of_due {i : Isl} (hwait : (c.isl i).wait = .time g 0) (hdue : g ≤ c.localTime (islDie i)) :
    c.islWaittResume i = c.updIsl i fun q => { q.note 16 (c.localTime (islDie i)) with wait := .none } := by
  simp only [Chip.islWaittResume, hwait]
  exact if_pos hdue

end

/-! ## Landing instructions -/

section
variable {c : Chip} {k : Nat} {e : Enc} (hblk : (c.ctx k).blk = none)
include hblk

/-- LAND.WAIT takes a frame whose landing start has passed (R145). -/
theorem landWaitBody_of_started (hrun : c.time.running = true) (hstart : c.start ((c.ctx k).lfc + 1) ≤ c.time.now) :
    landWaitBody e k c = .ok ((), (c.updCtx k fun y => c.landed y y.lfc e.d).frameDone (c.ctx k).part) := by
  simp [landWaitBody, ex_bind, hblk, need_true, hrun, hstart]

theorem landWaitBody_of_waiting (h : c.time.running = false ∨ c.time.now < c.start ((c.ctx k).lfc + 1)) :
    landWaitBody e k c = .ok ((), c.block k (.land (c.ctx k).lfc e.d)) := by
  have hnot : (c.time.running && decide (c.start ((c.ctx k).lfc + 1) ≤ c.time.now)) = false := by
    rcases h with hstopped | hearly
    · simp [hstopped]
    · simp [Nat.not_le_of_lt hearly]
  rw [landWaitBody, ex_bind_ok (ctxOf_eq k c), ex_bind_need (by rw [hblk]; rfl), ex_bind_ok (ex_get c), hnot]
  rfl

/-- LAND.SIGNAL with no exchange open declares the frame done (R146). -/
theorem landSignalBody_of_calm (hcalm : c.calm k) :
    landSignalBody k c = .ok ((), (c.updCtx k fun y => { y with signal := some y.lfc }).frameDone (c.ctx k).part) := by
  simp [landSignalBody, ex_bind, hblk, need_true, owe_of_calm hcalm]

end

/-- Settles O32: each instruction's row is the effect of its body; WAITT_RESUME is the resuming of its waiter. -/
theorem waitsAndLandings : Obligations.WaitsAndLandings := by
  intro s r i e c y z p j slot stb g d t now k x goal
  refine ⟨fun h hout hreached => ?_, fun h hout hahead => ?_, fun hslot hy hwait hstate hdue hz hout => ?_, fun hslot hsaved hwait hhome hdue => ?_,
    fun hwait hdue => ?_, fun h hblk hrun hstart => ?_, fun h hblk hwaits => ?_, fun h hblk hcalm => ?_⟩
  · exact exec_ctx_ok rfl h (waittBody_of_reached hout hreached)
  · exact exec_ctx_ok rfl h (waittBody_of_ahead hout hahead)
  · subst hy hz
    exact exec_eq_next rfl ((timeReached_of_resident hslot).trans (waittResume_of_due hwait hstate hdue hout))
  · exact exec_eq_next rfl (timeReached_of_saved hslot hsaved hwait hhome hdue)
  · exact exec_eq_next rfl (islWaittResume_of_due hwait hdue)
  · exact CtxRow.leaves rfl h (landWaitBody_of_started hblk hrun hstart)
  · exact CtxRow.leaves rfl h (landWaitBody_of_waiting hblk hwaits)
  · exact CtxRow.leaves rfl h (landSignalBody_of_calm hblk hcalm)

end Sys2Proof.Machine

/-! SUPPORT and PROOFS. Collectives: issue and completion (R130, R131, R133). -/

namespace Sys2Proof.Machine

/-! ## Nothing saved -/

section
variable {c : Chip} (hsaved : c.core.saved = [])
include hsaved

/-- With no saved context the scheduler has nothing to reconsider (R276). -/
theorem reconsider_of_no_saved (stb : Nat) : c.reconsider stb = c := by
  have hpinned : c.pinnedCheck stb = c := by
    simp [Chip.pinnedCheck, hsaved]
  have hchosen : c.chosen stb = none := by
    rw [Chip.chosen, Chip.candidates, hsaved]
    rfl
  simp [Chip.reconsider, hpinned, hchosen]

/-- A resumed slot saves nothing. -/
theorem resume_saved_of_no_saved (k : Nat) : (c.resume k).core.saved = [] := by
  rw [Chip.resume, reconsider_of_no_saved]
  · split <;> exact hsaved
  · split <;> exact hsaved

end

/-! ## Completion at a participant -/

/-- The two slots of a stable. -/
def slotsOf (stb : Nat) : List Nat := [2 * stb, 2 * stb + 1]

/-- They are a slot and its other one. -/
theorem eq_or_eq_otherSlot_of_mem {k j : Nat} : j ∈ slotsOf (k / 2) → j = k ∨ j = otherSlot k := by
  simp only [slotsOf, List.mem_cons, List.not_mem_nil, or_false, otherSlot]
  split <;> omega

/-- The context in slot `k` is the only one of the collective's partition at its stable; it waits for that collective alone, and nothing at
    the stable waits behind it. -/
structure Chip.WaitsAlone (c : Chip) (i : Coll) (k : Nat) : Prop where
  only : (slotsOf (k / 2)).filter (fun j => (c.ctx j).part == i.part && (c.ctx? j).isSome) = [k]
  saved : c.core.saved = []
  joins : (c.ctx k).joins = []
  others : (c.ctx (otherSlot k)).joins = []
  wait : (c.ctx k).wait = .coll i.inst
  colls : (c.ctx k).colls = [i.inst]

/-- The block with other open collectives. -/
def Chip.withColls (c : Chip) (l : List Coll) : Chip := { c with core := { c.core with colls := l } }

/-- The context in slot `k` goes on from a collective that it waited for. -/
def Chip.collGone (c : Chip) (k : Nat) : Chip := (c.updCtx k fun x => { x with colls := [], wait := .none }).resume k

/-- The collective as it is once participant `me` is done. -/
def Coll.doneBy (i : Coll) (me : Nat) : Coll := { i with done := me :: i.done }

/-- The open collectives once participant `me` is done: a collective at which all are done is gone (R131). -/
def Coll.left (i : Coll) (me : Nat) (l : List Coll) : List Coll :=
  if i.members.all (i.doneBy me).done.contains then l.filter fun j => j.inst != i.inst else l.map fun j => if j.inst = i.inst then i.doneBy me else j

/-- What a completion leaves at participant `me`, once the data has moved (R130, R131). -/
def Chip.collDoneAt (c : Chip) (i : Coll) (stb me : Nat) : Chip :=
  let c := (c.withColls (i.left me c.core.colls)).nextColl (i.doneBy me) stb me
  let c := ((slotsOf stb).filter fun k => (c.ctx k).part == i.part && (c.ctx? k).isSome).foldl (fun c k => c.collSettle i.inst k) c
  ((c.core.saved.filter fun e => e.1.1 == i.part && c.savedAt me e).map Prod.fst).foldl (fun c key => c.updSaved key fun x => x.collDone i.inst) c

section
variable {c : Chip} {i : Coll} {me k stb : Nat} {cmps : List (Nat × SumCmp)}

section
variable (hme : c.logStb stb = some me) (hcolls : c.core.colls = [i]) (hmember : i.members.contains me = true) (hdone : i.done.contains me = false)
  (hissued : ∀ m ∈ i.members, m ∈ i.issued)
include hme hcolls hmember hdone hissued

/-- The only open collective, issued by all, completes at a participant that is not done: its data moves first if none is (R131). -/
theorem collComplete_of_issued :
    c.collComplete i.inst stb cmps =
      let r := if i.done.isEmpty then c.runColl i cmps else (c, true)
      if !r.2 then r.1 else r.1.collDoneAt i stb me := by
  have hfind : List.find? (fun (j : Coll) => j.inst == i.inst) c.core.colls = some i := by simp [hcolls]
  have hgo : (!i.members.contains me || i.done.contains me
      || (c.core.colls.any fun j => decide (j.inst < i.inst) && j.part == i.part && j.lfc == i.lfc && j.id == i.id && j.members.contains me && !j.done.contains me)
      || !(i.members.all i.issued.contains)) = false := by
    have hall : i.members.all i.issued.contains = true := by simpa using hissued
    rw [hcolls, hmember, hdone, hall]
    simp
  rw [Chip.collComplete, hme, hfind]
  exact if_neg (Bool.eq_false_iff.mp hgo)

/-- At a later participant only its own part is left. -/
theorem collComplete_of_begun (hbegun : i.done ≠ []) : c.collComplete i.inst stb cmps = c.collDoneAt i stb me := by
  rw [collComplete_of_issued hme hcolls hmember hdone hissued, List.isEmpty_eq_false_iff.mpr hbegun]
  rfl

/-- At the first one the data moves before. -/
theorem collComplete_of_first {c' : Chip} (hfirst : i.done = []) (hrun : c.runColl i cmps = (c', true)) :
    c.collComplete i.inst stb cmps = c'.collDoneAt i stb me := by
  rw [collComplete_of_issued hme hcolls hmember hdone hissued, List.isEmpty_iff.mpr hfirst]
  simp only [hrun, if_true]
  rfl

end

/-! ## What is left of the collective -/

/-- At the last participant the collective is gone. -/
theorem left_of_all_done (h : ∀ m ∈ i.members, m = me ∨ m ∈ i.done) : i.left me [i] = [] := by
  have hall : i.members.all (i.doneBy me).done.contains = true := by simpa [Coll.doneBy] using h
  rw [Coll.left, if_pos hall]
  simp

theorem left_of_some_open (h : ∃ m ∈ i.members, m ≠ me ∧ m ∉ i.done) : i.left me [i] = [i.doneBy me] := by
  have hall : ¬ i.members.all (i.doneBy me).done.contains = true := by simpa [Coll.doneBy] using h
  rw [Coll.left, if_neg hall]
  simp

/-! ## The contexts that wait there -/

theorem Chip.WaitsAlone.withColls (h : c.WaitsAlone i k) (l : List Coll) : (c.withColls l).WaitsAlone i k :=
  ⟨h.only, h.saved, h.joins, h.others, h.wait, h.colls⟩

/-- Nothing waits behind the collective, so no next one is entered (R130). -/
theorem Chip.WaitsAlone.nextColl_eq (h : c.WaitsAlone i k) (j : Coll) : c.nextColl j (k / 2) me = c := by
  have hjoins : ∀ n ∈ slotsOf (k / 2), (c.ctx n).joins = [] := fun n hn => by
    rcases eq_or_eq_otherSlot_of_mem hn with rfl | rfl
    · exact h.joins
    · exact h.others
  obtain ⟨hfirst, hsecond⟩ : (c.ctx (2 * (k / 2))).joins = [] ∧ (c.ctx (2 * (k / 2) + 1)).joins = [] := by simpa [slotsOf] using hjoins
  simp [Chip.nextColl, hfirst, hsecond, h.saved]

/-- Its context goes on. -/
theorem Chip.WaitsAlone.collSettle_eq (h : c.WaitsAlone i k) : c.collSettle i.inst k = c.collGone k := by
  have hctx : (c.ctx k).collDone i.inst = { c.ctx k with colls := [], wait := .none } := by
    simp [Ctx.collDone, Ctx.collWait, h.wait, h.colls, h.joins]
  have hupd : (c.updCtx k fun x => x.collDone i.inst) = c.updCtx k fun x => { x with colls := [], wait := .none } := congrArg (c.setCtx k) hctx
  simp [Chip.collSettle, Chip.collGone, h.wait, hupd]

theorem collGone_saved_of_no_saved (h : c.core.saved = []) : (c.collGone k).core.saved = [] :=
  resume_saved_of_no_saved (c := c.updCtx k _) h k

/-- A completion leaves, where one context waits for it alone, that context going on (R131). -/
theorem collDoneAt_of_waitsAlone (h : c.WaitsAlone i k) : c.collDoneAt i (k / 2) me = (c.withColls (i.left me c.core.colls)).collGone k := by
  have hw := h.withColls (i.left me c.core.colls)
  have hsaved : ((c.withColls (i.left me c.core.colls)).collGone k).core.saved = [] := collGone_saved_of_no_saved hw.saved
  rw [Chip.collDoneAt, hw.nextColl_eq, hw.only, List.foldl_cons, List.foldl_nil, hw.collSettle_eq, hsaved]
  rfl

end

/-! ## The transfer -/

/-- The block once the data of a collective has moved, where `c` named its sources and its checks left `c2` (R131-R133). -/
def Chip.collMoved (c c2 : Chip) (i : Coll) : Chip :=
  let ss := c.shardsOf (Machine.descOf i.tds) i.smap
  let vals := ss.map fun x => (c2.shardElems i.part (Machine.descOf i.tds) x).toArray
  let filled := (c2.shardsOf (Machine.descOf i.tdd) i.dmap).foldl (fun (q : Chip × List (Nat × Bool × Bool)) x =>
    let e := q.1.fillShard i.part i.sub (Machine.descOf i.tdd) ss vals ((c2.keyOf (i.members.headD 0)).getD 0) x
    (e.1, q.2 ++ [e.2])) (c2, [])
  filled.1.countShards filled.2

/-- Where the sources verify and the sums agree the data moves (R132, R133). -/
theorem runColl_of_verified {c c1 c2 : Chip} {i : Coll} {cmps : List (Nat × SumCmp)}
    (hsources : c.verifySources i (c.shardsOf (Machine.descOf i.tds) i.smap) = (c1, true)) (hsums : c1.sumsAgree i cmps = (c2, true)) :
    c.runColl i cmps = (c.collMoved c2 i, true) := by
  simp only [Chip.runColl, hsources, hsums]
  rfl

/-! ## Issue -/

section
variable {c c' : Chip} {me p k n : Nat} {q : CollReq}

/-- The block once participant `me` has issued collective `n`. -/
def Chip.collIssued (c : Chip) (me n : Nat) : Chip :=
  c.withColls (c.core.colls.map fun z => if z.inst = n then { z with issued := me :: z.issued } else z)

/-- The collective that participant `me` begins (R130). -/
def Chip.collFresh (c : Chip) (me p : Nat) (q : CollReq) : Coll :=
  { inst := c.core.nextInst, part := p, lfc := q.lfc, id := q.id, sub := q.sub, tdd := q.tdd, tds := q.tds, smap := q.smap, dmap := q.dmap,
    members := collMembers q.smap q.dmap, issued := [me], done := [] }

/-- The block once it has begun. -/
def Chip.collBegun (c : Chip) (me p : Nat) (q : CollReq) : Chip :=
  { c with core := { c.core with nextInst := c.core.nextInst + 1, colls := c.core.colls ++ [c.collFresh me p q] } }

theorem enterColl_of_oldest {j : Coll} (h : (c.core.colls.find? fun i => i.matches p q && !i.issued.contains me) = some j) :
    c.enterColl me p q = (c.collIssued me j.inst, j.inst) := by
  simp only [Chip.enterColl, h]
  rfl

theorem enterColl_of_none (h : (c.core.colls.find? fun i => i.matches p q && !i.issued.contains me) = none) :
    c.enterColl me p q = (c.collBegun me p q, c.core.nextInst) := by
  simp only [Chip.enterColl, h]
  rfl

/-- A context that issues at once, with no collective open, waits for the one that it has entered (R130, R131). -/
theorem joinColl_waitColl_of_entered (hme : c.logStb (k / 2) = some me) (hcalm : c.calm k) (hfree : c.openColl me (c.ctx k).part q = none)
    (hnone : (c.ctx k).colls = []) (henter : c.enterColl me (c.ctx k).part q = (c', n)) (hkeep : c'.ctx k = c.ctx k) :
    (c.joinColl k q).waitColl k = (c'.updCtx k fun y => { y with colls := [n] }).block k (.coll n) := by
  have hupd : (c'.updCtx k fun x => { x with colls := x.colls ++ [n] }) = c'.updCtx k fun x => { x with colls := [n] } := by
    simp only [Chip.updCtx, hkeep, hnone, List.nil_append]
  have hjoin : c.joinColl k q = c'.updCtx k fun x => { x with colls := [n] } := by
    rw [Chip.calm] at hcalm
    simp only [Chip.joinColl, hcalm, hme, Option.getD_some, Chip.joinAt, hfree, henter, hupd]
  rw [hjoin, Chip.waitColl, updCtx_ctx_same]
  rfl

end

section
variable {sub k me : Nat} {e : Enc} {c c2 : Chip} {sd dd : Desc} {sm dm : List Byte}

/-- What a collective asks for at its issue, with its checks leaving `c2` (R130). -/
def Chip.collReq (c c2 : Chip) (k sub : Nat) (e : Enc) (sm dm : List Byte) : CollReq :=
  { lfc := (c2.ctx k).lfc, id := ((c.ctx k).rs e.b).toNat % 2 ^ 32, sub := sub, tdd := (c.ctx k).td.get e.d 0, tds := (c.ctx k).td.get e.a 0, smap := sm,
    dmap := dm }

variable (hcheck : collCheck sub e k c = .ok ((sd, dd, sm, dm), c2)) (hme : c2.logStb (k / 2) = some me)
include hcheck hme

/-- At a stable that neither map names a collective does nothing (R130). -/
theorem collBody_of_stranger (hmine : (collMembers sm dm).contains me = false) : collBody sub e k c = .ok ((), c2) := by
  rw [collBody, ex_bind_ok (getTD_eq k e.d c), ex_bind_ok (getTD_eq k e.a c), ex_bind_ok (getS_eq k e.b c), ex_bind_ok hcheck]
  simp only [ex_bind_ok (ex_get c2), hme, hmine]
  rfl

/-- At a participant outside a CHECKED block it is issued, and its context waits (R130, R131). -/
theorem collBody_of_participant (hchk : (c2.ctx k).chk = none) (hmine : (collMembers sm dm).contains me = true) :
    collBody sub e k c = .ok ((), (c2.joinColl k (c.collReq c2 k sub e sm dm)).waitColl k) := by
  rw [collBody, ex_bind_ok (getTD_eq k e.d c), ex_bind_ok (getTD_eq k e.a c), ex_bind_ok (getS_eq k e.b c), ex_bind_ok hcheck]
  simp only [ex_bind_ok (ex_get c2), hme, hmine, Bool.not_true, Bool.false_eq_true, if_false, ex_bind_ok (inChk_eq k c2), hchk]
  rfl

end

/-- Settles O8: a completion moves the data at the first participant, and the context that waits there alone goes on; an issue enters the
    collective and waits for it. -/
theorem collectives : Obligations.Collectives := by
  unfold Obligations.Collectives
  intro completes
  have completion (s : State) (r : StbRef) (i : Coll) (me k : Nat) : completes s r i me k := by
    intro cmps c1 c2 stb sd dd ss vals filled moved alone ended hme hcolls hmember hdone hissued hslot
    have waits {c : Chip} (h : alone c) : c.WaitsAlone i k := by
      obtain ⟨honly, hsaved, hjoins, hothers, hwait, hown⟩ := h
      exact ⟨hslot ▸ honly, hsaved, hjoins, hothers, hwait, hown⟩
    have leaves {c : Chip} (h : alone c) (hopen : c.core.colls = [i]) {l : List Coll} (hleft : i.left me [i] = l) : c.collDoneAt i stb me = ended c l := by
      rw [← hslot, collDoneAt_of_waitsAlone (waits h), hopen, hleft]
      rfl
    have first (hfirst : i.done = []) (hsources : s.verifySources i ss = (c1, true)) (hsums : c1.sumsAgree i (cmps.map fun q => (stbKey q.1, q.2)) = (c2, true)) :
        s.collComplete i.inst stb (cmps.map fun q => (stbKey q.1, q.2)) = moved.collDoneAt i stb me :=
      collComplete_of_first hme hcolls hmember hdone hissued hfirst (runColl_of_verified hsources hsums)
    refine ⟨fun hfirst hsources hsums hopen halone hmore => ?_, fun hfirst hsources hsums hopen halone hlast => ?_, fun hbegun halone hlast => ?_⟩
    · have hleft : i.left me [i] = [{ i with done := [me] }] := by
        rw [left_of_some_open (by simpa [hfirst] using hmore), Coll.doneBy, hfirst]
      exact exec_eq_next rfl ((first hfirst hsources hsums).trans (leaves halone hopen hleft))
    · exact exec_eq_next rfl ((first hfirst hsources hsums).trans (leaves halone hopen (left_of_all_done fun m hm => .inl (hlast m hm))))
    · exact exec_eq_next rfl ((collComplete_of_begun hme hcolls hmember hdone hissued hbegun).trans (leaves halone hcolls (left_of_all_done hlast)))
  refine ⟨completion, ?_⟩
  intro s r e c c2 me sd dd sm dm k x row
  have issue {sub i} (hrow : CtxRow s i r (dColl sub) e (collBody sub e)) : row sub i := by
    intro h hcheck hme hchk q p mine enters waits joined fresh begun oldest
    have entered {c' : Chip} {n : Nat} (hin : enters) (henter : c2.enterColl me p q = (c', n)) (hkeep : c'.ctx k = c2.ctx k) : exec i s = .next (waits c' n) := by
      obtain ⟨hmine, hcalm, hfree, hnone⟩ := hin
      have hbody := collBody_of_participant hcheck hme hchk hmine
      exact hrow.leaves h (hbody.trans (congrArg (fun z => Except.ok ((), z)) (joinColl_waitColl_of_entered hme hcalm hfree hnone henter hkeep)))
    refine ⟨fun j hin hold => ?_, fun hin hnew => ⟨?_, fun r2 _ => completion begun r2 fresh me k⟩, fun hmine => ?_, fun hmine => ?_⟩
    · exact entered hin (enterColl_of_oldest hold) rfl
    · exact entered hin (enterColl_of_none hnew) rfl
    · exact hrow.leaves h (collBody_of_participant hcheck hme hchk hmine)
    · exact hrow.leaves h (collBody_of_stranger hcheck hme hmine)
  exact ⟨issue rfl, issue rfl, issue rfl, issue rfl⟩

end Sys2Proof.Machine

/-! SUPPORT and PROOFS. Check blocks of a context (R149, R241). -/

namespace Sys2Proof.Machine

/-! ## CHKB in CHECKED mode -/

section
variable {c : Chip} {k : Nat} {d : IDesc} {e : Enc}

/-- In CHECKED mode, outside a block, an instruction that the mode admits with no lock-step, that executes and whose words pass only moves
    IADDR past them (R33, R41, R55, R147). -/
theorem prologue_of_checked_mode (hfetch : checks (c.fetchChecks k) c = .ok ((), c)) (hwords : checks (c.decodeChecks k d e) c = .ok ((), c))
    (hgo : (c.ctx k).executes e = true) (hmode : c.checkedMode (k / 2) = true) (hblk : (c.ctx k).blk = none) (hgrp : d.grp = 1) :
    prologue k d e c = .ok (true, c.updCtx k fun x => { x with ia := (x.ia + 8 * (1 + d.fmt.next)) % 2 ^ 48 }) := by
  rw [Chip.fetchChecks] at hfetch
  rw [Chip.decodeChecks] at hwords
  rw [Ctx.executes] at hwords hgo
  rw [hgo] at hwords
  simp only [prologue, hgo, ex_bind, ctxOf_eq, ex_get, hfetch, hwords, updC_eq]
  simp [ex_bind, countInsn_of_no_block, hblk, hgrp, hmode, need_true]

/-- Pending pages of a context (R246). -/
def Chip.pendPages (c : Chip) (x : Ctx) : Nat := ((c.desc? x).map CtxDesc.pendPages).getD 0

variable (hmode : c.checkedMode (k / 2) = true)
include hmode

/-- With pending pages, and no heartbeat due, CHKB begins its block (R241, R246, R268). -/
theorem chkbBody_of_checked (hblk : (c.ctx k).blk = none) (hpages : 0 < c.pendPages (c.ctx k)) (hdue : (c.eng (k / 2)).hb ≠ 1) (hruns : (c.eng (k / 2)).hb ≠ 2) :
    chkbBody e k c = .ok ((), c.openBlock k (fld e.body 15 0)) := by
  have hsome : (((c.desc? (c.ctx k)).map CtxDesc.pendPages).getD 0 == 0) = false := beq_false_of_ne (Nat.ne_of_gt hpages)
  simp [chkbBody, ex_bind, hblk, hmode, hsome, need_true, hdue, hruns]

/-- The tiles of a context at the start of a CHECKED block hold no negated word (R102, R241). -/
theorem openBlock_accNeg (cbid : Nat) : ((c.openBlock k cbid).ctx k).accNeg = [] := by
  simp [Chip.openBlock, hmode]

end

/-! ## A context with a negated tile word outside a block -/

/-- A stable in CHECKED mode; its context stands before a CHKB, with pending pages and a tile word marked as negated. -/
def negatedTile : State :=
  let desc : CtxDesc := { job := 0, hall := 0, stable := 0, pinned := false, nopre := false, nacc := 1, entry := 0x10000, fentry := 0x10000, arg := 0,
                          pendBase := 0, pendPages := 1, saveBase := 0, savePages := 0, ranges := [], acclive := 0, cycles := 0, umax := 0, fclk := 0,
                          mode := 0, pers := 0 }
  { regs := [(stbK 0 0xA0, 1)], core := { slots := [(0, { state := 2, ia := 0x10000, accNeg := [(0, true)] })] },
    parts := [(0, { wins := [⟨0x10000, 1, true, false, true, false⟩], ctxs := [desc] })] }

/-- The block in which its CHKB takes effect. -/
def negatedTileAt : Chip := (negatedTile.fetching ⟨0, 0, 0⟩).updCtx 0 fun x => { x with ia := (x.ia + 8) % 2 ^ 48 }

/-- The CHKB there runs. -/
theorem runs_negatedTile : Runs negatedTile.toChip ⟨0, 0, 0⟩ dChkb {} negatedTileAt := by
  refine ⟨by decide, ?_⟩
  exact prologue_of_checked_mode (checks_fetch_ok (by decide) (by decide)) (checks_decode_ok (by decide) fun _ => by decide) (by decide) (by decide) rfl rfl

/-- Refutes O53: its clause for a CHKB in CHECKED mode leaves the marks of negated tile words as they are, while the model drops them with the
    words of V and ACC. At a context with such a mark the two next states differ. -/
theorem not_checkBlocks : ¬ Obligations.CheckBlocks := by
  intro h
  have hmode : negatedTileAt.checkedMode 0 = true := by decide
  obtain ⟨-, hclause, -⟩ := h negatedTile ⟨0, 0, 0⟩ {} negatedTileAt negatedTileAt { cbid := 0, checked := true } { cbid := 0, checked := true }
  have hclaim := hclause runs_negatedTile rfl hmode (by decide) (by decide) (by decide)
  have hmodel : exec (.chkb (.ctx ⟨0, 0, 0⟩) {}) negatedTile = .next (negatedTile.withChip (negatedTileAt.openBlock 0 0)) :=
    exec_ctx_ok rfl runs_negatedTile (chkbBody_of_checked hmode rfl (by decide) (by decide) (by decide))
  have hstates := Host.Outcome.next.inj (hmodel.symm.trans hclaim)
  have hmarks : ((negatedTileAt.openBlock 0 0).ctx 0).accNeg = [(0, true)] := congrArg (fun s => (s.toChip.ctx 0).accNeg) hstates
  rw [openBlock_accNeg hmode] at hmarks
  cases hmarks

end Sys2Proof.Machine

/-! SUPPORT and PROOFS. KVPAGE, the splice of a reclaim batch and the registration of a page table (R180, R181, R182, R196). -/

namespace Sys2Proof.Machine

/-! ## Pages outside a CHECKED block -/

section
variable {x : Ctx} (hchk : x.chk = none)
include hchk

/-- No reference is held back outside a CHECKED block (R194). -/
theorem heldRef_out (p ref : Nat) : heldRef x p ref = ref := by
  rw [heldRef, hchk]

/-- Nor is a FILL. -/
theorem heldFill_out (p fill : Nat) : heldFill x p fill = fill := by
  rw [heldFill, hchk]

end

/-- Every instruction may use a LIVE page (R179). -/
theorem usablePage_of_live {q : KvEnt} (hlive : q.st = 1) (x : Ctx) (stb p : Nat) : usablePage x stb p q = true := by
  simp [usablePage, hlive]

section
variable {k : Nat} {e : Enc} {c c1 c2 c3 : Chip} {q : KvEnt}

/-- The table that KVPAGE needs (R178). -/
theorem kvReady_of_registered (hon : c.kvOn (k / 2) = true) (hheader : kvHeader k c = .ok ((), c)) : kvReady k c = .ok ((), c) := by
  rw [kvReady, ex_bind_ok (ex_get c), ex_bind_need hon, hheader]

/-! ## ALLOC -/

/-- The page layout that ALLOC's operand names (R180). -/
def allocForm (a : Nat) : KvForm := { kvf := a % 2, dh := 32 * (bits a 3 1 + 1), hkv := bits a 9 4 + 1 }

/-- ALLOC that no splice holds up takes a page of that layout (R180). -/
theorem kvAllocBody_of_taken {p : Nat} (hchk : (c.ctx k).chk = none) (hready : kvReady k c = .ok ((), c)) (hop : ((c.ctx k).rs e.a).toNat < 1024)
    (hwait : c.kvMustWait k = false) (htake : kvTake k (allocForm ((c.ctx k).rs e.a).toNat) 0 c = .ok (p, c1)) :
    kvAllocBody e k c = .ok ((), c1.updCtx k fun y => y.ws e.d (BitVec.ofNat 64 p)) := by
  have hnow : allocNow k e.d ((c.ctx k).rs e.a).toNat c = .ok ((), c1.updCtx k fun y => y.ws e.d (BitVec.ofNat 64 p)) :=
    (ex_bind_ok ((recorded_out hchk).trans htake)).trans (setS_eq ..)
  rw [kvAllocBody, ex_bind_ok hready]
  simp [ex_bind, need_eq, hop, hchk, hwait, hnow]

/-! ## REF and UNREF -/

/-- A page that keeps a reference, or goes behind a tail that the walker accepts, is counted at the table (R179). -/
theorem kvRefNow_of_accepted {up : Bool} {p : Nat} (h : up = true ∨ 1 < (c.kvEnt (k / 2) p).ref ∨ kvTail k c = .ok ((), c)) :
    kvRefNow k p up c = .ok ((), c.kvRefApply (k / 2) p up) := by
  have htail : (if up || decide (1 < (c.kvEnt (k / 2) p).ref) then pure () else kvTail k) c = .ok ((), c) := by
    by_cases hkept : (up || decide (1 < (c.kvEnt (k / 2) p).ref)) = true
    · rw [if_pos hkept, ex_pure]
    · rw [if_neg hkept]
      simp only [Bool.or_eq_true, decide_eq_true_eq, not_or] at hkept
      obtain ⟨hdown, hlast⟩ := hkept
      exact (h.resolve_left hdown).resolve_left hlast
  exact (ex_bind_ok (ex_get c)).trans (ex_bind_ite_ok htail)

/-- The counts at which R180 accepts REF and UNREF. -/
def refInRange (up : Bool) (ref : Nat) : Prop := if up then 0 < ref ∧ ref < 65535 else 1 ≤ ref

/-- The count that they answer. -/
def newRef (up : Bool) (ref : Nat) : Nat := if up then ref + 1 else ref - 1

section
variable {up : Bool} {ref : Nat} (h : refInRange up ref)
include h

/-- The walker's check passes there. -/
theorem refCheck_of_inRange : (if up then decide (0 < (ref : Int)) && decide ((ref : Int) < 65535) else decide (1 ≤ (ref : Int))) = true := by
  cases up with
  | true =>
    obtain ⟨hlo, hhi⟩ := h
    exact (Bool.and_eq_true _ _).mpr ⟨decide_eq_true (by omega), decide_eq_true (by omega)⟩
  | false => exact decide_eq_true (Int.ofNat_le.mpr h)

/-- Its sum does not go below zero there. -/
theorem newRef_of_inRange : (if up then (ref : Int) + 1 else (ref : Int) - 1) = newRef up ref := by
  cases up with
  | true => rfl
  | false => exact (Int.ofNat_sub h).symm

end

/-- REF and UNREF of a LIVE page answer the new count (R180). -/
theorem kvRefBody_of_live {up : Bool} (hchk : (c.ctx k).chk = none) (hready : kvReady k c = .ok ((), c)) (hop : ((c.ctx k).rs e.a).toNat < 65536)
    (hlook : kvLook k ((c.ctx k).rs e.a).toNat c = .ok (q, c)) (hlive : q.st = 1) (hrange : refInRange up q.ref)
    (hnow : kvRefNow k ((c.ctx k).rs e.a).toNat up c = .ok ((), c1)) :
    kvRefBody up e k c = .ok ((), c1.updCtx k fun y => y.ws e.d (BitVec.ofNat 64 (newRef up q.ref))) := by
  rw [kvRefBody, ex_bind_ok hready, ex_bind_ok (getS_eq k e.a c), ex_bind_need (decide_eq_true hop), ex_bind_ok hlook, ex_bind_ok (ctxOf_eq k c)]
  simp only [heldRef_out hchk, usablePage_of_live hlive, Bool.true_and, newRef_of_inRange hrange]
  rw [ex_bind_need (refCheck_of_inRange hrange), ex_bind_ok (inChk_eq k c), hchk]
  exact (ex_bind_ok hnow).trans (congrArg (fun v => setS k e.d v c1) (BitVec.ofInt_natCast ..))

/-! ## COW -/

section
variable {d a : Nat} {bs : List Byte} (hchk : (c.ctx k).chk = none) (hslot : rd k a 2 c = .ok (bs, c))
  (hlook : kvLook k (leNat bs) c = .ok (q, c)) (hlive : q.st = 1)
include hchk hslot hlook hlive

/-- COW of a page with one reference answers that page (R181). -/
theorem cowNow_of_alone (href : q.ref = 1) : cowNow k d a c = .ok ((), c.updCtx k fun y => y.ws d (BitVec.ofNat 64 (leNat bs))) := by
  rw [cowNow, ex_bind_ok hslot, ex_bind_ok hlook, ex_bind_ok (ctxOf_eq k c), ex_bind_need (usablePage_of_live hlive ..)]
  simp only [heldRef_out hchk, href]
  exact (ex_bind_ok (recorded_out hchk)).trans (congrFun (if_pos (.inl rfl)) c)

/-- COW of a shared page copies its frame to a new page, puts that page's number in the slot and drops a reference (R181). -/
theorem cowNow_of_shared {n : Nat} (href : q.ref ≠ 1) (htake : kvTake k q.form q.fill c = .ok (n, c1)) (hnew : n ≠ leNat bs) (hgot : n ≠ 0xFFFF)
    (hcopy : copyFrame k q.frm (c1.kvEnt (k / 2) n).frm q.form q.fill false c1 = .ok ((), c2)) (hput : wr k 0 a (leBytes 2 n) c2 = .ok ((), c3)) :
    cowNow k d a c = .ok ((), (c3.kvRefApply (k / 2) (leNat bs) false).updCtx k fun y => y.ws d (BitVec.ofNat 64 n)) := by
  rw [cowNow, ex_bind_ok hslot, ex_bind_ok hlook, ex_bind_ok (ctxOf_eq k c), ex_bind_need (usablePage_of_live hlive ..)]
  have halone : (heldRef (c.ctx k) (leNat bs) q.ref == 1) = false := by
    rw [heldRef_out hchk]
    exact beq_false_of_ne (by omega)
  have hother : ¬ (n = leNat bs ∨ n = 0xFFFF) := not_or.mpr ⟨hnew, hgot⟩
  simp only [halone, heldFill_out hchk, hchk, Option.isSome_none, Bool.false_eq_true, if_false]
  rw [ex_bind_ok ((recorded_out hchk).trans htake), if_neg hother, ex_bind_ok (ex_get c1), ex_bind_ok hcopy]
  exact ex_bind_ok hput

end

/-- Where no splice holds it up, COW is `cowNow` of its slot (R181, R183). -/
theorem kvCowBody_of_slot (hchk : (c.ctx k).chk = none) (hready : kvReady k c = .ok ((), c)) (haddr : slotAddr ((c.ctx k).rs e.a).toNat 2 = true)
    (hwait : c.kvMustWait k = false) : kvCowBody e k c = cowNow k e.d ((c.ctx k).rs e.a).toNat c := by
  rw [kvCowBody, ex_bind_ok hready, ex_bind_ok (getS_eq k e.a c), ex_bind_need haddr]
  simp [ex_bind, hchk, hwait]

end

/-! ## The splice -/

section
variable {c : Chip} {stb : Nat}

/-- The table's lists with the batch linked in, and the saved contexts that waited for it runnable (R182, R276). -/
def Chip.kvLinked (c : Chip) (stb : Nat) : Chip := (c.kvSplice stb).kvSaved c stb

/-- A due splice that no slot waits for links the batch (R182). -/
theorem kvReclaim_of_no_waiter (hdue : c.spliceDue stb = true) (h0 : ((c.kvLinked stb).ctx (2 * stb)).wait = .none)
    (h1 : ((c.kvLinked stb).ctx (2 * stb + 1)).wait = .none) : c.kvReclaim stb = c.kvLinked stb := by
  rw [Chip.kvLinked] at h0 h1 ⊢
  simp only [Chip.kvReclaim, hdue, if_true, List.foldl_cons, List.foldl_nil, h0, ite_self, h1]

/-! ## STB_KVPT -/

/-- No context of the stable runs or is blocked (R196). -/
def Chip.kvIdle (c : Chip) (k : Nat) : Prop := (c.ctx k).state ≠ 2 ∧ (c.ctx k).state ≠ 3

/-- STB_KVPT.BASE of a written value. -/
def kvptBase (v : Nat) : Nat := bits v 47 5 * 32

/-- A write while the stable's first slot runs or is blocked is discarded and counted (R196). -/
theorem kvptWrite_of_busy {v : Nat} (h : ¬ c.kvIdle (2 * stb)) : c.kvptWrite stb v = c.bump (stbK stb 0x38) := by
  have hbusy : ((c.ctx (2 * stb)).state == 2 || (c.ctx (2 * stb)).state == 3) = true := by
    simpa [Chip.kvIdle, Decidable.or_iff_not_imp_left] using h
  simp [Chip.kvptWrite, hbusy]

section
variable (h0 : c.kvIdle (2 * stb)) (h1 : c.kvIdle (2 * stb + 1))
include h0 h1

/-- Neither slot of an idle stable stops the write (R196). -/
theorem any_busy_of_idle : ([2 * stb, 2 * stb + 1].any fun k => (c.ctx k).state == 2 || (c.ctx k).state == 3) = false := by
  simp [h0.1, h0.2, h1.1, h1.2]

/-- EN = 0 unregisters the table (R196). -/
theorem kvptWrite_of_disable {v : Nat} (hen : bit v 0 = false) : c.kvptWrite stb v = c.setReg (stbK stb 0x60) (kvptBase v) := by
  simp [Chip.kvptWrite, any_busy_of_idle h0 h1, hen, kvptBase]

/-- EN = 1 registers a table in local memory whose size and header the walker accepts (R176, R196). -/
theorem kvptWrite_of_accepted {v : Nat} {d : Chip} (hen : bit v 0 = true) (hd : c.setReg (stbK stb 0x60) (kvptBase v + 1) = d)
    (hlocal : 0x800000000000 ≤ kvptBase v) (hsize : 2 ≤ d.kvEntries stb) (hend : kvptBase v + 16 * d.kvEntries stb ≤ 0x800000400000)
    (hheader : bits (d.kvWord stb 0 1) 63 32 = 0) : c.kvptWrite stb v = d := by
  have hbelow : kvptBase v < 0x800000400000 := by omega
  rw [kvptBase] at hd hlocal hend hbelow
  simp [Chip.kvptWrite, any_busy_of_idle h0 h1, hen, hd, hlocal, hsize, hend, hheader, hbelow]

end

end

/-- Settles O26: each form of KVPAGE is the effect of its body at a registered table, the splice and the register write are the model's at the
    stable's lists. -/
theorem kvPagesAndTables : Obligations.KvPagesAndTables := by
  constructor
  · intro s r e c c1 c2 c3 c4 p n q bs k x a hchk hon hheader
    have hready : kvReady k c = .ok ((), c) := kvReady_of_registered hon hheader
    refine ⟨fun h hop hwait htake => ?_, fun h hop hlook hlive hlo hhi => ?_, fun h hop hlook hlive hlo htail => ?_,
      fun h haddr hwait hslot hlook hlive href => ?_, fun h haddr hwait hslot hlook hlive href htake hnew hgot hcopy hput hc4 => ?_⟩
    · exact CtxRow.leaves rfl h (kvAllocBody_of_taken hchk hready hop hwait htake)
    · exact CtxRow.leaves rfl h (kvRefBody_of_live hchk hready hop hlook hlive (up := true) ⟨hlo, hhi⟩ (kvRefNow_of_accepted (.inl rfl)))
    · exact CtxRow.leaves rfl h (kvRefBody_of_live hchk hready hop hlook hlive (up := false) hlo (kvRefNow_of_accepted (.inr htail)))
    · exact CtxRow.leaves rfl h ((kvCowBody_of_slot hchk hready haddr hwait).trans (cowNow_of_alone hchk hslot hlook hlive href))
    · subst hc4
      exact CtxRow.leaves rfl h ((kvCowBody_of_slot hchk hready haddr hwait).trans
        (cowNow_of_shared hchk hslot hlook hlive href htake hnew hgot hcopy hput))
  · intro s r v k calm base linked d
    refine ⟨fun hdue h0 h1 => ?_, fun h0 h1 hen => ?_, fun h0 h1 hen hlocal hsize hend hheader => ?_, fun hbusy => ?_⟩
    · exact exec_eq_next rfl (kvReclaim_of_no_waiter hdue h0 h1)
    · exact exec_eq_next rfl (kvptWrite_of_disable h0 h1 hen)
    · exact exec_eq_next rfl (kvptWrite_of_accepted h0 h1 hen rfl hlocal hsize hend hheader)
    · exact exec_eq_next rfl (kvptWrite_of_busy hbusy)

end Sys2Proof.Machine

/-! SUPPORT and PROOFS. ATTN and KVAPP (R188, R190, R191). -/

namespace Sys2Proof.Machine

section
variable {k : Nat} {e : Enc} {c c1 c2 c3 c4 : Chip}

/-- ATTN writes its rows, then their status bytes, and counts what the rows met (R190, R191, R192). -/
theorem attnBody_of_written {sub : Nat} {a : AttnIn} {rs : List AttnRow} {f : NumFlags} (hread : attnRead sub e k c = .ok (a, c1))
    (hrows : attnRows sub e k a c1 = .ok (rs, c2)) (hwrite : writeTensor k a.od (a.vals rs) false 0 (a.unit rs) c2 = .ok (f, c3))
    (hstatus : (if a.st = 0 then pure () else (a.status rs).forM fun q => wr k 0 (a.st + q.1) [BitVec.ofNat 8 q.2]) c3 = .ok ((), c4)) :
    attnBody sub e k c = .ok ((), c4.attnFlags k e.spA f.sat rs ((a.status rs).any fun q => q.2 != 0)) := by
  rw [attnBody, ex_bind_ok hread, ex_bind_ok (moveStop_ok _ hrows), ex_bind_ok (moveStop_ok _ hwrite), ex_bind_ok (moveStop_ok _ hstatus), ex_modify]

/-- KVAPP stores the quantised vectors and counts what quantising them met (R188). -/
theorem kvappBody_of_stored {q : KvAppIn} {all : List (List KvWrite × Bool × Bool)} (hread : kvappRead e k c = .ok (q, c1))
    (hcells : kvappCells k q c1 = .ok (all, c2)) (hstore : kvappStore k q (all.map fun w => w.1).flatten c2 = .ok ((), c3)) :
    kvappBody e k c = .ok ((), c3.noteFlags k e.spA { sat := all.any fun w => w.2.1, nan := all.any fun w => w.2.2 }) := by
  rw [kvappBody, ex_bind_ok hread, ex_bind_ok hcells, ex_bind_ok hstore, finishFlags_eq]

end

/-- Settles O50: the three forms of ATTN are one body, whose phases and KVAPP's are those of the clauses. -/
theorem attentionRows : Obligations.AttentionRows := by
  intro s r e c c1 c2 c3 c4 a rs fl q all k row
  have written {sub i} (hrow : CtxRow s i r _ e (attnBody sub e)) : row sub i :=
    fun h hread hrows hwrite hstatus => hrow.leaves h (attnBody_of_written hread hrows hwrite hstatus)
  refine ⟨written rfl, written rfl, written rfl, fun h hread hcells hstore => ?_⟩
  exact CtxRow.leaves rfl h (kvappBody_of_stored hread hcells hstore)

end Sys2Proof.Machine

/-! SUPPORT and PROOFS. Geometry tests, traversals, sweeps and builds (R210 to R214, R216). -/

namespace Sys2Proof.Machine

section
variable {k sub : Nat} {e : Enc} {c c1 c2 c3 : Chip}

/-! ## Rows of results -/

/-- GTEST stores the row of every query against every record and counts what the rows met (R209, R210). -/
theorem gtestBody_of_stored {d : Desc} {prims : List Prim} {qs : List (Nat × Nat × Nat × Nat)} (hread : gtestRead sub e k c = .ok ((d, prims, qs), c1))
    (hstore : storeRows k d ((qs.map (gtestRow e.prm prims)).map some) (fun i => (i + 1) * ((prims.length + 15) / 16) - 1) c1 = .ok ((), c2)) :
    gtestBody sub e k c = .ok ((), c2.rowFlags k 0 (qs.map (gtestRow e.prm prims))) := by
  rw [gtestBody, ex_bind_ok hread]
  exact ex_bind_ok hstore

/-- GTRAV stores its rows, sixteen to a work unit, and counts what they met (R209, R210). -/
theorem gtravBody_of_stored {d : Desc} {rows : List Row} (hrows : gtravRows sub e k c = .ok ((d, rows), c1))
    (hstore : storeRows k d (rows.map some) (· / 16) c1 = .ok ((), c2)) :
    gtravBody sub e k c = .ok ((), c2.rowFlags k (fld e.x0 3 0) rows) := by
  rw [gtravBody, ex_bind_ok hrows]
  exact ex_bind_ok hstore

/-- A sweep stores the rows of its edges and counts what they met (R209, R211). -/
theorem gsweepBody_of_swept {a : SweepIn} {rows : List Row} (hread : gsweepRead e k c = .ok (a, c1)) (hrows : sweepRows sub e k a c1 = .ok (rows, c2))
    (hstore : storeRows k a.rd (rows.map some) a.unit c2 = .ok ((), c3)) :
    gsweepBody sub false e k c = .ok ((), c3.rowFlags k (fld e.x0 3 0) rows) := by
  rw [gsweepBody, ex_bind_ok hread, Bool.not_false, if_pos rfl, ex_bind_ok hrows, ex_bind_ok hstore, ex_modify]

/-- A re-validation stores the rows that change and counts those that it sets as well (R209, R216). -/
theorem gsweepBody_of_revalidated {a : SweepIn} {old : List (Option Row × Row × Bool)} (hread : gsweepRead e k c = .ok (a, c1))
    (hrows : revalRows sub k a c1 = .ok (old, c2)) (hstore : storeRows k a.rd (old.map fun q => q.1) a.unit c2 = .ok ((), c3)) :
    gsweepBody sub true e k c = .ok ((), c3.revalFlags k (fld e.x0 3 0) old) := by
  rw [gsweepBody, ex_bind_ok hread, Bool.not_true, if_neg Bool.false_ne_true, ex_bind_ok hrows, ex_bind_ok hstore, ex_modify]

/-! ## Builds -/

/-- GBUILD.BUILD writes the hierarchy over the records that it reads (R212). -/
theorem gbuildBody_of_written {nd op : Desc} {ha : Nat} {prims : List (Prim × Box)} {sorted : List Prim} {bb : Option Box} {t : Built}
    (hread : gbuildRead e k c = .ok ((nd, op, ha, prims), c1)) (htree : buildTree prims (fld e.x0 2 0 + 1) 0 0 = (sorted, bb, t))
    (hwrite : gbuildWrite k nd op ha sorted bb t c1 = .ok ((), c2)) : gbuildBody e k c = .ok ((), c2) := by
  rw [gbuildBody, ex_bind_ok hread]
  simp only [htree, hwrite]

/-- GBUILD.REFIT of a header on its boundary writes the bounds of the current records (R213). -/
theorem grefitBody_of_written {ha : Nat} {bs : List Byte} {boxes : List (Option Box × Option Box)} {all : Option Box}
    (haddr : ((c.ctx k).rs e.saG).toNat = ha) (halign : ha % 256 = 0) (hheader : rdPol k true ha 256 c = .ok (bs, c1))
    (hboxes : refitBoxes k (sceneHdr ha bs) c1 = .ok ((boxes, all), c2)) (hwrite : refitWrite k ha (sceneHdr ha bs) boxes all c2 = .ok ((), c3)) :
    grefitBody e k c = .ok ((), c3) := by
  rw [grefitBody, ex_bind_ok (getS_eq k e.saG c), haddr, ex_bind_need (beq_iff_eq.mpr halign), ex_bind_ok hheader, ex_bind_ok hboxes]
  exact hwrite

/-- GBUILD.DYN writes the parts of the set at its tensor's BASE (R214). -/
theorem gdynBody_of_written {od : Desc} {bs : List Byte} (hread : gdynRead e k c = .ok ((od, bs), c1)) (hwrite : wrDesc k od bs c1 = .ok ((), c2)) :
    gdynBody e k c = .ok ((), c2) :=
  (ex_bind_ok hread).trans hwrite

end

/-- Settles O51: each command's effect is its reading, its rows or bounds, their stores and its counters, in that order. -/
theorem geometry : Obligations.Geometry := by
  constructor
  · intro s r e c c1 c2 c3 d prims qs rows a old sub k sp test trav sweep
    have tested {n i} (hrow : CtxRow s i r _ e (gtestBody n e)) : test n i :=
      fun h hread hstore => hrow.leaves h (gtestBody_of_stored hread hstore)
    have traversed {n i} (hrow : CtxRow s i r _ e (gtravBody n e)) : trav n i :=
      fun h hrows hstore => hrow.leaves h (gtravBody_of_stored hrows hstore)
    have swept {n i} (hrow : CtxRow s i r _ e (gsweepBody n (flag e.x0 4) e)) : sweep n i :=
      fun h hplain hread hrows hstore => hrow.leaves h (hplain ▸ gsweepBody_of_swept hread hrows hstore)
    refine ⟨tested rfl, tested rfl, tested rfl, tested rfl, traversed rfl, traversed rfl, traversed rfl, swept rfl, swept rfl,
      fun h hreval hread hrows hstore => ?_⟩
    exact CtxRow.leaves rfl h (hreval ▸ gsweepBody_of_revalidated hread hrows hstore)
  · intro s r e c c1 c2 c3 nd op ha prims bs boxes all k at' t
    refine ⟨fun h hread hwrite => ?_, fun h halign hheader hboxes hwrite => ?_, fun h hread hwrite => ?_⟩
    · exact CtxRow.leaves rfl h (gbuildBody_of_written hread rfl hwrite)
    · exact CtxRow.leaves rfl h (grefitBody_of_written rfl halign hheader hboxes hwrite)
    · exact CtxRow.leaves rfl h (gdynBody_of_written hread hwrite)

end Sys2Proof.Machine

/-! SUPPORT and PROOFS. The Search Unit's queues, its node store, and its owner and capacities (R222-R225, R240). -/

namespace Sys2Proof.Machine

/-! ## Outside a CHECKED block -/

section
variable {c : Chip} {k : Nat} (hchk : (c.ctx k).chk = none)
include hchk

/-- No pass replays outside a CHECKED block (R231). -/
theorem laterPass_out : laterPass k c = .ok (false, c) := by
  simp [laterPass, ex_bind, hchk]

/-- A command to the unit itself is applied there. -/
theorem once_out (act : Ex Unit) : once k act c = act c := by
  rw [once, ex_bind_ok (laterPass_out hchk), if_neg Bool.false_ne_true]

end

/-! ## Checks -/

/-- A record's address on its boundary, in local space outside the aliases, passes (R224). -/
theorem recAddr_ok {a n align : Nat} (halign : a % align = 0) (hlo : 0x800000000000 ≤ a) (hhi : a + n ≤ 0x800000600000) :
    ∀ q ∈ recAddr a n align, q.1 = false := by
  simp [recAddr, halign, hlo, hhi]

/-- The owner of the unit passes where its operands do (R220). -/
theorem checks_owned {c : Chip} {k : Nat} {l : List (Bool × Nat)} (hown : c.suDenied k = false) (h : ∀ q ∈ l, q.1 = false) :
    checks ((c.suDenied k, ACCESS) :: l) c = .ok ((), c) := by
  rw [checks_cons _ _ _ hown, checks_ok h]

/-- An operand without a bit marked zero passes (R223). -/
theorem operand_ok {a n : Nat} (h : a < n) : ∀ q ∈ [(a / n != 0, ILLEGAL_OPERAND)], q.1 = false := by
  simp [Nat.div_eq_of_lt h]

/-- The same for two operands. -/
theorem operands_ok {a b m n : Nat} (ha : a < m) (hb : b < n) : ∀ q ∈ [(a / m != 0 || b / n != 0, ILLEGAL_OPERAND)], q.1 = false := by
  simp [Nat.div_eq_of_lt ha, Nat.div_eq_of_lt hb]

/-! ## The words of a queue -/

/-- A queue word without an upset is clean (R222). -/
theorem suqSound_of_no_upset (site q : Nat) (c : Chip) : suqSound site q 0 c = .ok ((), c) := by
  have hclean : classify 0 = .clean := by decide +kernel
  rw [suqSound, show (0 : BitVec 288).toNat = 0 from BitVec.toNat_zero, hclean]
  exact ite_self _

/-- An empty queue has no word to meet (R222). -/
theorem suqSound_of_empty {site q : Nat} {u : BitVec 288} {c : Chip} (h : (c.suSt site).queues.get q [] = []) : suqSound site q u c = .ok ((), c) := by
  simp only [suqSound, h, if_true]

/-! ## Queues of the unit of a slot's hall -/

/-- Queue `q` of the Search Unit that a slot commands (R222). -/
def Chip.suQueue (c : Chip) (k q : Nat) : List (Nat × Nat) := (c.suSt (k / 8)).queues.get q []

/-- That queue changed. -/
def Chip.updQueue (c : Chip) (k q : Nat) (f : List (Nat × Nat) → List (Nat × Nat)) : Chip :=
  c.updSu (k / 8) fun u => { u with queues := u.queues.upd q [] f }

/-- The answer of EXTRACT and PEEK: a payload in S[D], a key in S[C]. -/
def Chip.putEntry (c : Chip) (k : Nat) (e : Enc) (key pay : Nat) : Chip :=
  (c.updCtx k fun y => y.ws e.d (BitVec.ofNat 64 pay)).updCtx k fun y => y.ws e.c (BitVec.ofNat 64 key)

/-- The queue that INSERT's operand names (R222). -/
def Ctx.insertQ (x : Ctx) (e : Enc) : Nat := bits (x.rs e.a).toNat 49 48
/-- The key and the payload that INSERT's operands make an entry of (R222). -/
def Ctx.insertEntry (x : Ctx) (e : Enc) : Nat × Nat := (bits (x.rs e.a).toNat 47 0, (x.rs e.b).toNat)

/-! ## Nodes of the unit of a slot's hall -/

/-- SU_NALLOC of the unit that a slot commands (R224). -/
def Chip.suNalloc (c : Chip) (k : Nat) : Nat := (c.suSt (k / 8)).nalloc

/-- A local address of a node record (R224). -/
def nodeAddr (a : Nat) : Prop := a % 32 = 0 ∧ 0x800000000000 ≤ a ∧ a + 64 ≤ 0x800000600000

/-- Such an address passes its checks. -/
theorem nodeAddr.checked {a : Nat} (h : nodeAddr a) : ∀ q ∈ recAddr a 64 32, q.1 = false := by
  obtain ⟨halign, hlo, hhi⟩ := h
  exact recAddr_ok halign hlo hhi

/-- The word in which NEAREST answers a node and its metric, or EMPTY with node 0 and +∞ (R225). -/
def nearestAnswer : Option (Nat × Nat) → Nat
  | none => 0x7F80000080000000
  | some (i, m) => i + m * 2 ^ 32

/-- The live node of least metric by the weights of SU_NNCFG, among the first `n` (R225). -/
def Chip.nearest (c : Chip) (k : Nat) (q : List Byte) (n : Nat) : Option (Nat × Nat) :=
  nearestNode c (k / 8) (bits (c.reg (suK (k / 8) 0x38)) 31 0) (bits (c.reg (suK (k / 8) 0x38)) 63 32) q n 0 none

section
variable {k : Nat} {e : Enc} {u : BitVec 288} {c c1 c2 : Chip} {bs : List Byte}

/-- The record in which a taking command holds its entry gives S[D] its low word and S[C] the rest (R231). -/
theorem setS_entry {key pay : Nat} (hpay : pay < 2 ^ 64) :
    (do setS k e.d (BitVec.ofNat 64 (pay + key * 2 ^ 64)); setS k e.c (BitVec.ofNat 64 ((pay + key * 2 ^ 64) / 2 ^ 64))) c = .ok ((), c.putEntry k e key pay) := by
  have hlow : BitVec.ofNat 64 (pay + key * 2 ^ 64) = BitVec.ofNat 64 pay := by
    rw [← BitVec.toNat_inj, BitVec.toNat_ofNat, BitVec.toNat_ofNat, Nat.add_mul_mod_self_right]
  have hhigh : (pay + key * 2 ^ 64) / 2 ^ 64 = key := by omega
  rw [hlow, hhigh]
  rfl

section
variable (hchk : (c.ctx k).chk = none) (hown : c.suDenied k = false)
include hchk hown

/-! ## Commands to a queue -/

section
variable (ha : ((c.ctx k).rs e.a).toNat < 2 ^ 50) (hb : ((c.ctx k).rs e.b).toNat < 2 ^ 32)
  (hgood : suqSound (k / 8) ((c.ctx k).insertQ e) u c = .ok ((), c1))
include ha hb hgood

/-- INSERT appends its entry where the queue has room (R223). -/
theorem suqInsertBody_of_room (hroom : (c1.suQueue k ((c.ctx k).insertQ e)).length < suCap (c1.reg (suK (k / 8) 8)) ((c.ctx k).insertQ e)) :
    suqInsertBody u e k c =
      .ok ((), (c1.updQueue k ((c.ctx k).insertQ e) fun l => l ++ [(c.ctx k).insertEntry e]).updCtx k fun y => y.ws e.d (BitVec.ofNat 64 0)) := by
  rw [Ctx.insertQ] at hgood hroom
  rw [suqInsertBody, ex_bind_ok (getS_eq k e.a c), ex_bind_ok (getS_eq k e.b c), ex_bind_ok (ex_get c),
    ex_bind_ok (checks_owned hown (operands_ok ha hb))]
  refine (ex_bind_ok ((recorded_out hchk).trans ?_)).trans (setS_eq k e.d _ _)
  rw [ex_bind_ok hgood, ex_bind_ok (ex_get c1)]
  exact congrFun (if_pos hroom) c1

/-- INSERT into a full queue is counted and answers 1 (R223). -/
theorem suqInsertBody_of_full (hfull : suCap (c1.reg (suK (k / 8) 8)) ((c.ctx k).insertQ e) ≤ (c1.suQueue k ((c.ctx k).insertQ e)).length) :
    suqInsertBody u e k c = .ok ((), (c1.bump (suK (k / 8) 0x40)).updCtx k fun y => y.ws e.d (BitVec.ofNat 64 1)) := by
  rw [Ctx.insertQ] at hgood hfull
  rw [suqInsertBody, ex_bind_ok (getS_eq k e.a c), ex_bind_ok (getS_eq k e.b c), ex_bind_ok (ex_get c),
    ex_bind_ok (checks_owned hown (operands_ok ha hb))]
  refine (ex_bind_ok ((recorded_out hchk).trans ?_)).trans (setS_eq k e.d _ _)
  rw [ex_bind_ok hgood, ex_bind_ok (ex_get c1)]
  exact congrFun (if_neg (Nat.not_lt_of_le hfull)) c1

end

section
variable (ha : ((c.ctx k).rs e.a).toNat < 4)
include ha

section
variable (hgood : suqSound (k / 8) ((c.ctx k).rs e.a).toNat u c = .ok ((), c1))
include hgood

/-- EXTRACT and PEEK answer the least key's first entry, which EXTRACT removes (R222). -/
theorem suqTakeBody_of_least {peek : Bool} {key pay : Nat} (hmin : qMin (c1.suQueue k ((c.ctx k).rs e.a).toNat) = some (key, pay)) (hpay : pay < 2 ^ 32) :
    suqTakeBody peek u e k c = .ok ((), (if peek then c1 else c1.updQueue k ((c.ctx k).rs e.a).toNat (qDrop key)).putEntry k e key pay) := by
  rw [Chip.suQueue] at hmin
  rw [suqTakeBody, ex_bind_ok (getS_eq k e.a c), ex_bind_ok (ex_get c), ex_bind_ok (checks_owned hown (operand_ok ha))]
  refine (ex_bind_ok ((recorded_out hchk).trans ?_)).trans (setS_entry (by omega))
  rw [ex_bind_ok hgood, ex_bind_ok (ex_get c1), hmin]
  cases peek <;> rfl

/-- Of an empty queue they answer EMPTY with the greatest key (R223). -/
theorem suqTakeBody_of_empty (peek : Bool) (hmin : qMin (c1.suQueue k ((c.ctx k).rs e.a).toNat) = none) :
    suqTakeBody peek u e k c = .ok ((), c1.putEntry k e (2 ^ 48 - 1) (2 ^ 32)) := by
  rw [Chip.suQueue] at hmin
  rw [suqTakeBody, ex_bind_ok (getS_eq k e.a c), ex_bind_ok (ex_get c), ex_bind_ok (checks_owned hown (operand_ok ha))]
  refine (ex_bind_ok ((recorded_out hchk).trans ?_)).trans (setS_entry (by decide))
  rw [ex_bind_ok hgood, ex_bind_ok (ex_get c1), hmin]
  rfl

end

/-- COUNT answers the queue's length (R222). -/
theorem suqCountBody_eq :
    suqCountBody e k c = .ok ((), c.updCtx k fun y => y.ws e.d (BitVec.ofNat 64 (c.suQueue k ((c.ctx k).rs e.a).toNat).length)) := by
  rw [suqCountBody, ex_bind_ok (getS_eq k e.a c), ex_bind_ok (ex_get c), ex_bind_ok (checks_owned hown (operand_ok ha))]
  exact (ex_bind_ok (recorded_out hchk)).trans (setS_eq k e.d _ c)

end

/-- CLEAR empties the queue that it names or, with bit 2, all, and with bit 3 zeroes SU_NALLOC (R222). -/
theorem suqClearBody_eq (ha : ((c.ctx k).rs e.a).toNat < 16) :
    suqClearBody e k c = .ok ((), c.updSu (k / 8) fun u =>
      { u with queues := if bit ((c.ctx k).rs e.a).toNat 2 then [] else u.queues.set (((c.ctx k).rs e.a).toNat % 4) []
               nalloc := if bit ((c.ctx k).rs e.a).toNat 3 then 0 else u.nalloc }) := by
  rw [suqClearBody, ex_bind_ok (getS_eq k e.a c), ex_bind_ok (ex_get c), ex_bind_ok (checks_owned hown (operand_ok ha)), once_out hchk, ex_modify]
  cases bit ((c.ctx k).rs e.a).toNat 2 <;> cases bit ((c.ctx k).rs e.a).toNat 3 <;> rfl

/-! ## The node store -/

section
variable (ha : nodeAddr ((c.ctx k).rs e.a).toNat)
include ha

/-- NEW copies a record into the next node and marks it live (R224). -/
theorem sunodeNewBody_of_room (hroom : c.suNalloc k < 32768) (hread : rd k ((c.ctx k).rs e.a).toNat 64 c = .ok (bs, c1))
    (hwrite : wrNode k (c.suNalloc k) (bs.take 32 ++ (bs.getD 32 0 ||| 1) :: bs.drop 33) c1 = .ok ((), c2)) :
    sunodeNewBody e k c = .ok ((), (c2.updSu (k / 8) fun u => { u with nalloc := c.suNalloc k + 1 }).updCtx k fun y => y.ws e.d (BitVec.ofNat 64 (c.suNalloc k))) := by
  rw [Chip.suNalloc] at hroom hwrite
  rw [sunodeNewBody, ex_bind_ok (getS_eq k e.a c), ex_bind_ok (ex_get c), ex_bind_ok (checks_owned hown ha.checked)]
  refine (ex_bind_ok ((recorded_out hchk).trans ?_)).trans (setS_eq k e.d _ _)
  rw [ex_bind_ok (ex_get c)]
  refine (congrFun (if_neg (Nat.not_le_of_lt hroom)) c).trans ?_
  rw [ex_bind_ok hread, ex_bind_ok hwrite]
  rfl

/-- NEW in a full store is counted and answers all ones (R224). -/
theorem sunodeNewBody_of_full (hfull : 32768 ≤ c.suNalloc k) :
    sunodeNewBody e k c = .ok ((), (c.bump (suK (k / 8) 0x48)).updCtx k fun y => y.ws e.d (BitVec.ofNat 64 0xFFFFFFFF)) := by
  rw [Chip.suNalloc] at hfull
  rw [sunodeNewBody, ex_bind_ok (getS_eq k e.a c), ex_bind_ok (ex_get c), ex_bind_ok (checks_owned hown ha.checked)]
  refine (ex_bind_ok ((recorded_out hchk).trans ?_)).trans (setS_eq k e.d _ _)
  rw [ex_bind_ok (ex_get c)]
  exact congrFun (if_pos hfull) c

/-- NEAREST answers what the scan of the sensed nodes finds (R225). -/
theorem sunodeNearestBody_of_scanned {o : Option (Nat × Nat)} (hread : rd k ((c.ctx k).rs e.a).toNat 64 c = .ok (bs, c1))
    (hsense : senseEx (nodeKey (k / 8) 0) (64 * c1.suNalloc k) c1 = .ok ((), c2))
    (hscan : c2.nearest k bs (c1.suNalloc k) = o) :
    sunodeNearestBody e k c = .ok ((), c2.updCtx k fun y => y.ws e.d (BitVec.ofNat 64 (nearestAnswer o))) := by
  rw [Chip.suNalloc] at hsense hscan
  rw [Chip.nearest] at hscan
  rw [sunodeNearestBody, ex_bind_ok (getS_eq k e.a c), ex_bind_ok (ex_get c), ex_bind_ok (checks_owned hown ha.checked)]
  refine (ex_bind_ok ((recorded_out hchk).trans ?_)).trans (setS_eq k e.d _ _)
  rw [ex_bind_ok hread, ex_bind_ok (ex_get c1), ex_bind_ok hsense, ex_bind_ok (ex_get c2)]
  simp only [hscan]
  cases o <;> rfl

end

section
variable (ha : ((c.ctx k).rs e.a).toNat < 2 ^ 15) (hlive : ((c.ctx k).rs e.a).toNat < c.suNalloc k) (hb : nodeAddr ((c.ctx k).rs e.b).toNat)
include ha hlive hb

/-- An allocated node and a record's address pass the checks of RD and WR (R224). -/
theorem nodeChecks_of_allocated : nodeChecks k ((c.ctx k).rs e.a).toNat ((c.ctx k).rs e.b).toNat c = .ok ((), c) := by
  rw [Chip.suNalloc] at hlive
  rw [nodeChecks, ex_bind_ok (laterPass_out hchk), ex_bind_ok (ex_get c)]
  refine checks_owned hown fun q hq => ?_
  rcases List.mem_cons.mp hq with rfl | haddr
  · simpa [hlive] using ha
  · exact hb.checked q haddr

/-- RD copies a node to local memory (R224). -/
theorem sunodeRdBody_of_copied (hread : rdNode (k / 8) ((c.ctx k).rs e.a).toNat c = .ok (bs, c1))
    (hwrite : wr k 0 ((c.ctx k).rs e.b).toNat (leBytes 64 (leNat bs)) c1 = .ok ((), c2)) : sunodeRdBody e k c = .ok ((), c2) := by
  rw [sunodeRdBody, ex_bind_ok (getS_eq k e.a c), ex_bind_ok (getS_eq k e.b c), ex_bind_ok (nodeChecks_of_allocated hchk hown ha hlive hb)]
  exact (ex_bind_ok ((recorded_out hchk).trans (ex_bind_ok hread))).trans hwrite

/-- WR copies a record into a node (R224). -/
theorem sunodeWrBody_of_copied (hread : rd k ((c.ctx k).rs e.b).toNat 64 c = .ok (bs, c1))
    (hwrite : wrNode k ((c.ctx k).rs e.a).toNat bs c1 = .ok ((), c2)) : sunodeWrBody e k c = .ok ((), c2) := by
  rw [sunodeWrBody, ex_bind_ok (getS_eq k e.a c), ex_bind_ok (getS_eq k e.b c), ex_bind_ok (nodeChecks_of_allocated hchk hown ha hlive hb), once_out hchk]
  exact (ex_bind_ok hread).trans hwrite

end

end

end

/-! ## Owner and capacities -/

section
variable {c : Chip} {site n : Nat}

/-- The value of SU_OWNER that a written word leaves (R240). -/
def ownerWord (n : Nat) : Nat := bits n 4 0 + b2n (bit n 8) * 256

/-- The DCU changes PART of an enabled unit: discarded and counted (R240). -/
theorem suOwnerWrite_of_enabled (hen : bit (c.reg (suK site 0)) 8 = true) (hpart : bits (c.reg (suK site 0)) 4 0 ≠ bits n 4 0) :
    c.suOwnerWrite site n true = c.bump (suK site 0x50) := by
  simp [Chip.suOwnerWrite, hen, hpart]

/-- Another change of PART or EN clears the unit (R220, R240). -/
theorem suOwnerWrite_of_changed (hfree : bit (c.reg (suK site 0)) 8 = true → bits (c.reg (suK site 0)) 4 0 = bits n 4 0)
    (hchange : bits (c.reg (suK site 0)) 4 0 ≠ bits n 4 0 ∨ bit (c.reg (suK site 0)) 8 ≠ bit n 8) :
    c.suOwnerWrite site n true = (c.suClear site).setReg (suK site 0) (ownerWord n) := by
  have hallowed : (bit (c.reg (suK site 0)) 8 && bits (c.reg (suK site 0)) 4 0 != bits n 4 0) = false := by simpa using hfree
  have hchanged : (bits (c.reg (suK site 0)) 4 0 != bits n 4 0 || bit (c.reg (suK site 0)) 8 != bit n 8) = true := by simpa using hchange
  simp only [Chip.suOwnerWrite, hallowed, hchanged]
  rfl

/-- A write of the value that stands only stores it (R240). -/
theorem suOwnerWrite_of_unchanged (hpart : bits (c.reg (suK site 0)) 4 0 = bits n 4 0) (hen : bit (c.reg (suK site 0)) 8 = bit n 8) :
    c.suOwnerWrite site n true = c.setReg (suK site 0) (ownerWord n) := by
  simp [Chip.suOwnerWrite, hpart, hen, ownerWord]

/-- The capacities that a word gives queues 0 to 3 (R222). -/
def qcfgCaps (n : Nat) : List Nat := (List.range 4).map fun q => bits n (16 * q + 8) (16 * q)

/-- Every queue of the unit is empty. -/
def Chip.suEmpty (c : Chip) (site : Nat) : Prop := ∀ q, q < 4 → (c.suSt site).queues.get q [] = []

/-- The model's test for entries says that. -/
theorem any_queue_eq_false_iff : ((List.range 4).any fun q => (c.suSt site).queues.get q [] != []) = false ↔ c.suEmpty site := by
  simp [Chip.suEmpty]

/-- Capacities that fit are stored while every queue is empty (R240). -/
theorem suQcfgWrite_of_fits (hempty : c.suEmpty site) (hfits : (qcfgCaps n).sum ≤ 256) :
    c.suQcfgWrite site n = c.setReg (suK site 8) ((List.range 4).foldl (fun v q => v + (qcfgCaps n).getD q 0 * 2 ^ (16 * q)) 0) := by
  rw [qcfgCaps] at hfits ⊢
  simp only [Chip.suQcfgWrite, any_queue_eq_false_iff.mpr hempty, decide_eq_false (Nat.not_lt_of_le hfits)]
  rfl

/-- Other capacities are discarded and counted (R240). -/
theorem suQcfgWrite_of_not (h : ¬ c.suEmpty site ∨ 256 < (qcfgCaps n).sum) : c.suQcfgWrite site n = c.bump (suK site 0x50) := by
  have hbad : (((List.range 4).any fun q => (c.suSt site).queues.get q [] != []) || decide (256 < (qcfgCaps n).sum)) = true := by
    rw [Bool.or_eq_true, decide_eq_true_eq, ← Bool.not_eq_false, any_queue_eq_false_iff]
    exact h
  exact if_pos hbad

end

/-- Settles O27: each command of a queue or a node is the effect of its body at the owner's unit; the register writes are the model's by case. -/
theorem searchUnit : Obligations.SearchUnit := by
  refine ⟨?_, ?_, ?_⟩
  · intro s r e u c c1 key pay k x a b site q good len put two hchk hown
    refine ⟨fun h ha hb hgood hroom => ?_, fun h ha hb hgood hfull => ?_, fun h ha hgood hmin hpay _ => ?_, fun h ha hgood hmin => ?_,
      fun h ha hgood hmin hpay _ => ?_, fun h ha => ?_, fun h ha => ?_, fun hu => ?_, suqSound_of_empty⟩
    · exact CtxRow.leaves rfl h (suqInsertBody_of_room hchk hown ha hb hgood hroom)
    · exact CtxRow.leaves rfl h (suqInsertBody_of_full hchk hown ha hb hgood hfull)
    · exact CtxRow.leaves rfl h (suqTakeBody_of_least (peek := false) hchk hown ha hgood hmin hpay)
    · exact CtxRow.leaves rfl h (suqTakeBody_of_empty hchk hown ha hgood false hmin)
    · exact CtxRow.leaves rfl h (suqTakeBody_of_least (peek := true) hchk hown ha hgood hmin hpay)
    · exact CtxRow.leaves rfl h (suqCountBody_eq hchk hown ha)
    · exact CtxRow.leaves rfl h (suqClearBody_eq hchk hown ha)
    · exact hu ▸ suqSound_of_no_upset site a c
  · intro s r e c c1 c2 bs i m k x a b site n put good hchk hown
    refine ⟨fun h ha hroom hread hwrite => ?_, fun h ha hfull => ?_, fun h ha hlive hb hread hwrite => ?_, fun h ha hlive hb hread hwrite => ?_,
      fun h ha hread hsense hscan => ?_, fun h ha hread hsense hscan => ?_⟩
    · exact CtxRow.leaves rfl h (sunodeNewBody_of_room hchk hown ha hroom hread hwrite)
    · exact CtxRow.leaves rfl h (sunodeNewBody_of_full hchk hown ha hfull)
    · exact CtxRow.leaves rfl h (sunodeRdBody_of_copied hchk hown ha hlive hb hread hwrite)
    · exact CtxRow.leaves rfl h (sunodeWrBody_of_copied hchk hown ha hlive hb hread hwrite)
    · exact CtxRow.leaves rfl h (sunodeNearestBody_of_scanned hchk hown ha hread hsense hscan)
    · exact CtxRow.leaves rfl h (sunodeNearestBody_of_scanned hchk hown ha hread hsense hscan)
  · intro s site v o n word caps empty
    refine ⟨fun hen hpart => ?_, fun hen hchange => ?_, fun hen hpart hoff => ?_, fun hen hpart => ?_, fun hempty hfits => ?_, fun hbad => ?_⟩
    · exact exec_eq_next rfl (suOwnerWrite_of_enabled hen hpart)
    · exact exec_eq_next rfl (suOwnerWrite_of_changed (fun hon => absurd (hen.symm.trans hon) Bool.false_ne_true)
        (hchange.imp_right fun hon heq => Bool.false_ne_true (hen.symm.trans (heq.trans hon))))
    · exact exec_eq_next rfl (suOwnerWrite_of_changed (fun _ => hpart) (.inr fun heq => Bool.false_ne_true (hoff.symm.trans (heq.symm.trans hen))))
    · exact exec_eq_next rfl (suOwnerWrite_of_unchanged hpart hen)
    · exact exec_eq_next rfl (suQcfgWrite_of_fits hempty hfits)
    · exact exec_eq_next rfl (suQcfgWrite_of_not hbad)

end Sys2Proof.Machine

/-! SUPPORT and PROOFS. Paths, plans, and the plan port's exchanges, deadline and schedule (R226, R227, R233, R236-R238). -/

namespace Sys2Proof.Machine

section
variable {k : Nat} {e : Enc} {c c1 c2 : Chip}

/-! ## Paths -/

/-- The status word of SMOOTH: its segments that exceed the radius, and TIGHT (R226). -/
def smoothStatus (rmin : Nat) (wps : List (List Byte)) : Nat := ((smoothSegs rmin wps).filter Prod.snd).length + b2n (smoothTight rmin wps) * 2 ^ 16

/-- SMOOTH of a job without an invalid waypoint writes its segments and answers their status (R226). -/
theorem smoothBody_of_written {out rmin : Nat} {wps : List (List Byte)} (hread : smoothRead e k c = .ok ((out, rmin, wps), c1)) (hvalid : smoothBad wps = false)
    (hwrite : wr k 0 out ((smoothSegs rmin wps).map Prod.fst).flatten c1 = .ok ((), c2)) :
    smoothBody e k c = .ok ((), c2.updCtx k fun y => y.ws e.d (BitVec.ofNat 64 (smoothStatus rmin wps))) := by
  rw [smoothBody, ex_bind_ok hread]
  simp only [hvalid, Bool.false_eq_true, if_false]
  exact (ex_bind_ok hwrite).trans (setS_eq k e.d _ c2)

/-- TSCALE of a job without an invalid input writes its samples and answers their status (R227, R229). -/
theorem tscaleBody_of_written {a : ScaleIn} (hread : tscaleRead e k c = .ok (a, c1)) (hvalid : a.bad = false) (hwrite : tscaleWrite k a c1 = .ok ((), c2)) :
    tscaleBody e k c = .ok ((), c2.updCtx k fun y => y.ws e.d (BitVec.ofNat 64 a.status)) := by
  rw [tscaleBody, ex_bind_ok hread, hvalid]
  exact (ex_bind_ok hwrite).trans (setS_eq k e.d _ c2)

/-! ## SUPLAN -/

/-- What a SUPLAN outside a CHECKED block does with the plan port's answer (R236). -/
def suplanAnswer (k d a : Nat) (x : Ctx) (r : Chip × PlanOut) : Ex Unit := match r.2 with
  | .disabled => raise ACCESS 0 a
  | .done s => do
    set (r.1.planDone (k / 8) x.part x.idx s)
    setS k d (BitVec.ofNat 64 s)
  | .open => set (r.1.block k (.plan d))

/-- The mode of a SUPLAN: S[B] of a STOP, 0 of a COMMIT (R237). -/
def Ctx.planMode (x : Ctx) (stop : Bool) (e : Enc) : Nat := (x.rs (if stop then e.b else 0)).toNat

/-- What a SUPLAN asks of the plan port: 0 COMMIT, 1 ARM, 2 NO_PATH. -/
def Ctx.planKind (x : Ctx) (stop : Bool) (e : Enc) : Nat := if stop then 1 + x.planMode stop e else 0

section
variable (hchk : (c.ctx k).chk = none) (hown : c.suDenied k = false)
include hchk hown

/-- SUPLAN outside a CHECKED block is executed at the plan port at once (R236, R237). -/
theorem suplanBody_out {stop misread : Bool} {keys : List (Nat × Nat)} (hmode : (c.ctx k).planMode stop e < 2)
    (haddr : ∀ q ∈ recAddr ((c.ctx k).rs e.a).toNat planBytes 256, q.1 = false) (hdraft : draftAt ((c.ctx k).rs e.a).toNat k c = .ok (keys, c)) :
    suplanBody stop misread e k c = suplanAnswer k e.d ((c.ctx k).rs e.a).toNat (c.ctx k)
      (c.planPort (k / 8) (c.ctx k).part (c.ctx k).idx (c.ctx k).lfc ((c.ctx k).planKind stop e) keys misread) c := by
  have hpass : ∀ q ∈ ((c.ctx k).planMode stop e / 2 != 0, ILLEGAL_OPERAND) :: recAddr ((c.ctx k).rs e.a).toNat planBytes 256, q.1 = false :=
    List.forall_mem_cons.mpr ⟨operand_ok hmode _ (List.mem_singleton_self _), haddr⟩
  rw [suplanBody, ex_bind_ok (getS_eq k e.a c), ex_bind_ok (getS_eq k _ c), ex_bind_ok (ex_get c)]
  refine (ex_bind_ok (checks_owned hown hpass)).trans ?_
  rw [ex_bind_ok (ctxOf_eq k c)]
  simp only [hchk]
  exact (ex_bind_ok hdraft).trans (ex_bind_ok (ex_get c))

/-! ## SUSYNC -/

/-- SUSYNC without an open exchange of its context answers the last status (R233). -/
theorem susyncBody_of_calm (hcalm : c.calm k) : susyncBody e k c = .ok ((), c.updCtx k fun y => y.ws e.d (BitVec.ofNat 64 (c.ctx k).suplan.toNat)) := by
  rw [Chip.calm] at hcalm
  simp [susyncBody, ex_bind, ex_map, need_eq, hown, hcalm, laterPass_out hchk, recorded_out hchk]

/-- Behind one it waits (R233). -/
theorem susyncBody_of_not_calm (hopen : ¬ c.calm k) : susyncBody e k c = .ok ((), c.block k (.plan e.d)) := by
  rw [Chip.calm] at hopen
  simp [susyncBody, ex_bind, need_eq, hown, hopen, laterPass_out hchk]

end

end

/-! ## Acknowledgements -/

section
variable {c : Chip} {site seq : Nat} {q : Exch}

/-- An island's state is no part of a Search Unit. -/
@[simp] theorem updIsl_suSt (c : Chip) (i : Isl) (f : IslSt → IslSt) (site : Nat) : (c.updIsl i f).suSt site = c.suSt site := by
  rw [Chip.suSt, updIsl_su, Chip.suSt]

/-- An exchange that an island has acknowledged (R236). -/
def Exch.ackedBy (q : Exch) : Isl → Exch
  | .A => { q with ackA := true }
  | .B => { q with ackB := true }

/-- The block once island `i`'s acknowledgement of exchange `q` has arrived and is noted (R236). -/
def Chip.ackNoted (c : Chip) (site : Nat) (i : Isl) (seq : Nat) (q : Exch) : Chip :=
  (c.updIsl i fun y => { y with ackOut := y.ackOut.erase (site, seq) }).updSu site fun u =>
    { u with exch := u.exch.map fun r => if r.seq = seq then q.ackedBy i else r }

/-- An acknowledgement that was sent is noted, and the second one ends its exchange (R236). -/
theorem planAck_of_sent {i : Isl} (hsent : (site, seq) ∈ (c.isl i).ackOut) (hopen : ((c.suSt site).exch.find? fun r => r.seq == seq) = some q) :
    c.planAck site i seq =
      if (q.ackedBy i).ackA && (q.ackedBy i).ackB then (c.ackNoted site i seq q).exchEnd site (q.ackedBy i) else c.ackNoted site i seq q := by
  have hlisted : (c.isl i).ackOut.contains (site, seq) = true := List.contains_iff_mem.mpr hsent
  simp only [Chip.planAck, hlisted, updIsl_suSt, hopen, Bool.not_true, Bool.false_eq_true, if_false]
  cases i <;> rfl

/-- 20 µs after its record was sent an exchange ends (R236). -/
theorem planAckTimeout_of_passed (hopen : ((c.suSt site).exch.find? fun r => r.seq == seq) = some q) (hpassed : q.sent + 20000 ≤ c.time.now) :
    c.planAckTimeout site seq = c.exchEnd site q := by
  simp only [Chip.planAckTimeout, hopen]
  exact if_pos hpassed

end

/-! ## The planning deadline -/

section
variable {c : Chip} {site f : Nat}

/-- The planning deadline of frame `f` comes at a watching plan port that has passed no deadline and sent no record (R238, R239). -/
def Chip.planDue (c : Chip) (site f : Nat) (dl : Int) : Prop :=
  c.planDeadline site f = some dl ∧ bit (c.reg (suK site 0x200)) 0 = true ∧ dl ≤ c.localTime site ∧ (c.suSt site).enAt < dl ∧ (c.suSt site).passed = none ∧
    (c.suSt site).sentF = [] ∧ (c.suSt site).sent = none

/-- The block once the deadline is noted. -/
def Chip.planPassed (c : Chip) (site f : Nat) : Chip := c.updSu site fun u => { u with passed := some f }

/-- The partition to which a plan port's events belong: the unit's owner. -/
def Chip.planPart (c : Chip) (site : Nat) : Option Nat := if bit (c.reg (suK site 0)) 8 then some (bits (c.reg (suK site 0)) 4 0) else none

variable {dl : Int} (h : c.planDue site f dl)
include h

/-- Without an armed stop the frame is missed (R238). -/
theorem planningDeadline_of_unarmed (harm : (c.suSt site).arm = none) :
    c.planningDeadline site f = ((c.planPassed site f).bump (suK site 0x228)).post .PLAN_MISSING (hallUnit site 3) (c.planPart site) := by
  obtain ⟨hdl, hen, hnow, hwatch, hpassed, hsentF, hsent⟩ := h
  simp [Chip.planningDeadline, Chip.planPassed, Chip.planPart, hdl, hen, Int.not_lt.mpr hnow, Int.not_le.mpr hwatch, hpassed, hsentF, hsent, harm]

/-- The stop that is armed for the frame is sent, and the arm is spent (R237, R238). -/
theorem planningDeadline_of_armed {a : Arm} (harm : (c.suSt site).arm = some a) (hframe : a.frame = f) :
    c.planningDeadline site f =
      (((((c.planPassed site f).sendRecord site (bits (c.reg (suK site 0)) 4 0) f 2 0 false (stopRecord a.draft)).bump (suK site 0x220)).post
        .PLAN_TIMEOUT (hallUnit site 3) (c.planPart site)).updSu site fun u => { u with arm := none }) := by
  obtain ⟨hdl, hen, hnow, hwatch, hpassed, hsentF, hsent⟩ := h
  simp [Chip.planningDeadline, Chip.planPassed, Chip.planPart, hdl, hen, Int.not_lt.mpr hnow, Int.not_le.mpr hwatch, hpassed, hsentF, hsent, harm, hframe,
    Option.filter_some]

end

/-! ## The schedule -/

/-- The DCU's schedule reaches an active or spare site (R238). -/
theorem scheduleDelivery_of_crossable {c : Chip} {site : Nat} {sch : Sched} (hcross : c.crossable site = true) (hsch : c.schedule = some sch) :
    c.scheduleDelivery site = c.updSu site fun u => { u with sched := some sch } := by
  simp [Chip.scheduleDelivery, Chip.scheduleTo, hcross, hsch]

/-- Settles O28: each instruction is the effect of its body, with the plan port's answer for SUPLAN; the commands of the plan port are the model's
    operations in the case at hand. -/
theorem pathsAndPlans : Obligations.PathsAndPlans := by
  constructor
  · intro s r e c c1 c2 out rmin st wps a keys misread k x put segs ad good port
    have planned {d m stop i} (hrow : CtxRow s i r (dSuplan d) e (suplanBody stop misread e)) (hmode : x.planMode stop e = m) (hm : m < 2) :
        port d (if stop then 1 + m else 0) i := by
      subst hmode
      rintro h hchk hown ⟨halign, hlo, hhi⟩ hdraft
      have hbody := suplanBody_out (misread := misread) hchk hown hm (recAddr_ok halign hlo hhi) hdraft
      exact ⟨fun hport => hrow.leaves h (hbody.trans (congrFun (congrArg (suplanAnswer k e.d ad x) hport) c)),
        fun hport => hrow.leaves h (hbody.trans (congrFun (congrArg (suplanAnswer k e.d ad x) hport) c))⟩
    refine ⟨fun h hread hvalid hwrite => ?_, fun h hread hvalid hwrite => ?_, planned (stop := false) (m := 0) rfl rfl (by decide),
      fun hb => planned (stop := true) (m := 0) rfl (congrArg BitVec.toNat hb) (by decide),
      fun hb => planned (stop := true) (m := 1) rfl (congrArg BitVec.toNat hb) (by decide), fun h hown hchk hcalm => ?_, fun h hown hchk hopen => ?_⟩
    · exact CtxRow.leaves rfl h (smoothBody_of_written hread hvalid hwrite)
    · exact CtxRow.leaves rfl h (tscaleBody_of_written hread hvalid hwrite)
    · exact CtxRow.leaves rfl h (susyncBody_of_calm hchk hown hcalm)
    · exact CtxRow.leaves rfl h (susyncBody_of_not_calm hchk hown hopen)
  · intro s site i seq t f q sch dl a got q' noted c o part passed due
    refine ⟨fun hsent hopen => ?_, fun hopen hpassed => ?_, fun hdue harm => ?_, fun hdue harm hframe => ?_, fun hcross hsch => ?_⟩
    · exact exec_eq_next rfl (planAck_of_sent hsent hopen)
    · exact exec_eq_next rfl (planAckTimeout_of_passed hopen hpassed)
    · exact exec_eq_next rfl (planningDeadline_of_unarmed hdue harm)
    · exact exec_eq_next rfl (planningDeadline_of_armed hdue harm hframe)
    · exact exec_eq_next rfl (scheduleDelivery_of_crossable hcross hsch)

end Sys2Proof.Machine

/-! SUPPORT and PROOFS. Start-up (R267, R369, R376-R383): the ends of its steps, and the rows of the stair walk. -/

namespace Sys2Proof.Machine

/-! ## The frame parameters of the directory -/

/-- A number of `n` bytes lies below 256^n. -/
theorem leNat_lt (bs : List Byte) : leNat bs < 256 ^ bs.length := by
  induction bs with
  | nil => decide
  | cons b bs ih =>
    have hb := b.isLt
    rw [leNat, List.length_cons, Nat.pow_succ]
    omega

/-- A field of four bytes is a 32-bit number. -/
theorem fieldAt_four_lt (r : List Byte) (off : Nat) : fieldAt r off 4 < 2 ^ 32 :=
  calc fieldAt r off 4 < 256 ^ ((r.drop off).take 4).length := leNat_lt _
    _ ≤ 256 ^ 4 := Nat.pow_le_pow_right (by decide) (List.length_take_le _ _)

/-- DCU_FRAMECFG judges the two halves that a value is made of (R383). -/
theorem frameCfg_of_halves {a b : Nat} (c : Chip) (ha : a < 2 ^ 32) (hb : b < 2 ^ 32) :
    c.frameCfg (a + b * 2 ^ 32) =
      if frameOk a b then c.setReg (dcuK 0x6090) (a + b * 2 ^ 32) else (c.setReg (dcuK 0x6090) (resetOf (dcuK 0x6090))).post .CONFIG_DEFAULT dcuUnit none := by
  have hlow : bits (a + b * 2 ^ 32) 31 0 = a := by simp only [bits]; omega
  have hhigh : bits (a + b * 2 ^ 32) 63 32 = b := by simp only [bits, Nat.shiftRight_eq_div_pow]; omega
  rw [Chip.frameCfg, hlow, hhigh]

section
variable {c : Chip} {t : Nat}

/-- An error that stops start-up leaves it halted (R384). -/
theorem bootErr_stop (c : Chip) (err step : Nat) :
    c.bootErr err step true = { c with boot := { c.boot with err := err, errstep := step, halted := true } } := by
  rw [Chip.bootErr, Bool.or_true]

/-! ## Step 2: firmware -/

/-- The firmware copy that starts is noted: its copy, its key slot and where it lies in flash (R367, R369). -/
def Chip.fwNoted (c : Chip) (slot : Nat) (img : List Byte) : Chip :=
  { c with boot := { c.boot with fwslot := slot, fwkey := fieldAt img 0x1C 4, prot := c.copyAt 1 slot } }

/-- Out of its turn the command does nothing (R368). -/
theorem firmware_of_not_next (hnext : c.canEnd 2 = false) (rom flash : Bool) : c.firmware t rom flash = c := by
  simp [Chip.firmware, hnext]

section
variable (hnext : c.canEnd 2 = true)
include hnext

/-- The ROM self-test fails: ERR 1 (R369). -/
theorem firmware_of_rom_failed (flash : Bool) : c.firmware t false flash = (c.at t).bootErr 1 2 true := by
  simp [Chip.firmware, hnext]

/-- The flash does not answer: ERR 2 (R369). -/
theorem firmware_of_flash_failed : c.firmware t true false = (c.at t).bootErr 2 2 true := by
  simp [Chip.firmware, hnext]

/-- The flash holds no directory: ERR 3 (R369). -/
theorem firmware_of_no_directory (hdir : (c.at t).directory = none) : c.firmware t true true = (c.at t).bootErr 3 2 true := by
  simp [Chip.firmware, hnext, hdir]

variable {d : List Byte} {rej : List Nat} (hdir : (c.at t).directory = some d)
include hdir

/-- No firmware copy is accepted: each is reported, and ERR 4 stands (R68, R369). -/
theorem firmware_of_rejected (htry : (c.at t).tryImages (c.at t).boot.rev fwForm (dirTries d 1) = (rej, none)) :
    c.firmware t true true = ((c.at t).rejects rej).bootErr 4 2 true := by
  simp only [Chip.firmware, hnext, hdir, htry, Bool.not_true, Bool.false_eq_true, if_false]

/-- The first accepted firmware copy starts with the frame parameters of the directory, which ends step 2 (R369, R383). -/
theorem firmware_of_accepted {slot : Nat} {img : List Byte} (htry : (c.at t).tryImages (c.at t).boot.rev fwForm (dirTries d 1) = (rej, some (slot, img))) :
    c.firmware t true true = ((((c.at t).rejects rej).frameCfg (fieldAt d 8 4 + fieldAt d 0xC 4 * 2 ^ 32)).fwNoted slot img).stepEnd 2 := by
  simp only [Chip.firmware, hnext, hdir, htry, Bool.not_true, Bool.false_eq_true, if_false, Chip.fwNoted]

end

/-! ## Step 3: link training -/

/-- Every port trains on the lanes that are not listed bad (R376). -/
def Chip.portsTrained (c : Chip) (bad : List (Nat × Nat × Nat)) : Chip :=
  allPorts.foldl (fun c q => c.trainPort q.1 q.2 fun l => !bad.contains (q.1, q.2, l)) c

/-- Out of its turn the command does nothing (R368). -/
theorem linkTraining_of_not_next (hnext : c.canEnd 3 = false) (bad : List (Nat × Nat × Nat)) : c.linkTraining t bad = c := by
  simp [Chip.linkTraining, hnext]

/-- Where not both islands are heard and neither gives its DEVTIME, step 3 ends with the trained ports (R374, R376). -/
theorem linkTraining_of_unheard {bad : List (Nat × Nat × Nat)} {d : Chip} (hnext : c.canEnd 3 = true) (htrained : (c.at t).portsTrained bad = d)
    (hheard : (d.heard .A && d.heard .B) = false) (hadopt : (d.stepEnd 3).adopts = none) : c.linkTraining t bad = d.stepEnd 3 := by
  rw [Chip.portsTrained] at htrained
  simp only [Chip.linkTraining, hnext, htrained, hheard, hadopt, Bool.not_true, Bool.false_eq_true, if_false]

/-! ## Step 4: the stair walk -/

/-- The sites of row `g` in stair order take the outcomes of their tests (R377). -/
def Chip.rowTested (c : Chip) (g : Nat) (codes : List Nat) : Chip :=
  (List.range 9).foldl (fun c j =>
    if codes.getD j 6 = 0 then c.clearSite (siteOfPos (9 * g + j)) else c.siteFails (siteOfPos (9 * g + j)) (codes.getD j 6)) c

/-- A row is tested when its turn comes (R377). -/
theorem stairRow_of_next {g : Nat} {codes : List Nat} (hnext : c.canEnd 4 = true) (hrow : c.boot.rows = g) (hg : g < 8) :
    c.stairRow g codes = { c.rowTested g codes with boot := { (c.rowTested g codes).boot with rows := g + 1 } } := by
  simp [Chip.stairRow, hnext, hrow, Nat.not_le.mpr hg, Chip.rowTested]

/-- The hall numbers that the passing sites take: the first 64 in stair order, as site and hall (R378). -/
def Chip.hallIds (c : Chip) : List (Nat × Nat) := (c.passing.take 64).zipIdx

/-- The sites once numbers are handed out: active, spare, and failed (R378). -/
def Chip.sitesNumbered (c : Chip) : Chip :=
  { c with site := { c.site with
      hallmap := c.hallIds.map fun q => (q.2, q.1)
      state := c.hallIds.map (fun q => (q.1, 0)) ++ (c.passing.drop 64).map (fun s => (s, 1)) ++ c.site.state.filter fun e => e.2 == 2 } }

/-- The yard's first routes: over the sites and ports that carry traffic (R378). -/
def Chip.yardOpened (c : Chip) : Chip :=
  { c with yard := { c.yard with sites := (List.range 72).filter c.crossable, up := (c.yard.ports.map Prod.fst).filter c.portUp, gen := 1, tick := c.time.now, due := none } }

section
variable (hnext : c.canEnd 4 = true) (hrows : c.boot.rows = 8)
include hnext hrows

/-- Without a passing site start-up stops with ERR 5 (R378). -/
theorem stairDone_of_none_passing (hpass : (c.at t).passing = []) : c.stairDone t = (c.at t).bootErr 5 4 true := by
  simp [Chip.stairDone, hnext, hrows, hpass]

/-- The passing sites take their numbers, the yard its routes, and STAIR_DONE is written (R378). -/
theorem stairDone_of_passing (hpass : (c.at t).passing ≠ []) :
    c.stairDone t = (((c.at t).sitesNumbered.yardOpened.post .STAIR_DONE (dcuUnit 3) none (c.at t).hallIds.length
      ((c.at t).passing.drop 64).length).countsChanged).stepEnd 4 := by
  have hsome : (c.at t).passing.isEmpty = false := List.isEmpty_eq_false_iff.mpr hpass
  simp only [Chip.stairDone, hnext, hrows, hsome, Bool.not_true, ne_eq, not_true_eq_false, decide_false, Bool.or_self, Bool.false_eq_true, if_false]
  rfl

end

/-! ## Steps 5 to 7: memory, comparators and margins -/

/-- Out of its turn the command does nothing (R368). -/
theorem memoryTraining_of_not_next (hnext : c.canEnd 5 = false) (failed : List Nat) : c.memoryTraining t failed = c := by
  simp [Chip.memoryTraining, hnext]

/-- With every stack trained DRAM is initialised (R379). -/
theorem memoryTraining_of_none_failed (hnext : c.canEnd 5 = true) : c.memoryTraining t [] = (c.at t).clearDram.stepEnd 5 := by
  simp [Chip.memoryTraining, hnext]

/-- The injection bars the stables of active sites that missed one of its blocks (R267). -/
theorem injection_of_next (hnext : c.canEnd 6 = true) (bad : List (Nat × Nat)) :
    c.injection t bad = ((bad.filter fun b => c.siteActive (b.1 / 4)).foldl (fun c b => c.injectionDone b.1 (some b.2)) (c.at t)).stepEnd 6 := by
  simp [Chip.injection, hnext]

/-- What each active site measured ages its record (R380, R400). -/
def Chip.sitesMeasured (c : Chip) (meas : List (Nat × List Nat × List Nat)) : Chip :=
  (meas.filter fun q => c.siteActive q.1).foldl (fun c q => c.ageing q.1 q.2.1 q.2.2) c

/-- Every site is planned again, and the points and zone voltages follow the plan (R380). -/
def Chip.planned (c : Chip) : Chip :=
  let c := ((List.range 72).foldl (fun (c : Chip) s => c.replan s fun r => r) c).planLand
  (c.activeSites.foldl Chip.settlePoint c).zonesOn

/-- Without a stored plan the margins are reset, measured, planned again and written back (R380). -/
theorem marginPlan_of_unstored {meas : List (Nat × List Nat × List Nat)} {ok : Bool} (hnext : c.canEnd 7 = true) (hplan : (c.at t).planStored = none) :
    c.marginPlan t meas ok =
      ((((((c.at t).post .MARGIN_RESET (dcuUnit 2) none).sitesMeasured meas).planned).planWritten ok).post .MARGIN_UPDATED (dcuUnit 2) none).stepEnd 7 := by
  simp only [Chip.marginPlan, hnext, hplan, Bool.not_true, Bool.false_eq_true, if_false, Chip.sitesMeasured, Chip.planned]

/-! ## Step 8: the boot image -/

/-- The boot image that was accepted is kept, with where it lies in flash (R381). -/
def Chip.imageKept (c : Chip) (slot : Nat) (img : List Byte) : Chip :=
  { c with boot := { c.boot with imgslot := slot, image := img, prot := c.boot.prot ++ c.copyAt 2 slot } }

/-- The image gives the active sites their personalities, and their stables the live modes (R381). -/
def Chip.modesSet (c : Chip) : Chip :=
  let c := c.activeSites.foldl (fun c s => c.setPers c.boot.image s) c
  (c.activeSites.map fun s => (List.range 4).map (4 * s + ·)).flatten.foldl Chip.bootMode c

section
variable (hnext : c.canEnd 8 = true)
include hnext

/-- Without a directory there is no image: ERR 7 (R381). -/
theorem bootImage_of_no_directory (hdir : (c.at t).directory = none) : c.bootImage t = ((c.at t).bootErr 7 8 false).modesSet.stepEnd 8 := by
  simp only [Chip.bootImage, hnext, hdir, Bool.not_true, Bool.false_eq_true, if_false, Chip.modesSet]
  rfl

variable {d : List Byte} {rej : List Nat} (hdir : (c.at t).directory = some d)
include hdir

/-- The first accepted image is kept (R381). -/
theorem bootImage_of_accepted {slot : Nat} {img : List Byte}
    (htry : (c.at t).tryImages (c.at t).boot.rev (fun _ => true) (dirTries d 2) = (rej, some (slot, img))) :
    c.bootImage t = ((((c.at t).rejects rej).imageKept slot img).modesSet).stepEnd 8 := by
  simp only [Chip.bootImage, hnext, hdir, htry, Bool.not_true, Bool.false_eq_true, if_false, Chip.imageKept, Chip.modesSet]

/-- With every copy rejected there is no image: ERR 7 (R381). -/
theorem bootImage_of_rejected (htry : (c.at t).tryImages (c.at t).boot.rev (fun _ => true) (dirTries d 2) = (rej, none)) :
    c.bootImage t = ((((c.at t).rejects rej).bootErr 7 8 false).modesSet).stepEnd 8 := by
  simp only [Chip.bootImage, hnext, hdir, htry, Bool.not_true, Bool.false_eq_true, if_false, Chip.modesSet]

end

/-! ## Step 9: Fensan RT -/

/-- The partitions of the image are created in ascending index (R382). -/
def Chip.partsCreated (c : Chip) : Chip :=
  (List.range 32).foldl (fun c p => match c.onlySect p 9 with
    | some s => (c.setReg (dcuK (0x1000 + p * 0x20)) s.addr).createNow p true
    | none => c) c

/-- When it is next, FENSAN_START reads the package store, then starts Fensan RT (R382, R415). -/
theorem fensanStart_of_next (hnext : c.canEnd 9 = true) : c.fensanStart t = c.pkgBoot.fensan t := if_pos hnext

section
variable (hnext : c.canEnd 9 = true)
include hnext

/-- With no image nothing is created (R382). -/
theorem fensan_of_no_image (himg : (c.at t).boot.image = []) : c.fensan t = (c.at t).stepEnd 9 := by
  simp only [Chip.fensan, hnext, himg, Bool.not_true, Bool.false_eq_true, if_false, if_true]

variable (himg : (c.at t).boot.image ≠ [])
include himg

/-- An image of another major version is refused: ERR 8 (R52, R382). -/
theorem fensan_of_other_major (hmajor : fieldAt (c.at t).boot.image 6 2 ≠ capsMajor) :
    c.fensan t = ((({ c.at t with boot := { (c.at t).boot with refused := true } } : Chip).post .CAPS_REFUSED dcuUnit none).bootErr 8 9 false).stepEnd 9 := by
  simp only [Chip.fensan, hnext, Bool.not_true, Bool.false_eq_true, if_false]
  rw [if_neg himg, if_pos hmajor]

/-- An image of the own major version is loaded, and its partitions created (R382). -/
theorem fensan_of_own_major (hmajor : fieldAt (c.at t).boot.image 6 2 = capsMajor) :
    c.fensan t = (((c.at t).loadSects ((imgSects (c.at t).boot.image).filter Sect.inDram)).partsCreated).stepEnd 9 := by
  simp only [Chip.fensan, hnext, Bool.not_true, Bool.false_eq_true, if_false]
  rw [if_neg himg, if_neg fun hother => hother hmajor]
  rfl

end

/-! ## Step 10: frame 0 -/

/-- start(0): the next whole millisecond 5 ms after the end of step 9 (R383). -/
def Chip.frameZeroAt (c : Chip) : Nat := alignUp (c.boot.times.get 9 0 + 5000000) 1000000

/-- start(0) is fixed, and the heartbeats of the stables count from it (R268, R383). -/
def Chip.startFixed (c : Chip) : Chip :=
  { c with
    time := { c.time with fixed := true, start0 := c.frameZeroAt, frame := 0 }
    core := { c.core with eng := c.core.eng.map fun e => (e.1, { e.2 with hbLast := c.frameZeroAt }) } }

/-- The islands that are heard take the schedule from `s0` on and a restart notice (R375, R383). -/
def Chip.islandsTold (c : Chip) (s0 : Nat) : Chip :=
  [Isl.A, .B].foldl (fun c i => if c.heard i then c.updIsl i fun s => { s with fs := some { base := s0, fb := 0, t := c.T, l := c.L }, notice := true } else c) c

/-- After step 9 frame 0 is scheduled once (R383). -/
theorem frameZero_of_next (hstep : c.boot.step = 9) (hheld : c.boot.held = false) (hrun : c.boot.halted = false) (hfixed : c.time.fixed = false) :
    c.frameZero t = (c.at t).startFixed.islandsTold (c.at t).frameZeroAt := by
  simp only [Chip.frameZero, hstep, hheld, hrun, hfixed, ne_eq, not_true_eq_false, decide_false, Bool.or_self, Bool.false_eq_true, if_false]
  rfl

end

/-! ## The statement -/

/-- Settles O12: each command is its operation in the case at hand; the directory's two frame parameters are 32-bit fields, so the register
    judges them as they stand there. -/
theorem startUp : Obligations.StartUp := by
  constructor
  · intro s t bad g codes failed d img rej slot c err ended c2 ft fl c3 c4 trained row go2 fw
    have hend (d : Chip) (n : Nat) : ended d n = s.withChip (d.stepEnd n) := rfl
    have htrained : c.portsTrained bad = trained := rfl
    refine ⟨fun hnext => ?_, fun hnext => ?_, fun hnext hdir => ?_, fun hnext hdir htry => ?_, fun hnext hdir htry => ?_,
      fun hnext hheard hadopt => ?_, fun hnext hrow => ?_, fun hnext hrows hpass => ?_, fun hnext hfail => ?_, fun hnext => ?_, fun hnext => ?_, fun hnext => ?_⟩
    · exact exec_eq_next rfl ((firmware_of_rom_failed hnext true).trans (bootErr_stop _ 1 2))
    · exact exec_eq_next rfl ((firmware_of_flash_failed hnext).trans (bootErr_stop _ 2 2))
    · exact exec_eq_next rfl ((firmware_of_no_directory hnext hdir).trans (bootErr_stop _ 3 2))
    · refine exec_eq_next rfl ((firmware_of_accepted hnext hdir htry).trans ?_)
      rw [frameCfg_of_halves _ (fieldAt_four_lt d 8) (fieldAt_four_lt d 0xC)]
      rfl
    · exact exec_eq_next rfl ((firmware_of_rejected hnext hdir htry).trans (bootErr_stop _ 4 2))
    · rw [hend]
      exact exec_eq_next rfl (linkTraining_of_unheard hnext htrained hheard hadopt)
    · exact exec_eq_next rfl (stairRow_of_next hnext hrow g.isLt)
    · exact exec_eq_next rfl ((stairDone_of_none_passing hnext hrows hpass).trans (bootErr_stop _ 5 4))
    · subst hfail
      exact exec_eq_next rfl (memoryTraining_of_none_failed hnext)
    · exact exec_eq_next (d := s.toChip) rfl (firmware_of_not_next hnext true true)
    · exact exec_eq_next (d := s.toChip) rfl (linkTraining_of_not_next hnext bad)
    · exact exec_eq_next (d := s.toChip) rfl (memoryTraining_of_not_next hnext _)
  · intro s t bad meas ok d img rej slot c ended barred plan aged planned settled dress mode told imaged p created s0 fixed ids st mapped yard
    have hend (d : Chip) (n : Nat) : ended d n = s.withChip (d.stepEnd n) := rfl
    have hmodes (d : Chip) : mode (dress d) = d.modesSet := rfl
    have hcreated : created = (p.loadSects ((imgSects p.boot.image).filter Sect.inDram)).partsCreated := rfl
    refine ⟨fun hnext hrows hpass => ?_, fun hnext => ?_, fun hnext hplan => ?_, fun hnext hdir => ?_, fun hnext hdir htry => ?_,
      fun hnext hdir htry => ?_, fun hnext hstore himg => ?_, fun hnext hstore himg hmajor => ?_, fun hnext hstore himg hmajor => ?_, fun hstep hheld hrun hfixed => ?_⟩
    · exact exec_eq_next rfl (stairDone_of_passing hnext hrows hpass)
    · exact exec_eq_next rfl (injection_of_next hnext _)
    · exact exec_eq_next rfl (marginPlan_of_unstored hnext hplan)
    · rw [hend, hmodes]
      exact exec_eq_next rfl (bootImage_of_no_directory hnext hdir)
    · rw [hend, hmodes]
      exact exec_eq_next rfl (bootImage_of_accepted hnext hdir htry)
    · rw [hend, hmodes]
      exact exec_eq_next rfl (bootImage_of_rejected hnext hdir htry)
    · exact exec_eq_next rfl ((fensanStart_of_next hnext).trans (fensan_of_no_image hstore himg))
    · exact exec_eq_next rfl ((fensanStart_of_next hnext).trans (fensan_of_other_major hstore himg hmajor))
    · rw [hend, hcreated]
      exact exec_eq_next rfl ((fensanStart_of_next hnext).trans (fensan_of_own_major hstore himg hmajor))
    · exact exec_eq_next rfl (frameZero_of_next hstep hheld hrun hfixed)

end Sys2Proof.Machine

/-! SUPPORT and PROOFS. Arbitration and commit of a slot's block, and the heartbeats of a stable (R253, R261, R268, R269). -/

namespace Sys2Proof.Machine

section
variable {c : Chip} {k a : Nat} {b : Block} (hblk : (c.ctx k).blk = some b)
include hblk

/-! ## Arbitration -/

/-- An eligible arbiter at a boundary starts the third pass from the block's start image (R261). -/
theorem arbStart_of_eligible (hstate : b.state = 4) (harb : c.arbiterOf (c.ctx k).part (k / 2) = some a) (hbound : c.atBoundary a = true) :
    c.arbStart k = (c.updEng a fun g => { g with serving := some k }).updCtx k fun y =>
      { y.load b.start with ia := b.chkbIa + 8, blk := some { b with state := 5, arbiter := some a, recPos := 0, arb := {}, arbDone := false, resBlks := [] } } := by
  simp [Chip.arbStart, hblk, hstate, harb, hbound]

section
variable (hstate : b.state = 5) (harb : b.arbiter = some a) (hdone : b.arbDone = true)
include hstate harb hdone

/-- The ended third pass is judged by its signature: the primary's, the shadow's or a third value (R261). -/
theorem arbEnd_of_done :
    c.arbEnd k =
      if b.arb.sig = b.prim.sig then c.arbWin k a (c.ctx k) b 0 (clsDiff b.shad b.prim) 1 b.prim.fin
      else if b.arb.sig = b.shad.sig then c.arbWin k a (c.ctx k) b 1 (clsDiff b.prim b.shad) 0 b.shad.fin
      else ((b.prim.pages.foldl (fun c p => c.poison p.dest) ((c.bump (stbK a 0xD0)).bump (stbK (k / 2) 0xD8))).quarantine (k / 2)).takeFault k
        { cls := CHECK_FAIL, sub := 0 } := by
  simp [Chip.arbEnd, hblk, hstate, harb, hdone]

/-- The primary's signature commits the primary's set (R261). -/
theorem arbEnd_of_primary (hsig : b.arb.sig = b.prim.sig) : c.arbEnd k = c.arbWin k a (c.ctx k) b 0 (clsDiff b.shad b.prim) 1 b.prim.fin :=
  (arbEnd_of_done hblk hstate harb hdone).trans (if_pos hsig)

/-- The shadow's signature commits the shadow's set (R261). -/
theorem arbEnd_of_shadow (hprim : b.arb.sig ≠ b.prim.sig) (hsig : b.arb.sig = b.shad.sig) :
    c.arbEnd k = c.arbWin k a (c.ctx k) b 1 (clsDiff b.prim b.shad) 0 b.shad.fin :=
  (arbEnd_of_done hblk hstate harb hdone).trans ((if_neg hprim).trans (if_pos hsig))

/-- A third value is CHECK_FAIL: what the block wrote is poisoned, and its stable quarantined (R261). -/
theorem arbEnd_of_third (hprim : b.arb.sig ≠ b.prim.sig) (hshad : b.arb.sig ≠ b.shad.sig) :
    c.arbEnd k = ((b.prim.pages.foldl (fun c p => c.poison p.dest) ((c.bump (stbK a 0xD0)).bump (stbK (k / 2) 0xD8))).quarantine (k / 2)).takeFault k
      { cls := CHECK_FAIL, sub := 0 } :=
  (arbEnd_of_done hblk hstate harb hdone).trans ((if_neg hprim).trans (if_neg hshad))

end

/-! ## Commit -/

/-- A block whose pages are all published makes its reserved KV pages LIVE, applies its held operations, and ends (R253). -/
theorem blockCommit_of_published {c1 : Chip} {misread : Bool} (hchk : b.checked = true) (hstate : b.state = 6)
    (hpub : publishPages k b.set b.winner.pages [] c = .ok ((), c1)) :
    c.blockCommit k misread = ((c1.liveReserved k b).applyHelds k misread b.winner.held).endBlock k := by
  simp [Chip.blockCommit, hblk, hchk, hstate, hpub]

end

/-! ## Heartbeats -/

section
variable {c : Chip} {b : Nat}

/-- HBINT ms after the last one, a stable in CHECKED mode owes a heartbeat (R268). -/
theorem hbDue_of_elapsed {changed : Bool} (hmode : c.checkedMode b = true) (hidle : (c.eng b).hb = 0)
    (hpast : (c.eng b).hbLast + bits (c.reg (stbK b 0xA8)) 15 0 * 1000000 ≤ c.time.now) : c.hbDue b changed = c.updEng b fun e => { e with hb := 1 } :=
  if_pos ⟨hmode, hidle, .inr hpast⟩

/-- A heartbeat that is due runs once no pass is being issued (R268). -/
theorem hbRun_of_free (hdue : (c.eng b).hb = 1) (hfree : c.hbFree b = true) : c.hbRun b = c.updEng b fun e => { e with hb := 2 } :=
  if_pos ⟨hdue, hfree⟩

/-- A stable whose comparator missed the injection: barred and quarantined, with its two records (R269). -/
def Chip.hbFailed (c : Chip) (b : Nat) : Chip :=
  let c' := c.updEng b fun e => { e with hb := 3, barred := true, quar := true }
  let c' := c'.sendErr { unit := stbUnit b, cls := 0x15, synd := (c.eng b).hbPos + 256, part := (c'.partOfStb b).getD 0xFF }
  c'.post .CHK_BARRED (stbUnit b) (c'.partOfStb b)

/-- Every resident context of partition `p` records CHECK_FAIL with SUB 1 (R269). -/
def Chip.residentsFail (c : Chip) (p : Nat) : Chip :=
  ((c.core.slots.filter fun x => x.2.part == p && x.2.state != 0).map Prod.fst).foldl (fun c k => c.recordFault k { cls := CHECK_FAIL, sub := 1 }) c

/-- So does every saved one (R269). -/
def Chip.savedsFail (c : Chip) (p : Nat) : Chip := (c.core.saved.filter fun e => e.1.1 == p && e.2.state != 0).foldl Chip.savedFails c

variable (hrun : (c.eng b).hb = 2)
include hrun

/-- A flagged injection advances the position, and the CHKBs that waited go on (R268). -/
theorem hbEnd_of_flagged : c.hbEnd b true =
    ((c.updEng b fun e => { e with hb := 0, hbPos := (e.hbPos + 1) % 129, hbLast := c.time.now }).bump (stbK b 0xE0)).chkbGo b := by
  simp [Chip.hbEnd, hrun]

/-- A missed injection bars the stable, and stops the partition that runs there (R269). -/
theorem hbEnd_of_missed : c.hbEnd b false = match (c.hbFailed b).partOfStb b with
    | none => c.hbFailed b
    | some p => (((c.hbFailed b).residentsFail p).savedsFail p).dueReset p CHECK_FAIL b := by
  simp only [Chip.hbEnd, hrun, ne_eq, not_true_eq_false, Bool.false_eq_true, if_false]
  rfl

/-- On a stable of no partition that is all (R269). -/
theorem hbEnd_of_missed_unowned (hpart : (c.hbFailed b).partOfStb b = none) : c.hbEnd b false = c.hbFailed b := by
  rw [hbEnd_of_missed hrun, hpart]

/-- Its partition's contexts record CHECK_FAIL, and the partition's reset becomes due (R269). -/
theorem hbEnd_of_missed_owned {p : Nat} (hpart : (c.hbFailed b).partOfStb b = some p) :
    c.hbEnd b false = (((c.hbFailed b).residentsFail p).savedsFail p).dueReset p CHECK_FAIL b := by
  rw [hbEnd_of_missed hrun, hpart]

end

/-! ## The statement -/

/-- Settles O30: each command is its operation in the case at hand. -/
theorem commitAndHeartbeat : Obligations.CommitAndHeartbeat := by
  constructor
  · intro s r c1 b a misread k x split hblk
    refine ⟨fun hstate harb hbound => ?_, fun hstate harb hdone hsig => ?_, fun hstate harb hdone hprim hsig => ?_, fun hstate harb hdone hprim hshad => ?_,
      fun hchk hstate hpub => ?_⟩
    · exact exec_eq_next rfl (arbStart_of_eligible hblk hstate harb hbound)
    · exact exec_eq_next rfl (arbEnd_of_primary hblk hstate harb hdone hsig)
    · exact exec_eq_next rfl (arbEnd_of_shadow hblk hstate harb hdone hprim hsig)
    · exact exec_eq_next rfl (arbEnd_of_third hblk hstate harb hdone hprim hshad)
    · exact exec_eq_next rfl (blockCommit_of_published hblk hchk hstate hpub)
  · intro s r t p b c g failed sent barred resident
    refine ⟨fun hmode hidle hpast => ?_, fun hdue hfree => ?_, fun hrun => ?_, fun hrun hpart => ?_, fun hrun hpart => ?_⟩
    · exact exec_eq_next rfl (hbDue_of_elapsed hmode hidle hpast)
    · exact exec_eq_next rfl (hbRun_of_free hdue hfree)
    · exact exec_eq_next rfl (hbEnd_of_flagged hrun)
    · exact exec_eq_next rfl (hbEnd_of_missed_unowned hrun hpart)
    · exact exec_eq_next rfl (hbEnd_of_missed_owned hrun hpart)

end Sys2Proof.Machine

/-! SUPPORT and PROOFS. Steps, and the register files of a context (chapter 2). -/

namespace Sys2Proof.Machine

/-! ## Steps -/

/-- Settles O1: a step takes the front of the queue, so the queue that `exec` sees is the rest. -/
theorem stepRunsFront : Obligations.StepRunsFront := fun _ _ _ => rfl

/-- Every command completes and leaves the queue as it is. -/
theorem exec_keeps_pending (i : Instr) (s : State) : ∃ t, exec i s = .next t ∧ t.pending = s.pending := by
  cases i <;> exact ⟨_, rfl, rfl⟩

/-- With an empty queue a step idles 1 ns (log 52). -/
theorem step_of_idle {s : State} (h : s.pending = []) : step s = .next { s with time := { s.time with now := s.time.now + 1 } } := by
  have hlater : max s.time.now (s.time.now + 1) = s.time.now + 1 := Nat.max_eq_right (Nat.le_succ _)
  rw [step, h, Chip.at, hlater]

/-- Settles O2: an idle step leaves the empty queue empty, any other takes the front command and is its effect. -/
theorem stepTakesTheFront : Obligations.StepTakesTheFront := by
  intro s
  refine ⟨?_, step_of_idle⟩
  cases hqueue : s.pending with
  | nil => exact ⟨_, step_of_idle hqueue, hqueue⟩
  | cons i rest =>
    have hfront : step s = exec i { s with pending := rest } := by rw [step, hqueue]
    rw [hfront]
    exact exec_keeps_pending i { s with pending := rest }

/-! ## The register files of a context -/

section
variable {x : Ctx} {i j : Nat}

/-- S0 discards what is written to it. -/
theorem ws_zero (v : W64) : x.ws 0 v = x := rfl

/-- Any other S register takes what is written to it. -/
theorem ws_of_ne_zero (hi : i ≠ 0) (v : W64) : x.ws i v = { x with s := x.s.set i v } := if_neg hi

/-- A write of an S register changes the S file at most. -/
theorem ws_changes_s (x : Ctx) (i : Nat) (v : W64) : ∃ m, x.ws i v = { x with s := m } := by
  by_cases hi : i = 0
  · exact ⟨x.s, by rw [hi, ws_zero]⟩
  · exact ⟨_, ws_of_ne_zero hi v⟩

/-- An S register other than S0 reads what was written to it. -/
theorem rs_ws_same (hi : i ≠ 0) (v : W64) : (x.ws i v).rs i = v := by
  rw [ws_of_ne_zero hi, Ctx.rs, if_neg hi, AMap.get_set_same]

/-- Any other S register reads as before. -/
theorem rs_ws_ne (hj : j ≠ i) (v : W64) : (x.ws i v).rs j = x.rs j := by
  by_cases hi : i = 0
  · rw [hi, ws_zero]
  · rw [ws_of_ne_zero hi, Ctx.rs, Ctx.rs, AMap.get_set_ne _ hj]

/-- P0 discards what is written to it. -/
theorem wp_zero (b : Bool) : x.wp 0 b = x := rfl

/-- A predicate file after a write has the written bit, and the others as they were. -/
theorem setPred_getLsbD (p : BitVec 16) (hi : i ≠ 0) (b : Bool) (j : Nat) : (setPred p i b).getLsbD j = if j = i then decide (i < 16) && b else p.getLsbD j := by
  have hbit : (BitVec.ofNat 16 (2 ^ i)).getLsbD j = (decide (j < 16) && decide (i = j)) := by
    rw [BitVec.getLsbD_ofNat, Nat.testBit_two_pow]
  have hout (h : ¬ j < 16) : p.getLsbD j = false := BitVec.getLsbD_of_ge p j (Nat.le_of_not_lt h)
  rw [setPred, if_neg hi]
  cases b with
  | true =>
    rw [if_pos rfl, BitVec.getLsbD_or, hbit]
    by_cases hj : j = i
    · subst hj
      by_cases hlt : j < 16
      · simp [hlt]
      · simp [hlt, hout hlt]
    · simp [hj, Ne.symm hj]
  | false =>
    rw [if_neg Bool.false_ne_true, BitVec.getLsbD_and, BitVec.getLsbD_not, hbit]
    by_cases hj : j = i
    · subst hj
      simp
    · by_cases hlt : j < 16
      · simp [hlt, hj, Ne.symm hj]
      · simp [hj, hlt, hout hlt]

/-- A P register other than P0 reads what was written to it. -/
theorem rp_wp_same (hi : i ≠ 0) (hlt : i < 16) (b : Bool) : (x.wp i b).rp i = b := by
  rw [Ctx.rp, Ctx.wp, setPred_getLsbD _ hi]
  simp [hi, hlt]

/-- Any other P register reads as before. -/
theorem rp_wp_ne (hj : j ≠ i) (b : Bool) : (x.wp i b).rp j = x.rp j := by
  by_cases hi : i = 0
  · rw [hi, wp_zero]
  · simp [Ctx.rp, Ctx.wp, setPred_getLsbD _ hi, hj]

end

/-- Settles O38: each clause is the reading or the writing of one register. -/
theorem registerFiles : Obligations.RegisterFiles := by
  intro x i j v b
  exact ⟨rfl, ws_zero v, rfl, wp_zero b, fun hi => rs_ws_same hi v, fun hj => rs_ws_ne hj v, ws_changes_s x i v,
    fun hi hlt => rp_wp_same hi hlt b, fun hj => rp_wp_ne hj b, ⟨_, rfl⟩⟩

end Sys2Proof.Machine

/-! SUPPORT and PROOFS. Staged Configuration: locks, staged values, checks, arming, and the phases of an apply (R354-R361). -/

namespace Sys2Proof.Machine

section
variable {c : Chip} {x : Ctl} {m : Master}

/-- A controller's update depends on what it makes of the controller's state alone. -/
theorem updCtl_congr {f g : CfgSt → CfgSt} (h : f (c.ctl x) = g (c.ctl x)) : c.updCtl x f = c.updCtl x g := by
  rw [Chip.ctl] at h
  rw [Chip.updCtl, Chip.updCtl, AMap.upd, AMap.upd, h]

/-! ## The lock -/

/-- A free lock goes to a master that reaches the controller and names itself (R354). -/
theorem cfgClaim_of_free {owner : Nat} (hfree : (c.ctl x).owner = none) (howner : owner = reqCode m) (hreach : reaches m x = true) :
    c.cfgClaim x m owner = c.updCtl x fun g => { g with owner := some owner } := by
  simp [Chip.cfgClaim, hfree, howner, hreach]

/-- Any other claim is counted (R354). -/
theorem cfgClaim_of_refused {owner : Nat} (h : (c.ctl x).owner ≠ none ∨ owner ≠ reqCode m ∨ reaches m x = false) : c.cfgClaim x m owner = c.ctlBad x := by
  rw [Chip.cfgClaim, if_neg]
  rw [Bool.and_eq_true, Bool.and_eq_true, Option.isNone_iff_eq_none, beq_iff_eq]
  rintro ⟨⟨hfree, howner⟩, hreach⟩
  rcases h with h | h | h
  · exact h hfree
  · exact h howner
  · exact Bool.false_ne_true (h.symm.trans hreach)

/-- The owner releases the lock (R356). -/
theorem cfgRelease_of_owner (hown : c.ownsSet m x = true) : c.cfgRelease x m = c.cfgFree x := by
  simp [Chip.cfgRelease, hown]

/-- A master that neither owns the set nor is the controller's own firmware is counted (R356). -/
theorem cfgRelease_of_other (hown : c.ownsSet m x = false) (hdcu : m ≠ .dcu ∨ x ≠ .dcu) (hisl : ∀ i, m ≠ .isl i ∨ x ≠ .isl i) :
    c.cfgRelease x m = c.ctlBad x := by
  unfold Chip.cfgRelease
  refine if_neg ?_
  rw [hown, Bool.false_or]
  split
  next => simp at hdcu
  next i j =>
    have hij : i ≠ j := fun h => by simpa [h] using hisl j
    simp [hij]
  next => exact Bool.false_ne_true

/-! ## Staged values -/

section
variable {k : RegKey} {row : RegRow} (hctl : ctlOf k = x)
include hctl

/-- The owner's write outside ARMED sets the staged value (R355). -/
theorem wsWrite_of_owner {v : Nat} (hown : c.ownsSet m x = true) (hstate : (c.ctl x).state ≠ 5) (hok : row.ok v = true) :
    c.wsWrite m k row v = c.updCtl x fun g =>
      { g with staged := g.staged.set k (Nat.land v row.mask), lost := g.lost.filter (· ≠ k), state := 1, rule := 0, nfail := 0, unit := 0 } := by
  simp [Chip.wsWrite, hctl, hown, hstate, hok]

/-- A write by another master, or while ARMED, is counted at the controller (R354, R358). -/
theorem wsWrite_of_refused (v : Nat) (h : c.ownsSet m x = false ∨ (c.ctl x).state = 5) : c.wsWrite m k row v = c.ctlBad x := by
  simp [Chip.wsWrite, hctl, h]

/-- A reserved encoding is counted at the register's owner (R6). -/
theorem wsWrite_of_reserved {v : Nat} (hown : c.ownsSet m x = true) (hstate : (c.ctl x).state ≠ 5) (hbad : row.ok v = false) :
    c.wsWrite m k row v = c.countErr k := by
  simp [Chip.wsWrite, hctl, hown, hstate, hbad]

end

/-- A WS register outside the islands belongs to the DCU's controller. -/
theorem ctlOf_outside_islands {k : RegKey} (hisl : ∀ i, k.blk ≠ .isl i) : ctlOf k = .dcu := by
  unfold ctlOf
  split
  next i hblk => exact absurd hblk (hisl i)
  next => rfl

/-- A register outside the islands has no channel results to settle. -/
theorem settleFor_outside_islands {k : RegKey} (hisl : ∀ i, k.blk ≠ .isl i) : c.settleFor k = c := by
  unfold Chip.settleFor
  split
  next i hblk => exact absurd hblk (hisl i)
  next => rfl

/-- A whole write of a WS register outside the islands is a write to the DCU's set (R354). -/
theorem regWrite_of_ws {k : RegKey} {row : RegRow} (hk : c.unmirror k = k) (hwhole : k.whole = k) (hgood : regBad k 8 = false) (hrow : regRow k = some row)
    (hws : row.acc = .ws) (hisl : ∀ i, k.blk ≠ .isl i) (v : W64) : c.regWrite m k 8 v.toNat = c.wsWrite m k row v.toNat := by
  simp only [Chip.regWrite, settleFor_outside_islands hisl, hk, hwhole, hgood, hrow, hws, BitVec.toNat_mod_cancel]
  cases hblk : k.blk with
  | isl i => exact absurd hblk (hisl i)
  | _ => simp

/-- The same by the address that names it (R355). -/
theorem wsRow_of_reg {k : RegKey} {row : RegRow} {a : Nat} (hat : c.regAt .dcu a = some k) (hk : c.unmirror k = k) (hwhole : k.whole = k)
    (hgood : regBad k 8 = false) (hrow : regRow k = some row) (hws : row.acc = .ws) (htarget : c.target a = .reg k) (hgone : c.regGone k = false)
    (hisl : ∀ i, k.blk ≠ .isl i) (v : W64) : c.wsRow .dcu a true v.toNat = c.wsWrite .dcu k row v.toNat := by
  have hwrite : c.registerWrite .dcu a true v.toNat = c.wsWrite .dcu k row v.toNat := by
    rw [registerWrite_of_reg (m := .dcu) rfl (fun i => nofun) htarget hgone]
    exact regWrite_of_ws hk hwhole hgood hrow hws hisl v
  rw [Chip.wsRow, hat]
  simp [hk, hwhole, hrow, hws, hwrite]

/-- The owner drops a set that is not ARMED (R355). -/
theorem cfgDiscard_of_owner (hown : c.ownsSet m x = true) (hstate : (c.ctl x).state ≠ 5) : c.cfgDiscard x m = c.updCtl x CfgSt.drop := by
  simp [Chip.cfgDiscard, hown, hstate]

/-- Any other discard is counted (R354, R358). -/
theorem cfgDiscard_of_refused (h : c.ownsSet m x = false ∨ (c.ctl x).state = 5) : c.cfgDiscard x m = c.ctlBad x := by
  rcases h with h | h <;> simp [Chip.cfgDiscard, h]

/-! ## Checking and arming -/

/-- GO by the owner outside ARMED starts a check (R357). -/
theorem cfgCheck_of_owner (hown : c.ownsSet m x = true) (hstate : (c.ctl x).state ≠ 5) : c.cfgCheck x m = c.updCtl x fun g => { g with state := 2 } := by
  simp [Chip.cfgCheck, hown, hstate]

/-- Any other GO is counted (R354, R358). -/
theorem cfgCheck_of_refused (h : c.ownsSet m x = false ∨ (c.ctl x).state = 5) : c.cfgCheck x m = c.ctlBad x := by
  rcases h with h | h <;> simp [Chip.cfgCheck, h]

/-- The result of a check that runs is that of the rules (R357). -/
theorem cfgCheckDone_of_checking (hstate : (c.ctl x).state = 2) : c.cfgCheckDone x = c.updCtl x fun g => g.judge (c.failing x false) := if_pos hstate

/-- The owner's apply at a tick of a PASSED set looks at the tick (R358). -/
theorem cfgTick_of_passed (hown : c.ownsSet m x = true) (hstate : (c.ctl x).state = 3) :
    c.cfgTick x m = if c.ctlTime x + 200000 ≤ (c.ctl x).tick ∧ (c.ctl x).tick ≤ c.ctlTime x + 60000000000 then c.updCtl x fun g => g.arm 1 (c.ctlTime x)
      else c.updCtl x fun g => { g with last := 4 } := by
  simp [Chip.cfgTick, hown, hstate]

/-- Any other apply at a tick is counted (R354, R358). -/
theorem cfgTick_of_refused (h : c.ownsSet m x = false ∨ (c.ctl x).state ≠ 3) : c.cfgTick x m = c.ctlBad x := by
  rcases h with h | h <;> simp [Chip.cfgTick, h]

/-- The owner's apply at a landing arms a PASSED set (R358). -/
theorem cfgLanding_of_passed (hown : c.ownsSet m x = true) (hstate : (c.ctl x).state = 3) : c.cfgLanding x m = c.updCtl x fun g => g.arm 2 (c.ctlTime x) := by
  simp [Chip.cfgLanding, hown, hstate]

/-- A prepared unit that is not fenced is noted once (R359). -/
theorem prepareAck_of_prepared {u : CfgUnit} (harm : (c.armTick .dcu).isSome = true) (hprep : unitBlk u ∈ (c.ctl .dcu).prepared)
    (hnew : unitBlk u ∉ (c.ctl .dcu).acks) (hup : ∀ h, u = .hall h → c.site.state.get h.val 1 ≠ 3) :
    c.prepareAck u = c.updCtl .dcu fun g => { g with acks := unitBlk u :: g.acks } := by
  cases u with
  | hall s => simp [Chip.prepareAck, harm, hprep, hnew, hup s rfl]
  | _ => simp [Chip.prepareAck, harm, hprep, hnew]

/-! ## Cancelling -/

/-- The owner cancels an armed set before t − 20 µs (R361). -/
theorem cfgCancel_of_early {t : Nat} (hown : c.ownsSet m x = true) (hstate : (c.ctl x).state = 5) (harm : c.armTick x = some t) (hearly : c.ctlTime x + 20000 < t) :
    c.cfgCancel x m = c.updCtl x fun g => { g with state := 3, last := 3 } := by
  simp [Chip.cfgCancel, hown, hstate, harm, hearly]

/-- From then on a cancel is counted (R361). -/
theorem cfgCancel_of_late {t : Nat} (harm : c.armTick x = some t) (hlate : t ≤ c.ctlTime x + 20000) : c.cfgCancel x m = c.ctlBad x := by
  simp [Chip.cfgCancel, harm, Nat.not_lt.mpr hlate]

/-- A cancel of a set that is not ARMED is counted (log 18). -/
theorem cfgCancel_of_unarmed (hstate : (c.ctl x).state ≠ 5) : c.cfgCancel x m = c.ctlBad x := by
  simp [Chip.cfgCancel, hstate]

/-! ## The phases of an apply -/

section
variable {a : Nat} (harm : c.armTick x = some a)
include harm

/-- At t − 20 µs the rules are judged again (R359). -/
theorem cfgAgain_of_due (hdue : a ≤ c.ctlTime x + 20000) (hsent : (c.ctl x).sent = false) :
    c.cfgAgain x = c.updCtl x fun g => { g with again := some (c.failing x ((c.ctl x).mode == 1)) } := by
  simp [Chip.cfgAgain, harm, hdue, hsent]

/-- At its tick a committed set applies, the DCU's only where it is armed for a tick (R359, R447). -/
theorem cfgTickApply_of_due (hsent : (c.ctl x).sent = true) (hdue : a ≤ c.ctlTime x) (hmode : x ≠ .dcu ∨ (c.ctl x).mode ≠ 2) :
    c.cfgTickApply x = c.cfgApply x a := by
  have hland : (x == .dcu && (c.ctl x).mode == 2) = false := by
    rcases hmode with h | h <;> simp [h]
  simp [Chip.cfgTickApply, harm, hsent, hdue, hland]

variable (hsent : (c.ctl x).sent = false) (hdue : a ≤ c.ctlTime x + 10000)
include hsent hdue

/-- A failing rule aborts the apply (R360). -/
theorem cfgCommit_of_failing {n : Nat} {ns : List Nat} (hrules : ((c.ctl x).again.getD (c.failing x ((c.ctl x).mode == 1))).1 = n :: ns) :
    c.cfgCommit x = c.cfgAbort x ((c.ctl x).again.getD (c.failing x ((c.ctl x).mode == 1))) := by
  simp [Chip.cfgCommit, harm, hsent, Nat.not_lt.mpr hdue, hrules]

variable (hrules : ((c.ctl x).again.getD (c.failing x ((c.ctl x).mode == 1))).1 = [])
include hrules

/-- Where the rules hold and no unit is missing, the commit is sent (R359). -/
theorem cfgCommit_of_complete (hunits : x = .dcu → ((c.ctl x).prepared.filter fun b => !(c.ctl x).acks.contains b) = []) :
    c.cfgCommit x = c.updCtl x fun g => { g with sent := true } := by
  have hnone : (if x = .dcu then (c.ctl x).prepared.filter (fun b => !(c.ctl x).acks.contains b) else []) = [] := ite_eq_right_iff.mpr hunits
  simp only [Chip.cfgCommit, harm, hsent, Nat.not_lt.mpr hdue, hrules, hnone, decide_false, Bool.or_self, Bool.false_eq_true, if_false]

/-- A missing unit of the DCU's set aborts the apply with rule 0x0A (R360). -/
theorem cfgCommit_of_missing {b : Blk} {more : List Blk} (hdcu : x = .dcu) (hunits : ((c.ctl x).prepared.filter fun b => !(c.ctl x).acks.contains b) = b :: more) :
    c.cfgCommit x = c.cfgAbort x ([10], (((c.ctl x).staged.find? fun e => e.1.blk = b).map fun e => keyUnit e.1).getD 0) := by
  have hsome : (if x = .dcu then (c.ctl x).prepared.filter (fun b => !(c.ctl x).acks.contains b) else []) = b :: more := (if_pos hdcu).trans hunits
  simp only [Chip.cfgCommit, harm, hsent, Nat.not_lt.mpr hdue, hrules, hsome, decide_false, Bool.or_self, Bool.false_eq_true, if_false]

end

/-- A prepare message without commit or arming is dropped (R360). -/
theorem prepareDrop_of_idle {u : CfgUnit} (hsent : (c.ctl .dcu).sent = false) (hstate : (c.ctl .dcu).state ≠ 5) :
    c.prepareDrop u = c.updCtl .dcu fun _ => { c.ctl .dcu with prepared := (c.ctl .dcu).prepared.filter (· ≠ unitBlk u) } :=
  updCtl_congr (by simp [hsent, hstate])

end

/-! ## The statements -/

/-- Settles O42: a cancel acts on a set that is ARMED and early enough, and is counted otherwise. -/
theorem cancelArmedSet : Obligations.CancelArmedSet := by
  intro s x m t hown
  refine ⟨fun hstate harm hearly => ?_, fun harm hlate => ?_, fun hstate => ?_⟩
  · exact exec_eq_next rfl (cfgCancel_of_early hown hstate harm hearly)
  · exact exec_eq_next rfl (cfgCancel_of_late harm hlate)
  · exact exec_eq_next rfl (cfgCancel_of_unarmed hstate)

/-- Settles O55: each command of the lock and of the set is its operation in the case at hand. -/
theorem stagedSets : Obligations.StagedSets := by
  intro s x m owner a v k row g bad
  refine ⟨fun hfree howner hreach => ?_, fun hrefused => ?_, fun hown => ?_, fun hown hdcu hisl => ?_, ?_, fun hown hstate => ?_, fun hrefused => ?_⟩
  · exact exec_eq_next rfl (cfgClaim_of_free hfree howner hreach)
  · exact exec_eq_next rfl (cfgClaim_of_refused hrefused)
  · exact exec_eq_next rfl (cfgRelease_of_owner hown)
  · exact exec_eq_next rfl (cfgRelease_of_other hown hdcu hisl)
  · intro hat hk hwhole hgood hrow hws _ hm htarget hgone hisl
    subst hm
    have hwrite := wsRow_of_reg hat hk hwhole hgood hrow hws htarget hgone hisl v
    have hctl := ctlOf_outside_islands hisl
    refine ⟨fun hown hstate hok => ?_, fun hrefused => ?_, fun hown hstate hbad => ?_⟩
    · exact exec_eq_next rfl (hwrite.trans (wsWrite_of_owner hctl hown hstate hok))
    · exact exec_eq_next rfl (hwrite.trans (wsWrite_of_refused hctl _ hrefused))
    · exact exec_eq_next rfl (hwrite.trans (wsWrite_of_reserved hctl hown hstate hbad))
  · exact exec_eq_next rfl (cfgDiscard_of_owner hown hstate)
  · exact exec_eq_next rfl (cfgDiscard_of_refused hrefused)

/-- Settles O56: each command of a set is its operation in the case at hand. -/
theorem configurationSets : Obligations.ConfigurationSets := by
  constructor
  · intro s x m u g bad upd now near d fails
    refine ⟨fun hown hstate => ?_, fun hrefused => ?_, fun hstate => ?_, fun hown hstate hnear => ?_, fun hown hstate hfar => ?_, fun hrefused => ?_,
      fun hown hstate => ?_, fun harm hprep hnew hup => ?_⟩
    · exact exec_eq_next rfl (cfgCheck_of_owner hown hstate)
    · exact exec_eq_next rfl (cfgCheck_of_refused hrefused)
    · exact exec_eq_next rfl (cfgCheckDone_of_checking hstate)
    · exact exec_eq_next rfl ((cfgTick_of_passed hown hstate).trans (if_pos hnear))
    · exact exec_eq_next rfl ((cfgTick_of_passed hown hstate).trans (if_neg hfar))
    · exact exec_eq_next rfl (cfgTick_of_refused hrefused)
    · exact exec_eq_next rfl (cfgLanding_of_passed hown hstate)
    · exact exec_eq_next rfl (prepareAck_of_prepared harm hprep hnew hup)
  · intro s x u t a n b more ns c g now missing rules due d
    refine ⟨fun harm hpast hsent => ?_, fun ⟨harm, hsent, hpast⟩ hrules hunits => ?_, fun ⟨harm, hsent, hpast⟩ hrules hdcu hunits => ?_,
      fun ⟨harm, hsent, hpast⟩ hrules => ?_, fun harm hsent hpast hmode => ?_, fun hsent hstate => ?_⟩
    · exact exec_eq_next rfl (cfgAgain_of_due harm hpast hsent)
    · exact exec_eq_next rfl (cfgCommit_of_complete harm hsent hpast hrules hunits)
    · exact exec_eq_next rfl (cfgCommit_of_missing harm hsent hpast hrules hdcu hunits)
    · exact exec_eq_next rfl (cfgCommit_of_failing harm hsent hpast hrules)
    · exact exec_eq_next rfl (cfgTickApply_of_due harm hsent hpast hmode)
    · exact exec_eq_next rfl (prepareDrop_of_idle hsent hstate)

end Sys2Proof.Machine

/-! SUPPORT and PROOFS. The error log (R409, R410). -/

namespace Sys2Proof.Machine

section
variable {c : Chip}

/-- The oldest record that a unit has sent leaves the inbox. -/
def Chip.inboxLeft (c : Chip) (rs : List ErrRec) : Chip := { c with log := { c.log with inbox := rs } }

section
variable {r : ErrRec} {rs : List ErrRec} (hin : c.log.inbox = r :: rs)
include hin

section
variable (hclass : mergeable r.cls = true)
include hclass

/-- A record that merges is looked for among the merging ones of its period (R409). -/
theorem errIntake_of_mergeable :
    c.errIntake =
      if c.log.merging.any fun m => m.same r then
        { c.inboxLeft rs with log := { (c.inboxLeft rs).log with merging := c.log.merging.map fun m => if m.same r then m.join r else m } }
      else if c.log.taken < c.errRate then
        { c.inboxLeft rs with log := { (c.inboxLeft rs).log with merging := c.log.merging ++ [r], taken := c.log.taken + 1 } }
      else (c.inboxLeft rs).bump (dcuK 0x8010) := by
  simp only [Chip.errIntake, hin, hclass, if_true, decide_eq_true_eq] <;> rfl

/-- It joins the merging record of its kind (R409). -/
theorem errIntake_of_same (hsame : ∃ m ∈ c.log.merging, m.same r = true) :
    c.errIntake = { c.inboxLeft rs with log := { (c.inboxLeft rs).log with merging := c.log.merging.map fun m => if m.same r then m.join r else m } } :=
  (errIntake_of_mergeable hin hclass).trans (if_pos (List.any_eq_true.mpr hsame))

variable (hnew : ¬ ∃ m ∈ c.log.merging, m.same r = true)
include hnew

/-- The first of its kind starts one within RATE (R409, R410). -/
theorem errIntake_of_first (hroom : c.log.taken < c.errRate) :
    c.errIntake = { c.inboxLeft rs with log := { (c.inboxLeft rs).log with merging := c.log.merging ++ [r], taken := c.log.taken + 1 } } :=
  (errIntake_of_mergeable hin hclass).trans ((if_neg fun h => hnew (List.any_eq_true.mp h)).trans (if_pos hroom))

/-- Past RATE it is counted (R410). -/
theorem errIntake_of_dropped (hroom : ¬ c.log.taken < c.errRate) : c.errIntake = (c.inboxLeft rs).bump (dcuK 0x8010) :=
  (errIntake_of_mergeable hin hclass).trans ((if_neg fun h => hnew (List.any_eq_true.mp h)).trans (if_neg hroom))

end

/-- Any other record is delivered within RATE, and otherwise waits (R410). -/
theorem errIntake_of_single (hclass : mergeable r.cls = false) :
    c.errIntake =
      if c.log.taken < c.errRate then Chip.errDeliver { c.inboxLeft rs with log := { (c.inboxLeft rs).log with taken := c.log.taken + 1 } } r
      else { c.inboxLeft rs with log := { (c.inboxLeft rs).log with waiting := c.log.waiting ++ [r] } } := by
  simp only [Chip.errIntake, hin, hclass, Bool.false_eq_true, if_false, decide_eq_true_eq] <;> rfl

end

end

/-- Settles O59: intake takes the branch of the oldest record's class and of what the period has taken; the release is the period's end. -/
theorem errorLog : Obligations.ErrorLog := by
  intro s r rs c room same is clear merged now
  refine ⟨fun hin hclass hsame => ?_, fun hin hclass hnew hroom => ?_, fun hin hclass hnew hroom => ?_, fun hin hclass hroom => ?_, fun hin hclass hroom => ?_, rfl⟩
  · exact exec_eq_next rfl (errIntake_of_same hin hclass hsame)
  · exact exec_eq_next rfl (errIntake_of_first hin hclass hnew hroom)
  · exact exec_eq_next rfl (errIntake_of_dropped hin hclass hnew hroom)
  · exact exec_eq_next rfl ((errIntake_of_single hin hclass).trans (if_pos hroom))
  · exact exec_eq_next rfl ((errIntake_of_single hin hclass).trans (if_neg hroom))

end Sys2Proof.Machine

/-! SUPPORT and PROOFS. Test-pattern packages and self-test slots (R333, R334, R414, R415, R417). -/

namespace Sys2Proof.Machine

section
variable {c : Chip}

/-! ## Loading and removing -/

/-- LOAD while an operation runs is counted (R417). -/
theorem pkgLoad_of_busy (hbusy : c.fleet.state = 1) : c.pkgLoad = c.countErr dcuErr := if_pos hbusy

/-- LOAD while none runs starts the check of the address (R414). -/
theorem pkgLoad_of_idle (hidle : c.fleet.state ≠ 1) :
    c.pkgLoad = { c with fleet := { c.fleet with state := 1, rej := 0, addr := bits (c.reg (dcuK 0x8100)) 47 12 * 4096 } } := if_neg hidle

/-- REMOVE while an operation runs, or of a package that is not installed, is counted (R417). -/
theorem pkgRemove_of_refused {id : Nat} (h : c.fleet.state = 1 ∨ ∀ p ∈ c.fleet.pkgs, p.id ≠ id) : c.pkgRemove id = c.countErr dcuErr :=
  if_pos (h.imp_right fun hnone => by simpa using hnone)

/-- REMOVE of a stored package while none runs drops it (R415). -/
theorem pkgRemove_of_stored {id : Nat} (hidle : c.fleet.state ≠ 1) (hstored : ∃ p ∈ c.fleet.pkgs, p.id = id) :
    c.pkgRemove id = { c.pkgDrop id with fleet := { (c.pkgDrop id).fleet with state := 2, rej := 0, last := id } } := by
  refine if_neg ?_
  rintro (hbusy | hnone)
  · exact hidle hbusy
  · simp only [Bool.not_eq_true', List.any_eq_false, beq_iff_eq] at hnone
    obtain ⟨p, hp, hid⟩ := hstored
    exact hnone p hp hid

/-! ## The checks of a LOAD -/

/-- The package at the address of the load that runs (R414). -/
def Chip.pkgImage (c : Chip) : List Byte := c.devRead c.fleet.addr (pkgBytes (c.devRead c.fleet.addr 128))

/-- The block once the check has met the errors of the words it reads (R162). -/
def Chip.pkgSeen (c : Chip) : Chip := c.devSense c.fleet.addr (max 128 (pkgBytes (c.devRead c.fleet.addr 128)))

/-- The store with that package in it (R415). -/
def Chip.pkgsNext (c : Chip) : List Pkg := c.pkgSeen.fleet.with' (pkgOf c.pkgImage)

/-- The bytes of the store with that package in it (R414). -/
def Chip.sizeNext (c : Chip) : Nat := (c.pkgsNext.map fun q => pkgBytes q.img).sum

/-- No version of the package that is stored is as new (R415). -/
theorem olderStored_iff (fleet : FleetSt) (p : Pkg) :
    (∀ x ∈ fleet.pkgs, x.id = p.id → x.ver < p.ver) ↔ (fleet.pkgs.any fun q => q.id == p.id && decide (p.ver ≤ q.ver)) = false := by
  simp

/-- Both flash copies take the store: the write succeeded, I/O die 0 stands, and every region has room (R414). -/
theorem flashTakes_iff (d : Chip) (ok : Bool) (size : Nat) :
    (ok = true ∧ d.boot.die0 = false ∧ d.pkgRegions ≠ [] ∧ ∀ e ∈ d.pkgRegions, size ≤ e.len) ↔
      (!ok || d.boot.die0 || d.pkgRegions.isEmpty || d.pkgRegions.any fun e => decide (e.len < size)) = false := by
  simp [and_assoc]

section
variable {ok : Bool} (hbusy : c.fleet.state = 1)
include hbusy

/-- A check that runs ends with the first code that applies to the package as it is read (R414). -/
theorem pkgChecked_of_busy :
    c.pkgChecked ok =
      if pkgReject c.pkgSeen.boot.rev c.pkgImage ≠ 0 then c.pkgSeen.pkgRefuse (pkgReject c.pkgSeen.boot.rev c.pkgImage) (pkgOf c.pkgImage).id
      else if c.pkgSeen.fleet.pkgs.any fun q => q.id == (pkgOf c.pkgImage).id && decide ((pkgOf c.pkgImage).ver ≤ q.ver) then c.pkgSeen.pkgRefuse 6 (pkgOf c.pkgImage).id
      else if 32 < c.pkgsNext.length ∨ 16777216 < c.sizeNext then c.pkgSeen.pkgRefuse 7 (pkgOf c.pkgImage).id
      else if !ok || c.pkgSeen.boot.die0 || c.pkgSeen.pkgRegions.isEmpty || c.pkgSeen.pkgRegions.any fun e => decide (e.len < c.sizeNext) then
        c.pkgSeen.pkgRefuse 8 (pkgOf c.pkgImage).id
      else { c.pkgSeen.pkgStore c.pkgsNext with fleet := { c.pkgSeen.fleet with pkgs := c.pkgsNext, state := 2, rej := 0, last := (pkgOf c.pkgImage).id } } :=
  if_neg (not_not.mpr hbusy)

/-- A package that fails a check of its form (R414). -/
theorem pkgChecked_of_malformed (hcode : pkgReject c.pkgSeen.boot.rev c.pkgImage ≠ 0) :
    c.pkgChecked ok = c.pkgSeen.pkgRefuse (pkgReject c.pkgSeen.boot.rev c.pkgImage) (pkgOf c.pkgImage).id :=
  (pkgChecked_of_busy hbusy).trans (if_pos hcode)

variable (hcode : pkgReject c.pkgSeen.boot.rev c.pkgImage = 0)
include hcode

/-- A version as new is stored (R415). -/
theorem pkgChecked_of_not_newer (hold : ¬ ∀ x ∈ c.pkgSeen.fleet.pkgs, x.id = (pkgOf c.pkgImage).id → x.ver < (pkgOf c.pkgImage).ver) :
    c.pkgChecked ok = c.pkgSeen.pkgRefuse 6 (pkgOf c.pkgImage).id := by
  rw [olderStored_iff, Bool.not_eq_false] at hold
  rw [pkgChecked_of_busy hbusy, if_neg (not_not.mpr hcode), if_pos hold]

variable (hnew : ∀ x ∈ c.pkgSeen.fleet.pkgs, x.id = (pkgOf c.pkgImage).id → x.ver < (pkgOf c.pkgImage).ver)
include hnew

/-- A newer package is looked at for its room in the store and in the flash (R414, R415). -/
theorem pkgChecked_of_newer :
    c.pkgChecked ok =
      if 32 < c.pkgsNext.length ∨ 16777216 < c.sizeNext then c.pkgSeen.pkgRefuse 7 (pkgOf c.pkgImage).id
      else if !ok || c.pkgSeen.boot.die0 || c.pkgSeen.pkgRegions.isEmpty || c.pkgSeen.pkgRegions.any fun e => decide (e.len < c.sizeNext) then
        c.pkgSeen.pkgRefuse 8 (pkgOf c.pkgImage).id
      else { c.pkgSeen.pkgStore c.pkgsNext with fleet := { c.pkgSeen.fleet with pkgs := c.pkgsNext, state := 2, rej := 0, last := (pkgOf c.pkgImage).id } } := by
  rw [pkgChecked_of_busy hbusy, if_neg (not_not.mpr hcode), (olderStored_iff _ _).mp hnew, if_neg Bool.false_ne_true]

/-- The store has no room for it (R414). -/
theorem pkgChecked_of_no_room (hroom : ¬ (c.pkgsNext.length ≤ 32 ∧ c.sizeNext ≤ 16777216)) : c.pkgChecked ok = c.pkgSeen.pkgRefuse 7 (pkgOf c.pkgImage).id :=
  (pkgChecked_of_newer hbusy hcode hnew).trans (if_pos (by omega))

variable (hroom : c.pkgsNext.length ≤ 32 ∧ c.sizeNext ≤ 16777216)
include hroom

/-- The flash does not take it (R414). -/
theorem pkgChecked_of_no_flash
    (hflash : ¬ (ok = true ∧ c.pkgSeen.boot.die0 = false ∧ c.pkgSeen.pkgRegions ≠ [] ∧ ∀ e ∈ c.pkgSeen.pkgRegions, c.sizeNext ≤ e.len)) :
    c.pkgChecked ok = c.pkgSeen.pkgRefuse 8 (pkgOf c.pkgImage).id := by
  rw [flashTakes_iff, Bool.not_eq_false] at hflash
  rw [pkgChecked_of_newer hbusy hcode hnew, if_neg (by omega), if_pos hflash]

/-- The package is stored (R414, R415). -/
theorem pkgChecked_of_good (hflash : ok = true ∧ c.pkgSeen.boot.die0 = false ∧ c.pkgSeen.pkgRegions ≠ [] ∧ ∀ e ∈ c.pkgSeen.pkgRegions, c.sizeNext ≤ e.len) :
    c.pkgChecked ok =
      { c.pkgSeen.pkgStore c.pkgsNext with fleet := { c.pkgSeen.fleet with pkgs := c.pkgsNext, state := 2, rej := 0, last := (pkgOf c.pkgImage).id } } := by
  rw [pkgChecked_of_newer hbusy hcode hnew, if_neg (by omega), (flashTakes_iff _ _ _).mp hflash, if_neg Bool.false_ne_true]

end

/-! ## Self-test slots -/

/-- The stable of a slot that starts is powered, its slot leaves the queue and ends S later (R333, R334). -/
def Chip.slotBegun (c : Chip) (row key : Nat) (rest : List StSlot) : Chip :=
  let on := (c.domainsOn [key]).1.updRot row fun r => { r with queue := rest, run := some (key, (c.domainsOn [key]).1.time.now + (c.domainsOn [key]).1.stS) }
  { on with core := { on.core with testing := key :: on.core.testing } }

/-- The latest start of a slot: the slots behind it and 20 µs before the landing ends (R333). -/
def Chip.slotLast (c : Chip) (q : StSlot) : Nat := c.start c.curFrame + c.L - ((q.m - q.j) * c.stS + 20000)

/-- A due slot of an idle stable starts during a landing (R333). -/
theorem slotStart_of_idle {row t : Nat} {q : StSlot} {rest : List StSlot} (hrun : (c.at t).time.running = true) (hen : bit ((c.at t).reg (dcuK 0x3800)) 0 = true)
    (hqueue : ((c.at t).rot row).queue = q :: rest) (hslot : ((c.at t).rot row).run = none)
    (hland : (c.at t).time.now < (c.at t).start (c.at t).curFrame + (c.at t).L) (hfree : (c.at t).stFree q.stable = true) (hidle : (c.at t).stBusy q.stable = false) :
    c.slotStart row t =
      ((c.at t).slotBegun row q.stable rest).stSet q.stable 3 3 (b2n (decide ((c.at t).slotLast q < ((c.at t).slotBegun row q.stable rest).time.now))) := by
  simp only [Chip.slotStart, hqueue, hrun, hen, hslot, hfree, hidle, Option.isSome_none, Nat.not_le.mpr hland, Bool.not_true, Bool.false_and, decide_false, Bool.or_self,
    Bool.false_eq_true, if_false] <;> rfl

/-- A slot does not end before it is due (log 30). -/
theorem slotEnd_of_early {row t key due : Nat} (runs : List StRun) (whole : Bool) (hrun : ((c.at t).rot row).run = some (key, due)) (hearly : (c.at t).time.now < due) :
    c.slotEnd row t runs whole = c.at t := by
  simp only [Chip.slotEnd, hrun, if_pos hearly]

/-- The end of a slot frees its stable (R334). -/
def Chip.slotFreed (c : Chip) (row key : Nat) : Chip :=
  let idle := c.updRot row fun r => { r with run := none }
  { idle with core := { idle.core with testing := idle.core.testing.filter (· ≠ key) } }

/-- A slot in which nothing failed and that carries content over counts a run, while its rotation has slots left (R334, R335). -/
theorem slotEnd_of_carried {row t key due : Nat} (hrun : ((c.at t).rot row).run = some (key, due)) (hdue : due ≤ (c.at t).time.now)
    (hqueue : (((((c.at t).slotFreed row key).bump (stbK key 0x188)).stSet key 4 4 1).domainsOff [key] |>.rot row).queue ≠ []) :
    c.slotEnd row t [] false = ((((c.at t).slotFreed row key).bump (stbK key 0x188)).stSet key 4 4 1).domainsOff [key] := by
  have hsome := List.isEmpty_eq_false_iff.mpr hqueue
  simp only [Chip.slotEnd, hrun, if_neg (Nat.not_lt.mpr hdue), List.filter_nil, List.all_nil, List.getLast?_nil, List.foldl_nil, if_true, Bool.false_eq_true, if_false]
  refine if_neg ?_
  rw [Bool.and_assoc, Bool.and_eq_true, not_and]
  intro hempty
  exact absurd hempty (Bool.eq_false_iff.mp hsome)

end

/-! ## The statements -/

/-- Settles O16: LOAD and REMOVE by whether an operation runs, the check by its first code, and the slots by their start and end. -/
theorem packagesAndSelfTest : Obligations.PackagesAndSelfTest := by
  intro s id ok row t q rest key due f hdr img p seen code ps size newer fits flashed dropped stored c stop last begin on taken
  refine ⟨fun hidle => ?_, fun hbusy => ?_, fun hidle hstored => ?_, fun hrefused => ?_, fun hbusy hcode => ?_, fun hbusy hcode hold => ?_,
    fun hbusy hcode hnew hroom => ?_, fun hbusy hcode hnew hroom hflash => ?_, fun hbusy hcode hnew hroom hflash => ?_,
    fun ⟨hrun, hen, hqueue, hslot, hland, hfree, hidle⟩ => ?_, fun hrun hearly => ?_, ?_⟩
  · exact exec_eq_next rfl (pkgLoad_of_idle hidle)
  · exact exec_eq_next rfl (pkgLoad_of_busy hbusy)
  · exact exec_eq_next rfl (pkgRemove_of_stored hidle hstored)
  · exact exec_eq_next rfl (pkgRemove_of_refused hrefused)
  · exact exec_eq_next rfl (pkgChecked_of_malformed hbusy hcode)
  · exact exec_eq_next rfl (pkgChecked_of_not_newer hbusy hcode hold)
  · exact exec_eq_next rfl (pkgChecked_of_no_room hbusy hcode hnew hroom)
  · exact exec_eq_next rfl (pkgChecked_of_no_flash hbusy hcode hnew hroom hflash)
  · exact exec_eq_next rfl (pkgChecked_of_good hbusy hcode hnew hroom hflash)
  · exact exec_eq_next rfl (slotStart_of_idle hrun hen hqueue hslot hland hfree hidle)
  · exact exec_eq_next rfl (slotEnd_of_early [] ok hrun hearly)
  · intro hrun hdue idle freed passed off hqueue
    exact exec_eq_next rfl (slotEnd_of_carried hrun hdue hqueue)

/-- An error log slot that has not been written reads zero in every word (R411). -/
theorem readDcu_errlogData_of_unwritten {c : Chip} {n : Nat} (hn : n < 8) (hslot : c.log.slots.look (c.reg (dcuK 0x8020)) = none) :
    c.readDcu (0x8028 + 8 * n) = 0 := by
  have hempty : c.log.slots.get (c.reg (dcuK 0x8020)) [] = [] := by rw [AMap.get, hslot, Option.getD_none]
  have hword : fieldAt ([] : List Byte) (8 * n) 8 = 0 := by rw [fieldAt, List.drop_nil, List.take_nil, leNat]
  interval_cases n <;> simpa [Chip.readDcu, within, hempty] using hword

/-- Settles O43: a package operation that runs, or a package that is not installed, only counts; an unwritten slot reads zero. -/
theorem packagesRefused : Obligations.PackagesRefused := by
  intro s id n counted
  refine ⟨fun hbusy => ⟨?_, ?_⟩, fun hnone => ?_, fun hn hslot => ?_⟩
  · exact exec_eq_next rfl (pkgLoad_of_busy hbusy)
  · exact exec_eq_next rfl (pkgRemove_of_refused (.inl hbusy))
  · exact exec_eq_next rfl (pkgRemove_of_refused (.inr hnone))
  · exact readDcu_errlogData_of_unwritten hn hslot

end Sys2Proof.Machine

/-! SUPPORT and PROOFS. Resets, the islands' own boot and time, the standby DCU, and key revocation (R364, R367, R368, R370, R371, R373, R375). -/

namespace Sys2Proof.Machine

section
variable {c : Chip} {i : Isl}

/-! ## nRESET -/

/-- nRESET low for 5 µs resets the main package (R364). -/
theorem nreset_of_long {dur : Nat} (hlong : 5000 ≤ dur) : c.nreset dur = c.mainReset := if_pos hlong

/-- A shorter pulse does nothing (R364). -/
theorem nreset_of_short {dur : Nat} (hshort : dur < 5000) : c.nreset dur = c := if_neg (Nat.not_le.mpr hshort)

/-- Its release without a rail fault restarts DEVTIME from 0 (R368). -/
theorem nresetRelease_of_held (hheld : c.boot.held = true) (hrail : c.boot.rail = false) :
    c.nresetRelease = { c.rebase 0 with boot := { c.boot with held := false } } := by
  simp [Chip.nresetRelease, hheld, hrail]

/-! ## An island's reset and boot -/

/-- The registers, staging and time of an island are cleared (R364). -/
def Chip.islWiped (c : Chip) (i : Isl) : Chip :=
  { c with regs := c.regs.filter (fun e => !(e.1.blk == Blk.isl i)), cfg := c.cfg.del (Ctl.isl i), time := { c.time with offs := c.time.offs.del (islDie i), floors := c.time.floors.del (islDie i) } }

/-- The island's reset low for 5 µs clears the island (R364). -/
theorem islReset_of_long {dur : Nat} (hlong : 5000 ≤ dur) : c.islReset i dur = (c.islWiped i).updIsl i fun _ => {} := if_neg (Nat.not_lt.mpr hlong)

/-- The island is out of reset, without time yet (R373). -/
def Chip.islOn (c : Chip) (i : Isl) : Chip := c.updIsl i fun s => { s with held := false, dthold := true }

/-- Its boot fails (R373). -/
def Chip.islBootFails (c : Chip) (i : Isl) (err : Nat) : Chip := (c.updIsl i fun s => { s with berr := err }).islEvent i .ISLAND_BOOT_FAIL err

/-- Its firmware starts from a copy (R373). -/
def Chip.islStarts (c : Chip) (i : Isl) (slot : Nat) (img : List Byte) : Chip :=
  (c.islLoad i img).updIsl i fun s => { s with up := true, bslot := slot, ia := 0x28000, wdtAt := c.localTime (islDie i), timeAt := c.localTime (islDie i) }

/-- The release tries copy A, then copy B, of an island's flash that answers (R373). -/
theorem islRelease_of_held (hheld : (c.isl i).held = true) (silent : Bool) (a b : List Byte) :
    c.islRelease i silent a b =
      if silent then (c.islOn i).islBootFails i 1 else if islAccepts i a then (c.islOn i).islStarts i 1 a
      else if islAccepts i b then (c.islOn i).islStarts i 2 b else (c.islOn i).islBootFails i 2 := by
  rw [Chip.islRelease, hheld]
  rfl

/-- An island that has no time yet takes the first that its link delivers without slew (R373). -/
theorem islTimeFirst_of_untimed (hup : (c.isl i).held = false) (huntimed : (c.isl i).timed = false) (hheld : c.boot.held = false) (hlink : c.islLink i = true)
    (hknown : c.boot.times.get 1 0 ≠ 0) :
    c.islTimeFirst i =
      ({ c with time := { c.time with offs := c.time.offs.set (islDie i) 0, floors := c.time.floors.del (islDie i) } } : Chip).updIsl i fun s =>
        { s with timed := true, dthold := false, timeAt := c.time.now, wdtAt := c.time.now, sampled := none } := by
  simp [Chip.islTimeFirst, hup, huntimed, hheld, hlink, hknown]

/-- A restart notice at an island that is up clears what it had accepted and decided (R375). -/
theorem restartNotice_of_up (hnotice : (c.isl i).notice = true) (hup : (c.isl i).up = true) :
    c.restartNotice i =
      c.updIsl i fun s => { s with notice := false, lastAcc := none, pend := [], mine := [], peers := [], decided := none, restarts := min 255 (s.restarts + 1) } := by
  simp [Chip.restartNotice, hnotice, hup]

end

/-- Settles O13: each reset, release and notice is its operation in the case at hand; what nRESET leaves is read off `Chip.mainReset`. -/
theorem resetsAndIslandBoot : Obligations.ResetsAndIslandBoot := by
  intro s i dur silent a b c wiped on fail start go timed
  refine ⟨fun hlong => ?_, fun hshort => ?_, ⟨rfl, rfl, rfl, rfl, rfl, rfl, rfl⟩, fun hheld hrail => ?_, fun hlong => ?_, fun hheld hsilent => ?_,
    fun hheld hflash ha => ?_, fun hheld hflash ha hb => ?_, fun hheld hflash ha hb => ?_, fun hup huntimed hheld hlink hknown => ?_, fun hnotice hup => ?_⟩
  · exact exec_eq_next rfl (nreset_of_long hlong)
  · exact exec_eq_next (d := s.toChip) rfl (nreset_of_short hshort)
  · exact exec_eq_next rfl (nresetRelease_of_held hheld hrail)
  · exact exec_eq_next rfl (islReset_of_long hlong)
  · exact exec_eq_next rfl ((islRelease_of_held hheld _ _ _).trans (if_pos hsilent))
  · exact exec_eq_next rfl ((islRelease_of_held hheld _ _ _).trans ((if_neg (Bool.eq_false_iff.mp hflash)).trans (if_pos ha)))
  · exact exec_eq_next rfl ((islRelease_of_held hheld _ _ _).trans ((if_neg (Bool.eq_false_iff.mp hflash)).trans ((if_neg (Bool.eq_false_iff.mp ha)).trans (if_pos hb))))
  · exact exec_eq_next rfl ((islRelease_of_held hheld _ _ _).trans
      ((if_neg (Bool.eq_false_iff.mp hflash)).trans ((if_neg (Bool.eq_false_iff.mp ha)).trans (if_neg (Bool.eq_false_iff.mp hb)))))
  · exact exec_eq_next rfl (islTimeFirst_of_untimed hup huntimed hheld hlink hknown)
  · exact exec_eq_next rfl (restartNotice_of_up hnotice hup)

section
variable {c : Chip} {t : Nat}

/-! ## The standby DCU and keys -/

/-- With a standby the acting DCU sends its queue counts and error sequence (R370). -/
theorem stateSend_of_standby (h : (c.at t).boot.standby = true) :
    c.stateSend t = { c.at t with boot := { (c.at t).boot with msgAt := (c.at t).time.now, msg := (c.at t).log.pidx, msgSeq := (c.at t).log.seq } } := if_pos h

/-- A standby takes the message and acknowledges it (R370). -/
theorem stateReceive_of_standby (h : c.boot.standby = true) :
    c.stateReceive = { c with boot := { c.boot with gotAt := c.boot.msgAt, got := c.boot.msg, gotSeq := c.boot.msgSeq, ackAt := c.time.now } } := if_pos h

/-- Without a standby nothing takes the message (log 30). -/
theorem stateReceive_of_none (h : c.boot.standby = false) : c.stateReceive = c := if_neg (Bool.eq_false_iff.mp h)

/-- 500 µs without acknowledgement drop the standby (R370). -/
theorem standbyFail_of_silent (h : (c.at t).boot.standby = true) (hpast : (c.at t).boot.ackAt + 500000 ≤ (c.at t).time.now) :
    c.standbyFail t = ({ c.at t with boot := { (c.at t).boot with standby := false } } : Chip).post .STANDBY_FAIL dcuUnit none :=
  if_pos (by rw [h, Bool.true_and, decide_eq_true hpast])

/-- Where I/O die 0 stands, the row is the takeover alone (R372). -/
theorem failoverRow_of_die0_up (report : Bool) : c.failoverRow t report false = c.failover t report := by
  simp [Chip.failoverRow]

/-- 500 µs of silence, or a report, make the standby take over (R370, R371). -/
theorem failover_of_due {report : Bool} (h : (c.at t).boot.standby = true) (hdue : report = true ∨ (c.at t).boot.gotAt + 500000 ≤ (c.at t).time.now) :
    c.failover t report = (c.at t).takeover (b2n report) :=
  if_pos (by rw [h, Bool.true_and, Bool.or_eq_true, decide_eq_true_eq]; exact hdue)

/-- Without a standby nothing takes over (log 30). -/
theorem failover_of_no_standby (report : Bool) (h : (c.at t).boot.standby = false) : c.failover t report = c.at t :=
  if_neg (by rw [h, Bool.false_and]; exact Bool.false_ne_true)

/-- The key slot of the running firmware is not revoked (R367). -/
theorem keyRevoke_of_running {v : Nat} (hkey : bit v c.boot.fwkey = true) (hslot : c.boot.fwslot ≠ 0) : c.keyRevoke v = c.countErr dcuErr :=
  if_pos (by simp [hkey, hslot])

/-- Any other write adds its slots to those revoked (R367). -/
theorem keyRevoke_of_other {v : Nat} (h : bit v c.boot.fwkey = false ∨ c.boot.fwslot = 0) :
    c.keyRevoke v = { c with boot := { c.boot with rev := Nat.lor c.boot.rev (v % 16) } } :=
  if_neg (by rcases h with h | h <;> simp [h])

end

/-- Settles O57: each message, failure, takeover and revocation is its operation in the case at hand. -/
theorem standbyAndKeys : Obligations.StandbyAndKeys := by
  intro s t report v c b
  refine ⟨fun h => ?_, fun h => ?_, fun h => ?_, fun h hpast => ?_, fun h hdue => ?_, fun h => ?_, fun hkey hslot => ?_, fun h => ?_⟩
  · exact exec_eq_next rfl (stateSend_of_standby h)
  · exact exec_eq_next rfl (stateReceive_of_standby h)
  · exact exec_eq_next (d := s.toChip) rfl (stateReceive_of_none h)
  · exact exec_eq_next rfl (standbyFail_of_silent h hpast)
  · exact exec_eq_next rfl ((failoverRow_of_die0_up report).trans (failover_of_due h hdue))
  · exact exec_eq_next rfl ((failoverRow_of_die0_up report).trans (failover_of_no_standby report h))
  · exact exec_eq_next rfl (keyRevoke_of_running hkey hslot)
  · refine exec_eq_next rfl ((keyRevoke_of_other h).trans ?_)
    rw [Nat.mod_eq_of_lt v.isLt]

end Sys2Proof.Machine

/-! SUPPORT and PROOFS. Folds of which few steps act. -/

namespace Sys2Proof.Machine

section
variable {α β : Type} {f : α → β → α} {a : α}

/-- A fold whose steps all leave the start value leaves it. -/
theorem foldl_of_fixed {l : List β} (h : ∀ k ∈ l, f a k = a) : l.foldl f a = a := by
  induction l with
  | nil => rfl
  | cons x xs ih =>
    rw [List.foldl_cons, h x List.mem_cons_self]
    exact ih fun k hk => h k (List.mem_cons_of_mem x hk)

/-- A fold of which one step alone acts ends where that step leads. -/
theorem foldl_of_one_acting {a' : α} {m : β} {l : List β} (hl : l.Nodup) (hm : m ∈ l) (hact : f a m = a') (hbefore : ∀ k ∈ l, k ≠ m → f a k = a)
    (hafter : ∀ k ∈ l, k ≠ m → f a' k = a') : l.foldl f a = a' := by
  induction l with
  | nil => exact absurd hm List.not_mem_nil
  | cons x xs ih =>
    obtain ⟨hx, hxs⟩ := List.nodup_cons.mp hl
    rw [List.foldl_cons]
    by_cases hxm : x = m
    · rw [hxm, hact]
      refine foldl_of_fixed fun k hk => hafter k (List.mem_cons_of_mem x hk) fun hkm => hx ?_
      rwa [hxm, ← hkm]
    · rw [hbefore x List.mem_cons_self hxm]
      exact ih hxs ((List.mem_cons.mp hm).resolve_left (Ne.symm hxm)) (fun k hk => hbefore k (List.mem_cons_of_mem x hk))
        fun k hk => hafter k (List.mem_cons_of_mem x hk)

end

end Sys2Proof.Machine

/-! SUPPORT and PROOFS. Requesters: issue, hold, the slot wheel and CH16 windows (R286, R291, R294, R295). -/

namespace Sys2Proof.Machine

section
variable {c : Chip} {die m t : Nat}

/-! ## A master's state -/

@[simp] theorem updRqm_rqm_same (c : Chip) (die m : Nat) (f : RqM → RqM) : (c.updRqm die m f).rqm die m = f (c.rqm die m) := by
  simp [Chip.updRqm, Chip.rqm]

theorem updRqm_rqm_ne (c : Chip) {die m d k : Nat} (h : 8 * d + k ≠ 8 * die + m) (f : RqM → RqM) : (c.updRqm die m f).rqm d k = c.rqm d k := by
  simp [Chip.updRqm, Chip.rqm, AMap.get_upd_ne _ h]

/-- A master's update depends on what it makes of the master's state alone. -/
theorem updRqm_congr {f g : RqM → RqM} (h : f (c.rqm die m) = g (c.rqm die m)) : c.updRqm die m f = c.updRqm die m g := by
  rw [Chip.rqm] at h
  rw [Chip.updRqm, Chip.updRqm, AMap.upd, AMap.upd, h]

/-! ## Issuing -/

/-- What issuing a request counts at its master: at its stack, in the wheel slot, and against a CH16 master's budget (R291, R294, R295). -/
def Chip.issueCounts (c : Chip) (r : Req) (x : RqM) : RqM :=
  let s := wheelSlot (c.localTime r.owner)
  let on := c.ch16 r.owner r.master
  { x with
    out := x.out.upd r.stack 0 (· + 1)
    bytes := if on then x.bytes + r.bytes else x.bytes
    excess := x.excess || (on && decide (bits (c.rqCfg r.owner r.master) 47 32 * 256 < x.bytes + r.bytes))
    slot := s
    inSlot := AMap.upd (if x.slot = s then x.inSlot else []) r.stack 0 (· + 1) }

/-- Of the masters' states issuing changes that of the request's master. -/
theorem issueReq_rqm (c : Chip) (r : Req) (d k : Nat) : (c.issueReq r).rqm d k = (c.updRqm r.owner r.master (c.issueCounts r)).rqm d k := rfl

/-- The master of an issued request counts it. -/
theorem issueReq_rqm_same (c : Chip) (r : Req) : (c.issueReq r).rqm r.owner r.master = c.issueCounts r (c.rqm r.owner r.master) :=
  updRqm_rqm_same c r.owner r.master (c.issueCounts r)

/-- No other master sees it. -/
theorem issueReq_rqm_ne (c : Chip) (r : Req) {d k : Nat} (h : 8 * d + k ≠ 8 * r.owner + r.master) : (c.issueReq r).rqm d k = c.rqm d k :=
  updRqm_rqm_ne c h (c.issueCounts r)

/-- Issuing a request holds and releases none. -/
theorem issueReq_held (c : Chip) (r : Req) (d k : Nat) : ((c.issueReq r).rqm d k).held = (c.rqm d k).held := by
  by_cases h : 8 * d + k = 8 * r.owner + r.master
  · have hsame (e : Chip) : e.rqm d k = e.rqm r.owner r.master := by rw [Chip.rqm, Chip.rqm, h]
    rw [hsame, hsame, issueReq_rqm_same, Chip.issueCounts]
  · rw [issueReq_rqm_ne c r h]

/-! ## New and held requests -/

/-- The request that a master forms for an access (R286). -/
def Chip.freshReq (c : Chip) (die m by' addr : Nat) (wr : Bool) (bytes : Nat) : Req :=
  { id := 0, owner := die, master := m, stack := addr / 4096 % 6, row := c.rqRow die m by', line := (addr / 4096 / 6 * 4096 + addr % 4096) / 256, wr := wr, bytes := bytes }

section
variable {by' addr bytes : Nat} {wr : Bool} (hhas : rqHas die m = true) (haddr : addr < 0x3600000000) (hlow : 1 ≤ bytes) (hhigh : bytes ≤ 256)
include hhas haddr hlow hhigh

/-- A valid request issues where it may and no older one for its stack waits, or its master is in CH16 mode; otherwise it is held (R291, R295). -/
theorem newRequest_of_valid :
    c.newRequest die m by' addr wr bytes t =
      if ((c.at t).ch16 die m || !(((c.at t).rqm die m).held.any fun h => h.stack == ((c.at t).freshReq die m by' addr wr bytes).stack))
          && (c.at t).mayIssue ((c.at t).freshReq die m by' addr wr bytes) then (c.at t).issueReq ((c.at t).freshReq die m by' addr wr bytes)
      else (c.at t).updRqm die m fun x => { x with held := x.held ++ [(c.at t).freshReq die m by' addr wr bytes] } :=
  if_pos (by simp [hhas, haddr, within, hlow, hhigh])

/-- It issues (R291, R295). -/
theorem newRequest_of_may
    (hfirst : ¬ ((c.at t).ch16 die m = false ∧ ∃ h ∈ ((c.at t).rqm die m).held, h.stack = ((c.at t).freshReq die m by' addr wr bytes).stack))
    (hmay : (c.at t).mayIssue ((c.at t).freshReq die m by' addr wr bytes) = true) :
    c.newRequest die m by' addr wr bytes t = (c.at t).issueReq ((c.at t).freshReq die m by' addr wr bytes) := by
  rw [newRequest_of_valid hhas haddr hlow hhigh, hmay, Bool.and_true]
  refine if_pos ?_
  rw [Bool.or_eq_true, Bool.not_eq_true', List.any_eq_false]
  by_cases hch16 : (c.at t).ch16 die m = true
  · exact .inl hch16
  · exact .inr fun h hh hstack => hfirst ⟨Bool.not_eq_true _ ▸ hch16, h, hh, beq_iff_eq.mp hstack⟩

/-- It is held (R291). -/
theorem newRequest_of_held
    (h : ((c.at t).ch16 die m = false ∧ ∃ h ∈ ((c.at t).rqm die m).held, h.stack = ((c.at t).freshReq die m by' addr wr bytes).stack) ∨
      (c.at t).mayIssue ((c.at t).freshReq die m by' addr wr bytes) = false) :
    c.newRequest die m by' addr wr bytes t = (c.at t).updRqm die m fun x => { x with held := x.held ++ [(c.at t).freshReq die m by' addr wr bytes] } := by
  rw [newRequest_of_valid hhas haddr hlow hhigh]
  refine if_neg ?_
  rw [Bool.and_eq_true, Bool.or_eq_true, Bool.not_eq_true', List.any_eq_false]
  rintro ⟨hfirst, hmay⟩
  rcases h with ⟨hch16, q, hq, hstack⟩ | hstop
  · rcases hfirst with h | h
    · exact Bool.false_ne_true (hch16.symm.trans h)
    · exact h q hq (beq_iff_eq.mpr hstack)
  · exact Bool.false_ne_true (hstop.symm.trans hmay)

end

/-- The waits of held requests are counted while the stack's level holds them (R291). -/
def Chip.waitsCounted (c : Chip) (die stack waited : Nat) : Chip := if bit (c.rqo die).tdm stack then c else c.bump (rqK die 0x80) waited

/-- The oldest held request to a stack leaves where it may issue (R291). -/
theorem issueHeld_of_oldest {stack waited : Nat} {r : Req} (hold : ((c.at t).rqm die m).held.find? (fun r => r.stack == stack) = some r) :
    c.issueHeld die m stack waited t =
      if ((c.at t).waitsCounted die stack waited).mayIssue r then
        (((c.at t).waitsCounted die stack waited).updRqm die m fun x => { x with held := x.held.erase r }).issueReq r
      else (c.at t).waitsCounted die stack waited := by
  simp only [Chip.issueHeld, hold] <;> rfl

/-! ## The slot wheel -/

/-- A held request of a stack without feedback leaves where it may (R294). -/
def Chip.wheelTry (die m : Nat) (c : Chip) (r : Req) : Chip :=
  if bit (c.rqo die).tdm r.stack && c.mayIssue r then (c.updRqm die m fun x => { x with held := x.held.erase r }).issueReq r else c

/-- A master's held requests are tried in order (R294). -/
def Chip.wheelMaster (die : Nat) (c : Chip) (m : Nat) : Chip := (c.rqm die m).held.foldl (Chip.wheelTry die m) c

/-- A wheel slot tries every master of the requester (R294). -/
theorem tdmSlot_eq (c : Chip) (die t : Nat) : c.tdmSlot die t = (List.range 6).foldl (Chip.wheelMaster die) (c.at t) := rfl

/-- A request that has feedback, or may not issue, stays. -/
theorem wheelTry_of_stays {r : Req} (h : bit (c.rqo die).tdm r.stack = false ∨ c.mayIssue r = false) : c.wheelTry die m r = c :=
  if_neg (by rcases h with h | h <;> simp [h])

/-- Where every held request of a master stays, the master leaves the block as it is. -/
theorem wheelMaster_of_stays (h : ∀ r ∈ (c.rqm die m).held, bit (c.rqo die).tdm r.stack = false ∨ c.mayIssue r = false) : c.wheelMaster die m = c :=
  foldl_of_fixed fun r hr => wheelTry_of_stays (h r hr)

/-- Where every held request stays, the slot passes. -/
theorem tdmSlot_of_stays (h : ∀ k < 6, ∀ r ∈ ((c.at t).rqm die k).held, bit ((c.at t).rqo die).tdm r.stack = false ∨ (c.at t).mayIssue r = false) :
    c.tdmSlot die t = c.at t := by
  rw [tdmSlot_eq]
  exact foldl_of_fixed fun k hk => wheelMaster_of_stays (h k (List.mem_range.mp hk))

/-- The one held request of a requester leaves in the slot (R294). -/
theorem tdmSlot_of_single {r : Req} (hm : m < 6) (hone : ((c.at t).rqm die m).held = [r]) (hothers : ∀ k, k < 6 → k ≠ m → ((c.at t).rqm die k).held = [])
    (htdm : bit ((c.at t).rqo die).tdm r.stack = true) (hmay : (c.at t).mayIssue r = true) :
    c.tdmSlot die t = ((c.at t).updRqm die m fun x => { x with held := [] }).issueReq r := by
  have hleft : ((c.at t).updRqm die m fun x => { x with held := x.held.erase r }) = (c.at t).updRqm die m fun x => { x with held := [] } :=
    updRqm_congr (by rw [hone, List.erase_cons_head])
  have hidle {d : Chip} {k : Nat} (hnone : (d.rqm die k).held = []) : d.wheelMaster die k = d := by rw [Chip.wheelMaster, hnone, List.foldl_nil]
  rw [tdmSlot_eq]
  refine foldl_of_one_acting List.nodup_range (List.mem_range.mpr hm) ?_ (fun k hk hkm => hidle (hothers k (List.mem_range.mp hk) hkm)) fun k hk hkm => hidle ?_
  · rw [Chip.wheelMaster, hone, List.foldl_cons, List.foldl_nil, Chip.wheelTry, htdm, hmay, hleft]
    rfl
  · rw [issueReq_held, updRqm_rqm_ne _ (by omega)]
    exact hothers k (List.mem_range.mp hk) hkm

/-! ## CH16 windows -/

/-- The window of a CH16 master ends when its length has passed (R295). -/
theorem windowEnd_of_due (hhas : rqHas die m = true) (hch16 : (c.at t).ch16 die m = true)
    (hdue : ((c.at t).rqm die m).winAt + bits ((c.at t).reg (rqK die 0x38)) 15 0 * 100 ≤ t) :
    c.windowEnd die m t = (c.at t).updRqm die m fun x => { x with bytes := 0, excess := false, winAt := t } :=
  if_pos (by rw [hhas, hch16, decide_eq_true hdue]; rfl)

/-- For any other master, or before, nothing changes (log 30, log 88). -/
theorem windowEnd_of_early
    (h : rqHas die m = false ∨ (c.at t).ch16 die m = false ∨ t < ((c.at t).rqm die m).winAt + bits ((c.at t).reg (rqK die 0x38)) 15 0 * 100) :
    c.windowEnd die m t = c.at t := by
  refine if_neg ?_
  rw [Bool.and_eq_true, Bool.and_eq_true, decide_eq_true_eq]
  rintro ⟨⟨hhas, hch16⟩, hdue⟩
  rcases h with h | h | h
  · exact Bool.false_ne_true (h.symm.trans hhas)
  · exact Bool.false_ne_true (h.symm.trans hch16)
  · exact Nat.not_lt.mpr hdue h

end

/-- Settles O10: each command is its operation in the case at hand, and issuing is read off the counts of the request's master. -/
theorem regulationRequests : Obligations.RegulationRequests := by
  constructor
  · intro s o m stack by' bytes t waited addr wr r c die g q valid waits due counted taken stays
    refine ⟨fun ⟨hhas, haddr, hlow, hhigh⟩ hfirst hmay => ?_, fun ⟨hhas, haddr, hlow, hhigh⟩ hheld => ?_, fun hold hmay => ?_, fun hold hmay => ?_,
      fun hone hothers htdm hmay => ?_, fun hstay => ?_, fun hhas hch16 hdue => ?_, fun h => ?_⟩
    · exact exec_eq_next rfl (newRequest_of_may hhas haddr hlow hhigh hfirst hmay)
    · exact exec_eq_next rfl (newRequest_of_held hhas haddr hlow hhigh hheld)
    · exact exec_eq_next rfl ((issueHeld_of_oldest hold).trans (if_pos hmay))
    · exact exec_eq_next rfl ((issueHeld_of_oldest hold).trans (if_neg (Bool.eq_false_iff.mp hmay)))
    · exact exec_eq_next rfl (tdmSlot_of_single m.isLt hone hothers htdm hmay)
    · exact exec_eq_next rfl (tdmSlot_of_stays hstay)
    · exact exec_eq_next rfl (windowEnd_of_due hhas hch16 hdue)
    · exact exec_eq_next rfl (windowEnd_of_early h)
  · intro c r q x c' y cap
    have hy : y = c.issueCounts r x := issueReq_rqm_same c r
    refine ⟨rfl, rfl, ?_, by rw [hy]; rfl, fun hch16 => ?_, fun hch16 => ?_, rfl, rfl, rfl, rfl⟩
    · rw [hy]
      exact AMap.get_upd_same _ _ _ _
    · rw [hy, Chip.issueCounts, hch16, Bool.true_and]
      exact ⟨rfl, rfl⟩
    · rw [hy, Chip.issueCounts, hch16, Bool.false_and, Bool.or_false]
      exact ⟨rfl, rfl⟩

end Sys2Proof.Machine

/-! SUPPORT and PROOFS. The base die queue and level feedback (R287, R288, R290, R292, R293). -/

namespace Sys2Proof.Machine

section
variable {c d : Chip} {t : Nat}

/-! ## The base die queue -/

/-- A request leaves those on their way to a base die. -/
def Chip.flyingLeft (c : Chip) (r : Req) : Chip := { c with rq := { c.rq with flying := c.rq.flying.erase r } }

/-- A request leaves those on their way back. -/
def Chip.backLeft (c : Chip) (r : Req) : Chip := { c with rq := { c.rq with back := c.rq.back.erase r } }

section
variable {id : Nat} {r : Req} (hfly : (c.at t).rq.flying.find? (fun r => r.id == id) = some r)
include hfly

/-- An arriving request takes an entry at the end of the queue (R287). -/
theorem reqArrives_of_entry {k : Nat} (hentry : ((c.at t).flyingLeft r).entryFor r = some k) :
    c.reqArrives id t = ((c.at t).flyingLeft r).updBase r.stack fun b =>
      { b with q := b.q ++ [{ r with arrived := t, entry := k }], high := max b.high (b.q ++ [{ r with arrived := t, entry := k }]).length } := by
  rw [Chip.flyingLeft] at hentry
  simp only [Chip.reqArrives, Chip.flyingLeft, hfly, hentry]

/-- Without an entry it is refused and counted (R287). -/
theorem reqArrives_of_refused (hentry : ((c.at t).flyingLeft r).entryFor r = none) :
    c.reqArrives id t =
      ({ (c.at t).flyingLeft r with rq := { ((c.at t).flyingLeft r).rq with refused := ((c.at t).flyingLeft r).rq.refused ++ [r] } } : Chip).bump (mbK r.stack 0x888) := by
  rw [Chip.flyingLeft] at hentry
  simp only [Chip.reqArrives, Chip.flyingLeft, hfly, hentry]

end

/-- The request leaves its queue, with its lateness and its age counted (R288). -/
def Chip.picked (c : Chip) (s t : Nat) (r : Req) : Chip :=
  let out := c.updBase s fun b => { b with q := b.q.erase r }
  let c1 := if r.dl ≠ 0 ∧ r.arrived + r.dl * 250 < t then (out.bump (mbK s 0x880)).bump (rqK r.owner 0x78) else out
  if (c.urgent r t).map Prod.snd = some true then c1.bump (mbK s 0x890) else c1

/-- The picked request is served in the cache, and its bytes are charged to its row (R171, R284). -/
def Chip.servedReq (c : Chip) (s t : Nat) (r : Req) : Chip := match r.memRow with
  | some p => ((c.picked s t r).cacheServe r).charged { row := p, mem := r.bytes }
  | none => (c.picked s t r).cacheServe r

/-- A line slot serves the request that the rules pick, and sends it back with the level (R288, R290). -/
theorem queueService_of_picked {s : Nat} {r : Req} (hpick : (c.at t).pickReq s t = some r) :
    c.queueService s t = { (c.at t).servedReq s t r with rq :=
      { ((c.at t).servedReq s t r).rq with back := ((c.at t).servedReq s t r).rq.back ++ [{ r with level := ((c.at t).servedReq s t r).levelOf s }] } } := by
  cases hage : (c.at t).urgent r t with
  | none => cases hrow : r.memRow <;> simp [Chip.queueService, Chip.servedReq, Chip.picked, hpick, hage, hrow]
  | some d => cases hrow : r.memRow <;> simp [Chip.queueService, Chip.servedReq, Chip.picked, hpick, hage, hrow]

/-- Without one the slot passes (log 30). -/
theorem queueService_of_none {s : Nat} (hpick : (c.at t).pickReq s t = none) : c.queueService s t = c.at t := by
  simp only [Chip.queueService, hpick]

section
variable {id : Nat} {r : Req} (hback : (c.at t).rq.back.find? (fun r => r.id == id) = some r)
include hback

/-- A request completes at its master, which keeps its latency and the level (R290, R292). -/
theorem reqComplete_of_up (hup : r.owner < 72 → (c.at t).site.state.get r.owner 1 < 2) :
    c.reqComplete id t = ((((c.at t).backLeft r).updRqm r.owner r.master fun x =>
      { x with out := x.out.upd r.stack 0 (· - 1), lats := ((t - r.issued) :: x.lats).take 16 }).updRqo r.owner fun o => { o with level := o.level.set r.stack r.level }) := by
  simp only [Chip.reqComplete, hback]
  exact if_neg fun ⟨hhall, hfenced⟩ => Nat.not_le.mpr (hup hhall) hfenced

/-- At a fenced hall it is discarded (R351). -/
theorem reqComplete_of_fenced (hhall : r.owner < 72) (hfenced : 2 ≤ (c.at t).site.state.get r.owner 1) : c.reqComplete id t = (c.at t).backLeft r := by
  simp only [Chip.reqComplete, hback]
  exact if_pos ⟨hhall, hfenced⟩

end

/-! ## Levels -/

/-- With FBEN a base die sends its level (R290). -/
theorem levelSend_of_enabled {s : Nat} (hen : (c.at t).fben s = true) :
    c.levelSend s t = (c.at t).updBase s fun b => { b with msgs := b.msgs + 1, lvl := (c.at t).levelOf s } := if_pos hen

/-- Without it sends none (R290). -/
theorem levelSend_of_disabled {s : Nat} (hen : (c.at t).fben s = false) : c.levelSend s t = c.at t := if_neg (Bool.eq_false_iff.mp hen)

/-- A requester takes a stack's last level, and counts the run of messages at most 4 µs apart (R290, R293). -/
def Chip.levelHeard (c : Chip) (die s t : Nat) : Chip := c.updRqo die fun o =>
  { o with
    level := o.level.set s (c.baseQ s).lvl
    at' := o.at'.set s t
    seen := o.seen.set s (c.baseQ s).msgs
    run := o.run.set s (if (c.rqo die).at'.get s 0 + 4000 < t then 1 else (c.rqo die).run.get s 0 + 1)
    cur := o.cur ||| 2 ^ s }

/-- The requests of a requester that a stack has refused go out again (R287). -/
def Chip.resent (c : Chip) (die s : Nat) : Chip :=
  let mine := fun (r : Req) => r.owner == die && r.stack == s
  { c with rq := { c.rq with flying := c.rq.flying ++ c.rq.refused.filter mine, refused := c.rq.refused.filter fun r => !mine r } }

/-- A message that has not been received is taken, and with a level below 7 refused requests go out again (R287, R290). -/
theorem levelReceive_of_new {die s : Nat} (hnew : ((c.at t).baseQ s).msgs ≠ ((c.at t).rqo die).seen.get s 0) :
    c.levelReceive die s t =
      if ((c.at t).baseQ s).lvl < 7 then ((c.at t).levelHeard die s t).resent die s else (c.at t).levelHeard die s t := if_neg hnew

/-- 4 µs without a level, or FBEN = 0, set TDM for the stack (R293). -/
theorem fbLost_of_due {die s : Nat} (htdm : bit ((c.at t).rqo die).tdm s = false) (hdue : ((c.at t).rqo die).at'.get s 0 + 4000 ≤ t ∨ (c.at t).fben s = false) :
    c.fbLost die s t = (((c.at t).updRqo die fun o => { o with tdm := o.tdm + 2 ^ s, cur := o.cur - (o.cur &&& 2 ^ s), run := o.run.set s 0 }).bump (rqK die 0x88)).post
      .REG_FB_LOST (rqUnit die) none s := by
  refine if_pos ?_
  rw [htdm, Bool.not_false, Bool.true_and, Bool.or_eq_true, decide_eq_true_eq, Bool.not_eq_true']
  exact hdue

/-- 8 messages in a row clear it (R293). -/
theorem fbRestored_of_run {die s : Nat} (htdm : bit (c.rqo die).tdm s = true) (hrun : 8 ≤ (c.rqo die).run.get s 0) :
    c.fbRestored die s = ((c.updRqo die fun o => { o with tdm := o.tdm - 2 ^ s }).bump (rqK die 0x88)).post .REG_FB_RESTORED (rqUnit die) none s :=
  if_pos (by rw [htdm, decide_eq_true hrun]; rfl)

end

/-! ## The statements -/

/-- Settles O11: arrival, service and completion are each the branch of their case. -/
theorem baseDieQueue : Obligations.BaseDieQueue := by
  intro s id t k m r c gone back late aged out c1 c2 c3 served
  refine ⟨fun hfly hentry => ?_, fun hfly hentry => ?_, fun hpick => ?_, fun hpick => ?_, fun hback hup => ?_, fun hback hhall hfenced => ?_⟩
  · exact exec_eq_next rfl (reqArrives_of_entry hfly hentry)
  · exact exec_eq_next rfl (reqArrives_of_refused hfly hentry)
  · exact exec_eq_next rfl (queueService_of_picked hpick)
  · exact exec_eq_next rfl (queueService_of_none hpick)
  · exact exec_eq_next rfl (reqComplete_of_up hback hup)
  · exact exec_eq_next rfl (reqComplete_of_fenced hback hhall hfenced)

/-- Settles O54: each message, loss and restoration is its operation in the case at hand. -/
theorem levelFeedback : Obligations.LevelFeedback := by
  intro s o m t c die b q run heard mine q0
  refine ⟨fun hen => ?_, fun hen => ?_, fun hnew hfull => ?_, fun hnew hroom => ?_, fun htdm hdue => ?_, fun htdm hrun => ?_⟩
  · exact exec_eq_next rfl (levelSend_of_enabled hen)
  · exact exec_eq_next rfl (levelSend_of_disabled hen)
  · exact exec_eq_next rfl ((levelReceive_of_new hnew).trans (if_neg (Nat.not_lt.mpr hfull)))
  · exact exec_eq_next rfl ((levelReceive_of_new hnew).trans (if_pos hroom))
  · exact exec_eq_next rfl (fbLost_of_due htdm hdue)
  · exact exec_eq_next rfl (fbRestored_of_run htdm hrun)

end Sys2Proof.Machine

/-! SUPPORT and PROOFS. Partitions: CREATE, RESTART, STOP, and partition reset (R271, R281, R285). -/

namespace Sys2Proof.Machine

section
variable {c : Chip} {p : Nat}

/-! ## CREATE -/

/-- The block once the DCU has read the descriptor of a CREATE, and met the errors of the words it reads (R162, R271). -/
def Chip.draftSeen (c : Chip) (p : Nat) : Chip := c.senseDraft (bits (c.reg (dcuK (0x1000 + p * 0x20))) 47 9 * 512) 0

/-- The descriptor of a CREATE (R271). -/
def Chip.createDraft (c : Chip) (p : Nat) : Draft := (c.draftSeen p).readDraft p (bits (c.reg (dcuK (0x1000 + p * 0x20))) 47 9 * 512) 0

/-- The first check of a CREATE that fails, 0 where all pass (R271). -/
def Chip.createCode (c : Chip) (p : Nat) : Nat := (c.draftSeen p).createCheck p (c.createDraft p) (c.draftSeen p).checkedMode false

/-- The partition is recorded with its contexts to be started, and cleared (R271). -/
def Chip.created (c : Chip) (p : Nat) (q : Part) (boot : Bool) : Chip := ({ c with parts := c.parts.set p { q with starting := true, atBoot := boot } } : Chip).clearPart p

/-- Its stables are powered, its sections loaded, its Search Units assigned, and its counters zeroed (R69, R220, R271, R386). -/
def Chip.supplied (c : Chip) (p : Nat) (q : Part) : Chip :=
  let up := (c.domainsOn ((stableList q.stables).filterMap c.keyOf)).1
  let loaded := (up.loadSects ((up.sectsOf p).filter fun x => !x.inDram)).suTake p q.suhalls
  [0, 8, 0x10, 0x18, 0x20].foldl (fun c o => c.setReg (dcuK (0x2000 + p * 0x40 + o)) 0) loaded

/-- A descriptor is rejected with the code of its first failing check, or made a partition (R271). -/
theorem createNow_eq (c : Chip) (p : Nat) (boot : Bool) :
    c.createNow p boot =
      if c.createCode p ≠ 0 then ((c.draftSeen p).updPart p fun q => { q with state := 0, rej := c.createCode p }).post .PART_REJECT dcuUnit (some p) (c.createCode p)
      else ((c.draftSeen p).created p (c.createDraft p).part boot).supplied p (c.createDraft p).part := by
  simp only [Chip.createNow, Chip.createCode, Chip.createDraft, Chip.draftSeen, Chip.created, Chip.supplied] <;> rfl

/-- CREATE acts on a FREE partition (R285). -/
theorem partCreate_of_free (hfree : (c.part p).state = 0) : c.partCreate p = c.createNow p (!c.time.running) := if_pos hfree

/-- Any other is counted (R285). -/
theorem partCreate_of_held (hheld : (c.part p).state ≠ 0) : c.partCreate p = c.countErr dcuErr := if_neg hheld

/-! ## RESTART and STOP -/

/-- RESTART of a running partition makes its reset due with class 0 (R285). -/
theorem partRestart_of_running (hrun : (c.part p).state = 2) : c.partRestart p = c.dueResetAt p 0 dcuUnit 0 := if_pos hrun

/-- Any other is counted (R285). -/
theorem partRestart_of_other (hrun : (c.part p).state ≠ 2) : c.partRestart p = c.countErr dcuErr := if_neg hrun

/-- STOP of a partition that has no function is that of its own state (R285, R356). -/
theorem partStopAll_of_no_function (hfunc : 16 ≤ (c.part p).func) : c.partStopAll p = c.partStop p := by
  have hnone : ¬ (((c.part p).state = 2 ∨ (c.part p).state = 5) ∧ (c.part p).func < 16) := fun h => Nat.not_lt.mpr hfunc h.2
  rw [Chip.partStopAll, if_neg hnone]

/-- STOP of a partition that neither runs nor has failed finds no function to end (R285). -/
theorem partStopAll_of_idle (hrun : (c.part p).state ≠ 2) (hfail : (c.part p).state ≠ 5) : c.partStopAll p = c.countErr dcuErr := by
  have hidle : ¬ ((c.part p).state = 2 ∨ (c.part p).state = 5) := not_or.mpr ⟨hrun, hfail⟩
  rw [Chip.partStopAll, if_neg fun h => hidle h.1]
  exact if_neg hidle

/-- A stopped partition: its contexts stopped and forgotten, its retiring scenes ended, its Search Units released (R203, R220, R285). -/
def Chip.stoppedPart (c : Chip) (p : Nat) : Chip := (((c.stopPart p).scenesDone p).dropCtxs p).suRelease p fun _ => false

/-- Its own queue and queue 0 are told, and only its counts stay (R285). -/
def Chip.partEnded (c : Chip) (p : Nat) (q : Part) : Chip :=
  let r := c.mkEv .PART_STOPPED dcuUnit [(0x10, 1, p)]
  let c := (c.postTo q.evq r).postTo 0 r
  { c with parts := c.parts.set p { resets := q.resets, lastCls := q.lastCls, pfault := q.pfault, rej := q.rej }, log := { c.log with noQueue := c.log.noQueue || bits (c.reg (dcuK 0x8000)) 5 0 == q.evq } }

/-- STOP of a running or failed partition (R285). -/
theorem partStop_of_held (h : (c.part p).state = 2 ∨ (c.part p).state = 5) :
    c.partStop p = ((c.stoppedPart p).partEnded p (c.part p)).domainsOff ((stableList (c.part p).stables).filterMap c.keyOf) := if_pos h

end

/-- Settles O34: each command is its operation by the partition's state. -/
theorem partitionCommands : Obligations.PartitionCommands := by
  intro s p q base n d rej made up loaded zeroed keys stopped rec' told ended
  refine ⟨fun hfree hrej => ?_, fun hfree hrej => ?_, fun hheld => ?_, fun hrun => ?_, fun hrun => ?_, fun hstate hfunc => ?_, fun hrun hfail => ?_⟩
  · exact exec_eq_next rfl ((partCreate_of_free hfree).trans ((createNow_eq _ _ _).trans (if_pos hrej)))
  · exact exec_eq_next rfl ((partCreate_of_free hfree).trans ((createNow_eq _ _ _).trans (if_neg (not_not.mpr hrej))))
  · exact exec_eq_next rfl (partCreate_of_held hheld)
  · exact exec_eq_next rfl (partRestart_of_running hrun)
  · exact exec_eq_next rfl (partRestart_of_other hrun)
  · exact exec_eq_next rfl ((partStopAll_of_no_function hfunc).trans (partStop_of_held hstate))
  · exact exec_eq_next rfl (partStopAll_of_idle hrun hfail)

section
variable {c : Chip} {p : Nat}

/-! ## A reset becomes due -/

/-- The record of the fault and the class of the reset that is due (R281). -/
def Chip.dueKept (c : Chip) (p cls log : Nat) (o : Option Nat) : Chip :=
  c.updPart p fun q => { q with pfault := cls % 256 + log % 1024 * 256 + (c.time.now / 1000 % 2 ^ 32) * 2 ^ 32, resetDue := o }

/-- A partition's update depends on what it makes of the partition alone. -/
theorem updPart_congr {f g : Part → Part} (h : f (c.part p) = g (c.part p)) : c.updPart p f = c.updPart p g := by
  rw [Chip.part] at h
  rw [Chip.updPart, Chip.updPart, AMap.upd, AMap.upd, h]

variable {cls unit log : Nat}

/-- A running or resetting partition takes the class of its first cause, and every cause writes PART_FAULT (R45, R281). -/
theorem dueResetAt_of_running (h : ((c.stopPart p).part p).state = 2 ∨ ((c.stopPart p).part p).state = 3) :
    c.dueResetAt p cls unit log = ((c.stopPart p).dueKept p cls log (some (((c.stopPart p).part p).resetDue.getD cls))).post .PART_FAULT unit (some p) := by
  rw [Chip.dueResetAt, if_pos h]
  exact congrArg (fun d : Chip => d.post .PART_FAULT unit (some p)) (updPart_congr (by rw [if_pos h]))

/-- In any other state the fault is recorded alone (R281). -/
theorem dueResetAt_of_other (hrun : ((c.stopPart p).part p).state ≠ 2) (hreset : ((c.stopPart p).part p).state ≠ 3) :
    c.dueResetAt p cls unit log = (c.stopPart p).dueKept p cls log ((c.stopPart p).part p).resetDue := by
  have h : ¬ (((c.stopPart p).part p).state = 2 ∨ ((c.stopPart p).part p).state = 3) := not_or.mpr ⟨hrun, hreset⟩
  rw [Chip.dueResetAt, if_neg h]
  exact updPart_congr (by rw [if_neg h])

/-! ## The reset -/

/-- Without a cause nothing is reset (log 30). -/
theorem partReset_of_none (hdue : (c.part p).resetDue = none) : c.partReset p = c := by
  simp only [Chip.partReset, hdue]

/-- The variants of the partition's descriptor with the code of each, once its state is cleared (R281). -/
def Chip.resetVariants (c : Chip) (p cls : Nat) : List (Draft × Nat) := (c.resetClear p cls).variants p (c.part p).descAddr 8 0

/-- The block once the DCU has read those variants (R162, R281). -/
def Chip.variantsSeen (c : Chip) (p cls : Nat) : Chip :=
  (List.range (c.resetVariants p cls).length).foldl (fun d v => d.senseDraft (c.part p).descAddr v) (c.resetClear p cls)

section
variable (hdue : (c.part p).resetDue = some cls) (hstate : (c.part p).state = 2 ∨ (c.part p).state = 3)
include hdue hstate

/-- No variant passes: the partition fails with the code of the last (R281, log 60). -/
theorem partReset_of_no_variant (hnone : (c.resetVariants p cls).find? (fun v => v.2 == 0) = none) :
    c.partReset p = ((c.variantsSeen p cls).updPart p fun q => { q with rej := ((c.resetVariants p cls).getLast?.map Prod.snd).getD 1 }).partFail p := by
  rw [Chip.resetVariants] at hnone
  simp only [Chip.partReset, hdue, hstate, not_true_eq_false, if_false, hnone] <;> rfl

/-- The first variant that passes is taken, but for the fourth reset within 1,000 frames (R281). -/
theorem partReset_of_variant {v : Draft × Nat} (hsome : (c.resetVariants p cls).find? (fun v => v.2 == 0) = some v) :
    c.partReset p =
      if (c.part p).state = 2 ∧ fourResets (c.part p).resetFrames (c.variantsSeen p cls).curFrame then (c.variantsSeen p cls).partFail p
      else (c.variantsSeen p cls).resetInto p v.1.part ((stableList (c.part p).stables).filterMap c.keyOf) := by
  rw [Chip.resetVariants] at hsome
  simp only [Chip.partReset, hdue, hstate, not_true_eq_false, if_false, hsome] <;> rfl

end

/-! ## The end of the reload -/

/-- The sections of a partition that a reset renews (R281). -/
def Chip.renewedSects (c : Chip) (p : Nat) : List Sect :=
  (c.sectsOf p).filter fun s => s.typ == 3 || s.typ == 4 || s.typ == 6 || c.sectIn s (c.part p).fresh

/-- The jobs that a partition's checked stables cannot carry (R281). -/
def Chip.refusedAfter (c : Chip) (q : Part) : List Nat := refusedJobs q (c.checkedOf c.checkedMode q.stables).length

/-- The contexts are dropped and are to be started, but for the refused jobs (R281). -/
def Chip.renewedPart (c : Chip) (p : Nat) (refused : List Nat) : Chip :=
  (c.dropCtxs p).updPart p fun q => { q with reloading := false, starting := true, refused := refused, fresh := [] }

/-- The reload ends (R281). -/
theorem reloadDone_of_reloading (hstate : (c.part p).state = 3) (hload : (c.part p).reloading = true) (hdue : (c.part p).resetDue = none) :
    c.reloadDone p =
      ((c.loadSects (c.renewedSects p)).refusedAfter (c.part p)).foldl (fun d j => d.post .JOB_REFUSED dcuUnit (some p) j)
        ((c.loadSects (c.renewedSects p)).renewedPart p ((c.loadSects (c.renewedSects p)).refusedAfter (c.part p))) :=
  if_pos ⟨hstate, hload, hdue⟩

end

/-- Settles O35: a cause is recorded by the partition's state, a due reset takes its variant, and the reload ends once. -/
theorem resetsOfPartitions : Obligations.ResetsOfPartitions := by
  constructor
  · intro c p cls unit log st q word due told
    refine ⟨fun hstate hdue => ?_, fun old hstate hdue => ?_, fun hrun hreset => dueResetAt_of_other hrun hreset⟩
    · have hclass : q.resetDue.getD cls = cls := by rw [hdue, Option.getD_none]
      rw [dueResetAt_of_running hstate, hclass]
      rfl
    · have hclass : q.resetDue.getD cls = old := by rw [hdue, Option.getD_some]
      rw [dueResetAt_of_running hstate, hclass]
      rfl
  · intro s p cls v q keys cleared vs c go again l refused renewed
    refine ⟨fun hdue => ?_, fun ⟨hdue, hstate⟩ hnone => ?_, fun ⟨hdue, hstate⟩ hsome hrun hfour => ?_, fun ⟨hdue, hstate⟩ hsome hgo => ?_, fun hstate hload hdue => ?_⟩
    · exact exec_eq_next (d := s.toChip) rfl (partReset_of_none hdue)
    · exact exec_eq_next rfl (partReset_of_no_variant hdue hstate hnone)
    · exact exec_eq_next rfl ((partReset_of_variant hdue hstate hsome).trans (if_pos ⟨hrun, hfour⟩))
    · refine exec_eq_next rfl ((partReset_of_variant hdue hstate hsome).trans (if_neg fun ⟨hrun, hfour⟩ => ?_))
      rcases hgo with hreset | hfew
      · exact absurd (hreset.symm.trans hrun) (by decide)
      · exact Bool.false_ne_true (hfew.symm.trans hfour)
    · exact exec_eq_next rfl (reloadDone_of_reloading hstate hload hdue)

end Sys2Proof.Machine

/-! SUPPORT and PROOFS. Saves, restores, budgets, the preparation of a site, and accounting (R274, R277, R279, R282, R283). -/

namespace Sys2Proof.Machine

section
variable {c : Chip} {k : Nat}

/-! ## Saves, restores and budgets -/

section
variable (hbound : ∀ b, (c.ctx k).blk = some b → b.state ≠ 3 ∧ b.state ≠ 6) (hidle : (c.hallPwr (k / 8)).idle = false) (dur : Nat)
include hbound hidle

/-- A save that the scheduler wants ends outside COMPARE and COMMITTING (R254, R276, R279). -/
theorem saveDone_of_wanted {key : Nat × Nat} {x : Ctx} {rest : List Nat} (hchosen : c.chosen (k / 2) = some (key, x, rest)) (hk : k ∈ rest) :
    c.saveDone k dur = c.saveSlot k dur false := by
  cases hblk : (c.ctx k).blk with
  | none => simp [Chip.saveDone, hchosen, hk, hblk, hidle]
  | some b => simp [Chip.saveDone, hchosen, hk, hblk, hidle, hbound b hblk]

/-- So does a requested one (R278). -/
theorem saveDone_of_requested (hsaving : (c.ctx k).saving.isSome = true) : c.saveDone k dur = c.saveSlot k dur false := by
  cases hblk : (c.ctx k).blk with
  | none => simp [Chip.saveDone, hsaving, hblk, hidle]
  | some b => simp [Chip.saveDone, hsaving, hblk, hidle, hbound b hblk]

end

/-- The scheduler's choice that needs no save goes into the slot (R276, R277). -/
theorem restoreDone_of_chosen {key : Nat × Nat} {x : Ctx} (hchosen : c.chosen (k / 2) = some (key, x, [])) (hfree : k ∉ c.residents (k / 2))
    (hidle : (c.hallPwr (k / 8)).idle = false) : c.restoreDone k = c.putIn k key x := by
  simp [Chip.restoreDone, hchosen, hfree, hidle]

section
variable {x : Ctx} {n : Nat} (hx : c.ctx? k = some x) (hrun : x.state = 2)
include hx hrun

/-- Running cycles past CYCLES raise BUDGET (R274). -/
theorem budgetExceeded_of_past (hpast : (c.descOf x).cycles < n) :
    c.budgetExceeded k n = (c.updCtx k fun x => { x with budget := n }).takeFault k { cls := BUDGET } := by
  simp [Chip.budgetExceeded, hx, hrun, hpast]

/-- Up to it they are kept (R274). -/
theorem budgetExceeded_of_within (hwithin : n ≤ (c.descOf x).cycles) (hbudget : x.budget ≤ n) :
    c.budgetExceeded k n = c.updCtx k fun x => { x with budget := n } := by
  simp [Chip.budgetExceeded, hx, hrun, Nat.not_lt.mpr hwithin, hbudget]

end

/-! ## The preparation of a site -/

/-- A preparation starts for a spare or fenced site while none runs (R282, R353). -/
theorem sparePrepare_of_idle {site : Nat} (hidle : c.spare.state ≠ 1) (hsite : c.site.state.get site 1 = 1 ∨ c.site.state.get site 1 = 3) :
    c.sparePrepare site = { c with spare := { c.spare with site := site, state := 1, ready := c.spare.ready.filter (· ≠ site) } } :=
  if_neg (not_or.mpr ⟨hidle, not_not.mpr hsite⟩)

/-- Where none runs, none ends (log 30). -/
theorem spareDone_of_idle (hidle : c.spare.state ≠ 1) (ok : Bool) (bars : List (Nat × Nat)) (bad : List (Nat × Nat × Nat)) : c.spareDone ok bars bad = c :=
  if_pos hidle

/-- The ports of the site that is prepared that do not run though their peer could (R282). -/
def Chip.spareDown (c : Chip) : List Nat := (portsOf c.spare.site).filter fun p => (c.port c.spare.site p).state != 2 && c.peerAlive c.spare.site p

/-- The prepared site is cleared, takes its personalities and service, and its stables whose injection failed are barred (R267, R282). -/
def Chip.siteReadied (c : Chip) (x : Nat) (bars : List (Nat × Nat)) : Chip :=
  bars.foldl (fun c b => c.injectionDone (4 * x + b.1 % 4) (some b.2)) (((c.clearSite x).setPers c.boot.image x).takeService x (c.siteRec x))

/-- It is a spare that is READY, with SPARE_READY (R282). -/
def Chip.spareReady (c : Chip) (x : Nat) : Chip :=
  ({ c with site := { c.site with state := c.site.state.set x 1 }, spare := { c.spare with state := 2, ready := c.spare.ready ++ [x] } } : Chip).post .SPARE_READY dcuUnit none x

section
variable (hrun : c.spare.state = 1) (bars : List (Nat × Nat)) (bad : List (Nat × Nat × Nat))
include hrun

/-- A preparation that succeeds with every link running readies the site (R282). -/
theorem spareDone_of_ok (hdown : c.spareDown = []) :
    c.spareDone true bars bad =
      if c.site.state.get c.spare.site 1 = 1 then (c.siteReadied c.spare.site bars).spareReady c.spare.site
      else ((c.siteReadied c.spare.site bars).spareReady c.spare.site).countsChanged := by
  rw [Chip.spareDown] at hdown
  simp only [Chip.spareDone, hrun, hdown, ne_eq, not_true_eq_false, if_false, if_true, List.foldl_nil, List.isEmpty_nil] <;> rfl

/-- One that fails leaves the site unusable, with its ports down (R282). -/
theorem spareDone_of_failed :
    c.spareDone false bars bad =
      (({ c with site := { c.site with state := c.site.state.set c.spare.site 2 }, spare := { c.spare with state := 3 } } : Chip).siteDark c.spare.site).countsChanged :=
  (if_neg (not_not.mpr hrun)).trans (if_neg Bool.false_ne_true)

end

end

/-- Settles O9: each command is its operation in the case at hand. -/
theorem switchesAndSpares : Obligations.SwitchesAndSpares := by
  constructor
  · intro s r dur n x key rest e k stb out counted saved idle boundary
    refine ⟨fun hchosen hk hbound hidle => ?_, fun hsaving hbound hidle => ?_, fun hchosen hfree hidle => ?_, fun hx hrun hpast => ?_, fun hx hrun hwithin hbudget => ?_⟩
    · exact exec_eq_next rfl (saveDone_of_wanted hbound hidle dur hchosen hk)
    · exact exec_eq_next rfl (saveDone_of_requested hbound hidle dur hsaving)
    · exact exec_eq_next rfl (restoreDone_of_chosen hchosen hfree hidle)
    · exact exec_eq_next rfl (budgetExceeded_of_past hx hrun hpast)
    · exact exec_eq_next rfl (budgetExceeded_of_within hx hrun hwithin hbudget)
  · intro s site bars bad t uj c paid total x was state down clean served barred ready
    refine ⟨fun hidle hsite => ?_, fun hrun hdown hwas => ?_, fun hrun hdown hwas => ?_, fun hrun => ?_, fun hidle ok => ?_, rfl⟩
    · exact exec_eq_next rfl (sparePrepare_of_idle hidle hsite)
    · exact exec_eq_next rfl ((spareDone_of_ok hrun _ bad hdown).trans (if_pos hwas))
    · exact exec_eq_next rfl ((spareDone_of_ok hrun _ bad hdown).trans (if_neg hwas))
    · exact exec_eq_next rfl (spareDone_of_failed hrun _ bad)
    · exact exec_eq_next (d := s.toChip) rfl (spareDone_of_idle hidle ok _ bad)

end Sys2Proof.Machine

/-! SUPPORT and PROOFS. Event queues (R427, R429). -/

namespace Sys2Proof.Machine

section
variable {c : Chip}

/-! ## Writes of a queue's registers -/

/-- A whole write of a DCU register that is RW and no mirror is the DCU's write of its value. -/
theorem regWrite_of_dcu_rw {off v : Nat} {row : RegRow} (hk : c.unmirror (dcuK off) = dcuK off) (hoff : off % 8 = 0)
    (hrow : dcuRow off = some row) (hrw : row.acc = .rw) (hv : v < 2 ^ 64) (hok : row.ok v = true) (m : Master) :
    c.regWrite m (dcuK off) 8 v = c.writeDcu m off row.mask v := by
  have hwhole : (dcuK off).whole = dcuK off := by rw [RegKey.whole, dcuK, Nat.div_mul_cancel (Nat.dvd_of_mod_eq_zero hoff)]
  have hrow' : regRow (dcuK off) = some row := hrow
  have hsize : sizeBad (dcuK off).off 8 = false := by
    have h8 : (dcuK off).off % 8 = 0 := hoff
    simp [sizeBad, h8]
  have hgood : regBad (dcuK off) 8 = false := by rw [regBad, hwhole, hrow', hsize]; rfl
  have hblk : (dcuK off).blk = .dcu := rfl
  have hsettle : c.settleFor (dcuK off) = c := rfl
  have hmod : v % 2 ^ 64 = v := Nat.mod_eq_of_lt hv
  simp only [Chip.regWrite, hsettle, hk, hgood, hwhole, hrow', hrw, hblk, hok, hmod, if_pos, if_false, Bool.false_eq_true, Bool.not_true]
  rfl

/-- The register at offset `o` of a queue. -/
theorem evqK_eq (q o : Nat) : evqK q o = dcuK (0x9000 + q * 0x40 + o) := rfl

section
variable {q o : Nat} (hq : q < 64) (ho : o < 0x40)
include hq ho

/-- A queue's registers are no mirrors. -/
theorem unmirror_evqK : c.unmirror (evqK q o) = evqK q o := by
  have hlow : ¬ 0xA000 ≤ 0x9000 + q * 0x40 + o := by omega
  simp [Chip.unmirror, evqK, dcuK, hlow]

/-- The row of a queue's register. -/
theorem dcuRow_evq : dcuRow (0x9000 + q * 0x40 + o) = findRow (evqRows (0x9000 + q * 0x40 + o < 0x9040)) o := by
  have hcfg : within 0x5000 0x505F (0x9000 + q * 0x40 + o) = false := by
    simp only [within, Bool.and_eq_false_iff, decide_eq_false_iff_not]; omega
  have hevq : within 0x9000 0x9FFF (0x9000 + q * 0x40 + o) = true := by
    simp only [within, Bool.and_eq_true, decide_eq_true_eq]; omega
  have hmod : (0x9000 + q * 0x40 + o - 0x9000) % 0x40 = o := by omega
  rw [dcuRow, hcfg, hevq, hmod]
  rfl

/-- The DCU's write of a queue's register is the queue's. -/
theorem writeDcu_evq (m : Master) (mask v : Nat) : c.writeDcu m (0x9000 + q * 0x40 + o) mask v = c.evqRegWrite m q o mask v := by
  have hcfg : within 0x5000 0x505F (0x9000 + q * 0x40 + o) = false := by
    simp only [within, Bool.and_eq_false_iff, decide_eq_false_iff_not]; omega
  have hevq : within 0x9000 0x9FFF (0x9000 + q * 0x40 + o) = true := by
    simp only [within, Bool.and_eq_true, decide_eq_true_eq]; omega
  have hmod : (0x9000 + q * 0x40 + o) % 0x40 = o := by omega
  have hdiv : (0x9000 + q * 0x40 + o - 0x9000) / 0x40 = q := by omega
  unfold Chip.writeDcu
  rw [hcfg, hevq, hmod, hdiv]
  rfl

/-- A whole write of a queue's RW register (R427-R429). -/
theorem regWrite_of_evq {row : RegRow} (hoff : o % 8 = 0) (hrow : findRow (evqRows (0x9000 + q * 0x40 + o < 0x9040)) o = some row) (hrw : row.acc = .rw) {v : Nat}
    (hv : v < 2 ^ 64) (hok : row.ok v = true) (m : Master) : c.regWrite m (evqK q o) 8 v = c.evqRegWrite m q o row.mask v := by
  rw [evqK_eq, regWrite_of_dcu_rw (unmirror_evqK hq ho) (by omega) ((dcuRow_evq hq ho).trans hrow) hrw hv hok, writeDcu_evq hq ho]

end

/-! ## The queues themselves -/

/-- A master that may not write a queue's registers is counted (R429). -/
theorem evqRegWrite_of_not_may {m : Master} {q off mask v : Nat} (h : c.evqMay m q = false) : c.evqRegWrite m q off mask v = c.countErr (evqK q off) := by
  simp [Chip.evqRegWrite, h]

/-- The configuration register of a queue (R429). -/
theorem evqRegWrite_cfg {m : Master} {q mask v : Nat} (h : c.evqMay m q = true) : c.evqRegWrite m q 8 mask v = c.evqCfg q v := by
  simp [Chip.evqRegWrite, h]

/-- The consumer index of a queue (R427). -/
theorem evqRegWrite_cidx {m : Master} {q mask v : Nat} (h : c.evqMay m q = true) (hv : v < 2 ^ 32) : c.evqRegWrite m q 0x20 mask v = c.evqCidx q v := by
  have hmod : v % 2 ^ 32 = v := Nat.mod_eq_of_lt hv
  simp only [Chip.evqRegWrite, h, hmod, Bool.not_true, Bool.false_eq_true, if_false, if_true, Nat.reduceEqDiff]

/-- The oldest record on its way to a queue is written or refused (R427). -/
theorem evqWrite_of_outbox {q : Nat} {r : Nat × EvtRec} (h : c.log.outbox.find? (fun r => r.1 == q) = some r) :
    c.evqWrite q = ({ c with log := { c.log with outbox := c.log.outbox.erase r } } : Chip).evqRecord q r.2 := by
  simp only [Chip.evqWrite, h]

/-- Setting bit 8 keeps a number of 64 bits one. -/
theorem setBits_bit8_lt (w : W64) : setBits w.toNat 8 8 1 < 2 ^ 64 := by
  have hw : w.toNat < 2 ^ 64 := w.isLt
  simp only [setBits, bits, Nat.shiftRight_eq_div_pow, Nat.shiftLeft_eq]
  omega

section
variable {m : Master} {q : Fin 64}

/-- A whole write of a queue's configuration with EN set (R429). -/
theorem regWrite_evqCfg (w : W64) : c.regWrite m (evqK q.val 8) 8 (setBits w.toNat 8 8 1) = 
      c.evqRegWrite m q.val 8 (maskOf 4 0 + maskOf 8 8 + (if decide (0x9000 + q.val * 0x40 + 8 < 0x9040) then maskOf 15 12 else 0) + maskOf 55 16) (setBits w.toNat 8 8 1) := by
  have hrow : ∀ b, findRow (evqRows b) 8 = some { off := 0x08, acc := .rw, mask := maskOf 4 0 + maskOf 8 8 + (if b then maskOf 15 12 else 0) + maskOf 55 16 } := fun b => by
    cases b <;> rfl
  exact regWrite_of_evq q.isLt (by decide) (by decide) (hrow _) rfl (setBits_bit8_lt w) rfl m

/-- A whole write of a queue's consumer index (R427). -/
theorem regWrite_evqCidx (v : BitVec 32) : c.regWrite m (evqK q.val 0x20) 8 v.toNat = c.evqRegWrite m q.val 0x20 (maskOf 31 0) v.toNat := by
  have hrow : ∀ b, findRow (evqRows b) 0x20 = some { off := 0x20, acc := .rw, mask := maskOf 31 0 } := fun b => by cases b <;> rfl
  exact regWrite_of_evq q.isLt (by decide) (by decide) (hrow _) rfl (lt_trans v.isLt (by decide)) rfl m

/-- How far a write moves the consumer index. -/
def Chip.evqMoved (c : Chip) (q v : Nat) : Nat := (v + 2 ^ 32 - (c.evqIdx q).2) % 2 ^ 32

/-- The consumer index has moved, and the records it passed are free. -/
def Chip.evqFreed (c : Chip) (q v : Nat) : Chip :=
  { c with log := { c.log with
    cidx := c.log.cidx.set q v, raised := c.log.raised.filter (· ≠ q), times := c.log.times.set q ((c.log.times.get q []).drop (c.evqMoved q v)) } }

/-- The consumer index moves forwards, at most to the producer's, and frees the records it passes (R427). -/
theorem evqCidx_of_moved {v : BitVec 32} (hmay : c.evqMay m q.val = true) (hmoved : c.evqMoved q.val v.toNat ≤ c.evqUsed q.val)
    (hoff : bit ((c.evqFreed q.val v.toNat).reg (evqK q.val 8)) 8 = false) : c.regWrite m (evqK q.val 0x20) 8 v.toNat = c.evqFreed q.val v.toNat := by
  have hmod : v.toNat % 2 ^ 32 = v.toNat := Nat.mod_eq_of_lt v.isLt
  rw [regWrite_evqCidx, evqRegWrite_cidx hmay v.isLt]
  simp only [Chip.evqCidx, hmod]
  exact (if_neg (not_lt.mpr hmoved)).trans (if_neg (Bool.eq_false_iff.mp hoff))

/-- Any other value is counted (R427). -/
theorem evqCidx_of_past {v : BitVec 32} (hmay : c.evqMay m q.val = true) (hpast : c.evqUsed q.val < c.evqMoved q.val v.toNat) :
    c.regWrite m (evqK q.val 0x20) 8 v.toNat = c.countErr (evqK q.val 0x20) := by
  have hmod : v.toNat % 2 ^ 32 = v.toNat := Nat.mod_eq_of_lt v.isLt
  rw [regWrite_evqCidx, evqRegWrite_cidx hmay v.isLt]
  simp only [Chip.evqCidx, hmod]
  exact if_pos hpast

/-- The timer of an enabled queue raises its interrupt (R429). -/
theorem evqTimer_of_due {q t o : Nat} {l : List Nat} (htimes : (c.at t).log.times.get q [] = o :: l) (hen : bit ((c.at t).reg (evqK q 8)) 8 = true)
    (hdue : o + bits ((c.at t).reg (evqK q 8)) 47 32 * 1000 ≤ (c.at t).time.now) : c.evqTimer q t = (c.at t).evqRaise q := by
  simp only [Chip.evqTimer]
  rw [htimes]
  exact if_pos ⟨hen, hdue⟩

/-- Enabling a queue of 16 to 65,536 records with a threshold zeroes its indices (R429). -/
theorem evqCfg_of_enabled {q v cfg : Nat} (hcfg : Nat.land v (evqMask q) = cfg) (hen : bit cfg 8 = true)
    (hsame : bit (c.reg (evqK q 8)) 8 = true → bits cfg 4 0 = bits (c.reg (evqK q 8)) 4 0)
    (hsize4 : 4 ≤ bits cfg 4 0) (hsize16 : bits cfg 4 0 ≤ 16) (hthresh : bits cfg 31 16 ≠ 0) :
    c.evqCfg q v = let d := c.setReg (evqK q 8) cfg
      { d with log := { d.log with pidx := d.log.pidx.set q 0, cidx := d.log.cidx.set q 0, times := d.log.times.set q [], raised := d.log.raised.filter (· ≠ q) } } := by
  have hsize : within 4 16 (bits cfg 4 0) = true := by rw [within, decide_eq_true hsize4, decide_eq_true hsize16]; rfl
  simp only [Chip.evqCfg, hcfg]
  rw [if_neg, if_pos hen]
  rintro (⟨hold, hne⟩ | ⟨-, hbad⟩)
  · exact hne (hsame hold)
  · rw [hsize, bne_iff_ne.mpr hthresh] at hbad
    exact absurd hbad (by decide)

end

end

/-- Settles O4: each command is its operation in the case at hand. -/
theorem eventQueues : Obligations.EventQueues := by
  intro s m q r v w t o l moved freed c due cfg old set
  refine ⟨fun hbox => ?_, fun hmay hmoved hoff => ?_, fun hmay hpast => ?_, fun htimes hen hdue => ?_, fun hmay hen hsame h4 h16 hthresh => ?_, fun hmay => ?_⟩
  · exact exec_eq_next rfl (evqWrite_of_outbox hbox)
  · exact exec_eq_next rfl (evqCidx_of_moved hmay hmoved hoff)
  · exact exec_eq_next rfl (evqCidx_of_past hmay hpast)
  · exact exec_eq_next rfl (evqTimer_of_due htimes hen hdue)
  · exact exec_eq_next rfl ((regWrite_evqCfg w).trans ((evqRegWrite_cfg hmay).trans (evqCfg_of_enabled rfl hen hsame h4 h16 hthresh)))
  · exact exec_eq_next rfl ((regWrite_evqCfg w).trans (evqRegWrite_of_not_may hmay))

end Sys2Proof.Machine

/-! SUPPORT and PROOFS. Supplies and board inputs (R323, R418, R433, R438, R443). -/

namespace Sys2Proof.Machine

section
variable {c : Chip} {t : Nat}

/-! ## SMBus -/

/-- Only a register window names a DCU register: no fenced hall, accumulator or mailbox stands between (R172). -/
theorem smbusRead_of_dcu {a off : Nat} (h : c.target a = .reg (dcuK off)) : c.smbusRead a = (c.regRead (dcuK off) 8).1 := by
  have hhere : c.regGone (dcuK off) = false := rfl
  simp only [Chip.smbusRead, h, hhere]
  rfl

/-! ## Rails -/

/-- A rail's answer is kept (R443). -/
def Chip.railKept (c : Chip) (k mv : Nat) : Chip :=
  { c with rails := c.rails.set k (mv % 65536), io := { c.io with pmbAt := c.io.pmbAt.set k c.time.now, silent := c.io.silent.filter (· ≠ k) } }

/-- A poll that I/O die 0 answers keeps the reading, and thaws the halls of a zone's rail (R443). -/
theorem pmbusPoll_of_answer {k mv : Nat} (hdie : (c.at t).boot.die0 = false) :
    c.pmbusPoll k t (some mv) =
      if k < 8 then (zoneSites k).foldl (fun c s => c.updPwr s fun h => { h with frozen := none }) ((c.at t).railKept k mv) else (c.at t).railKept k mv :=
  if_neg (Bool.eq_false_iff.mp hdie)

/-- A poll without an answer changes nothing but the time (log 30). -/
theorem pmbusPoll_of_silence {k : Nat} : c.pmbusPoll k t none = c.at t := ite_self _

/-- 10 ms without an answer of a rail of no hall write PMBUS_LOST (R443). -/
theorem pmbusLost_of_silent {k : Nat} (hnew : k ∉ (c.at t).io.silent) (hdie : (c.at t).boot.die0 = false) (hpast : (c.at t).io.pmbAt.get k 0 + 10000000 ≤ (c.at t).time.now)
    (hrail : 8 ≤ k) : c.pmbusLost k t = ((c.at t).updIo fun x => { x with silent := k :: x.silent }).post .PMBUS_LOST (iodUnit 0 0) none k := by
  have hgoes : ((c.at t).io.silent.contains k || (c.at t).boot.die0 || decide ((c.at t).time.now < (c.at t).io.pmbAt.get k 0 + 10000000)) = false := by
    rw [hdie, decide_eq_false (Nat.not_lt.mpr hpast), Bool.or_false, Bool.or_false]
    exact Bool.eq_false_iff.mpr fun h => hnew (List.contains_iff_mem.mp h)
  simp only [Chip.pmbusLost, hgoes]
  rw [if_neg Bool.false_ne_true, if_neg (Nat.not_lt.mpr hrail)]

/-- The recovery of the I/O rails releases the reset that their fault began (R443). -/
theorem supplyBack_of_rail (h : (c.at t).boot.rail = true) :
    c.supplyBack none t = ({ c.at t with boot := { (c.at t).boot with rail := false } } : Chip).nresetRelease := if_pos h

/-- Without such a fault it changes nothing but the time (log 30). -/
theorem supplyBack_of_no_rail (h : (c.at t).boot.rail = false) : c.supplyBack none t = c.at t := if_neg (Bool.eq_false_iff.mp h)

/-! ## Board inputs -/

/-- A conversion of a scanned channel is kept with its time in µs (R323). -/
theorem adcDone_of_scanned {i : Isl} {ch v : Nat} (hon : bit (c.reg (sioK i 0x300)) 16 = true) (hscan : ch < bits (c.reg (sioK i 0x300)) 7 0) :
    c.adcDone i ch v = c.updIsl i fun y => { y with adc := y.adc.set ch (v % 65536, c.localTime (islDie i) / 1000 % 2 ^ 32) } := by
  simp only [Chip.adcDone, hon, hscan, decide_true, Bool.and_true, if_true]

/-- A conversion of any other channel is not (log 30). -/
theorem adcDone_of_unscanned {i : Isl} {ch v : Nat} (hoff : bit (c.reg (sioK i 0x300)) 16 = false ∨ bits (c.reg (sioK i 0x300)) 7 0 ≤ ch) : c.adcDone i ch v = c := by
  have hnot : (bit (c.reg (sioK i 0x300)) 16 && decide (ch < bits (c.reg (sioK i 0x300)) 7 0)) = false := by
    rw [Bool.and_eq_false_iff, decide_eq_false_iff_not, Nat.not_lt]
    exact hoff
  simp only [Chip.adcDone, hnot]
  rfl

/-- A PCIe link of Gen4 to Gen6 and of 4, 8 or 16 lanes comes up (R418). -/
theorem linkUp_of_fast {gen width : Nat} (hdie : c.boot.die0 = false) (h4 : 4 ≤ gen) (h6 : gen ≤ 6) (hwidth : width = 4 ∨ width = 8 ∨ width = 16) :
    c.linkUp gen width = c.updIo fun x => { x with rate := gen, width := width, low := false } := by
  have hfast : (within 4 6 gen && (width == 4 || width == 8 || width == 16)) = true := by
    rw [within, decide_eq_true h4, decide_eq_true h6]
    simpa [or_assoc] using hwidth
  simp only [Chip.linkUp, hdie, hfast]
  rfl

/-- A slower one is held in training (R418). -/
theorem linkUp_of_slow {gen width : Nat} (hdie : c.boot.die0 = false) (hslow : gen < 4) :
    c.linkUp gen width = c.updIo fun x => { x with rate := 0, width := 0, low := true } := by
  have hout : within 4 6 gen = false := by rw [within, decide_eq_false (Nat.not_le.mpr hslow), Bool.false_and]
  simp only [Chip.linkUp, hdie, hout, hslow, Bool.false_and, Bool.false_eq_true, if_false, if_true]

/-- The standby's firmware is verified while the acting DCU runs without a standby (R369). -/
theorem standbyVerify_of_waiting (hheld : c.boot.held = false) (hstep : 3 ≤ c.boot.step) (hacting : c.boot.acting ≠ 1) (hnone : c.boot.standby = false) (ok : Bool) :
    c.standbyVerify ok =
      if ok then { c with boot := { c.boot with standby := true, ackAt := c.time.now, gotAt := c.time.now, msgAt := c.time.now } }
      else c.post .STANDBY_FAIL (unitPath 7 0x4F 0 0 0 0) none :=
  if_neg (by rw [hheld, hnone, decide_eq_false (Nat.not_lt.mpr hstep), decide_eq_false hacting]; decide)

end

/-- Settles O7: each supply fault and board input is its operation in the case at hand. -/
theorem boardIo : Obligations.BoardIo := by
  constructor
  · intro s a off k t mv z i c kept lost m
    have hmv : mv.toNat % 65536 = mv.toNat := Nat.mod_eq_of_lt mv.isLt
    have hkept : c.railKept k.val mv.toNat = kept := by rw [Chip.railKept, hmv]
    refine ⟨fun h => ?_, fun hdie hrail => ?_, fun hdie hrail => ?_, ?_, fun hnew hdie hpast hrail => ?_, rfl, rfl, rfl, rfl, rfl, ?_, rfl, fun h => ?_, fun h => ?_⟩
    · exact exec_eq_next rfl (smbusRead_of_dcu h)
    · exact exec_eq_next rfl ((pmbusPoll_of_answer hdie).trans ((if_neg (Nat.not_lt.mpr hrail)).trans hkept))
    · refine exec_eq_next rfl ((pmbusPoll_of_answer hdie).trans ((if_pos hrail).trans ?_))
      rw [hkept]
    · exact exec_eq_next rfl pmbusPoll_of_silence
    · exact exec_eq_next rfl (pmbusLost_of_silent hnew hdie hpast hrail)
    · exact ⟨_, exec_eq_next rfl (islReset_of_long le_rfl), updIsl_isl_same _ i _, rfl⟩
    · exact exec_eq_next rfl (supplyBack_of_rail h)
    · exact exec_eq_next rfl (supplyBack_of_no_rail h)
  · intro s i q up period ch v gen width n p speed word cfg fast waits
    have hperiod : period.toNat % 2 ^ 32 = period.toNat := Nat.mod_eq_of_lt period.isLt
    have hv : v.toNat % 65536 = v.toNat := Nat.mod_eq_of_lt v.isLt
    have hspeed : speed.toNat % 8 = speed.toNat := Nat.mod_eq_of_lt speed.isLt
    refine ⟨?_, fun hon hscan => ?_, fun hoff => ?_, fun hdie ⟨h4, h6, hwidth⟩ => ?_, fun hdie hslow => ?_,
      fun ⟨hheld, hstep, hacting, hnone⟩ => ?_, fun ⟨hheld, hstep, hacting, hnone⟩ => ?_, ?_, ?_⟩
    · exact exec_eq_next rfl (by simp only [Chip.encoderPulse, hperiod])
    · exact exec_eq_next rfl ((adcDone_of_scanned hon hscan).trans (by rw [hv]))
    · exact exec_eq_next (d := s.toChip) rfl (adcDone_of_unscanned hoff)
    · exact exec_eq_next rfl (linkUp_of_fast hdie h4 h6 hwidth)
    · exact exec_eq_next rfl (linkUp_of_slow hdie hslow)
    · exact exec_eq_next rfl (standbyVerify_of_waiting hheld hstep hacting hnone true)
    · exact exec_eq_next rfl (standbyVerify_of_waiting hheld hstep hacting hnone false)
    · exact exec_eq_next rfl (by simp only [Chip.ethLink, hspeed, word])
    · exact exec_eq_next rfl (by simp only [Chip.ethLink, hspeed, word])

end Sys2Proof.Machine

/-! SUPPORT and PROOFS. The PCIe host: BAR2, register windows, resets and the commands of submission queues (R420-R424). -/

namespace Sys2Proof.Machine

section
variable {c : Chip}

/-! ## BAR2 and register windows -/

/-- A virtual function is barred from a read that its partition does not permit (R421). -/
theorem bar2_barred_iff {f a n : Nat} : (f ≠ 0 && !c.fnMay f a n false) = false ↔ f = 0 ∨ c.fnMay f a n false = true := by
  by_cases h : f = 0 <;> simp [h]

section
variable {f x n : Nat} (hreach : f = 0 ∨ c.fnMay f (c.bar2Addr f x) n false = true)
include hreach

/-- A read that function 0 makes, or that the function's partition permits, is the bus access (R421). -/
theorem bar2Read_of_reach :
    c.bar2Read f x n = if (c.busRead (c.bar2Addr f x) n).2.2 = .unmapped then (c.busRead (c.bar2Addr f x) n).1.fnErr f else (c.busRead (c.bar2Addr f x) n).1 := by
  have hmay := bar2_barred_iff.mpr hreach
  obtain ⟨a, ha⟩ : ∃ a, c.bar2Addr f x = a := ⟨_, rfl⟩
  obtain ⟨r, hr⟩ : ∃ r, c.busRead a n = r := ⟨_, rfl⟩
  unfold Chip.bar2Read
  rw [ha] at hmay ⊢
  simp only [hmay, hr, Bool.false_eq_true, if_false]

/-- It stands where it reaches something (R421). -/
theorem bar2Read_of_mapped (hmapped : (c.busRead (c.bar2Addr f x) n).2.2 ≠ .unmapped) : c.bar2Read f x n = (c.busRead (c.bar2Addr f x) n).1 := by
  rw [bar2Read_of_reach hreach, if_neg hmapped]

/-- It is counted where it reaches nothing (R421). -/
theorem bar2Read_of_unmapped (hunmapped : (c.busRead (c.bar2Addr f x) n).2.2 = .unmapped) : c.bar2Read f x n = (c.busRead (c.bar2Addr f x) n).1.fnErr f := by
  rw [bar2Read_of_reach hreach, if_pos hunmapped]

end

/-- Any other read is counted (R421). -/
theorem bar2Read_of_unreached {f x n : Nat} (hreach : ¬ (f = 0 ∨ c.fnMay f (c.bar2Addr f x) n false = true)) : c.bar2Read f x n = c.fnErr f := by
  have hbarred := Bool.not_eq_false _ ▸ mt bar2_barred_iff.mp hreach
  unfold Chip.bar2Read
  exact if_pos hbarred

/-- A write is the host's write of the pages it may reach; one that reaches none is counted (R421). -/
theorem bar2Write_eq {f : Fin 16} {x : Nat} {bs : List Byte} :
    c.bar2Write f x bs =
      if (c.hostWrite f (c.bar2Addr f.val x) bs).2 = .unmapped then (c.hostWrite f (c.bar2Addr f.val x) bs).1.fnErr f.val else (c.hostWrite f (c.bar2Addr f.val x) bs).1 := by
  unfold Chip.bar2Write
  generalize c.hostWrite f (c.bar2Addr f.val x) bs = r
  rfl

/-- Function 0's window reaches the register it names (R420). -/
theorem windowAccess_of_reg {f : Fin 16} {w y n : Nat} {k : RegKey} (hf : f.val = 0) (h : c.target (c.winAddr f.val w y) = .reg k) (v : Option Nat) :
    c.windowAccess f w y n v =
      v.elim (c.busRead (c.winAddr f.val w y) n).1 fun v => (c.busWrite (.fn f) (c.winAddr f.val w y) (leBytes n v)).1 := by
  have hmay : (f.val ≠ 0 && !(c.winBaseOk f.val (c.winAddr f.val w y - y % 2 ^ 24) && c.fnRegMay f.val (c.winAddr f.val w y))) = false := by simp [hf]
  unfold Chip.windowAccess
  simp only [hmay, h]
  cases v <;> rfl

/-! ## Tails and fetches -/

/-- A tail within the ring is stored (R423). -/
theorem sqTail_of_within {f q : Nat} {v : BitVec 16}
    (h : ¬ (v.toNat + 65536 - c.io.heads.get (4 * f + q) 0) % 65536 ≥ 2 ^ bits (c.reg (dcuK (0xA000 + f * 0x100 + 0x40 + 32 * q + 8))) 4 0) :
    c.sqTail f q v.toNat = c.setReg (dcuK (0xA000 + f * 0x100 + 0x40 + 32 * q + 0x10)) v.toNat := by
  have hv : v.toNat % 65536 = v.toNat := Nat.mod_eq_of_lt v.isLt
  simp only [Chip.sqTail, hv]
  exact if_neg h

/-- Any other tail is counted (R423). -/
theorem sqTail_of_past {f q : Nat} {v : BitVec 16}
    (h : (v.toNat + 65536 - c.io.heads.get (4 * f + q) 0) % 65536 ≥ 2 ^ bits (c.reg (dcuK (0xA000 + f * 0x100 + 0x40 + 32 * q + 8))) 4 0) :
    c.sqTail f q v.toNat = c.countErr (dcuK (0xA000 + f * 0x100 + 0x40 + 32 * q + 0x10)) := by
  have hv : v.toNat % 65536 = v.toNat := Nat.mod_eq_of_lt v.isLt
  simp only [Chip.sqTail, hv]
  exact if_pos h

/-- A fetch from an enabled ring that is not empty takes its entry (R423). -/
theorem commandFetch_of_ready {f q : Nat} {e : List Byte} (hen : bit (c.reg (dcuK (0xA000 + f * 0x100 + 0x40 + 32 * q + 8))) 8 = true)
    (hhead : c.io.heads.get (4 * f + q) 0 ≠ c.reg (dcuK (0xA000 + f * 0x100 + 0x40 + 32 * q + 0x10))) (hlen : e.length = 64) :
    c.commandFetch f q e = c.updIo fun y => { y with
      heads := y.heads.set (4 * f + q) ((c.io.heads.get (4 * f + q) 0 + 1) % 65536)
      cmds := y.cmds.set (4 * f + q) (c.hostCmds f q ++ [{ opc := fieldAt e 0 1, flags := fieldAt e 1 1, cid := fieldAt e 2 2, len := fieldAt e 4 4, haddr := fieldAt e 8 8, daddr := fieldAt e 0x10 8, value := fieldAt e 0x18 8, done := cmdForm e }]) } :=
  if_neg (by rintro (h | h | h); exacts [Bool.false_ne_true (h.symm.trans hen), hhead h, h hlen])

/-! ## Started commands -/

/-- A command of this kind and CID that has not run. -/
def cmdWaits (opc cid : Nat) (y : HostCmd) : Bool := y.opc == opc && y.cid == cid && y.done.isNone

/-- The oldest such command of a queue has run, with a status, a value and the bytes completed. -/
def Chip.cmdEnds (f q opc cid : Nat) (r : Chip × Nat × Nat × Nat) : Chip :=
  r.1.updIo fun y => { y with cmds := y.cmds.upd (4 * f + q) [] (updFirst (cmdWaits opc cid) fun z => { z with done := some r.2.1, val := r.2.2.1, bytes := r.2.2.2 }) }

/-- A command of a function that is bound, in a partition that runs, may act (R419, R424). -/
def Chip.cmdLive (c : Chip) (f : Nat) (x : HostCmd) : Prop := x.gone = false ∧ (f = 0 ∨ c.boundPart f ≠ none)

section
variable {f q opc cid : Nat} {x : HostCmd} {act : Chip → HostCmd → Chip × Nat × Nat × Nat} (hfirst : (startedCmds (c.hostCmds f q)).find? (cmdWaits opc cid) = some x)
include hfirst

/-- The first started command of its kind and CID runs once (R424). -/
theorem hostRun_of_first :
    c.hostRun f q opc cid act =
      Chip.cmdEnds f q opc cid (if x.gone then (c, 5, 0, 0) else if opc ≠ 1 ∧ f ≠ 0 ∧ (c.boundPart f).isNone then (c, 3, 0, 0) else act c x) := by
  unfold cmdWaits at hfirst
  simp only [Chip.hostRun, hfirst]
  rfl

/-- One whose partition has stopped ends with ABORTED (R424). -/
theorem hostRun_of_gone (hgone : x.gone = true) : c.hostRun f q opc cid act = Chip.cmdEnds f q opc cid (c, 5, 0, 0) := by
  rw [hostRun_of_first hfirst, if_pos hgone]

/-- A NOP needs no bound function (R424). -/
theorem hostRun_of_nop (hopc : opc = 1) (hgone : x.gone = false) : c.hostRun f q opc cid act = Chip.cmdEnds f q opc cid (act c x) := by
  rw [hostRun_of_first hfirst, if_neg (Bool.eq_false_iff.mp hgone), if_neg fun h => h.1 hopc]

/-- One of a bound function acts (R424). -/
theorem hostRun_of_live (hlive : c.cmdLive f x) : c.hostRun f q opc cid act = Chip.cmdEnds f q opc cid (act c x) := by
  obtain ⟨hgone, hbound⟩ := hlive
  rw [hostRun_of_first hfirst, if_neg (Bool.eq_false_iff.mp hgone), if_neg]
  rintro ⟨-, hf, hnone⟩
  rcases hbound with h | h
  · exact hf h
  · exact h (Option.isNone_iff_eq_none.mp hnone)

end

section
variable {f : Fin 16} {q cid : Nat} {x : HostCmd}

/-- COPY_H2D stores the bytes that came with it, which are as many as its length says (R424). -/
theorem copyH2D_of_live {data : List Byte} (hfirst : (startedCmds (c.hostCmds f.val q)).find? (cmdWaits 2 cid) = some x) (hlive : c.cmdLive f.val x)
    (hlen : ∀ y ∈ startedCmds (c.hostCmds f.val q), cmdWaits 2 cid y = true → y.len = data.length) :
    c.copyH2D f q cid data = Chip.cmdEnds f.val q 2 cid (c.hostStore f x.daddr data) := by
  rw [Chip.copyH2D, if_neg, hostRun_of_live hfirst hlive]
  intro h
  obtain ⟨y, hy, hbad⟩ := List.any_eq_true.mp h
  obtain ⟨hwaits, hne⟩ := (Bool.and_eq_true _ _).mp hbad
  exact bne_iff_ne.mp hne (hlen y hy hwaits)

/-- COPY_D2H of a range that the function may not read ends with ACCESS (R424). -/
theorem copyD2H_of_barred (hfirst : (startedCmds (c.hostCmds f.val q)).find? (cmdWaits 3 cid) = some x) (hlive : c.cmdLive f.val x) (hf : f.val ≠ 0)
    (hmay : c.fnMay f.val x.daddr x.len false = false) : c.copyD2H f q cid = Chip.cmdEnds f.val q 3 cid (c, 3, 0, 0) := by
  have hvirtual : (f.val == 0) = false := beq_eq_false_iff_ne.mpr hf
  rw [Chip.copyD2H, hostRun_of_live hfirst hlive]
  simp only [hmay, hvirtual, Bool.false_and, Bool.or_false, Bool.not_false, if_true]

/-- COPY_D2H of one piece that reads clean writes it to host memory (R424). -/
theorem copyD2H_of_piece {a n : Nat} {c1 : Chip} {data : List Byte} (hfirst : (startedCmds (c.hostCmds f.val q)).find? (cmdWaits 3 cid) = some x) (hlive : c.cmdLive f.val x)
    (hmay : c.fnMay f.val x.daddr x.len false = true) (hpiece : c.busPieces x.daddr x.len = [(a, n)]) (hread : c.busRead a n = (c1, data, .ok)) :
    c.copyD2H f q cid = Chip.cmdEnds f.val q 3 cid ({ c1 with mem := { c1.mem with cells := c1.mem.cells.writeBytes (hostKey (x.haddr + 0)) data } }, 0, 0, data.length) := by
  rw [Chip.copyD2H, hostRun_of_live hfirst hlive]
  simp only [hmay, hpiece, hread, Bool.or_true, Bool.not_true, Bool.false_eq_true, if_false, if_true, List.foldl_cons, List.foldl_nil, Nat.zero_add]

/-- HOST_EVT_SET sets a flag of the function's partition (R424). -/
theorem hostEvtSet_of_bound {p : Nat} (hfirst : (startedCmds (c.hostCmds f.val q)).find? (cmdWaits 7 cid) = some x) (hlive : c.cmdLive f.val x)
    (hbound : c.boundPart f.val = some p) : c.hostEvtSet f q cid = Chip.cmdEnds f.val q 7 cid (c.evtSet p (x.value % 256), 0, 0, 0) := by
  rw [Chip.hostEvtSet, hostRun_of_live hfirst hlive, hbound]

end

/-! ## CMD_DONE -/

/-- A command of this CID that has run, or whose partition has stopped. -/
def cmdOver (cid : Nat) (y : HostCmd) : Bool := y.cid == cid && (y.done.isSome || y.gone)

/-- The oldest such command leaves its queue. -/
def Chip.cmdTaken (c : Chip) (f q cid : Nat) : Chip := c.updIo fun y => { y with cmds := y.cmds.upd (4 * f + q) [] fun l => l.eraseP (cmdOver cid) }

section
variable {f q cid : Nat} {x : HostCmd} (hfirst : (startedCmds (c.hostCmds f q)).find? (cmdOver cid) = some x)
include hfirst

/-- The record of a command is written where asked for or where its status is not OK (R424). -/
theorem cmdDone_of_over :
    c.cmdDone f q cid =
      if x.quiet || (!bit x.flags 1 && x.done.getD 5 == 0) then c.cmdTaken f q cid
      else (c.cmdTaken f q cid).postTo (bits ((c.cmdTaken f q cid).reg (dcuK (0xA030 + f * 0x100))) 5 0)
        ((c.cmdTaken f q cid).mkEv .CMD_DONE dcuUnit [(0x10, 2, x.cid), (0x12, 1, f), (0x13, 1, q), (0x14, 1, x.done.getD 5), (0x18, 8, x.val), (0x20, 8, x.bytes)]) := by
  unfold cmdOver at hfirst
  simp only [Chip.cmdDone, hfirst]
  rfl

end

end

section
variable {s : State} {f : Fin 16} {x : BitVec 36} {n : Nat} (hreach : f.val = 0 ∨ s.fnMay f.val (s.bar2Addr f.val x.toNat) n false = true)
include hreach

/-- BAR2_READ of what its function reaches is the bus access (R421). -/
theorem exec_bar2Read_of_mapped (hmapped : (s.busRead (s.bar2Addr f.val x.toNat) n).2.2 ≠ .unmapped) :
    exec (.bar2Read f x n) s = .next (s.withChip (s.busRead (s.bar2Addr f.val x.toNat) n).1) :=
  exec_eq_next rfl (bar2Read_of_mapped hreach hmapped)

/-- BAR2_READ of nothing is counted (R421). -/
theorem exec_bar2Read_of_unmapped (hunmapped : (s.busRead (s.bar2Addr f.val x.toNat) n).2.2 = .unmapped) :
    exec (.bar2Read f x n) s = .next (s.withChip ((s.busRead (s.bar2Addr f.val x.toNat) n).1.fnErr f.val)) :=
  exec_eq_next rfl (bar2Read_of_unmapped hreach hunmapped)

end

/-- Settles O3: each access, reset and command is its operation in the case at hand. -/
theorem hostPort : Obligations.HostPort := by
  constructor
  · intro s f w x y n bs v k
    refine ⟨fun hreach hmapped => ?_, fun hreach hunmapped => ?_, fun hreach => ?_, fun hmapped => ?_, fun hunmapped => ?_, fun hf h => ?_, fun hf h => ?_, rfl, rfl⟩
    · exact exec_bar2Read_of_mapped hreach hmapped
    · exact exec_bar2Read_of_unmapped hreach hunmapped
    · exact exec_eq_next rfl (bar2Read_of_unreached hreach)
    · exact exec_eq_next rfl (bar2Write_eq.trans (if_neg hmapped))
    · exact exec_eq_next rfl (bar2Write_eq.trans (if_pos hunmapped))
    · exact exec_eq_next rfl (windowAccess_of_reg hf h none)
    · exact exec_eq_next rfl (windowAccess_of_reg hf h (some v.toNat))
  · intro s f q v cid e data x st p a n c1 base slot head size list mine first ends live past take fin removed told
    refine ⟨fun h => ?_, fun h => ?_, fun hen hhead hlen => ?_, fun h hgone => ?_, fun h hgone => ?_, fun h hlive => ?_, fun h hlive hlen => ?_, fun h hlive hf hmay => ?_,
      fun h hlive hmay hpiece hread => ?_, fun h hlive hreg => ?_, fun h hlive hreg => ?_, fun h hlive hreg => ?_, fun h hlive hbound => ?_,
      fun h hst hquiet htold => ?_, fun h hsilent => ?_⟩
    · exact exec_eq_next rfl (sqTail_of_within h)
    · exact exec_eq_next rfl (sqTail_of_past h)
    · exact exec_eq_next rfl (commandFetch_of_ready hen hhead hlen)
    · exact exec_eq_next rfl (hostRun_of_nop h rfl hgone)
    · exact exec_eq_next rfl (hostRun_of_gone h hgone)
    · exact exec_eq_next rfl (hostRun_of_live h hlive)
    · exact exec_eq_next rfl (copyH2D_of_live h hlive hlen)
    · exact exec_eq_next rfl (copyD2H_of_barred h hlive hf hmay)
    · exact exec_eq_next rfl (copyD2H_of_piece h hlive hmay hpiece hread)
    · exact exec_eq_next rfl ((hostRun_of_live h hlive).trans (congrArg _ (if_pos hreg)))
    · exact exec_eq_next rfl ((hostRun_of_live h hlive).trans (congrArg _ (if_neg (Bool.eq_false_iff.mp hreg))))
    · exact exec_eq_next rfl ((hostRun_of_live h hlive).trans (congrArg _ (if_pos hreg)))
    · exact exec_eq_next rfl (hostEvtSet_of_bound h hlive hbound)
    · subst hst
      refine exec_eq_next rfl ((cmdDone_of_over h).trans (if_neg ?_))
      rw [hquiet, Bool.false_or, Bool.and_eq_true, Bool.not_eq_true', beq_iff_eq]
      rintro ⟨hflag, hdone⟩
      rcases htold with hflag' | hdone'
      · exact Bool.false_ne_true (hflag.symm.trans hflag')
      · exact hdone' hdone
    · refine exec_eq_next rfl ((cmdDone_of_over h).trans (if_pos ?_))
      rcases hsilent with hquiet | ⟨hflag, hdone⟩
      · rw [hquiet, Bool.true_or]
      · simp [hflag, hdone]

end Sys2Proof.Machine

/-! SUPPORT and PROOFS. Ingest channels and what fills them (R430-R434). -/

namespace Sys2Proof.Machine

section
variable {c : Chip} {t : Nat}

/-! ## Cameras (R433) -/

section
variable {i p v : Nat} (hon : bit ((c.at t).reg (ichK i (4 * p + v) 0)) 0 = true)
include hon

/-- Frame Start closes the slot and numbers the frame (R433). -/
theorem csiPacket_of_frameStart (num : BitVec 16) :
    c.csiPacket i p v t (.frameStart num) = ((c.at t).camClose i (4 * p + v)).updChan i (4 * p + v) fun x => { x with frame := num.toNat, line := 0 } :=
  if_neg (Bool.not_eq_false _ ▸ hon)

/-- Frame End closes the slot (R433). -/
theorem csiPacket_of_frameEnd : c.csiPacket i p v t .frameEnd = (c.at t).camClose i (4 * p + v) := if_neg (Bool.not_eq_false _ ▸ hon)

/-- The slot with one more line; the first opens it with the time and frame (R433). -/
def Chip.camLine (c : Chip) (i ch : Nat) (dt : Byte) (data : List Byte) (good : Bool) : CamSlot :=
  let slot : CamSlot := (c.chan i ch).slot.getD { t := c.localTime (0x4E + i), frame := (c.chan i ch).frame, line0 := (c.chan i ch).line, dt := dt.toNat, stride := alignUp data.length 32 }
  { slot with lines := slot.lines ++ [(c.localTime (0x4E + i), data)], err := slot.err || !good }

/-- A channel keeps a line. -/
def Chip.camLined (c : Chip) (i ch : Nat) (dt : Byte) (data : List Byte) (good : Bool) : Chip :=
  c.updChan i ch fun x => { x with slot := some (c.camLine i ch dt data good), line := x.line + 1 }

/-- A line joins the slot, which closes after LPS of them (R433). -/
theorem csiPacket_of_line (dt : Byte) (data : List Byte) (good : Bool) :
    c.csiPacket i p v t (.line dt data good) =
      if bits (((c.at t).camLined i (4 * p + v) dt data good).reg (ichK i (4 * p + v) 0)) 47 32 ≤ ((c.at t).camLine i (4 * p + v) dt data good).lines.length then
        ((c.at t).camLined i (4 * p + v) dt data good).camClose i (4 * p + v)
      else (c.at t).camLined i (4 * p + v) dt data good :=
  if_neg (Bool.not_eq_false _ ▸ hon)

end

/-! ## Ethernet, CAN and GNSS (R433, R434) -/

section
variable {i : Fin 2} {n : Fin 6} {f : List Byte} (hmac : bit ((c.at t).reg (iodK i.val (0x0300000 + 0x1000 * n.val))) 0 = true)
include hmac

/-- A frame goes to the channel of the lowest matching filter (R433). -/
theorem ethFrame_of_match {k : Nat} (good : Bool) (hmatch : (List.range 16).find? (fun k => (c.at t).ethMatch i.val n.val k f) = some k) :
    c.ethFrame (.iod i n) t f good =
      (c.at t).ingest i.val (32 + k) 1 ((c.at t).localTime (0x4E + i.val)) (b2n !good) [(0x20, 1, n.val), (0x21, 1, k), (0x22, 2, ((vlanOf f).1).getD 0)] f := by
  simp only [Chip.ethFrame, hmac, hmatch, Bool.true_eq_false, if_false]

/-- A frame that no filter matches is counted (R433). -/
theorem ethFrame_of_no_match (good : Bool) (hmatch : (List.range 16).find? (fun k => (c.at t).ethMatch i.val n.val k f) = none) :
    c.ethFrame (.iod i n) t f good = (c.at t).bump (iodK i.val 0x0310100) := by
  simp only [Chip.ethFrame, hmac, hmatch, Bool.true_eq_false, if_false]

end

/-- The receive slots that a good frame matches latch it (R434). -/
def Chip.canTaken (c : Chip) (r : CanRef) (f : CanFrame) : Chip := if f.err then c else (c.canLatch r f.id.toNat f.ide f.data).1

section
variable {i : Fin 2} {m : Fin 4} {f : CanFrame} (hmode : bits ((c.at t).reg (canK (.iod i m) 0)) 1 0 ≠ 0)
  (hxl : f.xlf = true → bits ((c.at t).reg (canK (.iod i m) 0)) 1 0 = 2)
include hmode hxl

/-- A frame of an I/O die's controller that is on is latched and, where a slot matches, goes to its ring (R434). -/
theorem canFrame_of_on :
    c.canFrame (.iod i m) t f =
      if (List.range 16).any fun s => (c.at t).canMatch (.iod i m) s f.id.toNat f.ide then
        ((c.at t).canTaken (.iod i m) f).ingest i.val (48 + m.val) 2 (((c.at t).canTaken (.iod i m) f).localTime (canDie (.iod i m))) (b2n f.err) (canSpec f) f.data
      else (c.at t).canTaken (.iod i m) f := by
  have hgoes : ¬ (decide (bits ((c.at t).reg (canK (.iod i m) 0)) 1 0 = 0) || (f.xlf && bits ((c.at t).reg (canK (.iod i m) 0)) 1 0 != 2) || !true) = true := by
    rw [decide_eq_false hmode, Bool.false_or, Bool.not_true, Bool.or_false, Bool.and_eq_true, bne_iff_ne]
    exact fun ⟨hf, hne⟩ => hne (hxl hf)
  exact if_neg hgoes

end

/-- Some receive slot matches a frame. -/
theorem canMatch_any_iff {r : CanRef} {f : CanFrame} :
    ((List.range 16).any fun s => c.canMatch r s f.id.toNat f.ide) = true ↔ ∃ s < 16, c.canMatch r s f.id.toNat f.ide = true := by
  simp only [List.any_eq_true, List.mem_range]

/-! ## Rings (R432) -/

/-- The die takes a CIDX within the ring, which frees slots (R432). -/
theorem ingestPoll_of_within {i ch : Nat} (hon : bit (c.reg (ichK i ch 0)) 0 = true)
    (hin : (((c.devSense (c.ringAddr i ch + 4) 4).chan i ch).pidx + 2 ^ 32 - leNat (c.devRead (c.ringAddr i ch + 4) 4)) % 2 ^ 32 ≤ ((c.devSense (c.ringAddr i ch + 4) 4).chan i ch).nslot) :
    c.ingestPoll i ch = (c.devSense (c.ringAddr i ch + 4) 4).updChan i ch fun x =>
      let y := { x with cidx := leNat (c.devRead (c.ringAddr i ch + 4) 4) }
      let full := decide (y.nslot ≤ y.used) || (c.devSense (c.ringAddr i ch + 4) 4).ingestHot i
      { y with full := y.full && full, pause := y.pause && full, above := y.above && decide (bits ((c.devSense (c.ringAddr i ch + 4) 4).reg (ichK i ch 0)) 23 8 ≤ y.used) } := by
  unfold Chip.ingestPoll
  rw [if_neg (Bool.not_eq_false _ ▸ hon)]
  exact if_pos hin

/-- The fields of IOD_ICH_CFG that a write with EN = 1 sets. -/
def ichCfg (v : Nat) : Nat := Nat.land (setBits v 0 0 1) (maskOf 1 0 + maskOf 28 8 + maskOf 47 32)

/-- The header of a channel's ring. -/
def Chip.ringHdr (c : Chip) (i ch : Nat) : List Byte := c.devRead (c.ringAddr i ch) 64

/-- The die has read the header. -/
def Chip.ringSeen (c : Chip) (i ch : Nat) : Chip := c.devSense (c.ringAddr i ch) 64

/-- The ring that a channel names serves it (R432). -/
def Chip.ringServes (c : Chip) (i ch v : Nat) : Bool :=
  let hdr := c.ringHdr i ch
  let q := c.part (bits (ichCfg v) 28 24)
  let size := 64 + (if blockRing ch then 0 else 128 * fieldAt hdr 8 4)
  !bit ((c.ringSeen i ch).reg (ichK i ch 0)) 0 && decide (ch < 54) && !(ch == 53 && i == 1) && (!bit (ichCfg v) 1 || within 32 47 ch) && q.held
    && q.inWin (c.ringAddr i ch) size (fun w => w.r && w.w && w.async) && fieldAt hdr 8 4 != 0 && fieldAt hdr 0xC 4 != 0 && decide (bits (ichCfg v) 23 8 ≤ fieldAt hdr 8 4)
    && (!blockRing ch || (fieldAt hdr 0xC 4 % 4096 == 0 &&
      q.inWin (bits ((c.ringSeen i ch).reg (ichK i ch 0x10)) 47 12 * 4096) (fieldAt hdr 8 4 * fieldAt hdr 0xC 4) (fun w => w.r && w.w && !w.async && !w.x)))

/-- A channel is enabled on a ring that serves, and otherwise counted (R432). -/
theorem ingestEnable_eq {i ch v : Nat} :
    c.ingestEnable i ch v =
      if c.ringServes i ch v then
        ((c.ringSeen i ch).setReg (ichK i ch 0) (ichCfg v)).updChan i ch fun x =>
          { x with pidx := fieldAt (c.ringHdr i ch) 0 4, cidx := fieldAt (c.ringHdr i ch) 4 4, nslot := fieldAt (c.ringHdr i ch) 8 4, slotb := fieldAt (c.ringHdr i ch) 0xC 4, gap := fieldAt (c.ringHdr i ch) 0x10 8, run := 0, full := false, above := false, pause := false, slot := none }
      else (c.ringSeen i ch).countErr (ichK i ch 0) := rfl

/-- What a ring that serves is (R432). -/
theorem ringServes_iff {i : Fin 2} {ch v : Nat} :
    c.ringServes i.val ch v = true ↔
      bit ((c.ringSeen i ch).reg (ichK i ch 0)) 0 = false ∧ ch < 54 ∧ (ch = 53 → i.val = 0) ∧ (bit (ichCfg v) 1 = true → 32 ≤ ch ∧ ch ≤ 47) ∧
      (c.part (bits (ichCfg v) 28 24)).held = true ∧
      (c.part (bits (ichCfg v) 28 24)).inWin (c.ringAddr i ch) (64 + (if blockRing ch then 0 else 128 * fieldAt (c.ringHdr i ch) 8 4)) (fun w => w.r && w.w && w.async) = true ∧
      fieldAt (c.ringHdr i ch) 8 4 ≠ 0 ∧ fieldAt (c.ringHdr i ch) 0xC 4 ≠ 0 ∧ bits (ichCfg v) 23 8 ≤ fieldAt (c.ringHdr i ch) 8 4 ∧
      (blockRing ch = true → fieldAt (c.ringHdr i ch) 0xC 4 % 4096 = 0 ∧
        (c.part (bits (ichCfg v) 28 24)).inWin (bits ((c.ringSeen i ch).reg (ichK i ch 0x10)) 47 12 * 4096) (fieldAt (c.ringHdr i ch) 8 4 * fieldAt (c.ringHdr i ch) 0xC 4)
          (fun w => w.r && w.w && !w.async && !w.x) = true) := by
  have hdie : (!(ch == 53 && i.val == 1)) = true ↔ (ch = 53 → i.val = 0) := by
    have hi := i.isLt
    simp only [Bool.not_eq_true', Bool.and_eq_false_iff, beq_eq_false_iff_ne]
    omega
  have himp : ∀ a b : Bool, (!a || b) = true ↔ (a = true → b = true) := by decide
  simp only [Chip.ringServes, Bool.and_eq_true, Bool.not_eq_true', decide_eq_true_eq, bne_iff_ne, beq_iff_eq, himp, hdie, within, and_assoc]

end

/-- Settles O5: each packet, frame, poll and enable is its operation in the case at hand. -/
theorem ingest : Obligations.Ingest := by
  intro s i p v ch n t k num dt data good f m w
  refine ⟨fun hon => ?_, fun hon => ?_, fun hon hfull => ?_, fun hon hfull => ?_, fun hmac hmatch => ?_, fun hmac hmatch => ?_, fun hmode hxl hit => ?_, fun hmode hxl hit => ?_,
    rfl, fun hon hin => ?_, fun hserves => ?_, fun hserves => ?_⟩
  · exact exec_eq_next rfl (csiPacket_of_frameStart hon num)
  · exact exec_eq_next rfl (csiPacket_of_frameEnd hon)
  · exact exec_eq_next rfl ((csiPacket_of_line hon dt data good).trans (if_pos hfull))
  · exact exec_eq_next rfl ((csiPacket_of_line hon dt data good).trans (if_neg hfull))
  · exact exec_eq_next rfl (ethFrame_of_match hmac good hmatch)
  · exact exec_eq_next rfl (ethFrame_of_no_match hmac good hmatch)
  · exact exec_eq_next rfl ((canFrame_of_on hmode hxl).trans (if_pos (canMatch_any_iff.mpr hit)))
  · exact exec_eq_next rfl ((canFrame_of_on hmode hxl).trans (if_neg (mt canMatch_any_iff.mp hit)))
  · exact exec_eq_next rfl (ingestPoll_of_within hon hin)
  · exact exec_eq_next rfl (ingestEnable_eq.trans (if_neg (mt ringServes_iff.mp hserves)))
  · exact exec_eq_next rfl (ingestEnable_eq.trans (if_pos (ringServes_iff.mpr hserves)))

end Sys2Proof.Machine

/-! SUPPORT and PROOFS. CAN transmission, SENT, the time references and the boot flash (R434-R437). -/

namespace Sys2Proof.Machine

section
variable {c : Chip} {t : Nat}

/-! ## SENT (R437) -/

/-- With SENT off a message changes nothing but the time (log 30). -/
theorem sent_of_off {m : SentMsg} (hoff : bit ((c.at t).reg (iodK 0 0x0600000)) 24 = false) : c.sent t m = c.at t := if_pos hoff

/-- A bad message is counted (R437). -/
theorem sent_of_bad {m : SentMsg} (hon : bit ((c.at t).reg (iodK 0 0x0600000)) 24 = true) (hbad : m.good = false) :
    c.sent t m = (c.at t).bump (iodK 0 0x0600020) := by
  simp only [Chip.sent, hon, hbad, Bool.true_eq_false, Bool.not_false, if_false, if_true]

/-- A flow reading in range is kept. -/
def Chip.flowRead (c : Chip) (v : Int) : Chip := { c with pm := { c.pm with reading := v.toNat, flowOk := true, flowAt := c.time.now, coolAt := c.time.now } }

/-- An inlet reading in range is kept. -/
def Chip.inletRead (c : Chip) (v : Int) : Chip := { c with pm := { c.pm with inlet := v, coolAt := c.time.now } }

/-- A good message without a serial part sets the flow and the inlet and goes to channel 53 (R437). -/
theorem sent_of_good {m : SentMsg} {flow inlet : Int} (hon : bit ((c.at t).reg (iodK 0 0x0600000)) 24 = true) (hgood : m.good = true) (hserial : m.serial = none)
    (hflow : (c.at t).sentValue 0x0600008 m.fast1.toNat = some flow) (hflow0 : 0 ≤ flow) (hflow1 : flow ≤ 20000)
    (hinlet : ((c.at t).flowRead flow).sentValue 0x0600010 m.fast2.toNat = some inlet) (hinlet0 : -880 ≤ inlet) (hinlet1 : inlet ≤ 2400) :
    c.sent t m = (((c.at t).flowRead flow).inletRead inlet).ingest 0 53 4 ((((c.at t).flowRead flow).inletRead inlet).localTime 0x4E) 0 [] m.raw := by
  unfold Chip.flowRead at hinlet
  have hrange : (some inlet).filter (fun v => decide (-880 ≤ v) && decide (v ≤ 2400)) = some inlet := by simp [hinlet0, hinlet1]
  simp only [Chip.sent, hon, hgood, hserial, hflow, hflow0, hflow1, hinlet, hrange, Bool.true_eq_false, Bool.not_true, Bool.false_eq_true, if_false, and_self, if_true]
  rfl

/-! ## Time references (R435) -/

/-- An edge more than 1 ms off is rejected and counted (R435). -/
theorem ppsEdge_of_far {off : Int} (corr : Int) (hsrc : (c.at t).timeSrc = 1) (hdie : (c.at t).boot.die0 = false) (hfar : 1000000 < off.natAbs) :
    c.ppsEdge t off corr = ((c.at t).bump (dcuK 0xB018)).post .PPS_REJECT dcuUnit none :=
  (if_neg (not_or.mpr ⟨not_not.mpr hsrc, Bool.eq_false_iff.mp hdie⟩)).trans (if_pos hfar)

/-- Any other disciplines DEVTIME (R435). -/
theorem ppsEdge_of_near {off : Int} (corr : Int) (hsrc : (c.at t).timeSrc = 1) (hdie : (c.at t).boot.die0 = false) (hnear : off.natAbs ≤ 1000000) :
    c.ppsEdge t off corr = (c.at t).timeRef off corr :=
  (if_neg (not_or.mpr ⟨not_not.mpr hsrc, Bool.eq_false_iff.mp hdie⟩)).trans (if_neg (Nat.not_lt.mpr hnear))

/-- Where PPS is not the source an edge changes nothing but the time (log 30). -/
theorem ppsEdge_of_other (off corr : Int) (hsrc : (c.at t).timeSrc ≠ 1) : c.ppsEdge t off corr = c.at t := if_pos (Or.inl hsrc)

/-- PTP on the chosen port disciplines DEVTIME (R435). -/
theorem ptp_of_chosen {port : Nat} (off corr : Int) (hsrc : (c.at t).timeSrc = 2) (hport : bits ((c.at t).reg (dcuK 0xB000)) 7 4 = port)
    (hmac : bit ((c.at t).reg (iodK (port / 6) (0x0300000 + 0x1000 * (port % 6)))) 0 = true)
    (hptp : bit ((c.at t).reg (iodK (port / 6) (0x0300000 + 0x1000 * (port % 6)))) 2 = true) : c.ptp port t off corr = (c.at t).timeRef off corr :=
  if_pos ⟨hsrc, hport, hmac, hptp⟩

/-- 2 s without a reference lose the lock (R435). -/
theorem timeLost_of_due (hlock : (c.at t).io.lock = true) (hpast : (c.at t).io.refAt + 2000000000 ≤ (c.at t).time.now) :
    c.timeLost t = ((c.at t).updIo fun x => { x with lock := false }).post .TIME_LOST dcuUnit none :=
  if_pos (by rw [hlock, decide_eq_true hpast, Bool.true_and])

/-! ## Flash (R436) -/

section
variable (hdie : c.boot.die0 = false)
include hdie

/-- A command while another runs is counted (R436). -/
theorem flashCmd_of_busy (op : Nat) (hbusy : c.io.fstate = 1) : c.flashCmd op = c.countErr (iodK 0 0x0800000) :=
  (if_neg (Bool.eq_false_iff.mp hdie)).trans (if_pos hbusy)

/-- READ runs, and so does a command outside what is protected (R436). -/
theorem flashCmd_of_open {op : Nat} (hidle : c.io.fstate ≠ 1) (hopen : op = 1 ∨ c.flashGuard c.flashAddr = false) :
    c.flashCmd op = c.updIo fun x => { x with fstate := 1, fcode := 0, fcmd := some (op, c.flashAddr) } := by
  have hmay : ¬ (op ≠ 1 && c.flashGuard c.flashAddr) = true := by rcases hopen with h | h <;> simp [h]
  exact (if_neg (Bool.eq_false_iff.mp hdie)).trans ((if_neg hidle).trans (if_neg hmay))

/-- ERASE and PROGRAM of a protected region fail with code 1 (R436). -/
theorem flashCmd_of_guarded {op : Nat} (hidle : c.io.fstate ≠ 1) (hop : op ≠ 1) (hguard : c.flashGuard c.flashAddr = true) :
    c.flashCmd op = c.updIo fun x => { x with fstate := 3, fcode := 1 } :=
  (if_neg (Bool.eq_false_iff.mp hdie)).trans ((if_neg hidle).trans (if_pos (by rw [hguard, decide_eq_true hop]; rfl)))

end

/-- The command that ran has ended well. -/
def Chip.flashEnded (c : Chip) : Chip := c.updIo fun x => { x with fcmd := none, fstate := 2, fcode := 0 }

section
variable {op a : Nat} (hcmd : c.io.fcmd = some (op, a))
include hcmd

/-- READ ends with the sector in the buffer (R436). -/
theorem flashDone_of_read (hop : op = 1) :
    c.flashDone true = c.flashEnded.updIo fun x => { x with buf := (c.flashEnded.flash a 4096).zipIdx.map fun q => (q.2, q.1) } := by
  simp only [Chip.flashDone, hcmd, hop]
  rfl

/-- ERASE ends with the sector erased (R436). -/
theorem flashDone_of_erase (hop : op = 2) :
    c.flashDone true = { c.flashEnded with mem := { c.flashEnded.mem with cells := c.flashEnded.mem.cells.writeBytes (flashKey a) ((List.range 4096).map fun i => Config.erasedByte (a + i)) } } := by
  simp only [Chip.flashDone, hcmd, hop]
  rfl

/-- PROGRAM ends with the buffer in the sector (R436). -/
theorem flashDone_of_program (hop : op = 3) :
    c.flashDone true = { c.flashEnded with mem := { c.flashEnded.mem with cells := c.flashEnded.mem.cells.writeBytes (flashKey a) c.flashEnded.flashBuf } } := by
  simp only [Chip.flashDone, hcmd, hop]
  rfl

/-- Where the flash fails, the command ends with code 2 (R436). -/
theorem flashDone_of_failed : c.flashDone false = c.updIo fun x => { x with fcmd := none, fstate := 3, fcode := 2 } := by
  simp only [Chip.flashDone, hcmd]
  rfl

end

end

/-- Settles O6: each frame, message, edge and flash command is its operation in the case at hand. -/
theorem canSentTimeFlash : Obligations.CanSentTimeFlash := by
  constructor
  · intro s r n v t m off corr flow inlet port
    refine ⟨fun h => ?_, fun h => ?_, fun h => ?_, fun h => ?_, fun hon hbad => ?_, fun hon hgood hserial hflow hflow0 hflow1 hinlet hinlet0 hinlet1 => ?_, fun hoff => ?_,
      fun hsrc hdie hfar => ?_, fun hsrc hdie hnear => ?_, fun hsrc => ?_, fun hsrc hport hmac hptp => ?_, fun hlock hpast => ?_⟩
    · exact exec_eq_next rfl (if_neg h)
    · exact exec_eq_next rfl (if_pos h)
    · exact exec_eq_next rfl (if_pos h)
    · exact exec_eq_next rfl (if_neg h)
    · exact exec_eq_next rfl (sent_of_bad hon hbad)
    · exact exec_eq_next rfl (sent_of_good hon hgood hserial hflow hflow0 hflow1 hinlet hinlet0 hinlet1)
    · exact exec_eq_next rfl (sent_of_off hoff)
    · exact exec_eq_next rfl (ppsEdge_of_far corr hsrc hdie hfar)
    · exact exec_eq_next rfl (ppsEdge_of_near corr hsrc hdie hnear)
    · exact exec_eq_next rfl (ppsEdge_of_other off corr hsrc)
    · exact exec_eq_next rfl (ptp_of_chosen off corr hsrc hport hmac hptp)
    · exact exec_eq_next rfl (timeLost_of_due hlock hpast)
  · intro s op a
    refine ⟨fun ⟨hdie, hidle⟩ => ?_, fun ⟨hdie, hidle⟩ hopen => ?_, fun ⟨hdie, hidle⟩ hopen => ?_, fun ⟨hdie, hidle⟩ hguard => ?_, fun ⟨hdie, hidle⟩ hguard => ?_,
      fun hdie hbusy => ?_, fun hcmd => ?_, fun hcmd => ?_, fun hcmd => ?_, fun hcmd => ?_⟩
    · exact exec_eq_next rfl (flashCmd_of_open hdie hidle (Or.inl rfl))
    · exact exec_eq_next rfl (flashCmd_of_open hdie hidle (Or.inr hopen))
    · exact exec_eq_next rfl (flashCmd_of_open hdie hidle (Or.inr hopen))
    · exact exec_eq_next rfl (flashCmd_of_guarded hdie hidle (by decide) hguard)
    · exact exec_eq_next rfl (flashCmd_of_guarded hdie hidle (by decide) hguard)
    · exact exec_eq_next rfl (flashCmd_of_busy hdie 1 hbusy)
    · exact exec_eq_next rfl (flashDone_of_read hcmd rfl)
    · exact exec_eq_next rfl (flashDone_of_erase hcmd rfl)
    · exact exec_eq_next rfl (flashDone_of_program hcmd rfl)
    · exact exec_eq_next rfl (flashDone_of_failed hcmd)

end Sys2Proof.Machine

/-! SUPPORT and PROOFS. Link packets, ports and routes (R343-R345, R347, R351, R352). -/

namespace Sys2Proof.Machine

section
variable {c : Chip} {die p t d q : Nat}

/-! ## Acknowledgements, idle flits and NAKs (R343, R344) -/

/-- A replay buffer holds a packet of this LSEQ. -/
theorem replay_any_iff {x : Port} {seq : Nat} : (x.replay.any fun k => k.lseq == seq) = true ↔ ∃ k ∈ x.replay, k.lseq = seq := by
  simp only [List.any_eq_true, beq_iff_eq]

/-- An acknowledgement that the peer has sent frees the packets up to it, where the buffer holds it (R343). -/
theorem linkAck_of_sent {seq : Nat} (hstate : (c.port die p).state = 2) (hsent : c.peerSent die p false seq = true) :
    c.linkAck die p seq =
      if (((c.heardAt die p).peerLeft die p false seq).port die p).replay.any fun k => k.lseq == seq then
        (((c.heardAt die p).peerLeft die p false seq).updPort die p fun y => { y with replay := (y.replay.dropWhile fun k => k.lseq != seq).drop 1, nakRun := 0 }).refill die p
      else (c.heardAt die p).peerLeft die p false seq := if_pos ⟨hstate, hsent⟩

/-- Any other acknowledgement does nothing (log 30). -/
theorem linkAck_of_unsent {seq : Nat} (h : ¬ ((c.port die p).state = 2 ∧ c.peerSent die p false seq = true)) : c.linkAck die p seq = c := if_neg h

/-- An idle flit 256 ns after the last reaches a peer that runs (R343). -/
theorem idleFlit_of_due (hstate : ((c.at t).port die p).state = 2) (hpast : ((c.at t).port die p).txAt + 256 ≤ t) (hpeer : peerOf die p = some (d, q))
    (hruns : (((c.at t).updPort die p fun x => { x with txAt := t }).port d q).state = 2) :
    c.idleFlit die p t = ((c.at t).updPort die p fun x => { x with txAt := t }).updPort d q fun y => { y with rxAt := t } := by
  unfold Chip.idleFlit
  refine (if_pos ⟨hstate, hpast⟩).trans ?_
  rw [hpeer]
  exact if_pos hruns

/-- The NAKs in succession for one LSEQ. -/
def Port.nakCount (x : Port) (seq : Nat) : Nat := if x.nakRun ≠ 0 ∧ x.nak = seq then x.nakRun + 1 else 1

/-- The port replays from a packet. -/
def Chip.replayed (c : Chip) (die p seq : Nat) : Chip :=
  (c.updPort die p fun x => { x with nak := seq, nakRun := (c.port die p).nakCount seq }).lnkBump die p 0x70

/-- A NAK that the peer has sent, of a packet in the buffer, replays from it, and the eighth retrains (R344). -/
theorem nakIn_of_sent {seq : Nat} (hstate : ((c.at t).port die p).state = 2) (hsent : (c.at t).peerSent die p true seq = true)
    (hheld : (((((c.at t).heardAt die p).peerLeft die p true seq).port die p).replay.any fun k => k.lseq == seq) = true) :
    c.nakIn die p seq t =
      if ((((c.at t).heardAt die p).peerLeft die p true seq).port die p).nakCount seq = 8 then
        ((((c.at t).heardAt die p).peerLeft die p true seq).replayed die p seq).retrain die p
      else (((c.at t).heardAt die p).peerLeft die p true seq).replayed die p seq :=
  (if_pos ⟨hstate, hsent⟩).trans (if_pos hheld)

/-- Any other NAK changes nothing but the time (log 30). -/
theorem nakIn_of_unsent {seq : Nat} (h : ¬ (((c.at t).port die p).state = 2 ∧ (c.at t).peerSent die p true seq = true)) : c.nakIn die p seq t = c.at t :=
  if_neg h

/-! ## Packets that arrive (R344) -/

/-- The first nine flits of a packet, with their places. -/
def flitsOf (errs : List Nat) : List (Nat × Nat) := (errs.take 9).zipIdx

/-- A packet with no uncorrectable flit and no reserved value (R344). -/
def packetGood (k : Packet) (errs : List Nat) : Bool := !(flitsOf errs).any (fun e => isUE e.1) && hdrOk k.hdr && k.data.length == bits k.hdr 20 17

/-- What a good packet is. -/
theorem packetGood_iff {k : Packet} {errs : List Nat} :
    packetGood k errs = true ↔ (∀ e ∈ flitsOf errs, isUE e.1 = false) ∧ hdrOk k.hdr = true ∧ k.data.length = bits k.hdr 20 17 := by
  simp only [packetGood, Bool.and_eq_true, Bool.not_eq_true', List.any_eq_false, beq_iff_eq, and_assoc, Bool.not_eq_true]

/-- A corrected symbol is counted on the lane that carried it (R344). -/
def Chip.flitCounted (die p w grp t : Nat) (c : Chip) (e : Nat × Nat) : Chip := match classify e.1 with
  | .corrected sym _ => (c.lnkBump die p 0x60).updPort die p fun x => x.corrected ((grp + e.2) % w) sym t
  | _ => c

/-- The port has heard a packet and counted its corrected symbols. -/
def Chip.flitsCounted (c : Chip) (die p w grp t : Nat) (errs : List Nat) : Chip :=
  (flitsOf errs).foldl (Chip.flitCounted die p w grp t) (c.updPort die p fun x => { x with rxAt := t, told := false })

/-- A good packet in order is acknowledged, charged and goes on (R344). -/
def Chip.packetTaken (c : Chip) (die p : Nat) (k : Packet) : Chip :=
  (((c.charged { row := bits k.hdr 69 64, lnk := 32 * (1 + k.data.length) }).updPort die p fun x =>
    { x with rxSeq := (bits k.hdr 143 128 + 1) % 65536, acks := x.acks ++ [(false, bits k.hdr 143 128)] }).firstHop die p k).forward die k

/-- A bad packet is counted and NAKed (R344). -/
def Chip.packetNaked (c : Chip) (die p : Nat) (k : Packet) : Chip :=
  (c.lnkBump die p 0x68).updPort die p fun x => { x with acks := x.acks ++ [(true, bits k.hdr 143 128)] }

/-- Of a packet that has been sent, the flits are counted, and it is taken, dropped or NAKed (R344). -/
theorem packetIn_of_sent {from' : Chip} {grp : Nat} {k : Packet} {errs : List Nat} (hstate : ((c.at t).port die p).state = 2)
    (hsent : (c.at t).wasSent die p k = some from') :
    c.packetIn die p grp k errs t =
      let counted := from'.flitsCounted die p (max 1 ((c.at t).port die p).rxw) grp t errs
      if packetGood k errs then (if bits k.hdr 143 128 ≠ ((c.at t).port die p).rxSeq then counted else counted.packetTaken die p k) else counted.packetNaked die p k := by
  unfold Chip.packetIn
  refine (if_neg (not_not.mpr hstate)).trans ?_
  rw [hsent]
  dsimp only
  rw [List.foldl_map, List.any_map]
  have htest : ((flitsOf errs).any (fun e => isUE e.1) || !hdrOk k.hdr || k.data.length != bits k.hdr 20 17) = !packetGood k errs := by
    simp only [packetGood, Bool.not_and, Bool.not_not, bne]
  by_cases hgood : packetGood k errs = true
  · rw [if_pos hgood]
    refine (if_neg ?_).trans rfl
    exact fun h => by rw [hgood] at htest; exact Bool.false_ne_true (htest.symm.trans h)
  · rw [if_neg hgood]
    refine (if_pos ?_).trans rfl
    rw [Bool.not_eq_true] at hgood
    rw [hgood] at htest
    exact htest

/-- A packet without room waits at its sender (R343). -/
theorem packetIn_of_unsent {grp : Nat} {k : Packet} {errs : List Nat} (hstate : ((c.at t).port die p).state = 2) (hsent : (c.at t).wasSent die p k = none)
    (hpeer : peerOf die p = some (d, q)) : c.packetIn die p grp k errs t = (c.at t).sendOn d q k := by
  simp only [Chip.packetIn, hstate, hsent, hpeer, ne_eq, not_true_eq_false, if_false]

/-- A packet at a fenced port is counted (R352). -/
theorem packetIn_of_fenced {grp : Nat} {k : Packet} {errs : List Nat} (hstate : ((c.at t).port die p).state = 4) :
    c.packetIn die p grp k errs t = (c.at t).lnkBump die p 0x80 :=
  (if_pos (by rw [hstate]; decide)).trans (if_pos hstate)

/-! ## Ports and routes (R345, R347, R351, R352) -/

/-- 2 µs without a flit fence a port that runs (R345). -/
theorem portFence_of_silent (hstate : ((c.at t).port die p).state = 2) (htold : ((c.at t).port die p).told = false) (hpast : ((c.at t).port die p).rxAt + 2000 ≤ t) :
    c.portFence die p t = ((c.at t).fencePort die p).yardLosses := if_pos ⟨hstate, htold, hpast⟩

/-- A lane that fails: its port runs, and its errors of this millisecond reach the threshold (R347). -/
def Chip.laneFails (c : Chip) (die p lane t : Nat) : Prop :=
  (c.port die p).state = 2 ∧ (c.port die p).winAt / 1000000 = t / 1000000 ∧ c.lthr die p ≤ (c.port die p).win.get lane 0 ∧ ∃ g ∈ (c.port die p).groups, lane ∈ g

/-- The lane runs on unreplaced. -/
def Chip.laneLeft (c : Chip) (die p lane : Nat) : Chip :=
  (c.updPort die p fun x => { x with failed := x.failed.filter (· ≠ lane) ++ [lane], win := x.win.del lane }).sendErr { unit := lnkUnit die p, cls := 0x1A, synd := lane + 256 }

section
variable {lane : Nat} (hfails : (c.at t).laneFails die p lane t)
include hfails

/-- The model's test of a failing lane. -/
theorem laneFails_test :
    ((c.at t).port die p).state = 2 ∧ ((c.at t).port die p).winAt / 1000000 = t / 1000000 ∧ (c.at t).lthr die p ≤ ((c.at t).port die p).win.get lane 0 ∧
      ((c.at t).port die p).groups.any (·.contains lane) = true := by
  obtain ⟨hstate, hwin, hthr, g, hg, hlane⟩ := hfails
  exact ⟨hstate, hwin, hthr, List.any_eq_true.mpr ⟨g, hg, List.contains_iff_mem.mpr hlane⟩⟩

/-- A free spare is steered onto the lane (R347). -/
theorem laneFailing_of_spare {sp n : Nat} (hspare : ((c.at t).port die p).spares.zipIdx.find? (fun r => (((c.at t).port die p).steer.look r.2).isNone) = some (sp, n))
    (hpeer : peerOf die p = some (d, q)) :
    c.laneFailing die p lane t =
      ((((c.at t).updPort die p fun x => { x with steer := x.steer.set n lane, roles := (x.roles.set lane 8).set sp 5, groups := x.groups.map fun g => g.map fun l => if l = lane then sp else l, win := x.win.del lane }).lnkBump die p 0x78).sendErr
        { unit := lnkUnit die p, cls := 0x1A, synd := lane }).updPort d q fun y => { y with rxAt := max y.rxAt t } := by
  unfold Chip.laneFailing
  refine (if_pos (laneFails_test hfails)).trans ?_
  simp only [hspare, hpeer]

/-- Without spares it runs on, with LINK_DEGRADED the first time (R347). -/
theorem laneFailing_of_no_spare (hspare : ((c.at t).port die p).spares = []) :
    c.laneFailing die p lane t =
      if ((c.at t).port die p).failed.contains lane then (c.at t).laneLeft die p lane else ((c.at t).laneLeft die p lane).post .LINK_DEGRADED (lnkUnit die p) none lane := by
  unfold Chip.laneFailing
  refine (if_pos (laneFails_test hfails)).trans ?_
  simp only [hspare]
  rfl

end

/-- The roles that a retrain assigns (R346, R347). -/
def Chip.trained (c : Chip) (die p : Nat) (good : Nat → Bool) : Port := (c.port die p).train (narrow die p) (ioPort die p) (c.wmax die p) good

/-- A retrain ends with the trained lanes, or past 20 µs fences both ends (R347). -/
theorem retrainDone_of_training {good : Nat → Bool} (hstate : ((c.at t).port die p).state = 3) (hpeer : peerOf die p = some (d, q)) :
    c.retrainDone die p good t =
      if ((c.at t).port die p).reAt + 20000 < t ∨ ((c.at t).trained die p good).state = 4 then (((c.at t).fencePort die p).fencePort d q).yardLosses
      else ((((c.at t).updPort die p fun _ => { (c.at t).trained die p good with rxAt := t, told := false }).updPort d q fun z =>
        { z with txw := ((c.at t).trained die p good).rxw }).mailAt die p) := by
  unfold Chip.retrainDone
  refine (if_neg (not_not.mpr hstate)).trans ?_
  rw [hpeer]
  rfl

/-- Ports of a site that are fenced at either end. -/
def Chip.fencedPorts (c : Chip) (site : Nat) : List Nat :=
  (portsOf site).filter fun p => (c.port site p).state == 4 || match peerOf site p with
    | some (d, q) => (c.port d q).state == 4
    | none => false

/-- The probe of a site with a fenced port writes LINK_DOWN for each, or fences the hall (R351). -/
theorem hallProbe_of_fenced {site : Nat} (hfenced : c.fencedPorts site ≠ []) (hsite : c.site.state.get site 1 < 2) (answers : Bool) :
    c.hallProbe site answers = if answers then (c.fencedPorts site).foldl (fun c p => c.post .LINK_DOWN (lnkUnit site p) none) c else c.fenceSite site :=
  if_neg (not_or.mpr ⟨hfenced, Nat.not_le.mpr hsite⟩)

/-- Due routes take effect with a new generation (R351, R352). -/
theorem routeSwitch_of_due {due : Nat} (hdue : (c.at t).yard.due = some due) :
    c.routeSwitch t =
      (c.at t).yardLosses.resend { (c.at t).yardLosses with yard := { (c.at t).yardLosses.yard with
        sites := (List.range 72).filter (c.at t).yardLosses.crossable, up := ((c.at t).yardLosses.yard.ports.map Prod.fst).filter (c.at t).yardLosses.portUp, gen := ((c.at t).yardLosses.yard.gen + 1) % 2 ^ 64, tick := t, due := none } } := by
  simp only [Chip.routeSwitch, hdue]

end

/-- Settles O15: each packet, fence, lane, retrain, probe and switch is its operation in the case at hand. -/
theorem links : Obligations.Links := by
  constructor
  · intro s die p seq t d q grp hdr data errs from'
    have hlen : (data.map BitVec.toNat).length = data.length := List.length_map _
    refine ⟨fun ⟨hstate, hsent⟩ hheld => ?_, fun ⟨hstate, hsent⟩ hheld => ?_, fun h => ?_, fun hstate hpast hpeer hruns => ?_, fun ⟨hstate, hsent⟩ hheld hrun => ?_,
      fun ⟨hstate, hsent⟩ hheld hrun => ?_, fun h => ?_, fun ⟨hstate, hsent⟩ hgood hseq => ?_, fun ⟨hstate, hsent⟩ hgood hseq => ?_, fun ⟨hstate, hsent⟩ hbad => ?_,
      fun hstate hsent hpeer => ?_, fun hstate => ?_⟩
    · exact exec_eq_next rfl ((linkAck_of_sent hstate hsent).trans (if_pos (replay_any_iff.mpr hheld)))
    · exact exec_eq_next rfl ((linkAck_of_sent hstate hsent).trans (if_neg (mt replay_any_iff.mp hheld)))
    · exact exec_eq_next (d := s.toChip) rfl (linkAck_of_unsent h)
    · exact exec_eq_next rfl (idleFlit_of_due hstate hpast hpeer hruns)
    · exact exec_eq_next rfl ((nakIn_of_sent hstate hsent (replay_any_iff.mpr hheld)).trans (if_neg hrun))
    · exact exec_eq_next rfl ((nakIn_of_sent hstate hsent (replay_any_iff.mpr hheld)).trans (if_pos hrun))
    · exact exec_eq_next rfl (nakIn_of_unsent h)
    · refine exec_eq_next rfl ((packetIn_of_sent hstate hsent).trans ((if_pos (packetGood_iff.mpr ?_)).trans ((if_neg (not_not.mpr hseq)).trans ?_)))
      · rw [hlen]; exact hgood
      · rw [Chip.packetTaken, hlen]; rfl
    · refine exec_eq_next rfl ((packetIn_of_sent hstate hsent).trans ((if_pos (packetGood_iff.mpr ?_)).trans (if_pos hseq)))
      rw [hlen]; exact hgood
    · refine exec_eq_next rfl ((packetIn_of_sent hstate hsent).trans (if_neg (mt packetGood_iff.mp ?_)))
      rw [hlen]; exact hbad
    · exact exec_eq_next rfl (packetIn_of_unsent hstate hsent hpeer)
    · exact exec_eq_next rfl (packetIn_of_fenced hstate)
  · intro s die p site lane t d q due sp n bad
    refine ⟨fun hstate htold hpast => ?_, fun hhit hspare hpeer => ?_, fun hhit hspare hfailed => ?_, fun hhit hspare hfailed => ?_, fun hstate hpeer hlate => ?_,
      fun hstate hpeer htime hwidth => ?_, fun hfenced hsite => ?_, fun hfenced hsite => ?_, fun hdue => ?_⟩
    · exact exec_eq_next rfl (portFence_of_silent hstate htold hpast)
    · exact exec_eq_next rfl (laneFailing_of_spare hhit hspare hpeer)
    · exact exec_eq_next rfl ((laneFailing_of_no_spare hhit hspare).trans (if_pos (List.contains_iff_mem.mpr hfailed)))
    · exact exec_eq_next rfl ((laneFailing_of_no_spare hhit hspare).trans (if_neg (mt List.contains_iff_mem.mp hfailed)))
    · exact exec_eq_next rfl ((retrainDone_of_training hstate hpeer).trans (if_pos hlate))
    · exact exec_eq_next rfl ((retrainDone_of_training hstate hpeer).trans (if_neg (not_or.mpr ⟨Nat.not_lt.mpr htime, hwidth⟩)))
    · exact exec_eq_next rfl (hallProbe_of_fenced hfenced hsite true)
    · exact exec_eq_next rfl (hallProbe_of_fenced hfenced hsite false)
    · exact exec_eq_next rfl (routeSwitch_of_due hdue)

end Sys2Proof.Machine

/-! SUPPORT and PROOFS. Budgets, energy and operating points (R387-R389, R391, R392, R398). -/

namespace Sys2Proof.Machine

/-! ## Three of an ascending list -/

/-- Three elements of an ascending list that satisfy a test are three in ascending order. -/
theorem three_le_filter_iff {l : List Nat} (hl : l.Pairwise (· < ·)) {f : Nat → Bool} :
    3 ≤ (l.filter f).length ↔ ∃ a ∈ l, ∃ b ∈ l, ∃ e ∈ l, a < b ∧ b < e ∧ f a = true ∧ f b = true ∧ f e = true := by
  constructor
  · intro h
    have hsorted := hl.filter f
    have hmem : ∀ x ∈ l.filter f, x ∈ l ∧ f x = true := fun x hx => List.mem_filter.mp hx
    rcases hlist : l.filter f with _ | ⟨a, _ | ⟨b, _ | ⟨e, rest⟩⟩⟩
    · simp [hlist] at h
    · simp [hlist] at h
    · simp [hlist] at h
    · rw [hlist] at hsorted hmem
      simp only [List.pairwise_cons, List.mem_cons, forall_eq_or_imp] at hsorted hmem
      obtain ⟨⟨hab, -⟩, ⟨hbe, -⟩, -⟩ := hsorted
      obtain ⟨⟨ha, hfa⟩, ⟨hb, hfb⟩, ⟨he, hfe⟩, -⟩ := hmem
      exact ⟨a, ha, b, hb, e, he, hab, hbe, hfa, hfb, hfe⟩
  · rintro ⟨a, ha, b, hb, e, he, hab, hbe, hfa, hfb, hfe⟩
    have hdistinct : [a, b, e].Nodup := by simp; omega
    have hsub : [a, b, e] ⊆ l.filter f := by
      simp [List.subset_def, List.mem_filter, ha, hb, he, hfa, hfb, hfe]
    exact (hdistinct.subperm hsub).length_le

/-! ## The highest point -/

/-- The highest point below a bound that satisfies a test. -/
theorem highest_eq_of_prior {p : Nat → Bool} {n k : Nat} (hk : k < n) (hp : p k = true) (habove : ∀ j, k < j → j < n → ¬ p j = true) : highest p n = some k := by
  induction n with
  | zero => exact absurd hk (Nat.not_lt_zero k)
  | succ n ih =>
    rw [highest]
    rcases Nat.lt_or_ge k n with hlt | hge
    · rw [if_neg (habove n hlt (Nat.lt_succ_self n))]
      exact ih hlt fun j hj hn => habove j hj (Nat.lt_succ_of_lt hn)
    · obtain rfl : k = n := Nat.le_antisymm (Nat.lt_succ_iff.mp hk) hge
      rw [if_pos hp]

/-- Where no point satisfies it there is none. -/
theorem highest_eq_none {p : Nat → Bool} {n : Nat} (h : ∀ k < n, ¬ p k = true) : highest p n = none := by
  induction n with
  | zero => rfl
  | succ n ih =>
    rw [highest, if_neg (h n (Nat.lt_succ_self n))]
    exact ih fun k hk => h k (Nat.lt_succ_of_lt hk)

section
variable {c : Chip} {t : Nat}

/-! ## The budget loop (R388, R398) -/

/-- The debt after a period of `p` mW over the sustained budget. -/
def Chip.debtAfter (c : Chip) (p S : Nat) : Nat := c.pm.debt + p - S

/-- Peak periods in a row. -/
def Chip.peakRun (c : Chip) (p S : Nat) : Nat := if S < p then c.pm.run + 1 else 0

/-- The next budget. -/
def Chip.nextBudget (c : Chip) (p S peak : Nat) : Nat :=
  let pk := bits (c.reg (dcuK 0x7008)) 39 32
  if c.peakRun p S < pk ∧ c.debtAfter p S + (peak - S) ≤ (peak - S) * pk then peak else S - c.debtAfter p S / 20

/-- What the dies that are no halls take. -/
def Chip.fixedPower (c : Chip) : Nat :=
  5000 + 50 * c.spares + min (c.pm.iodDem.get 0 0) 22000 + min (c.pm.iodDem.get 1 0) 22000 + ((List.range 6).map fun m => min (c.pm.mbDem.get m 0) 16000).sum

/-- A hall's grant under a budget. -/
def Chip.grantIn (c : Chip) (b h : Nat) : Nat :=
  grantOf ((b : Int) - c.fixedPower) (c.activeSites.map fun h => (c.hallPwr h).demand).sum c.activeSites.length (c.hallPwr h).demand

/-- The period's end: debt, budget, grants, zone voltages and points. -/
def Chip.budgeted (c : Chip) (p S peak : Nat) : Chip :=
  let b := c.nextBudget p S peak
  let gave := c.activeSites.foldl (fun d h => d.updPwr h fun x => { x with granted := c.grantIn b h, hotWas := if x.hotOk then some x.hot else none }) c
  c.activeSites.foldl Chip.settlePoint (gave.updPm fun m => { m with
    debt := c.debtAfter p S, run := c.peakRun p S, budget := b, power := p, zone := (List.range 8).map fun r => (r, c.zoneNeed r (c.grantIn b))
    dieSent := ((List.range 6).map fun m => (m, min (c.pm.mbDem.get m 0) 16000)) ++ [(8, min (c.pm.iodDem.get 0 0) 22000), (9, min (c.pm.iodDem.get 1 0) 22000)] })

/-- A sudden coolant stop is recognised (R398). -/
def Chip.coolStops (c : Chip) (t : Nat) : Prop :=
  c.pm.cool ≠ 2 ∧ (3 ≤ (c.activeSites.filter fun h => (c.hallPwr h).rose).length ∨ (c.pm.flowValid t = true ∧ c.pm.reading < 500))

section
variable {p S peak : Nat} (hbudgets : (c.at t).sustPeak = (S, peak))
include hbudgets

/-- A period without a coolant stop (R388). -/
theorem budgetPeriod_of_flow (hstop : ¬ (c.at t).coolStops t) : c.budgetPeriod t p = (c.at t).budgeted p S peak := by
  simp only [Chip.budgetPeriod]
  rw [hbudgets]
  exact if_neg hstop

/-- A period that ends in one (R398). -/
theorem budgetPeriod_of_stop (hstop : (c.at t).coolStops t) : c.budgetPeriod t p = ((c.at t).budgeted p S peak).coolStop := by
  simp only [Chip.budgetPeriod]
  rw [hbudgets]
  exact if_pos hstop

end

/-- H rose by more than 2 degrees within the period. -/
theorem rose_iff {h : HallPwr} : h.rose = true ↔ h.hotOk = true ∧ ∃ w, h.hotWas = some w ∧ w + 32 < h.hot := by
  unfold HallPwr.rose
  cases h.hotWas <;> simp

/-- The active sites ascend. -/
theorem activeSites_pairwise : c.activeSites.Pairwise (· < ·) := List.pairwise_lt_range.filter _

/-- When the device recognises a coolant stop (R398). -/
theorem coolStops_iff :
    c.coolStops t ↔ c.pm.cool ≠ 2 ∧
      ((∃ a ∈ c.activeSites, ∃ b ∈ c.activeSites, ∃ e ∈ c.activeSites, a < b ∧ b < e ∧
        ((c.hallPwr a).hotOk = true ∧ ∃ w, (c.hallPwr a).hotWas = some w ∧ w + 32 < (c.hallPwr a).hot) ∧
        ((c.hallPwr b).hotOk = true ∧ ∃ w, (c.hallPwr b).hotWas = some w ∧ w + 32 < (c.hallPwr b).hot) ∧
        ((c.hallPwr e).hotOk = true ∧ ∃ w, (c.hallPwr e).hotWas = some w ∧ w + 32 < (c.hallPwr e).hot)) ∨
      (c.pm.flowOk = true ∧ t ≤ c.pm.flowAt + 10000000 ∧ c.pm.reading < 500)) := by
  have hvalid : (c.pm.flowValid t = true ∧ c.pm.reading < 500) ↔ c.pm.flowOk = true ∧ t ≤ c.pm.flowAt + 10000000 ∧ c.pm.reading < 500 := by
    simp [PwrSt.flowValid, and_assoc]
  simp only [Chip.coolStops, three_le_filter_iff activeSites_pairwise, rose_iff, hvalid]

/-! ## Demands and messages (R387, R389) -/

/-- A cool die's demand is its own (R387). -/
theorem hallDemand_of_mb {m : Fin 6} {idle : Nat} {want drew : List Nat} {rep : List Activity} (hcool : ((c.at t).reported (.mb m) rep).pm.dieHot.get m.val 0 = 0) :
    c.hallDemand (.mb m) idle want drew rep t = ((c.at t).reported (.mb m) rep).updPm fun p => { p with mbDem := p.mbDem.set m.val idle } := by
  simp only [Chip.hallDemand, Chip.updPm, hcool, if_true]

/-- A hot die's is cut (R387, R395). -/
theorem hallDemand_of_hot_iod {i : Fin 2} {idle : Nat} {want drew : List Nat} {rep : List Activity}
    (hhot : ((c.at t).reported (.iod i) rep).pm.dieHot.get (8 + i.val) 0 ≠ 0) :
    c.hallDemand (.iod i) idle want drew rep t =
      ((c.at t).reported (.iod i) rep).updPm fun p => { p with iodDem := p.iodDem.set i.val (min idle (p.iodDem.get i.val 0 * 9 / 10)) } := by
  simp only [Chip.hallDemand, Chip.updPm, if_neg hhot]

/-- A hall's is its idle power and what its stables want, away from a landing (R387). -/
theorem hallDemand_of_hall {h : Fin 72} {idle : Nat} {want drew : List Nat} {rep : List Activity} (hkind : ((c.at t).reported (.hall h) rep).periodKind t = 0) :
    c.hallDemand (.hall h) idle want drew rep t =
      ((c.at t).reported (.hall h) rep).updPwr h.val fun x => { x with demand := min 65535 (idle + ((List.range 4).map fun j => want.getD j 0).sum) } := by
  simp only [Chip.hallDemand, hkind]
  rfl

/-- Three periods without a message give a hall its floor (R389). -/
theorem budgetLost_of_silent {h : Fin 72} (hlost : ((c.at t).hallPwr h.val).lost = false) (hpast : ((c.at t).hallPwr h.val).period + 4 ≤ t / 1000000) :
    c.budgetLost (.hall h) t =
      (((c.at t).updPwr h.val fun x => { x with prev := 600, grant := 600, lost := true }).settlePoint h.val).post .PWR_BUDGET_LOST (dieUnit (.hall h)) none :=
  if_pos ⟨hlost, hpast⟩

/-! ## Points (R391, R392) -/

/-- A settled zone voltage reaches the nine halls of its row (R391). -/
theorem zoneSettled_of_some {row v : Nat} (hzone : c.pm.zone.look row = some v) :
    c.zoneSettled row = ((List.range 9).map (· + 9 * row)).foldl (fun c s => (c.updPwr s fun h => { h with vzone := v }).settlePoint s) c := by
  simp only [Chip.zoneSettled, hzone]

/-- Energy of this period so far. -/
def Chip.spentBy (c : Chip) (site e t : Nat) : Nat := (if (c.hallPwr site).spentIn = (t - 1) / 1000000 then (c.hallPwr site).spent else 0) + e

/-- The grant prorated to this point of the period. -/
def Chip.prorated (c : Chip) (site t : Nat) : Nat := (c.hallPwr site).grantAt (t - 1) * (t - (t - 1) / 1000000 * 1000000)

/-- The check adds to the hall's counter (R392). -/
def Chip.energyTaken (c : Chip) (site e t : Nat) : Chip :=
  c.updPwr site fun h => { h with energy := (h.energy + e) % 2 ^ 64, spent := c.spentBy site e t, spentIn := (t - 1) / 1000000 }

section
variable {site e : Nat}

/-- Energy above the grant steps down, unless the hall stands at point 0 (R392). -/
theorem energyCheck_of_above (habove : 102 * (c.at t).prorated site t < 100 * (c.at t).spentBy site e t * 1000000) :
    c.energyCheck site e t =
      if ((c.at t).hallPwr site).point = 0 then (c.at t).energyTaken site e t
      else (((c.at t).energyTaken site e t).updPwr site fun x =>
        { x with point := (highest (((c.at t).energyTaken site e t).pointOk site) ((c.at t).hallPwr site).point).getD 0 }).bump (pwrK site 0x28) :=
  if_pos habove

/-- Energy near the grant leaves the point (R392). -/
theorem energyCheck_of_near (habove : ¬ 102 * (c.at t).prorated site t < 100 * (c.at t).spentBy site e t * 1000000)
    (hbelow : ¬ 100 * (c.at t).spentBy site e t * 1000000 < 95 * (c.at t).prorated site t) : c.energyCheck site e t = (c.at t).energyTaken site e t :=
  (if_neg habove).trans (if_neg hbelow)

/-- The next point up to the ceiling that the hall may run at. -/
def Chip.nextPoint (c : Chip) (site point : Nat) : Option Nat := (List.range (c.ceilOf site + 1)).find? fun i => decide (point < i) && c.pointOk site i

section
variable (habove : ¬ 102 * (c.at t).prorated site t < 100 * (c.at t).spentBy site e t * 1000000)
  (hbelow : 100 * (c.at t).spentBy site e t * 1000000 < 95 * (c.at t).prorated site t)
include habove hbelow

/-- Energy below the grant steps up to the next point (R392). -/
theorem energyCheck_of_next {up : Nat} (hnext : ((c.at t).energyTaken site e t).nextPoint site ((c.at t).hallPwr site).point = some up) :
    c.energyCheck site e t = ((c.at t).energyTaken site e t).updPwr site fun x => { x with point := up } := by
  unfold Chip.nextPoint Chip.energyTaken at hnext
  unfold Chip.energyCheck
  refine (if_neg habove).trans ((if_pos hbelow).trans ?_)
  simp only [Chip.spentBy] at hnext
  rw [hnext]
  rfl

/-- Without one the point stays (R392). -/
theorem energyCheck_of_no_next (hnext : ((c.at t).energyTaken site e t).nextPoint site ((c.at t).hallPwr site).point = none) :
    c.energyCheck site e t = (c.at t).energyTaken site e t := by
  unfold Chip.nextPoint Chip.energyTaken at hnext
  unfold Chip.energyCheck
  refine (if_neg habove).trans ((if_pos hbelow).trans ?_)
  simp only [Chip.spentBy] at hnext
  rw [hnext]
  rfl

end

end

end

section
variable {c : Chip} {site point up : Nat}

/-- The next point is the first above that the hall may run at (R392). -/
theorem nextPoint_of_first (hup : point < up) (hceil : up ≤ c.ceilOf site) (hok : c.pointOk site up = true) (hfirst : ∀ k, point < k → k < up → ¬ c.pointOk site k = true) :
    c.nextPoint site point = some up := by
  rw [Chip.nextPoint, List.find?_range_eq_some]
  refine ⟨by simp [hup, hok], by simp; omega, fun k hk => ?_⟩
  by_cases h : point < k
  · simp [hfirst k h hk]
  · simp [h]

/-- There is none where no point above it, up to the ceiling, will do (R392). -/
theorem nextPoint_eq_none (hnone : ∀ k ≤ c.ceilOf site, point < k → ¬ c.pointOk site k = true) : c.nextPoint site point = none := by
  rw [Chip.nextPoint, List.find?_range_eq_none]
  intro k hk
  by_cases h : point < k
  · simp [hnone k (by omega) h]
  · simp [h]

/-- The point below is the highest that will do, or 0 where none does (R392). -/
theorem highest_getD_of_prior {p : Nat → Bool} {dn : Nat}
    (h : (dn < point ∧ p dn = true ∧ ∀ k, dn < k → k < point → ¬ p k = true) ∨ (dn = 0 ∧ ∀ k < point, ¬ p k = true)) : (highest p point).getD 0 = dn := by
  rcases h with ⟨hdn, hp, habove⟩ | ⟨rfl, hnone⟩
  · rw [highest_eq_of_prior hdn hp habove]; rfl
  · rw [highest_eq_none hnone]; rfl

/-- Energy above the grant steps down to the highest point below that the hall may run at (R392). -/
theorem energyCheck_of_prior {t e dn : Nat} (habove : 102 * (c.at t).prorated site t < 100 * (c.at t).spentBy site e t * 1000000) (hpoint : ((c.at t).hallPwr site).point ≠ 0)
    (hprior : (dn < ((c.at t).hallPwr site).point ∧ ((c.at t).energyTaken site e t).pointOk site dn = true ∧
        ∀ k, dn < k → k < ((c.at t).hallPwr site).point → ¬ ((c.at t).energyTaken site e t).pointOk site k = true) ∨
      (dn = 0 ∧ ∀ k < ((c.at t).hallPwr site).point, ¬ ((c.at t).energyTaken site e t).pointOk site k = true)) :
    c.energyCheck site e t = (((c.at t).energyTaken site e t).updPwr site fun x => { x with point := dn }).bump (pwrK site 0x28) := by
  rw [energyCheck_of_above habove, if_neg hpoint, highest_getD_of_prior hprior]

end

/-- Settles O14: each period, report, message, check and refit is its operation in the case at hand. -/
theorem powerRegulation : Obligations.PowerRegulation := by
  constructor
  · intro s t p idle want drew m i h rep S peak
    refine ⟨fun hbudgets hstop => ?_, fun hbudgets hstop => ?_, fun hcool => ?_, fun hhot => ?_, fun hkind => ?_, rfl, fun hlost hpast => ?_⟩
    · exact exec_eq_next rfl (budgetPeriod_of_flow hbudgets (mt coolStops_iff.mp hstop))
    · exact exec_eq_next rfl (budgetPeriod_of_stop hbudgets (coolStops_iff.mpr hstop))
    · exact exec_eq_next rfl (hallDemand_of_mb hcool)
    · exact exec_eq_next rfl (hallDemand_of_hot_iod hhot)
    · exact exec_eq_next rfl (hallDemand_of_hall hkind)
    · exact exec_eq_next rfl (budgetLost_of_silent hlost hpast)
  · intro s site uj t up dn zone v d coefs h
    refine ⟨fun hzone => ?_, fun habove hpoint hprior => ?_, fun habove hpoint => ?_, fun habove hbelow ⟨hup, hceil, hok, hfirst⟩ => ?_, fun habove hbelow hnone => ?_,
      fun habove hbelow => ?_, fun hd => ?_⟩
    · exact exec_eq_next rfl (zoneSettled_of_some hzone)
    · exact exec_eq_next rfl (energyCheck_of_prior habove hpoint hprior)
    · exact exec_eq_next rfl ((energyCheck_of_above habove).trans (if_pos hpoint))
    · exact exec_eq_next rfl (energyCheck_of_next habove hbelow (nextPoint_of_first hup hceil hok hfirst))
    · exact exec_eq_next rfl (energyCheck_of_no_next habove hbelow (nextPoint_eq_none hnone))
    · exact exec_eq_next rfl (energyCheck_of_near habove hbelow)
    · subst hd
      rfl

end Sys2Proof.Machine

/-! SUPPORT and PROOFS. Sensors, coolant, ageing and the reference run (R393, R394, R396, R397, R399, R400, R404). -/

namespace Sys2Proof.Machine

section
variable {c : Chip} {t : Nat}

/-! ## Sensors (R393, R394) -/

/-- An island's two sensors are read. -/
def Chip.islHeard (c : Chip) (i : Isl) (rs : List (Int × Bool)) (t : Nat) : Chip :=
  (rs.take 2).zipIdx.foldl (fun c r => c.updSens (10 + islN i) fun y => y.read r.2 r.1.1 (readingOk r.1.1 r.1.2) t) c

/-- One of an island's valid readings is at 125 degrees. -/
def Chip.islHot (c : Chip) (i : Isl) : Bool :=
  [0, 1].any fun j => !bit (c.sens (10 + islN i)).sus j && ((c.sens (10 + islN i)).temps.look j).any fun v => decide (2000 ≤ v)

/-- When an island is hot. -/
theorem islHot_iff {i : Isl} :
    c.islHot i = true ↔ ∃ j < 2, bit (c.sens (10 + islN i)).sus j = false ∧ ∃ v, (c.sens (10 + islN i)).temps.look j = some v ∧ 2000 ≤ v := by
  have htwo : ∀ p : Nat → Prop, (∃ j < 2, p j) ↔ p 0 ∨ p 1 := fun p => by
    simp only [Nat.lt_succ_iff_lt_or_eq]
    simp [or_and_right, exists_or]
  rw [htwo]
  simp [Chip.islHot, Option.any_eq_true]

/-- Its readings show in SI_TEMP, and 125 degrees trap it (R393). -/
theorem islTemperature_eq (i : Isl) (rs : List (Int × Bool)) :
    c.islTemperature i rs t = if (((c.at t).islHeard i rs t).islHot i) then (((c.at t).islHeard i rs t).showTemp i).islTrap i 0x22 else ((c.at t).islHeard i rs t).showTemp i := rfl

/-- A hall's sensor silent for 10 ms is suspect (R393). -/
theorem sensorSuspect_of_hall {site : Fin 72} {n : Nat} (hn : n < 4) (hsilent : ((c.at t).hallPwr site.val).seen.get n 0 + 10000000 ≤ t) :
    c.sensorSuspect (.die (.hall site)) n t = (c.at t).updPwr site.val fun h => { h with toSens := h.toSens.suspect n } :=
  if_pos ⟨hn, decide_eq_true hsilent⟩

/-- A base die's likewise (R393). -/
theorem sensorSuspect_of_mb {m : Fin 6} {n : Nat} (hn : n < 4) (hsilent : ((c.at t).sens m.val).seen.get n 0 + 10000000 ≤ t) :
    c.sensorSuspect (.die (.mb m)) n t = (c.at t).updSens m.val fun x => x.suspect n := by
  have hfew : n < (if dieN (.mb m) < 8 then 4 else 8) := by rw [if_pos (show dieN (.mb m) < 8 from lt_trans m.isLt (by decide))]; exact hn
  exact if_pos ⟨hfew, decide_eq_true hsilent⟩

/-- PAIRFLAG sets after more than 10 ms (R394). -/
theorem pairFlag_of_apart {site : Nat} (hpair : ((c.at t).hallPwr site).pair = false) (hapart : ((c.at t).hallPwr site).pairD = true)
    (hpast : ((c.at t).hallPwr site).pairT + 10000000 < t) :
    c.pairFlag site t = ((c.at t).updPwr site fun h => { h with pair := !h.pair }).post .THM_SENSOR (hallUnit site 6) none := if_pos (Or.inl ⟨hpair, hapart, hpast⟩)

/-! ## Coolant (R396, R397, R399) -/

/-- A valid flow reading is the estimate (R396). -/
theorem flowEstimate_of_valid {flow power : Nat} {rise : Int} (hfresh : t < (c.at t).pm.coolAt + 1000000000) (hok : (c.at t).pm.flowOk = true) (hrecent : t ≤ (c.at t).pm.flowAt + 10000000)
    (hlow : flow < (c.at t).coolCfg.2.2) : c.flowEstimate flow power rise t = (c.at t).updPm fun m => { m with flow := flow, okFrom := none } := by
  have hvalid : (c.at t).pm.flowValid t = true := by rw [PwrSt.flowValid, hok, decide_eq_true hrecent]; rfl
  simp only [Chip.flowEstimate, Chip.updPm]
  rw [if_neg (Nat.not_le.mpr hfresh), if_pos hvalid, if_neg (Nat.not_le.mpr hlow)]

/-- Entry into DEGRADED (R397). -/
theorem coolDegraded_of_normal (hcool : (c.at t).pm.cool = 0) (hlow : (c.at t).pm.flow < (c.at t).coolCfg.2.1) :
    c.coolDegraded t =
      let d := ((c.at t).updPm fun m => { m with cool := 1 }).bump (dcuK 0x7028)
      (d.updPm fun m => { m with degAt := t }).post .COOLING_DEGRADED (unitPath 8 0xFF 0 0 0 1) none d.pm.flow := if_pos ⟨hcool, hlow⟩

/-- Each 60 s within it (R397). -/
theorem coolDegraded_of_degraded (hcool : (c.at t).pm.cool = 1) (hpast : (c.at t).pm.degAt + 60000000000 ≤ t) :
    c.coolDegraded t = ((c.at t).updPm fun m => { m with degAt := t }).post .COOLING_DEGRADED (unitPath 8 0xFF 0 0 0 1) none (c.at t).pm.flow :=
  (if_neg fun h => absurd (h.1.symm.trans hcool) (by decide)).trans (if_pos ⟨hcool, hpast⟩)

/-- 60 s at or above RESFLOW restore NORMAL (R397). -/
theorem coolRestored_of_due {o : Nat} (hfrom : (c.at t).pm.okFrom = some o) (hcool : (c.at t).pm.cool = 1) (hpast : o + 60000000000 ≤ t) :
    c.coolRestored t = ((c.at t).updPm fun m => { m with cool := 0 }).post .COOLING_RESTORED (unitPath 8 0xFF 0 0 0 1) none := by
  simp only [Chip.coolRestored]
  rw [hfrom]
  exact if_pos ⟨hcool, hpast⟩

/-- RESUME elsewhere than in STOPPED, or without the flow, is counted (R399). -/
theorem coolResume_of_other (h : c.pm.cool ≠ 2 ∨ c.pm.flow < c.coolCfg.2.2) : c.coolResume = c.bump (dcuK 0x70D0) := by
  refine if_neg fun ⟨hcool, hflow⟩ => ?_
  rcases h with h | h
  · exact h hcool
  · exact absurd hflow (Nat.not_le.mpr h)

/-! ## Ageing and efficiency (R400, R404) -/

/-- A measurement is due. -/
def Chip.ageingIsDue (c : Chip) (site t : Nat) : Bool :=
  c.siteActive site && c.time.running && decide (c.start c.time.frame ≤ t) && decide (t < c.start c.time.frame + c.L) && decide ((c.planBase.sites.get site {}).measured + 15 ≤ c.minutes)

/-- It is due during a landing, on an active hall, 15 minutes after its last (R400). -/
theorem ageingIsDue_iff {site : Nat} :
    c.ageingIsDue site t = true ↔ c.siteActive site = true ∧ c.time.running = true ∧ c.start c.time.frame ≤ t ∧ t < c.start c.time.frame + c.L ∧
      (c.planBase.sites.get site {}).measured + 15 ≤ c.minutes := by
  simp only [Chip.ageingIsDue, Bool.and_eq_true, decide_eq_true_eq, and_assoc]

/-- A measurement acts where it is due (R400). -/
theorem ageingDue_eq {site : Nat} (slack ro : List Nat) :
    c.ageingDue site slack ro t = if (c.at t).ageingIsDue site t then (c.at t).ageing site slack ro else c.at t := rfl

/-- A margin plan is written where one is due (R400). -/
theorem marginWriteDone_of_due (ok : Bool) (h : c.pm.planWrite = true) : c.marginWriteDone ok = c.planWritten ok := if_pos (by rw [h, Bool.true_or])

/-- The reference run needs every partition free (R404). -/
theorem effRun_of_free (h : ∀ q ∈ (c.at t).parts, q.2.state = 0) : c.effRun t = (c.at t).updPm fun m => { m with effEnd := some (t + 1000000000) } :=
  if_pos (List.all_eq_true.mpr fun q hq => beq_iff_eq.mpr (h q hq))

/-- With one that is not it is counted (R404). -/
theorem effRun_of_busy (h : ¬ ∀ q ∈ (c.at t).parts, q.2.state = 0) : c.effRun t = (c.at t).bump (dcuK 0x70D0) :=
  if_neg fun hall => h fun q hq => beq_iff_eq.mp (List.all_eq_true.mp hall q hq)

/-- Its end sets the four factors with their time (R404). -/
theorem effDone_of_due {e : Nat} (fs : List Nat) (hend : (c.at t).pm.effEnd = some e) (hpast : e ≤ t) :
    c.effDone fs t = (c.at t).updPm fun m => { m with effEnd := none, eff := (fs.take 4).zipIdx.map fun f => (f.2, (f.1, t / 1000000)) } := by
  simp only [Chip.effDone]
  rw [hend]
  exact if_pos hpast

end

/-- Settles O58: each reading, coolant state, measurement and run is its operation in the case at hand. -/
theorem heatAndAgeing : Obligations.HeatAndAgeing := by
  constructor
  · intro s i rs site h m n t o flow power rise
    refine ⟨fun hhot => ?_, fun hcool => ?_, rfl, fun hn hsilent => ?_, fun hn hsilent => ?_, fun hpair hapart hpast => ?_, fun hfresh hok hrecent hlow => ?_, fun hcool hlow => ?_,
      fun hcool hpast => ?_, fun hfrom hcool hpast => ?_, fun hcool hflow => ?_, fun h => ?_⟩
    · exact exec_eq_next rfl ((islTemperature_eq i rs).trans (if_pos (islHot_iff.mpr hhot)))
    · exact exec_eq_next rfl ((islTemperature_eq i rs).trans (if_neg (mt islHot_iff.mp hcool)))
    · exact exec_eq_next rfl (sensorSuspect_of_hall hn hsilent)
    · exact exec_eq_next rfl (sensorSuspect_of_mb hn hsilent)
    · exact exec_eq_next rfl (pairFlag_of_apart hpair hapart hpast)
    · exact exec_eq_next rfl (flowEstimate_of_valid hfresh hok hrecent hlow)
    · exact exec_eq_next rfl (coolDegraded_of_normal hcool hlow)
    · exact exec_eq_next rfl (coolDegraded_of_degraded hcool hpast)
    · exact exec_eq_next rfl (coolRestored_of_due hfrom hcool hpast)
    · exact exec_eq_next rfl (if_pos ⟨hcool, hflow⟩)
    · exact exec_eq_next rfl (coolResume_of_other h)
  · intro s site slack ro fs t e ok
    refine ⟨fun hdue => ?_, fun hdue => ?_, fun h => ?_, fun h => ?_, fun h => ?_, fun hend hpast => ?_⟩
    · exact exec_eq_next rfl ((ageingDue_eq slack ro).trans (if_pos (ageingIsDue_iff.mpr hdue)))
    · exact exec_eq_next rfl ((ageingDue_eq slack ro).trans (if_neg (mt ageingIsDue_iff.mp hdue)))
    · exact exec_eq_next rfl (marginWriteDone_of_due ok h)
    · exact exec_eq_next rfl (effRun_of_free h)
    · exact exec_eq_next rfl (effRun_of_busy h)
    · exact exec_eq_next rfl (effDone_of_due fs hend hpast)

end Sys2Proof.Machine

/-! SUPPORT and PROOFS. Control samples, compare messages and compare points of the islands (R298, R299, R314-R316). -/

namespace Sys2Proof.Machine

section
variable {c : Chip} {i : Isl}

/-! ## Control samples (R299) -/

/-- The sample's time is kept. -/
def Chip.sampleTaken (c : Chip) (i : Isl) (g : Nat) : Chip := c.updIsl i fun y => { y with sampled := some g }

/-- The plan state that the sample decides, from that in force before it (R309, R310). -/
def Chip.sampleDecided (c : Chip) (i : Isl) (g was : Nat) : Chip :=
  let d := (c.activate' i g 3).sampleMode i g
  if (d.isl i).pmode ≠ was then d.islFlag i 2 else d

/-- The set-points, and the compare message held and sent (R309, R314). -/
def Chip.sampleSent (c : Chip) (i : Isl) (g : Nat) : Chip :=
  let d := c.updIsl i fun y => { y with sp := c.setPoints i g }
  (d.updIsl i fun y => { y with sent := some (d.cmpMsg i g), link := some (d.cmpMsg i g) }).islFlag i 0

section
variable {g : Nat} (hinstant : c.instant (islDie i) (c.csp i) = some g) (hup : (c.isl i).up = true) (hlater : ∀ u, (c.isl i).sampled = some u → u < g)
include hinstant hup hlater

/-- A sample that is due is the island's, with a trap or without (R299). -/
theorem controlSample_of_due :
    c.controlSample i =
      if (c.isl i).trap ≠ 0 then (if (c.isl i).safe then c.sampleTaken i g else (c.sampleTaken i g).safeOutputs i)
      else ((c.sampleTaken i g).sampleDecided i g (c.isl i).pmode).sampleSent i g := by
  simp only [Chip.controlSample, hinstant, Chip.sampleAt, hup]
  refine (if_neg ?_).trans rfl
  cases hsampled : (c.isl i).sampled with
  | none => simp
  | some u => simp [hlater u hsampled]

/-- Without a trap it decides the plan state, computes the set-points and sends (R299, R309, R314). -/
theorem controlSample_of_no_trap (htrap : (c.isl i).trap = 0) : c.controlSample i = ((c.sampleTaken i g).sampleDecided i g (c.isl i).pmode).sampleSent i g := by
  rw [controlSample_of_due hinstant hup hlater, if_neg (not_not.mpr htrap)]

/-- With a trap it puts out the safe outputs, once (R305). -/
theorem controlSample_of_trap (htrap : (c.isl i).trap ≠ 0) :
    c.controlSample i = if (c.isl i).safe then c.sampleTaken i g else (c.sampleTaken i g).safeOutputs i := by
  rw [controlSample_of_due hinstant hup hlater, if_pos htrap]

end

/-- Off a multiple of CSP there is no sample (log 30). -/
theorem controlSample_of_off (hinstant : c.instant (islDie i) (c.csp i) = none) : c.controlSample i = c := by
  simp only [Chip.controlSample, hinstant]

/-! ## Compare messages (R314) -/

/-- The other island's message has left the link. -/
def Chip.linkTaken (c : Chip) (i : Isl) : Chip := c.updIsl (otherIsl i) fun y => { y with link := none }

/-- The message is held for the comparison. -/
def Chip.linkHeld (c : Chip) (i : Isl) (m : CmpMsg) : Chip := (c.linkTaken i).updIsl i fun y => { y with got := some m }

section
variable {m : CmpMsg} (hlink : (c.isl (otherIsl i)).link = some m)
include hlink

/-- A sound message, with neither island in hold, is held (R314). -/
theorem compareReceive_of_sound (hup : ((c.linkTaken i).isl i).up = true) (hpeer : (c.linkTaken i).peerLink i = true) (htrap : ((c.linkTaken i).isl i).trap = 0)
    (hmhold : m.dthold = false) (hbhold : ((c.linkHeld i m).isl .B).dthold = false) : c.compareReceive i true = c.linkHeld i m := by
  simp only [Chip.compareReceive, hlink]
  have hgoes : ¬ (!((c.linkTaken i).isl i).up || !true || !(c.linkTaken i).peerLink i || decide (((c.linkTaken i).isl i).trap ≠ 0)) = true := by
    rw [hup, hpeer, htrap]; decide
  have hkeeps : ¬ (i = .B ∧ (m.dthold || ((c.linkHeld i m).isl .B).dthold) = true) := by
    rw [hmhold, hbhold]; exact fun h => Bool.false_ne_true h.2
  exact (if_neg hgoes).trans (if_neg hkeeps)

/-- One that arrives with a wrong CRC is dropped (R314). -/
theorem compareReceive_of_unsound : c.compareReceive i false = c.linkTaken i := by
  simp only [Chip.compareReceive, hlink]
  exact if_pos (by simp)

end

/-! ## The comparison (R315, R316) -/

/-- The sample's messages leave. -/
def Chip.compared (c : Chip) (i : Isl) : Chip := c.updIsl i fun y => { y with sent := none, got := none }

/-- A miss: the second in a row drops the peer and triggers a stop (R316). -/
def IslSt.missed (y : IslSt) : IslSt :=
  { y with goodRun := 0, missRun := y.missRun + 1, peer := if 1 ≤ y.missRun then false else y.peer, trig := if 1 ≤ y.missRun then y.trig ++ [3] else y.trig }

/-- A message: the eighth in a row makes the peer good (R316). -/
def IslSt.met (y : IslSt) (xr : AMap Nat Nat) : IslSt := { y with missRun := 0, goodRun := y.goodRun + 1, peer := y.peer || decide (y.goodRun + 1 ≥ 8), xrun := xr }

/-- Two messages differ, or a channel has been distant for too long (R315). -/
def Chip.differs (c : Chip) (i : Isl) (own m : CmpMsg) (xr : AMap Nat Nat) : Bool :=
  own.time != m.time || own.pmode != m.pmode || own.frame != m.frame || own.seq != m.seq || own.badrun != m.badrun || own.bad100 != m.bad100 || own.sp != m.sp ||
    xr.any fun e => decide (e.2 ≥ bits (c.reg (siK i 8)) 27 24)

/-- When they agree. -/
theorem differs_eq_false_iff {own m : CmpMsg} {xr : AMap Nat Nat} :
    c.differs i own m xr = false ↔ own.time = m.time ∧ own.pmode = m.pmode ∧ own.frame = m.frame ∧ own.seq = m.seq ∧ own.badrun = m.badrun ∧ own.bad100 = m.bad100 ∧ own.sp = m.sp ∧
      ∀ e ∈ xr, e.2 < bits (c.reg (siK i 8)) 27 24 := by
  simp only [Chip.differs, Bool.or_eq_false_iff, bne_eq_false_iff_eq, List.any_eq_false, decide_eq_true_eq, ge_iff_le, Nat.not_le, and_assoc]

section
variable {own : CmpMsg} (hup : (c.isl i).up = true) (htrap : (c.isl i).trap = 0) (htime : own.time + c.csp i / 2 ≤ c.localTime (islDie i))
include hup htrap htime

/-- The comparison is due. -/
theorem compare_due : ¬ (!(c.isl i).up || decide ((c.isl i).trap ≠ 0) || decide (c.localTime (islDie i) < own.time + c.csp i / 2)) = true := by
  rw [hup, htrap, decide_eq_false (Nat.not_lt.mpr htime)]; decide

variable (hsent : (c.isl i).sent = some own)
include hsent

/-- Without a message the comparison counts a miss (R316). -/
theorem comparePoint_of_miss (hgot : (c.isl i).got = none) : c.comparePoint i = ((c.compared i).bump (siK i 0x70)).updIsl i IslSt.missed := by
  have hmissed : (fun s : IslSt => let s := { s with goodRun := 0, missRun := s.missRun + 1 }; if s.missRun ≥ 2 then { s with peer := false, trig := s.trig ++ [3] } else s) = IslSt.missed := by
    funext y
    by_cases h : 1 ≤ y.missRun
    · have hsecond : y.missRun + 1 ≥ 2 := Nat.succ_le_succ h
      simp only [IslSt.missed, if_pos h, if_pos hsecond]
    · have hfirst : ¬ y.missRun + 1 ≥ 2 := fun h' => h (Nat.le_of_succ_le_succ h')
      simp only [IslSt.missed, if_neg h, if_neg hfirst]
  rw [← hmissed]
  simp only [Chip.comparePoint, hsent]
  refine (if_neg (compare_due hup htrap htime)).trans ?_
  rw [hgot]
  rfl

/-- With one it compares (R315). -/
theorem comparePoint_of_message {m : CmpMsg} (hgot : (c.isl i).got = some m) :
    c.comparePoint i =
      let good := (c.compared i).updIsl i fun y => y.met (xcmpRuns (c.isl i) own m)
      if (c.compared i).differs i own m (xcmpRuns (c.isl i) own m) then (good.bump (siK i 0x68)).updIsl i fun y => { y with trig := y.trig ++ [2] } else good := by
  simp only [Chip.comparePoint, hsent]
  refine (if_neg (compare_due hup htrap htime)).trans ?_
  rw [hgot]
  rfl

end

end

/-- Settles O18: each sample, message and comparison is its operation in the case at hand. -/
theorem controlAndComparePoints : Obligations.ControlAndComparePoints := by
  constructor
  · intro s i t g m
    refine ⟨fun ⟨hinstant, hup, hlater⟩ htrap => ?_, fun ⟨hinstant, hup, hlater⟩ htrap hsafe => ?_, fun ⟨hinstant, hup, hlater⟩ htrap hsafe => ?_, fun hinstant => ?_,
      fun hlink hup hpeer htrap hmhold hbhold => ?_, fun hlink => ?_⟩
    · exact exec_eq_next rfl (controlSample_of_no_trap hinstant hup hlater htrap)
    · exact exec_eq_next rfl ((controlSample_of_trap hinstant hup hlater htrap).trans (if_neg (Bool.eq_false_iff.mp hsafe)))
    · exact exec_eq_next rfl ((controlSample_of_trap hinstant hup hlater htrap).trans (if_pos hsafe))
    · exact exec_eq_next rfl (controlSample_of_off hinstant)
    · exact exec_eq_next rfl (compareReceive_of_sound hlink hup hpeer htrap hmhold hbhold)
    · exact exec_eq_next rfl (compareReceive_of_unsound hlink)
  · intro s i t own m
    refine ⟨fun ⟨hsent, hup, htrap, htime⟩ hgot => ?_, fun ⟨hsent, hup, htrap, htime⟩ hgot hsame => ?_, fun ⟨hsent, hup, htrap, htime⟩ hgot hdiffers => ?_⟩
    · exact exec_eq_next rfl (comparePoint_of_miss hup htrap htime hsent hgot)
    · exact exec_eq_next rfl ((comparePoint_of_message hup htrap htime hsent hgot).trans (if_neg (Bool.eq_false_iff.mp (differs_eq_false_iff.mpr hsame))))
    · exact exec_eq_next rfl ((comparePoint_of_message hup htrap htime hsent hgot).trans (if_pos (Bool.not_eq_false _ ▸ mt differs_eq_false_iff.mp hdiffers)))

end Sys2Proof.Machine

/-! SUPPORT and PROOFS. The word code (R161, R162): multiplication by α is an injective linear map of bytes, no power of it below 36 fixes a
    byte other than 0, so an error of at most three symbols is found by elimination (Vandermonde). -/

namespace Sys2Proof.Machine

/-! ## Multiplication by α -/

/-- The model writes the sum of two symbols as `Nat.xor`. -/
theorem natXor_eq (a b : Nat) : Nat.xor a b = a ^^^ b := rfl

/-- α times a symbol is a shift, less the field's polynomial where a bit leaves the symbol. -/
theorem gfDouble_eq {a : Nat} (ha : a < 256) : gfDouble a = 2 * a ^^^ if a.testBit 7 then 0x11D else 0 := by
  revert a
  decide +kernel

theorem gfDouble_lt {a : Nat} (ha : a < 256) : gfDouble a < 256 := by
  revert a
  decide +kernel

theorem gfDouble_xor {a b : Nat} (ha : a < 256) (hb : b < 256) : gfDouble (a ^^^ b) = gfDouble a ^^^ gfDouble b := by
  have hab : a ^^^ b < 2 ^ 8 := Nat.xor_lt_two_pow ha hb
  have h2 : 2 * (a ^^^ b) = 2 * a ^^^ 2 * b := by
    simpa [Nat.shiftLeft_eq, Nat.mul_comm] using Nat.shiftLeft_xor_distrib (a := a) (b := b) (i := 1)
  rw [gfDouble_eq ha, gfDouble_eq hb, gfDouble_eq hab, h2, Nat.testBit_xor]
  cases a.testBit 7 <;> cases b.testBit 7 <;> simp <;> grind

/-- α^n times a symbol. -/
def gfShift (n a : Nat) : Nat := gfDouble^[n] a

@[simp] theorem gfShift_zero (a : Nat) : gfShift 0 a = a := rfl

theorem gfShift_succ (n a : Nat) : gfShift (n + 1) a = gfDouble (gfShift n a) := Function.iterate_succ_apply' ..

theorem gfShift_add (m n a : Nat) : gfShift (m + n) a = gfShift m (gfShift n a) := Function.iterate_add_apply ..

theorem gfShift_comm (m n a : Nat) : gfShift m (gfShift n a) = gfShift n (gfShift m a) := by
  rw [← gfShift_add, Nat.add_comm, gfShift_add]

theorem gfShift_lt (n : Nat) {a : Nat} (ha : a < 256) : gfShift n a < 256 := by
  induction n with
  | zero => exact ha
  | succ n ih => rw [gfShift_succ]; exact gfDouble_lt ih

theorem gfShift_xor (n : Nat) {a b : Nat} (ha : a < 256) (hb : b < 256) : gfShift n (a ^^^ b) = gfShift n a ^^^ gfShift n b := by
  induction n with
  | zero => rfl
  | succ n ih => rw [gfShift_succ, ih, gfDouble_xor (gfShift_lt n ha) (gfShift_lt n hb), gfShift_succ, gfShift_succ]

@[simp] theorem gfShift_of_zero (n : Nat) : gfShift n 0 = 0 := by
  induction n with
  | zero => rfl
  | succ n ih => rw [gfShift_succ, ih]; rfl

theorem gfDouble_injective {a b : Nat} (ha : a < 256) (hb : b < 256) (h : gfDouble a = gfDouble b) : a = b := by
  have hker : ∀ x < 256, gfDouble x = 0 → x = 0 := by decide +kernel
  have hx : gfDouble (a ^^^ b) = 0 := by rw [gfDouble_xor ha hb, h, Nat.xor_self]
  exact Nat.xor_eq_zero_iff.mp (hker _ (Nat.xor_lt_two_pow (n := 8) ha hb) hx)

theorem gfShift_injective (n : Nat) {a b : Nat} (ha : a < 256) (hb : b < 256) (h : gfShift n a = gfShift n b) : a = b := by
  induction n with
  | zero => exact h
  | succ n ih =>
    rw [gfShift_succ, gfShift_succ] at h
    exact ih (gfDouble_injective (gfShift_lt n ha) (gfShift_lt n hb) h)

/-! ## Products -/

theorem gfPow_eq_gfShift (n : Nat) : gfPow n = gfShift n 1 := by
  induction n with
  | zero => rfl
  | succ n ih => rw [gfShift_succ, ← ih]; rfl

theorem gfPow_lt (n : Nat) : gfPow n < 256 := by
  rw [gfPow_eq_gfShift]
  exact gfShift_lt n (by decide)

theorem gfMulAux_lt (n b : Nat) {a : Nat} (ha : a < 256) : gfMulAux n a b < 256 := by
  induction n generalizing b with
  | zero => exact Nat.two_pow_pos 8
  | succ n ih =>
    have hodd : (if b % 2 == 1 then a else 0) < 256 := by split <;> omega
    exact Nat.xor_lt_two_pow (n := 8) (gfDouble_lt (ih (b / 2))) hodd

/-- A product is linear in its first factor. -/
theorem gfMulAux_xor (n b : Nat) {a a' : Nat} (ha : a < 256) (ha' : a' < 256) :
    gfMulAux n (a ^^^ a') b = gfMulAux n a b ^^^ gfMulAux n a' b := by
  induction n generalizing b with
  | zero => simp [gfMulAux]
  | succ n ih =>
    simp only [gfMulAux, natXor_eq]
    rw [ih, gfDouble_xor (gfMulAux_lt n _ ha) (gfMulAux_lt n _ ha')]
    split <;> grind

theorem gfMul_xor (b : Nat) {a a' : Nat} (ha : a < 256) (ha' : a' < 256) : gfMul (a ^^^ a') b = gfMul a b ^^^ gfMul a' b :=
  gfMulAux_xor 8 b ha ha'

theorem gfMulAux_double (n b : Nat) {a : Nat} (ha : a < 256) : gfMulAux n (gfDouble a) b = gfDouble (gfMulAux n a b) := by
  induction n generalizing b with
  | zero => rfl
  | succ n ih =>
    have hodd : (if b % 2 == 1 then a else 0) < 256 := by split <;> omega
    simp only [gfMulAux, natXor_eq]
    rw [gfDouble_xor (gfDouble_lt (gfMulAux_lt n _ ha)) hodd, ih]
    split <;> rfl

theorem gfMul_shift (n b : Nat) {a : Nat} (ha : a < 256) : gfMul (gfShift n a) b = gfShift n (gfMul a b) := by
  induction n with
  | zero => rfl
  | succ n ih => rw [gfShift_succ, gfShift_succ, ← ih]; exact gfMulAux_double 8 b (gfShift_lt n ha)

theorem gfMul_one {b : Nat} (hb : b < 256) : gfMul 1 b = b := by
  revert b
  decide +kernel

/-- Multiplying by a power of α from the left. -/
theorem gfPow_mul (n : Nat) {b : Nat} (hb : b < 256) : gfMul (gfPow n) b = gfShift n b := by
  rw [gfPow_eq_gfShift, gfMul_shift n b (by decide), gfMul_one hb]

/-- A factor below 2^n needs only n steps. -/
theorem gfMulAux_of_lt {n b : Nat} (a : Nat) (hb : b < 2 ^ n) : gfMulAux (n + 1) a b = gfMulAux n a b := by
  induction n generalizing b with
  | zero => simp [gfMulAux, Nat.lt_one_iff.mp hb, gfDouble]
  | succ n ih => rw [gfMulAux, ih (by omega), gfMulAux]

theorem gfMulAux_two_mul (n a b : Nat) : gfMulAux (n + 1) a (2 * b) = gfDouble (gfMulAux n a b) := by
  simp [gfMulAux]

/-- A product is linear in its second factor. -/
theorem gfMulAux_xor_right (n b b' : Nat) {a : Nat} (ha : a < 256) : gfMulAux n a (b ^^^ b') = gfMulAux n a b ^^^ gfMulAux n a b' := by
  induction n generalizing b b' with
  | zero => simp [gfMulAux]
  | succ n ih =>
    have hhalf : (b ^^^ b') / 2 = b / 2 ^^^ b' / 2 := by simpa [Nat.shiftRight_eq_div_pow] using Nat.shiftRight_xor_distrib (a := b) (b := b') (i := 1)
    have hodd : (b ^^^ b') % 2 = (b % 2) ^^^ (b' % 2) := by simpa using Nat.xor_mod_two_pow (a := b) (b := b') (n := 1)
    simp only [gfMulAux, natXor_eq]
    rw [hhalf, ih, gfDouble_xor (gfMulAux_lt n _ ha) (gfMulAux_lt n _ ha), hodd]
    rcases Nat.mod_two_eq_zero_or_one b with h | h <;> rcases Nat.mod_two_eq_zero_or_one b' with h' | h' <;> simp [h, h'] <;> grind

/-- The field's polynomial, as a factor of nine bits, is 0. -/
theorem gfMulAux_poly {a : Nat} (ha : a < 256) : gfMulAux 9 a 0x11D = 0 := by
  revert a
  decide +kernel

theorem gfMulAux_zero (n a : Nat) : gfMulAux n a 0 = 0 := by
  induction n with
  | zero => rfl
  | succ n ih => simp [gfMulAux, ih, gfDouble]

/-- Multiplying by α commutes with any product. -/
theorem gfMul_double {a b : Nat} (ha : a < 256) (hb : b < 256) : gfMul a (gfDouble b) = gfDouble (gfMul a b) := by
  have hnine : gfMul a (gfDouble b) = gfMulAux 9 a (gfDouble b) := (gfMulAux_of_lt (n := 8) a (gfDouble_lt hb)).symm
  have hpoly : gfMulAux 9 a (if b.testBit 7 then 0x11D else 0) = 0 := by
    split
    · exact gfMulAux_poly ha
    · exact gfMulAux_zero 9 a
  rw [hnine, gfDouble_eq hb, gfMulAux_xor_right 9 _ _ ha, gfMulAux_two_mul, hpoly, Nat.xor_zero, gfMul]

/-- Multiplying by a power of α from the right. -/
theorem gfMul_gfPow (n : Nat) {a : Nat} (ha : a < 256) : gfMul a (gfPow n) = gfShift n a := by
  induction n with
  | zero => revert a; decide +kernel
  | succ n ih => rw [gfPow, gfMul_double ha (gfPow_lt n), ih, gfShift_succ]

/-- α has order 255. -/
theorem gfShift_order {a : Nat} (ha : a < 256) : gfShift 255 a = a := by
  have hone : gfPow 255 = 1 := by decide +kernel
  rw [← gfPow_mul 255 ha, hone, gfMul_one ha]

/-- No lower power of α than those of the 36 positions fixes a symbol other than 0: such a power and 255 would have 15 or 17 as a
    common period. -/
theorem eq_zero_of_gfShift_eq_self {d v : Nat} (hd : 0 < d) (hd' : d < 36) (hv : v < 256) (h : gfShift d v = v) : v = 0 := by
  have h15 : ∀ x < 256, gfDouble^[15] x = x → x = 0 := by decide +kernel
  have h17 : ∀ x < 256, gfDouble^[17] x = x → x = 0 := by decide +kernel
  have hg : Function.IsPeriodicPt gfDouble (d.gcd 255) v := Function.IsPeriodicPt.gcd h (gfShift_order hv)
  have hdvd : ∀ d < 36, 0 < d → d.gcd 255 ∣ 15 ∨ d.gcd 255 ∣ 17 := by decide
  rcases hdvd d hd' hd with h | h
  · exact h15 v hv (hg.trans_dvd h)
  · exact h17 v hv (hg.trans_dvd h)

theorem eq_of_gfShift_eq {i k v : Nat} (hi : i < 36) (hk : k < 36) (hv : v < 256) (hne : v ≠ 0) (h : gfShift i v = gfShift k v) : i = k := by
  wlog hle : i ≤ k generalizing i k
  · exact (this hk hi h.symm (by omega)).symm
  by_contra hik
  obtain ⟨d, rfl⟩ := Nat.exists_eq_add_of_le hle
  rw [gfShift_add] at h
  exact hne (eq_zero_of_gfShift_eq_self (by omega) (by omega) hv (gfShift_injective i (gfShift_lt d hv) hv h.symm))

/-! ## Syndromes -/

/-- The syndrome S_j of symbols, from w_0 upwards: each symbol times α^j to its position. -/
def syndrome (j : Nat) : List Nat → Nat
  | [] => 0
  | w :: ws => w ^^^ gfShift j (syndrome j ws)

theorem syndrome_lt (j : Nat) {ws : List Nat} (h : ∀ w ∈ ws, w < 256) : syndrome j ws < 256 := by
  induction ws with
  | nil => exact Nat.two_pow_pos 8
  | cons w ws ih =>
    obtain ⟨hw, hws⟩ := List.forall_mem_cons.mp h
    exact Nat.xor_lt_two_pow (n := 8) hw (gfShift_lt j (ih hws))

theorem gfEval_gfPow (j : Nat) {ws : List Nat} (h : ∀ w ∈ ws, w < 256) : gfEval (gfPow j) ws = syndrome j ws := by
  induction ws with
  | nil => rfl
  | cons w ws ih =>
    obtain ⟨-, hws⟩ := List.forall_mem_cons.mp h
    rw [gfEval, natXor_eq, ih hws, gfPow_mul j (syndrome_lt j hws), syndrome]

theorem symbols_lt (e : Nat) : ∀ w ∈ symbols e, w < 256 := by
  intro w hw
  obtain ⟨j, -, rfl⟩ := List.mem_map.mp hw
  have hwidth : 8 * j + 7 + 1 - 8 * j = 8 := by omega
  rw [bits, hwidth]
  exact Nat.mod_lt _ (by decide)

theorem syndromes_eq (e : Nat) : syndromes e = [0, 1, 2, 3].map fun j => syndrome j (symbols e) :=
  List.map_congr_left fun j _ => gfEval_gfPow j (symbols_lt e)

/-! ## Check symbols -/

theorem rsStep_lt {r : Nat × Nat × Nat × Nat} {d : Nat} (h0 : r.1 < 256) (h1 : r.2.1 < 256) (h2 : r.2.2.1 < 256) :
    (rsStep r d).1 < 256 ∧ (rsStep r d).2.1 < 256 ∧ (rsStep r d).2.2.1 < 256 ∧ (rsStep r d).2.2.2 < 256 := by
  have hmul : ∀ a < 256, gfMul a (Nat.xor r.2.2.2 d) < 256 := fun a ha => gfMulAux_lt 8 _ ha
  exact ⟨hmul _ (by decide), Nat.xor_lt_two_pow (n := 8) h0 (hmul _ (by decide)), Nat.xor_lt_two_pow (n := 8) h1 (hmul _ (by decide)),
    Nat.xor_lt_two_pow (n := 8) h2 (hmul _ (by decide))⟩

theorem checkSymbols_cons (d : Byte) (ds : List Byte) : checkSymbols (d :: ds) = rsStep (checkSymbols ds) d.toNat := by
  simp [checkSymbols]

theorem checkSymbols_lt (ds : List Byte) :
    (checkSymbols ds).1 < 256 ∧ (checkSymbols ds).2.1 < 256 ∧ (checkSymbols ds).2.2.1 < 256 ∧ (checkSymbols ds).2.2.2 < 256 := by
  induction ds with
  | nil => decide
  | cons d ds ih =>
    obtain ⟨h0, h1, h2, -⟩ := ih
    rw [checkSymbols_cons]
    exact rsStep_lt h0 h1 h2

/-- g(x) is 0 at α^j for j below 4, so x^4 is there what a division step feeds back. -/
theorem generator_root {j : Nat} (hj : j < 4) {f : Nat} (hf : f < 256) :
    gfMul 0x40 f ^^^ gfShift j (gfMul 0x78 f ^^^ gfShift j (gfMul 0x36 f ^^^ gfShift j (gfMul 0x0F f))) =
      gfShift j (gfShift j (gfShift j (gfShift j f))) := by
  have hg : ∀ j < 4, 0x40 ^^^ gfShift j (0x78 ^^^ gfShift j (0x36 ^^^ gfShift j 0x0F)) = gfShift j (gfShift j (gfShift j (gfShift j 1))) := by decide +kernel
  have h2 : 0x36 ^^^ gfShift j 0x0F < 256 := Nat.xor_lt_two_pow (n := 8) (by decide) (gfShift_lt j (by decide))
  have h1 : 0x78 ^^^ gfShift j (0x36 ^^^ gfShift j 0x0F) < 256 := Nat.xor_lt_two_pow (n := 8) (by decide) (gfShift_lt j h2)
  rw [← gfMul_shift j f (by decide), ← gfMul_xor f (by decide) (gfShift_lt j (by decide)), ← gfMul_shift j f h2,
    ← gfMul_xor f (by decide) (gfShift_lt j h2), ← gfMul_shift j f h1, ← gfMul_xor f (by decide) (gfShift_lt j h1), hg j hj]
  simp only [← gfShift_add]
  rw [gfMul_shift _ f (by decide), gfMul_one hf]

/-- Syndromes of symbols are linear. -/
theorem syndrome_zipWith (j : Nat) {as bs : List Nat} (hlen : as.length = bs.length) (ha : ∀ a ∈ as, a < 256) (hb : ∀ b ∈ bs, b < 256) :
    syndrome j (List.zipWith (· ^^^ ·) as bs) = syndrome j as ^^^ syndrome j bs := by
  induction as generalizing bs with
  | nil => simp [List.length_eq_zero_iff.mp hlen.symm, syndrome]
  | cons a as ih =>
    obtain ⟨b, bs, rfl⟩ := List.exists_cons_of_length_eq_add_one hlen.symm
    obtain ⟨-, ha'⟩ := List.forall_mem_cons.mp ha
    obtain ⟨-, hb'⟩ := List.forall_mem_cons.mp hb
    simp only [List.zipWith_cons_cons, syndrome]
    rw [ih (by simpa using hlen) ha' hb', gfShift_xor j (syndrome_lt j ha') (syndrome_lt j hb')]
    grind

/-- A division step multiplies by x and brings in the next data symbol, both modulo g(x). -/
theorem syndrome_rsStep {j : Nat} (hj : j < 4) {r0 r1 r2 r3 d : Nat} (h0 : r0 < 256) (h1 : r1 < 256) (h2 : r2 < 256) (h3 : r3 < 256)
    (hd : d < 256) (s : Nat × Nat × Nat × Nat) (hs : s = rsStep (r0, r1, r2, r3) d) :
    syndrome j [s.1, s.2.1, s.2.2.1, s.2.2.2] =
      gfShift j (syndrome j [r0, r1, r2, r3]) ^^^ gfShift j (gfShift j (gfShift j (gfShift j d))) := by
  have hf : r3 ^^^ d < 256 := Nat.xor_lt_two_pow (n := 8) h3 hd
  have hmul : ∀ a < 256, gfMul a (r3 ^^^ d) < 256 := fun a ha => gfMulAux_lt 8 _ ha
  have hfed := generator_root hj hf
  have hsplit := syndrome_zipWith j (as := [0, r0, r1, r2]) (bs := [gfMul 0x40 (r3 ^^^ d), gfMul 0x78 (r3 ^^^ d), gfMul 0x36 (r3 ^^^ d), gfMul 0x0F (r3 ^^^ d)])
    rfl (by simp [*]) (by simp [hmul])
  have hlast := syndrome_zipWith j (as := [r0, r1, r2, 0]) (bs := [0, 0, 0, r3]) rfl (by simp [*]) (by simp [*])
  have hlow : syndrome j [r0, r1, r2] < 256 := syndrome_lt j (by simp [*])
  have h4 : gfShift j (gfShift j (gfShift j r3)) < 256 := gfShift_lt j (gfShift_lt j (gfShift_lt j h3))
  have hlin : ∀ n, gfShift n (r3 ^^^ d) = gfShift n r3 ^^^ gfShift n d := fun n => gfShift_xor n h3 hd
  simp only [List.zipWith_cons_cons, List.zipWith_nil_left, Nat.zero_xor, Nat.xor_zero, syndrome, gfShift_of_zero] at hsplit hlast hlow
  subst hs
  simp only [rsStep, natXor_eq, syndrome, gfShift_of_zero, Nat.xor_zero]
  rw [hsplit, hfed, hlast, gfShift_xor j hlow h4, Nat.xor_assoc]
  simp only [← gfShift_add]
  rw [hlin]

/-- The check symbols of data are its remainder: at α^j they are x^4 times the data. -/
theorem syndrome_checkSymbols {j : Nat} (hj : j < 4) (ds : List Byte) :
    syndrome j [(checkSymbols ds).1, (checkSymbols ds).2.1, (checkSymbols ds).2.2.1, (checkSymbols ds).2.2.2] =
      gfShift j (gfShift j (gfShift j (gfShift j (syndrome j (ds.map BitVec.toNat))))) := by
  induction ds with
  | nil => simp [checkSymbols, syndrome]
  | cons d ds ih =>
    obtain ⟨h0, h1, h2, h3⟩ := checkSymbols_lt ds
    have hds : syndrome j (ds.map BitVec.toNat) < 256 := syndrome_lt j (List.forall_mem_map.mpr fun b _ => b.isLt)
    rw [syndrome_rsStep hj h0 h1 h2 h3 d.isLt _ (checkSymbols_cons d ds), ih]
    simp only [List.map_cons, syndrome, ← gfShift_add]
    rw [gfShift_xor _ d.isLt (gfShift_lt j hds), ← gfShift_add, Nat.xor_comm]
    congr 2
    omega

/-- The symbols of a codeword, from w_0 upwards: its check symbols, then its data. -/
def codeword (ds : List Byte) : List Nat :=
  [(checkSymbols ds).1, (checkSymbols ds).2.1, (checkSymbols ds).2.2.1, (checkSymbols ds).2.2.2] ++ ds.map BitVec.toNat

/-- Symbols that follow others stand that many positions higher. -/
theorem syndrome_append (j : Nat) {as bs : List Nat} (ha : ∀ a ∈ as, a < 256) (hb : ∀ b ∈ bs, b < 256) :
    syndrome j (as ++ bs) = syndrome j as ^^^ gfShift (j * as.length) (syndrome j bs) := by
  induction as with
  | nil => simp [syndrome]
  | cons a as ih =>
    obtain ⟨-, ha'⟩ := List.forall_mem_cons.mp ha
    simp only [List.cons_append, syndrome, List.length_cons, Nat.mul_add, Nat.mul_one]
    rw [ih ha', gfShift_xor j (syndrome_lt j ha') (gfShift_lt _ (syndrome_lt j hb)), Nat.add_comm, gfShift_add, Nat.xor_assoc]

/-- Data with its check symbols has zero syndromes. -/
theorem syndrome_codeword {j : Nat} (hj : j < 4) (ds : List Byte) : syndrome j (codeword ds) = 0 := by
  obtain ⟨h0, h1, h2, h3⟩ := checkSymbols_lt ds
  rw [codeword, syndrome_append j (by simp [*]) (List.forall_mem_map.mpr fun b _ => b.isLt), syndrome_checkSymbols hj]
  simp only [← gfShift_add, List.length_cons, List.length_nil]
  rw [Nat.xor_eq_zero_iff]
  congr 1
  omega

/-- The symbols of a number spelt by 36 bytes are these bytes. -/
theorem bits_leNat {bs : List Byte} {j : Nat} (hj : j < bs.length) : bits (leNat bs) (8 * j + 7) (8 * j) = bs[j].toNat := by
  have hwidth : 8 * j + 7 + 1 - 8 * j = 8 := by omega
  rw [bits, hwidth, Nat.shiftRight_eq_div_pow]
  induction bs generalizing j with
  | nil => simp at hj
  | cons b bs ih =>
    have hb := b.isLt
    cases j with
    | zero => simp only [leNat, List.getElem_cons_zero]; omega
    | succ j =>
      have hstep : leNat (b :: bs) / 2 ^ (8 * (j + 1)) = leNat bs / 2 ^ (8 * j) := by
        rw [Nat.mul_succ, Nat.add_comm, Nat.pow_add, ← Nat.div_div_eq_div_mul, leNat]
        congr 1
        omega
      rw [hstep, List.getElem_cons_succ]
      exact ih (by simpa using hj) (by omega)

theorem symbols_leNat {bs : List Byte} (hlen : bs.length = 36) : symbols (leNat bs) = bs.map BitVec.toNat := by
  apply List.ext_getElem
  · simp [symbols, hlen]
  · intro j hj hj'
    have hlt : j < bs.length := by simpa using hj'
    simp [symbols, bits_leNat hlt]

/-- A word with its code, as a number, has the symbols of its codeword. -/
theorem symbols_codeword {ds : List Byte} (hlen : ds.length = 32) :
    symbols ((checkSymbols ds).1 + (checkSymbols ds).2.1 * 2 ^ 8 + (checkSymbols ds).2.2.1 * 2 ^ 16 + (checkSymbols ds).2.2.2 * 2 ^ 24 +
      leNat ds * 2 ^ 32) = codeword ds := by
  obtain ⟨h0, h1, h2, h3⟩ := checkSymbols_lt ds
  have hspell : (checkSymbols ds).1 + (checkSymbols ds).2.1 * 2 ^ 8 + (checkSymbols ds).2.2.1 * 2 ^ 16 + (checkSymbols ds).2.2.2 * 2 ^ 24 +
      leNat ds * 2 ^ 32 = leNat (BitVec.ofNat 8 (checkSymbols ds).1 :: BitVec.ofNat 8 (checkSymbols ds).2.1 ::
        BitVec.ofNat 8 (checkSymbols ds).2.2.1 :: BitVec.ofNat 8 (checkSymbols ds).2.2.2 :: ds) := by
    simp only [leNat, BitVec.toNat_ofNat, Nat.mod_eq_of_lt h0, Nat.mod_eq_of_lt h1, Nat.mod_eq_of_lt h2, Nat.mod_eq_of_lt h3]
    omega
  rw [hspell, symbols_leNat (by simp [hlen])]
  simp [codeword, Nat.mod_eq_of_lt, h0, h1, h2, h3]

/-! ## What the decoder finds -/

theorem firstFrom_eq_some {p : Nat → Bool} {fuel i n : Nat} (h : firstFrom p fuel i = some n) : i ≤ n ∧ n < i + fuel ∧ p n = true := by
  induction fuel generalizing i with
  | zero => simp [firstFrom] at h
  | succ fuel ih =>
    rw [firstFrom] at h
    split at h
    · next hp => cases h; exact ⟨le_rfl, by omega, hp⟩
    · obtain ⟨h1, h2, h3⟩ := ih h
      exact ⟨by omega, by omega, h3⟩

theorem firstFrom_isSome {p : Nat → Bool} {fuel i n : Nat} (hi : i ≤ n) (hn : n < i + fuel) (hp : p n = true) : (firstFrom p fuel i).isSome := by
  induction fuel generalizing i with
  | zero => omega
  | succ fuel ih =>
    rw [firstFrom]
    split
    · rfl
    · next hpi => exact ih (by grind) (by omega)

/-- The test that locates symbol `i`: every syndrome is the one before it times α^i. -/
def located (e i : Nat) : Prop :=
  syndrome 0 (symbols e) ≠ 0 ∧ ∀ j < 3, syndrome (j + 1) (symbols e) = gfShift i (syndrome j (symbols e))

/-- The decoder's own test. -/
def locates (e i : Nat) : Bool :=
  syndrome 0 (symbols e) != 0 && gfMul (syndrome 0 (symbols e)) (gfPow i) == syndrome 1 (symbols e) &&
    gfMul (syndrome 1 (symbols e)) (gfPow i) == syndrome 2 (symbols e) && gfMul (syndrome 2 (symbols e)) (gfPow i) == syndrome 3 (symbols e)

theorem locates_iff (e i : Nat) : locates e i = true ↔ located e i := by
  have hmul : ∀ j, gfMul (syndrome j (symbols e)) (gfPow i) = gfShift i (syndrome j (symbols e)) :=
    fun j => gfMul_gfPow i (syndrome_lt j (symbols_lt e))
  simp only [locates, located, hmul, Bool.and_eq_true, bne_iff_ne, beq_iff_eq, Nat.forall_lt_succ_right, Nat.not_lt_zero, false_imp_iff, forall_const]
  grind

/-- A word with no syndrome is clean; in any other the first symbol that explains all syndromes is the error's. -/
theorem classify_eq (e : Nat) :
    classify e = if syndrome 0 (symbols e) = 0 ∧ syndrome 1 (symbols e) = 0 ∧ syndrome 2 (symbols e) = 0 ∧ syndrome 3 (symbols e) = 0 then WordRead.clean
      else match firstBelow 36 (locates e) with
        | some i => WordRead.corrected i (syndrome 0 (symbols e))
        | none => WordRead.uncorrectable [syndrome 0 (symbols e), syndrome 1 (symbols e), syndrome 2 (symbols e), syndrome 3 (symbols e)] := by
  have hzero : (syndrome 0 (symbols e) == 0 && syndrome 1 (symbols e) == 0 && syndrome 2 (symbols e) == 0 && syndrome 3 (symbols e) == 0) =
      decide (syndrome 0 (symbols e) = 0 ∧ syndrome 1 (symbols e) = 0 ∧ syndrome 2 (symbols e) = 0 ∧ syndrome 3 (symbols e) = 0) := by
    simp [Bool.and_assoc, Bool.decide_and, beq_eq_decide]
  rw [classify, syndromes_eq]
  simp only [List.map_cons, List.map_nil, hzero, decide_eq_true_eq]
  rfl

/-- The four syndromes are 0. -/
def noSyndrome (e : Nat) : Prop := ∀ j < 4, syndrome j (symbols e) = 0

theorem noSyndrome_iff (e : Nat) :
    noSyndrome e ↔ syndrome 0 (symbols e) = 0 ∧ syndrome 1 (symbols e) = 0 ∧ syndrome 2 (symbols e) = 0 ∧ syndrome 3 (symbols e) = 0 := by
  refine ⟨fun h => ⟨h 0 (by decide), h 1 (by decide), h 2 (by decide), h 3 (by decide)⟩, fun ⟨h0, h1, h2, h3⟩ j hj => ?_⟩
  interval_cases j <;> assumption

/-- What the decoder answers, in terms of the syndromes. -/
theorem classify_cases (e : Nat) :
    (classify e = .clean ∧ noSyndrome e) ∨
    (∃ i < 36, classify e = .corrected i (syndrome 0 (symbols e)) ∧ located e i) ∨
    (isUE e = true ∧ ¬ noSyndrome e ∧ ∀ i < 36, ¬ located e i) := by
  rw [isUE, classify_eq]
  split
  · next hz => exact .inl ⟨rfl, (noSyndrome_iff e).mpr hz⟩
  · next hz =>
    cases hfirst : firstBelow 36 (locates e) with
    | some i =>
      obtain ⟨-, hlt, hi⟩ := firstFrom_eq_some hfirst
      exact .inr (.inl ⟨i, by omega, rfl, (locates_iff e i).mp hi⟩)
    | none =>
      refine .inr (.inr ⟨rfl, fun h => hz ((noSyndrome_iff e).mp h), fun i hi hl => ?_⟩)
      have hsome := firstFrom_isSome (Nat.zero_le i) (by omega : i < 0 + 36) ((locates_iff e i).mpr hl)
      rw [firstBelow] at hfirst
      simp [hfirst] at hsome

/-! ## Errors of few symbols -/

/-- The symbols that are not 0, each with its position from `n`. -/
def terms (n : Nat) : List Nat → List (Nat × Nat)
  | [] => []
  | w :: ws => if w = 0 then terms (n + 1) ws else (w, n) :: terms (n + 1) ws

/-- S_j of an error given by its terms. -/
def termSyndrome (j : Nat) : List (Nat × Nat) → Nat
  | [] => 0
  | q :: qs => gfShift (j * q.2) q.1 ^^^ termSyndrome j qs

theorem terms_mem {n : Nat} {ws : List Nat} {q : Nat × Nat} (h : q ∈ terms n ws) : q.1 ∈ ws ∧ q.1 ≠ 0 ∧ n ≤ q.2 ∧ q.2 < n + ws.length := by
  induction ws generalizing n with
  | nil => simp [terms] at h
  | cons w ws ih =>
    rw [terms] at h
    split at h
    · obtain ⟨h1, h2, h3, h4⟩ := ih h
      exact ⟨by simp [h1], h2, by omega, by simp only [List.length_cons]; omega⟩
    · next hw =>
      rcases List.mem_cons.mp h with rfl | h
      · exact ⟨by simp, hw, le_rfl, by simp⟩
      · obtain ⟨h1, h2, h3, h4⟩ := ih h
        exact ⟨by simp [h1], h2, by omega, by simp only [List.length_cons]; omega⟩

theorem terms_nodup (n : Nat) (ws : List Nat) : ((terms n ws).map Prod.snd).Nodup := by
  induction ws generalizing n with
  | nil => simp [terms]
  | cons w ws ih =>
    rw [terms]
    split
    · exact ih (n + 1)
    · refine List.nodup_cons.mpr ⟨fun hmem => ?_, ih (n + 1)⟩
      obtain ⟨q, hq, hn⟩ := List.mem_map.mp hmem
      obtain ⟨-, -, hle, -⟩ := terms_mem hq
      simp only at hn
      omega

theorem terms_length (n : Nat) (ws : List Nat) : (terms n ws).length = (ws.filter (· ≠ 0)).length := by
  induction ws generalizing n with
  | nil => rfl
  | cons w ws ih => by_cases hw : w = 0 <;> simp [terms, hw, ih (n + 1)]

theorem termSyndrome_lt (j : Nat) {qs : List (Nat × Nat)} (h : ∀ q ∈ qs, q.1 < 256) : termSyndrome j qs < 256 := by
  induction qs with
  | nil => exact Nat.two_pow_pos 8
  | cons q qs ih =>
    obtain ⟨hq, hqs⟩ := List.forall_mem_cons.mp h
    exact Nat.xor_lt_two_pow (n := 8) (gfShift_lt _ hq) (ih hqs)

theorem termSyndrome_terms (j n : Nat) {ws : List Nat} (h : ∀ w ∈ ws, w < 256) :
    termSyndrome j (terms n ws) = gfShift (j * n) (syndrome j ws) := by
  induction ws generalizing n with
  | nil => simp [terms, termSyndrome, syndrome]
  | cons w ws ih =>
    obtain ⟨hw, hws⟩ := List.forall_mem_cons.mp h
    have hrest : gfShift (j * (n + 1)) (syndrome j ws) = gfShift (j * n) (gfShift j (syndrome j ws)) := by
      rw [← gfShift_add, Nat.mul_add, Nat.mul_one]
    rw [syndrome, gfShift_xor _ hw (gfShift_lt j (syndrome_lt j hws)), ← hrest, ← ih (n + 1) hws, terms]
    split
    · next hz => simp [hz]
    · rfl

/-- Position `i` eliminated from an error: what is left of each term when S_j times α^i is added to S_(j+1). -/
def eliminate (i : Nat) (qs : List (Nat × Nat)) : List (Nat × Nat) := qs.map fun q => (gfShift i q.1 ^^^ gfShift q.2 q.1, q.2)

theorem eliminate_lt (i : Nat) {qs : List (Nat × Nat)} (h : ∀ q ∈ qs, q.1 < 256) : ∀ q ∈ eliminate i qs, q.1 < 256 := by
  refine List.forall_mem_map.mpr fun q hq => ?_
  exact Nat.xor_lt_two_pow (n := 8) (gfShift_lt i (h q hq)) (gfShift_lt q.2 (h q hq))

theorem termSyndrome_eliminate (i j : Nat) {qs : List (Nat × Nat)} (h : ∀ q ∈ qs, q.1 < 256) :
    termSyndrome j (eliminate i qs) = gfShift i (termSyndrome j qs) ^^^ termSyndrome (j + 1) qs := by
  induction qs with
  | nil => simp [eliminate, termSyndrome]
  | cons q qs ih =>
    obtain ⟨hq, hqs⟩ := List.forall_mem_cons.mp h
    have hcons : eliminate i (q :: qs) = (gfShift i q.1 ^^^ gfShift q.2 q.1, q.2) :: eliminate i qs := rfl
    have hnext : gfShift (j * q.2) (gfShift q.2 q.1) = gfShift ((j + 1) * q.2) q.1 := by rw [← gfShift_add, Nat.succ_mul]
    rw [hcons, termSyndrome, termSyndrome, termSyndrome, ih hqs, gfShift_xor _ (gfShift_lt i hq) (gfShift_lt q.2 hq), hnext,
      gfShift_comm, gfShift_xor i (gfShift_lt _ hq) (termSyndrome_lt j hqs)]
    grind

theorem termSyndrome_of_zero (j : Nat) {qs : List (Nat × Nat)} (h : ∀ q ∈ qs, q.1 = 0) : termSyndrome j qs = 0 := by
  induction qs with
  | nil => rfl
  | cons q qs ih =>
    obtain ⟨hq, hqs⟩ := List.forall_mem_cons.mp h
    simp [termSyndrome, hq, ih hqs]

/-- A term that elimination leaves nothing of stands at the eliminated position. -/
theorem snd_eq_of_eliminate {i : Nat} {q : Nat × Nat} (hi : i < 36) (hpos : q.2 < 36) (hlt : q.1 < 256) (hne : q.1 ≠ 0)
    (h : gfShift i q.1 ^^^ gfShift q.2 q.1 = 0) : q.2 = i :=
  (eq_of_gfShift_eq hi hpos hlt hne (Nat.xor_eq_zero_iff.mp h)).symm

/-- An error of n symbols at different positions of which n syndromes are 0 is no error (Vandermonde). -/
theorem eq_zero_of_termSyndrome {n : Nat} {qs : List (Nat × Nat)} (hlen : qs.length = n) (hlt : ∀ q ∈ qs, q.1 < 256) (hpos : ∀ q ∈ qs, q.2 < 36)
    (hdist : (qs.map Prod.snd).Nodup) (hz : ∀ j < n, termSyndrome j qs = 0) : ∀ q ∈ qs, q.1 = 0 := by
  induction n generalizing qs with
  | zero => simp [List.length_eq_zero_iff.mp hlen]
  | succ n ih =>
    obtain ⟨p, qs, rfl⟩ := List.exists_cons_of_length_eq_add_one hlen
    obtain ⟨hplt, hqlt⟩ := List.forall_mem_cons.mp hlt
    obtain ⟨hppos, hqpos⟩ := List.forall_mem_cons.mp hpos
    obtain ⟨hp, hqdist⟩ := List.nodup_cons.mp hdist
    have htail : ∀ j < n + 1, termSyndrome j qs = gfShift (j * p.2) p.1 := fun j hj => (Nat.xor_eq_zero_iff.mp (hz j hj)).symm
    have helim : ∀ j < n, termSyndrome j (eliminate p.2 qs) = 0 := fun j hj => by
      rw [termSyndrome_eliminate p.2 j hqlt, htail j (by omega), htail (j + 1) (by omega), Nat.succ_mul, Nat.add_comm, gfShift_add,
        Nat.xor_self]
    have hnone : ∀ q ∈ qs, gfShift p.2 q.1 ^^^ gfShift q.2 q.1 = 0 := fun q hq =>
      ih (by simpa [eliminate] using hlen) (eliminate_lt p.2 hqlt) (List.forall_mem_map.mpr fun q hq => hqpos q hq)
        (by simpa [eliminate, Function.comp_def] using hqdist) helim _ (List.mem_map_of_mem hq)
    have hqs : ∀ q ∈ qs, q.1 = 0 := fun q hq => by
      by_contra hne
      exact hp (List.mem_map.mpr ⟨q, hq, snd_eq_of_eliminate hppos (hqpos q hq) (hqlt q hq) hne (hnone q hq)⟩)
    have hp0 := htail 0 (by omega)
    rw [termSyndrome_of_zero 0 hqs, Nat.zero_mul, gfShift_zero] at hp0
    exact List.forall_mem_cons.mpr ⟨hp0.symm, hqs⟩

section
variable {e : Nat}

/-- The terms of a word's error. -/
def errTerms (e : Nat) : List (Nat × Nat) := terms 0 (symbols e)

theorem errTerms_lt : ∀ q ∈ errTerms e, q.1 < 256 := fun _ hq => symbols_lt e _ (terms_mem hq).1

theorem errTerms_pos : ∀ q ∈ errTerms e, q.2 < 36 := fun q hq => by
  obtain ⟨-, -, -, hlt⟩ := terms_mem hq
  simpa [symbols] using hlt

theorem errTerms_ne : ∀ q ∈ errTerms e, q.1 ≠ 0 := fun _ hq => (terms_mem hq).2.1

theorem termSyndrome_errTerms (j : Nat) : termSyndrome j (errTerms e) = syndrome j (symbols e) := by
  rw [errTerms, termSyndrome_terms j 0 (symbols_lt e), Nat.mul_zero, gfShift_zero]

/-- An error of one to four symbols leaves a syndrome. -/
theorem not_noSyndrome_of_terms (hne : errTerms e ≠ []) (hfew : (errTerms e).length ≤ 4) : ¬ noSyndrome e := by
  intro hz
  obtain ⟨q, hq⟩ := List.exists_mem_of_ne_nil _ hne
  refine errTerms_ne q hq (eq_zero_of_termSyndrome rfl errTerms_lt errTerms_pos (terms_nodup 0 _) (fun j hj => ?_) q hq)
  rw [termSyndrome_errTerms, hz j (by omega)]

/-- An error of at most three symbols that one located symbol explains has no other symbol. -/
theorem snd_eq_of_located {i : Nat} (hi : i < 36) (hloc : located e i) (hfew : (errTerms e).length ≤ 3) : ∀ q ∈ errTerms e, q.2 = i := by
  intro q hq
  obtain ⟨-, hstep⟩ := hloc
  have helim : ∀ j < (errTerms e).length, termSyndrome j (eliminate i (errTerms e)) = 0 := fun j hj => by
    rw [termSyndrome_eliminate i j errTerms_lt, termSyndrome_errTerms, termSyndrome_errTerms, hstep j (by omega), Nat.xor_self]
  have hnone := eq_zero_of_termSyndrome (by simp [eliminate]) (eliminate_lt i errTerms_lt) (List.forall_mem_map.mpr errTerms_pos)
    (by simpa [eliminate, Function.comp_def, errTerms] using terms_nodup 0 (symbols e)) helim _ (List.mem_map_of_mem hq)
  exact snd_eq_of_eliminate hi (errTerms_pos q hq) (errTerms_lt q hq) (errTerms_ne q hq) hnone

/-- An error of two or three symbols is reported as uncorrectable. -/
theorem isUE_of_few (h2 : 2 ≤ (errTerms e).length) (h3 : (errTerms e).length ≤ 3) : isUE e = true := by
  rcases classify_cases e with ⟨-, hz⟩ | ⟨i, hi, -, hloc⟩ | ⟨hue, -⟩
  · exact absurd hz (not_noSyndrome_of_terms (List.ne_nil_of_length_pos (by omega)) (by omega))
  · have hall := snd_eq_of_located hi hloc h3
    have hrep : (errTerms e).map Prod.snd = List.replicate (errTerms e).length i := by
      rw [← List.length_map (f := Prod.snd)]
      exact List.eq_replicate_of_mem (List.forall_mem_map.mpr hall)
    have hdist := terms_nodup 0 (symbols e)
    have hone : (errTerms e).length ≤ 1 := by
      rw [← errTerms, hrep] at hdist
      exact List.nodup_replicate.mp hdist
    omega
  · exact hue

end

/-! ## Errors of one symbol -/

theorem bits_single (i j : Nat) {v : Nat} (hv : v < 256) : bits (v * 2 ^ (8 * i)) (8 * j + 7) (8 * j) = if j = i then v else 0 := by
  have hwidth : 8 * j + 7 + 1 - 8 * j = 8 := by omega
  rw [bits, hwidth, Nat.shiftRight_eq_div_pow]
  rcases Nat.lt_trichotomy j i with h | rfl | h
  · obtain ⟨d, rfl⟩ := Nat.exists_eq_add_of_lt h
    rw [if_neg (by omega), show 8 * (j + d + 1) = 8 * d + 8 + 8 * j by omega, Nat.pow_add, ← Nat.mul_assoc,
      Nat.mul_div_cancel _ (Nat.two_pow_pos _), Nat.pow_add, ← Nat.mul_assoc, Nat.mul_mod_left]
  · rw [if_pos rfl, Nat.mul_div_cancel _ (Nat.two_pow_pos _)]
    exact Nat.mod_eq_of_lt hv
  · obtain ⟨d, rfl⟩ := Nat.exists_eq_add_of_lt h
    have hsmall : v < 2 ^ (8 * d + 8) := hv.trans_le (Nat.pow_le_pow_right (n := 2) (by decide) (by omega : 8 ≤ 8 * d + 8))
    rw [if_neg (by omega), show 8 * (i + d + 1) = 8 * i + (8 * d + 8) by omega, Nat.pow_add, ← Nat.div_div_eq_div_mul,
      Nat.mul_div_cancel _ (Nat.two_pow_pos _), Nat.div_eq_of_lt hsmall, Nat.zero_mod]

/-- The symbols of an error of one symbol. -/
theorem symbols_single {i v : Nat} (hi : i < 36) (hv : v < 256) :
    symbols (v * 2 ^ (8 * i)) = List.replicate i 0 ++ v :: List.replicate (35 - i) 0 := by
  apply List.ext_getElem
  · simp [symbols]; omega
  · intro j hj _
    simp only [symbols, List.getElem_map, List.getElem_range, bits_single i _ hv, List.getElem_append, List.length_replicate,
      List.getElem_replicate, List.getElem_cons]
    grind

theorem syndrome_replicate_zero (j n : Nat) : syndrome j (List.replicate n 0) = 0 := by
  induction n with
  | zero => rfl
  | succ n ih => simp [List.replicate_succ, syndrome, ih]

theorem syndrome_single {i v : Nat} (hi : i < 36) (hv : v < 256) (j : Nat) : syndrome j (symbols (v * 2 ^ (8 * i))) = gfShift (j * i) v := by
  have hzero : ∀ n, ∀ w ∈ List.replicate n 0, w < 256 := fun n w hw => by simp [List.eq_of_mem_replicate hw]
  rw [symbols_single hi hv, syndrome_append j (hzero i) (List.forall_mem_cons.mpr ⟨hv, hzero _⟩), syndrome_replicate_zero, syndrome,
    syndrome_replicate_zero, gfShift_of_zero, Nat.xor_zero, Nat.zero_xor, List.length_replicate]

/-- An error of one symbol is located, with its value. -/
theorem classify_single {i v : Nat} (hi : i < 36) (hpos : 0 < v) (hv : v < 256) : classify (v * 2 ^ (8 * i)) = .corrected i v := by
  have hloc : located (v * 2 ^ (8 * i)) i := by
    refine ⟨by simp [syndrome_single hi hv]; omega, fun j _ => ?_⟩
    rw [syndrome_single hi hv, syndrome_single hi hv, ← gfShift_add, Nat.succ_mul, Nat.add_comm]
  have hval : syndrome 0 (symbols (v * 2 ^ (8 * i))) = v := by simp [syndrome_single hi hv]
  rcases classify_cases (v * 2 ^ (8 * i)) with ⟨-, hz⟩ | ⟨k, hk, hcls, -, hstep⟩ | ⟨-, -, hnone⟩
  · exact absurd (hz 0 (by decide)) (by omega)
  · have h1 := hstep 0 (by decide)
    rw [syndrome_single hi hv, syndrome_single hi hv, Nat.zero_add, Nat.one_mul, Nat.zero_mul, gfShift_zero] at h1
    rw [hcls, hval, eq_of_gfShift_eq hi hk hv (by omega) h1]
  · exact absurd hloc (hnone i hi)

/-- Nothing is left of an error of one symbol after the decoder. -/
theorem residue_single {i v : Nat} (hi : i < 36) (hpos : 0 < v) (hv : v < 256) : residue (v * 2 ^ (8 * i)) = 0 := by
  rw [residue, classify_single hi hpos hv]
  simp only [Nat.shiftLeft_eq]
  exact Nat.xor_self _

/-- Settles O40: the check symbols are the remainder modulo g(x), one symbol explains its own syndromes alone, and elimination tells an
    error of two or three symbols from none and from one. -/
theorem wordCode : Obligations.WordCode := by
  refine ⟨fun ds hlen => ?_, fun i v hi hpos hv => classify_single hi hpos hv, fun c key i v hi hpos hv herr => ?_, fun e hfew => ?_⟩
  · have hz : ∀ j < 4, syndrome j (codeword ds) = 0 := fun j hj => syndrome_codeword hj ds
    simp only
    rw [classify_eq, if_pos ((noSyndrome_iff _).mp ?_)]
    rwa [noSyndrome, symbols_codeword hlen]
  · simp [Chip.byteAt, Chip.errByte, herr, residue_single hi hpos hv]
  · have hlen := terms_length 0 (symbols e)
    rw [← errTerms] at hlen
    exact isUE_of_few (by omega) (by omega)

end Sys2Proof.Machine

/-! SUPPORT and PROOFS. Scene headers, write-backs and the patrol scrubbers (R162, R164, R203, R219). -/

namespace Sys2Proof.Machine

section
variable {c : Chip}

/-! ## Scene headers -/

/-- The row's own value for V, bit 0, leaves the header address as it is. -/
theorem bits_setBits_zero (v : Nat) {b : Nat} (hb : b < 2) : bits (setBits v 0 0 b) 47 8 = bits v 47 8 ∧ bit (setBits v 0 0 b) 0 = (b == 1) := by
  have hset : setBits v 0 0 b = v / 2 * 2 + b := by
    simp only [setBits, bits, Nat.shiftRight_zero, Nat.shiftLeft_zero]
    omega
  have haddr : (v / 2 * 2 + b) / 2 ^ 8 = v / 2 ^ 8 := by omega
  have hlow : (v / 2 * 2 + b) % 2 = b := by omega
  rw [hset, bits, bits, bit, Nat.shiftRight_eq_div_pow, Nat.shiftRight_eq_div_pow, haddr, Nat.shiftRight_zero, hlow]
  exact ⟨rfl, rfl⟩

/-- A write of HALL_SCNS at the partition's home. -/
theorem sceneWrite_of_home {site p slot v b : Nat} (hhome : c.isHome site p = true) (hb : b < 2) :
    c.sceneWrite site p slot (setBits v 0 0 b) = c.updScene p slot fun q => { q with staged := bits v 47 8 * 256, v := b == 1 } := by
  obtain ⟨haddr, hv⟩ := bits_setBits_zero v hb
  rw [Chip.sceneWrite, if_pos hhome, haddr, hv]

/-- A write of HALL_SCNS anywhere else is counted there. -/
theorem sceneWrite_of_not_home {site p slot v : Nat} (hhome : c.isHome site p = false) : c.sceneWrite site p slot v = c.bump (syncK site p 0x148) := by
  simp [Chip.sceneWrite, hhome]

/-- A retiring header with no open block on it is dropped. -/
theorem sceneRetired_of_free {p slot : Nat} (hret : ((c.part p).scenes.get slot {}).ret = true) (hbusy : c.sceneBusy p slot = 0) :
    c.sceneRetired p slot = (c.updScene p slot fun q => { q with ret := false, retAddr := 0, retEpoch := 0 }).homePost .SCENE_RETIRED p 0 := by
  simp [Chip.sceneRetired, hret, hbusy]

/-! ## Stored words -/

/-- A corrected word is written back. -/
theorem writeBack_of_owed {w cell : Nat} (howed : c.mem.wb.look w = some cell) : c.writeBack w = (c.settleWord w).markDly w := by
  simp [Chip.writeBack, howed]

/-- A scrubber that is off reads nothing. -/
theorem patrolScrub_of_off {who upset : Nat} (hoff : bit (c.reg (scrubKey who)) 0 = false) : c.patrolScrub who upset = c := by
  simp [Chip.patrolScrub, hoff]

section
variable {who : Nat} (hon : bit (c.reg (scrubKey who)) 0 = true) (hruns : c.scrubbed who = true)
  (hmid : c.mem.scrubPos.get who 0 + 1 < scrubWords who)
include hon hruns hmid

/-- In the middle of a pass a running scrubber reads the word at its position, with what has changed in its cells, and moves on by one. -/
theorem patrolScrub_of_word (upset : BitVec 288) {w : Nat} (hword : c.scrubWord who (c.mem.scrubPos.get who 0) = some w) :
    c.patrolScrub who upset.toNat =
      let next : Chip := { c with mem := { c.mem with scrubPos := c.mem.scrubPos.set who ((c.mem.scrubPos.get who 0 + 1) % scrubWords who) } }
      let c := next.writeBack w
      let e := Nat.xor (c.mem.errs.get w 0) upset.toNat
      let c := { c with mem := { c.mem with errs := if e = 0 then c.mem.errs.del w else c.mem.errs.set w e } }
      (c.senseWord true w e).markDly w := by
  have hend : ¬ c.mem.scrubPos.get who 0 + 1 = scrubWords who := by omega
  simp only [Chip.patrolScrub, hon, hruns, hword, Nat.mod_eq_of_lt upset.isLt, Bool.not_true, Bool.or_self, Bool.false_eq_true, if_false, if_neg hend]

/-- Over a system cache word that holds no line only its position moves. -/
theorem patrolScrub_of_none (upset : Nat) (hword : c.scrubWord who (c.mem.scrubPos.get who 0) = none) :
    c.patrolScrub who upset =
      { c with mem := { c.mem with scrubPos := c.mem.scrubPos.set who ((c.mem.scrubPos.get who 0 + 1) % scrubWords who) } } := by
  have hend : ¬ c.mem.scrubPos.get who 0 + 1 = scrubWords who := by omega
  simp only [Chip.patrolScrub, hon, hruns, hword, Bool.not_true, Bool.or_self, Bool.false_eq_true, if_false, if_neg hend]

end

end

/-- Settles O33: each clause is one case of `Chip.sceneWrite`, `Chip.sceneRetired`, `Chip.writeBack` and `Chip.patrolScrub`. -/
theorem scenesAndScrub : Obligations.ScenesAndScrub := by
  intro s site p slot v w cell who upset word n q size pos next c e c' settled
  refine ⟨fun hhome => ?_, fun hhome => ?_, fun hhome => ?_, fun hret hbusy => ?_, fun howed => ?_, fun hoff => ?_,
    fun hon hruns hmid hword => ?_, fun hon hruns hmid hword => ?_⟩
  · exact exec_eq_next rfl (sceneWrite_of_home hhome (by decide))
  · exact exec_eq_next rfl (sceneWrite_of_home hhome (by decide))
  · exact exec_eq_next rfl (sceneWrite_of_not_home hhome)
  · exact exec_eq_next rfl (sceneRetired_of_free hret hbusy)
  · exact exec_eq_next rfl (writeBack_of_owed howed)
  · exact exec_eq_next rfl (patrolScrub_of_off hoff)
  · exact exec_eq_next rfl (patrolScrub_of_word hon hruns hmid upset hword)
  · exact exec_eq_next rfl (patrolScrub_of_none hon hruns hmid upset.toNat hword)

end Sys2Proof.Machine

/-! SUPPORT. The canonical form of the stores, kept: what each combinator of the model's effects asks of its parts. -/

namespace Sys2Proof.Machine

/-- The stores of the block are in canonical form. -/
def Chip.Canon (c : Chip) : Prop := c.mem.cells.wf = true

/-- An effect's answer carries a block in canonical form, also in a trap. -/
def Sound {α : Type} : Except Trap (α × Chip) → Prop
  | .ok r => r.2.Canon
  | .error t => t.chip.Canon

/-- An instruction's effect keeps the canonical form. -/
def Keeps {α : Type} (x : Ex α) : Prop := ∀ c, c.Canon → Sound (x c)

theorem Keeps.ok {α : Type} {x : Ex α} {c : Chip} {r : α × Chip} (hx : Keeps x) (h : c.Canon) (heq : x c = .ok r) : r.2.Canon := by
  have hsound := hx c h
  rwa [heq] at hsound

theorem Keeps.error {α : Type} {x : Ex α} {c : Chip} {t : Trap} (hx : Keeps x) (h : c.Canon) (heq : x c = .error t) : t.chip.Canon := by
  have hsound := hx c h
  rwa [heq] at hsound

/-- The answer of an effect of an island's processor carries a block in canonical form, also in a trap. -/
def ISound {α : Type} : Except (Nat × Chip) (α × Chip) → Prop
  | .ok r => r.2.Canon
  | .error t => t.2.Canon

/-- An effect of an island's processor keeps the canonical form. -/
def IKeeps {α : Type} (x : IEx α) : Prop := ∀ c, c.Canon → ISound (x c)

theorem IKeeps.ok {α : Type} {x : IEx α} {c : Chip} {r : α × Chip} (hx : IKeeps x) (h : c.Canon) (heq : x c = .ok r) : r.2.Canon := by
  have hsound := hx c h
  rwa [heq] at hsound

theorem IKeeps.error {α : Type} {x : IEx α} {c : Chip} {t : Nat × Chip} (hx : IKeeps x) (h : c.Canon) (heq : x c = .error t) : t.2.Canon := by
  have hsound := hx c h
  rwa [heq] at hsound

/-! ## Blocks -/

namespace Chip.Canon

variable {c d : Chip}

/-- A block with the same stored bytes. -/
theorem of_cells (h : c.Canon) (hcells : d.mem.cells = c.mem.cells) : d.Canon := by rwa [Chip.Canon, hcells]

/-- A block with bytes written. -/
theorem of_writeBytes (h : c.Canon) {a : Nat} {bs : List Byte} (hcells : d.mem.cells = c.mem.cells.writeBytes a bs) : d.Canon := by
  rw [Chip.Canon, hcells]
  exact Memory.wf_writeBytes h a bs

theorem with_writeBytes (h : c.Canon) {a : Nat} {bs : List Byte} :
    Chip.Canon { c with mem := { c.mem with cells := c.mem.cells.writeBytes a bs } } := Memory.wf_writeBytes h a bs

/-- A block with some of its bytes cleared. -/
theorem of_filter (h : c.Canon) {p : Host.Cell → Bool} (hcells : d.mem.cells = c.mem.cells.filter p) : d.Canon := by
  rw [Chip.Canon, hcells]
  exact Memory.wf_filter h p

/-! A block with one of its other parts replaced. -/

theorem with_mem {m : MemSt} (h : c.Canon) (hcells : m.cells = c.mem.cells) : Chip.Canon { c with mem := m } := of_cells h hcells
theorem with_time {x} (h : c.Canon) : Chip.Canon { c with time := x } := h
theorem with_regs {x} (h : c.Canon) : Chip.Canon { c with regs := x } := h
theorem with_log {x} (h : c.Canon) : Chip.Canon { c with log := x } := h
theorem with_core {x} (h : c.Canon) : Chip.Canon { c with core := x } := h
theorem with_parts {x} (h : c.Canon) : Chip.Canon { c with parts := x } := h
theorem with_site {x} (h : c.Canon) : Chip.Canon { c with site := x } := h
theorem with_pwr {x} (h : c.Canon) : Chip.Canon { c with pwr := x } := h
theorem with_batch {x} (h : c.Canon) : Chip.Canon { c with batch := x } := h
theorem with_nextBatch {x} (h : c.Canon) : Chip.Canon { c with nextBatch := x } := h
theorem with_su {x} (h : c.Canon) : Chip.Canon { c with su := x } := h
theorem with_islA {x} (h : c.Canon) : Chip.Canon { c with islA := x } := h
theorem with_islB {x} (h : c.Canon) : Chip.Canon { c with islB := x } := h
theorem with_pm {x} (h : c.Canon) : Chip.Canon { c with pm := x } := h
theorem with_boot {x} (h : c.Canon) : Chip.Canon { c with boot := x } := h
theorem with_spare {x} (h : c.Canon) : Chip.Canon { c with spare := x } := h
theorem with_acct {x} (h : c.Canon) : Chip.Canon { c with acct := x } := h
theorem with_rq {x} (h : c.Canon) : Chip.Canon { c with rq := x } := h
theorem with_yard {x} (h : c.Canon) : Chip.Canon { c with yard := x } := h
theorem with_cfg {x} (h : c.Canon) : Chip.Canon { c with cfg := x } := h
theorem with_io {x} (h : c.Canon) : Chip.Canon { c with io := x } := h
theorem with_fleet {x} (h : c.Canon) : Chip.Canon { c with fleet := x } := h
theorem with_rots {x} (h : c.Canon) : Chip.Canon { c with rots := x } := h

theorem ite {p : Prop} [Decidable p] (hc : c.Canon) (hd : d.Canon) : (if p then c else d).Canon := by split <;> assumption

theorem ite_fst {β : Type} {p : Prop} [Decidable p] {x y : Chip × β} (hx : x.1.Canon) (hy : y.1.Canon) : (if p then x else y).1.Canon := by
  split <;> assumption

theorem foldl {α : Type} {f : Chip → α → Chip} {l : List α} (h : c.Canon) (hf : ∀ {c a}, c.Canon → (f c a).Canon) : (l.foldl f c).Canon := by
  induction l generalizing c with
  | nil => exact h
  | cons a l ih => exact ih (hf h)

theorem foldl_fst {α β : Type} {f : Chip × β → α → Chip × β} {l : List α} {p : Chip × β} (h : p.1.Canon)
    (hf : ∀ {p a}, p.1.Canon → (f p a).1.Canon) : (l.foldl f p).1.Canon := by
  induction l generalizing p with
  | nil => exact h
  | cons a l ih => exact ih (hf h)

end Chip.Canon

/-! ## Effects of contexts -/

section
variable {α β : Type}

theorem Keeps.pure (a : α) : Keeps (pure a) := fun _ hc => hc

theorem Keeps.bind {x : Ex α} {f : α → Ex β} (hx : Keeps x) (hf : ∀ {a}, Keeps (f a)) : Keeps (x >>= f) := by
  intro c hc
  rw [ex_bind]
  split
  · next heq => exact hf _ (hx.ok hc heq)
  · next heq => exact hx.error hc heq

/-- What follows may use the block that has been read. -/
theorem Keeps.get {f : Chip → Ex β} (hf : ∀ {c}, c.Canon → Keeps (f c)) : Keeps ((MonadState.get : Ex Chip) >>= f) := fun c hc => hf hc c hc

theorem Keeps.set {c : Chip} (h : c.Canon) : Keeps (set c : Ex PUnit) := fun _ _ => h

theorem Keeps.modify {f : Chip → Chip} (hf : ∀ {c}, c.Canon → (f c).Canon) : Keeps (modify f : Ex PUnit) := fun _ hc => hf hc

theorem Keeps.raise {cls sub addr : Nat} : Keeps (raise cls sub addr : Ex α) := fun _ hc => hc

theorem Keeps.ite {p : Prop} [Decidable p] {x y : Ex α} (hx : Keeps x) (hy : Keeps y) : Keeps (if p then x else y) := by split <;> assumption

theorem Keeps.forM {f : α → Ex PUnit} {l : List α} (hf : ∀ {a}, Keeps (f a)) : Keeps (l.forM f) := by
  induction l with
  | nil => exact .pure _
  | cons a l ih => exact .bind hf ih

theorem Keeps.mapM {f : α → Ex β} {l : List α} (hf : ∀ {a}, Keeps (f a)) : Keeps (l.mapM f) := by
  induction l with
  | nil => exact .pure _
  | cons a l ih => rw [List.mapM_cons]; exact .bind hf (.bind ih (.pure _))

theorem Keeps.foldlM {f : β → α → Ex β} {b : β} {l : List α} (hf : ∀ {b a}, Keeps (f b a)) : Keeps (l.foldlM f b) := by
  induction l generalizing b with
  | nil => exact .pure _
  | cons a l ih => exact .bind hf ih

end

/-! ## Effects of islands -/

section
variable {α β : Type}

theorem IKeeps.pure (a : α) : IKeeps (pure a) := fun _ hc => hc

theorem IKeeps.bind {x : IEx α} {f : α → IEx β} (hx : IKeeps x) (hf : ∀ {a}, IKeeps (f a)) : IKeeps (x >>= f) := by
  intro c hc
  rw [iex_bind]
  split
  · next heq => exact hf _ (hx.ok hc heq)
  · next heq => exact hx.error hc heq

/-- What follows may use the block that has been read. -/
theorem IKeeps.get {f : Chip → IEx β} (hf : ∀ {c}, c.Canon → IKeeps (f c)) : IKeeps ((MonadState.get : IEx Chip) >>= f) := fun c hc => hf hc c hc

theorem IKeeps.set {c : Chip} (h : c.Canon) : IKeeps (set c : IEx PUnit) := fun _ _ => h

theorem IKeeps.modify {f : Chip → Chip} (hf : ∀ {c}, c.Canon → (f c).Canon) : IKeeps (modify f : IEx PUnit) := fun _ hc => hf hc

theorem IKeeps.itrap {code : Nat} : IKeeps (itrap code : IEx α) := fun _ hc => hc

theorem IKeeps.ite {p : Prop} [Decidable p] {x y : IEx α} (hx : IKeeps x) (hy : IKeeps y) : IKeeps (if p then x else y) := by split <;> assumption

end

end Sys2Proof.Machine

/-! PROOFS. The stores stay in canonical form (O36). Every operation of the model has one lemma here, under the operation's own name and in the
    order of the model's files: `Chip.Canon.f` says that `c.f` is in canonical form when `c` is, `Keeps.f` and `IKeeps.f` that the effect `f`
    keeps it. An operation that only calls others cites their lemmas, nested as its definition is; the stores themselves are written in few
    places, by `Memory.writeBytes`, `Memory.writeCells` and `List.filter`. -/

namespace Sys2Proof.Machine

/-! ## Ops -/

theorem Chip.Canon.setReg {c : Chip} {k : RegKey} {v : Nat} (h : c.Canon) : (c.setReg k v).Canon := h.with_regs

theorem Chip.Canon.bump {c : Chip} {k : RegKey} {n : Nat} (h : c.Canon) : (c.bump k n).Canon := h.setReg

theorem Chip.Canon.countErr {c : Chip} {k : RegKey} (h : c.Canon) : (c.countErr k).Canon := h.bump

theorem Chip.Canon.updPart {c : Chip} {p : Nat} {f : Part → Part} (h : c.Canon) : (c.updPart p f).Canon := h.with_parts

theorem Chip.Canon.postTo {c : Chip} {q : Nat} {r : EvtRec} (h : c.Canon) : (c.postTo q r).Canon := h.with_log

theorem Chip.Canon.route {c : Chip} {r : EvtRec} {part : Option Nat} (h : c.Canon) : (c.route r part).Canon := by
  unfold Chip.route
  split
  · exact .ite (.ite h.postTo.postTo h.postTo) h.postTo
  · exact h.postTo

theorem Chip.Canon.post {c : Chip} {e : Ev} {unit : Nat} {part : Option Nat} {v1 v2 : Nat} (h : c.Canon) : (c.post e unit part v1 v2).Canon := h.route

theorem Chip.Canon.sendErr {c : Chip} {r : ErrRec} (h : c.Canon) : (c.sendErr r).Canon := h.with_log

theorem Chip.Canon.charged {c : Chip} {r : Charge} (h : c.Canon) : (c.charged r).Canon := h.with_acct

theorem Chip.Canon.errForget {c : Chip} {hall : Nat} (h : c.Canon) : (c.errForget hall).Canon := h.with_log

theorem Chip.Canon.setCtx {c : Chip} {k : Nat} {x : Ctx} (h : c.Canon) : (c.setCtx k x).Canon := h.with_core

theorem Chip.Canon.updCtx {c : Chip} {k : Nat} {f : Ctx → Ctx} (h : c.Canon) : (c.updCtx k f).Canon := h.setCtx

theorem Chip.Canon.onCtx {c : Chip} {p i : Nat} {f : Ctx → Ctx} (h : c.Canon) : (c.onCtx p i f).Canon := h.with_core

theorem Chip.Canon.updSu {c : Chip} {site : Nat} {f : SuSt → SuSt} (h : c.Canon) : (c.updSu site f).Canon := h.with_su

theorem Chip.Canon.owe {c : Chip} {k : Nat} {op : Held} {now : Chip → Chip} (h : c.Canon) (h' : ∀ {c'}, c'.Canon → (now c').Canon) :
    (c.owe k op now).Canon := by
  unfold Chip.owe
  dsimp only
  split
  · exact h' h
  · exact h.updSu

theorem Chip.Canon.updEng {c : Chip} {key : Nat} {f : ChkEng → ChkEng} (h : c.Canon) : (c.updEng key f).Canon := h.with_core

theorem Chip.Canon.setOffset {c : Chip} {die : Nat} {off : Int} (h : c.Canon) : (c.setOffset die off).Canon := h.with_time

theorem Chip.Canon.at {c : Chip} {t : Nat} (h : c.Canon) : (c.at t).Canon := h.with_time

theorem Chip.Canon.frameDone {c : Chip} {p : Nat} (h : c.Canon) : (c.frameDone p).Canon := .ite h.updPart.route h

theorem Chip.Canon.frameCfg {c : Chip} {v : Nat} (h : c.Canon) : (c.frameCfg v).Canon := .ite h.setReg h.setReg.post

/-! ## Store -/

theorem Chip.Canon.bumpStore {c : Chip} {key : Nat} {ctr : Nat → RegKey} (h : c.Canon) : (c.bumpStore key ctr).Canon := .ite h.bump h

theorem Chip.Canon.senseWord {c : Chip} {scrub : Bool} {w e : Nat} (h : c.Canon) : (c.senseWord scrub w e).Canon := by
  unfold Chip.senseWord
  split
  · exact h
  · exact .ite (h.bumpStore.with_mem rfl) (.sendErr (h.bumpStore.with_mem rfl))
  · exact h.bumpStore.sendErr

theorem Chip.Canon.sense {c : Chip} {key n : Nat} (h : c.Canon) : (c.sense key n).1.Canon := .foldl h fun h' => h'.senseWord

theorem Chip.Canon.settleWord {c : Chip} {w : Nat} (h : c.Canon) : (c.settleWord w).Canon := h.of_writeBytes rfl

theorem Chip.Canon.putRaw {c : Chip} {key : Nat} {bs : List Byte} (h : c.Canon) : (c.putRaw key bs).Canon :=
  .of_writeBytes (.foldl h fun h' => h'.settleWord) rfl

theorem Chip.Canon.senseParts {c : Chip} {key n : Nat} (h : c.Canon) : (c.senseParts key n).1.Canon := .foldl h fun h' => h'.senseWord

theorem Chip.Canon.put {c : Chip} {key : Nat} {bs : List Byte} (h : c.Canon) : (c.put key bs).1.Canon := .ite_fst h.senseParts.putRaw h.senseParts

theorem Chip.Canon.putBus {c : Chip} {key : Nat} {bs : List Byte} (h : c.Canon) : (c.putBus key bs).1.Canon :=
  .ite_fst h.senseParts.putRaw (.ite (.putRaw (.foldl h.senseParts fun h' => h'.bumpStore)) (.foldl h.senseParts fun h' => h'.bumpStore))

theorem Chip.Canon.dropErrs {c : Chip} {key n : Nat} (h : c.Canon) : (c.dropErrs key n).Canon := h.with_mem rfl

theorem Chip.Canon.aliasRead {c : Chip} {kind site off n : Nat} (h : c.Canon) : (c.aliasRead kind site off n).1.Canon := .ite_fst h.bump h.sense

theorem Chip.Canon.aliasWrite {c : Chip} {kind site off : Nat} {bs : List Byte} (h : c.Canon) : (c.aliasWrite kind site off bs).1.Canon := by
  unfold Chip.aliasWrite
  have hsettled := (h.sense (key := sramKey site (off / 32 * 32)) (n := 32)).settleWord (w := sramKey site off / 32)
  exact .ite_fst h.bump (.ite_fst h.sense (Memory.wf_writeCells hsettled _))

theorem Chip.Canon.setTag {c : Chip} {blk : Nat} {t : Tag} (h : c.Canon) : (c.setTag blk t).Canon := h.with_mem rfl

theorem Chip.Canon.poison {c : Chip} {blk : Nat} (h : c.Canon) : (c.poison blk).Canon := h.setTag

theorem Chip.Canon.tagBlock {c : Chip} {blk prod : Nat} (h : c.Canon) : (c.tagBlock blk prod).Canon := .setTag (h.sense.with_mem rfl)

theorem Chip.Canon.tagFail {c : Chip} {blk unit : Nat} {ctr : RegKey} (h : c.Canon) : (c.tagFail blk unit ctr).Canon := h.bump.sendErr

theorem Chip.Canon.stbTagFail {c : Chip} {blk key : Nat} (h : c.Canon) : (c.stbTagFail blk key).Canon := h.tagFail

/-! ## KvTable -/

theorem Chip.Canon.kvPut {c : Chip} {stb i w v : Nat} (h : c.Canon) : (c.kvPut stb i w v).Canon := h.put

theorem Chip.Canon.kvFld {c : Chip} {stb i w hi lo v : Nat} (h : c.Canon) : (c.kvFld stb i w hi lo v).Canon := h.kvPut

theorem Chip.Canon.kvPushFree {c : Chip} {stb p : Nat} (h : c.Canon) : (c.kvPushFree stb p).Canon := h.kvFld.kvPut.kvFld.kvFld

theorem Chip.Canon.kvPend {c : Chip} {stb p : Nat} (h : c.Canon) : (c.kvPend stb p).Canon :=
  .kvFld (.kvFld (.ite h.kvFld.kvPut.kvFld h.kvFld.kvPut.kvFld))

theorem Chip.Canon.kvDetach {c : Chip} {stb frame : Nat} (h : c.Canon) : (c.kvDetach stb frame).Canon :=
  .ite h (.ite h.kvFld.kvFld.with_nextBatch h.kvFld.kvFld.with_batch)

theorem Chip.Canon.kvFreeChain {fuel stb p : Nat} {c : Chip} (h : c.Canon) : (Chip.kvFreeChain fuel c stb p).Canon := by
  induction fuel generalizing c p with
  | zero => exact h
  | succ fuel ih => exact .ite h (ih h.kvFld)

theorem Chip.Canon.kvSplice {c : Chip} {stb : Nat} (h : c.Canon) : (c.kvSplice stb).Canon := by
  unfold Chip.kvSplice
  split
  · exact h
  · extract_lets head cnt c1 c2 c3 c4 c5
    have h1 : c1.Canon := h.kvFreeChain
    have h5 : c5.Canon := .bump (.kvFld (.kvFld (.kvFld h1)))
    split
    · exact h5.with_batch
    · exact h5.of_cells rfl

/-! ## Residency -/

theorem Chip.Canon.pinnedCheck {c : Chip} {stb : Nat} (h : c.Canon) : (c.pinnedCheck stb).Canon := .ite (.foldl h fun h' => h'.with_core.post) h

theorem Chip.Canon.requestSave {c : Chip} {k : Nat} (h : c.Canon) : (c.requestSave k).Canon := h.updCtx

theorem Chip.Canon.reconsider {c : Chip} {stb : Nat} (h : c.Canon) : (c.reconsider stb).Canon := by
  refine .ite h.pinnedCheck ?_
  split
  · exact .foldl h.pinnedCheck fun h' => h'.requestSave
  · exact h.pinnedCheck

/-! ## Faults -/

theorem Chip.Canon.unresolved {c : Chip} {k : Nat} {x : Ctx} {b : Block} (h : c.Canon) : (c.unresolved k x b).Canon := h.sendErr

theorem Chip.Canon.discard {c : Chip} {k : Nat} (h : c.Canon) : (c.discard k).Canon := by
  unfold Chip.discard
  dsimp only
  split
  · exact h
  · refine .updCtx ?_
    split
    · exact .updEng (.foldl (.ite h.unresolved h) fun h' => h'.kvPushFree)
    · exact .foldl (.ite h.unresolved h) fun h' => h'.kvPushFree

theorem Chip.Canon.stopSlot {c : Chip} {k : Nat} (h : c.Canon) : (c.stopSlot k).Canon := h.discard.updCtx

theorem Chip.Canon.stopPart {c : Chip} {p : Nat} (h : c.Canon) : (c.stopPart p).Canon := .of_cells (.foldl h fun h' => h'.stopSlot) rfl

theorem Chip.Canon.dueResetAt {c : Chip} {p cls unit log : Nat} (h : c.Canon) : (c.dueResetAt p cls unit log).Canon :=
  .ite h.stopPart.updPart.post h.stopPart.updPart

theorem Chip.Canon.dueReset {c : Chip} {p cls stb : Nat} (h : c.Canon) : (c.dueReset p cls stb).Canon := h.dueResetAt

theorem Chip.Canon.recordFault {c : Chip} {k : Nat} {f : FaultInfo} (h : c.Canon) : (c.recordFault k f).Canon := h.updCtx.sendErr

theorem Chip.Canon.takeFault {c : Chip} {k : Nat} {f : FaultInfo} (h : c.Canon) : (c.takeFault k f).Canon := h.recordFault.dueReset

theorem Chip.Canon.resume {c : Chip} {k : Nat} (h : c.Canon) : (c.resume k).Canon := .reconsider (.ite h.updCtx.with_core h.updCtx)

theorem Chip.Canon.abandonNow {c : Chip} {k : Nat} (h : c.Canon) : (c.abandonNow k).Canon := .frameDone (.updCtx (.ite h.discard.resume h.discard))

theorem Chip.Canon.frameOverrun {c : Chip} {k : Nat} (h : c.Canon) : (c.frameOverrun k).Canon := by
  unfold Chip.frameOverrun
  dsimp only
  split
  · exact .ite h.recordFault.post.updCtx h.recordFault.post.abandonNow
  · exact h.recordFault.post.abandonNow

/-! ## Attribution -/

theorem Chip.Canon.retireUnit {c : Chip} {stb n : Nat} (h : c.Canon) : (c.retireUnit stb n).Canon := h.updEng.post

/-- Counting a disagreement against a unit, which retires it when it is the third in the window (R263). -/
theorem Chip.Canon.updEng_retireUnit {c : Chip} {p : Prop} [Decidable p] {stb s n : Nat} {f : ChkEng → ChkEng} (h : c.Canon) :
    ((if p then c.retireUnit s n else c).updEng stb f).Canon := .updEng (.ite h.retireUnit h)

theorem Chip.Canon.quarantine {c : Chip} {stb : Nat} (h : c.Canon) : (c.quarantine stb).Canon := h.updEng

/-! ## Access -/

theorem Keeps.checks {l : List (Bool × Nat)} : Keeps (checks l) := by
  intro c hc
  unfold Machine.checks
  split <;> exact hc

theorem Keeps.need {b : Bool} {cls : Nat} : Keeps (need b cls) := .checks

theorem Trap.canon_join {α : Type} {t : Trap} {r : Except Trap (α × Chip)} (h : t.chip.Canon) : (t.join r).chip.Canon := by
  unfold Trap.join
  split
  · exact h
  · split <;> exact h

theorem Keeps.joined {α : Type} {pre : Ex Unit} {act : Ex α} (hpre : Keeps pre) (hact : Keeps act) : Keeps (joined pre act) := by
  intro c hc
  unfold Machine.joined
  split
  · next heq => exact hact _ (hpre.ok hc heq)
  · next heq => exact Trap.canon_join (hpre.error hc heq)

theorem Keeps.ctxOf {k : Nat} : Keeps (ctxOf k) := fun _ hc => hc

theorem Keeps.updC {k : Nat} {f : Ctx → Ctx} : Keeps (updC k f) := .modify fun h => h.updCtx

theorem Keeps.updB {k : Nat} {f : Block → Block} : Keeps (updB k f) := .updC

theorem Chip.Canon.countMiss {c : Chip} {a : Nat} (h : c.Canon) : (c.countMiss a).Canon := by
  refine .ite h ?_
  split
  · exact h.countErr
  · exact h.bump
  · exact .ite h h.bump
  · exact h

theorem Keeps.translate {k a n : Nat} {wr : Bool} : Keeps (translate k a n wr) := by
  intro c hc
  unfold Machine.translate
  split
  · exact hc
  · exact hc.countMiss

theorem Keeps.senseEx {key n : Nat} : Keeps (senseEx key n) := by
  intro c hc
  unfold Machine.senseEx
  have hs := hc.sense (key := key) (n := n)
  dsimp only
  split <;> exact hs

theorem Keeps.verify {stb blk : Nat} : Keeps (verify stb blk) := by
  intro c hc
  unfold Machine.verify
  split
  · exact hc
  · exact hc.stbTagFail

theorem Keeps.pageKey {k set idx : Nat} : Keeps (pageKey k set idx) := by
  refine .get fun _ => ?_
  dsimp only
  split
  · exact .pure _
  · exact .raise

theorem Keeps.rdKey {k key : Nat} : Keeps (rdKey k key) := by
  refine .bind .ctxOf fun {_} => ?_
  split
  · exact .pure _
  · split
    · exact .pure _
    · exact .bind .pageKey (.pure _)

theorem Keeps.wrPage {k blk : Nat} {whole : Bool} : Keeps (wrPage k blk whole) := by
  refine .get fun _ => ?_
  dsimp only
  split
  · exact .pure _
  · split
    · exact .pageKey
    · exact .ite .raise (.bind .pageKey (.ite (.bind .updB (.pure _)) (.bind .senseEx (.ite (.bind (.modify fun h' => h'.putRaw) (.bind .updB
        (.pure _))) (.bind .verify (.bind (.modify fun h' => h'.putRaw) (.bind .updB (.pure _))))))))

theorem Keeps.noteSpan {k key n : Nat} : Keeps (noteSpan k key n) := .updB

theorem Keeps.feedSig {k : Nat} {bs : List Byte} : Keeps (feedSig k bs) := .updB

theorem Keeps.feedCls {k u : Nat} {bs : List Byte} : Keeps (feedCls k u bs) := .updB

theorem Keeps.signWrite {k u key : Nat} {bs : List Byte} : Keeps (signWrite k u key bs) := .get fun _ => .updB

theorem Keeps.flushSig {k : Nat} : Keeps (flushSig k) := by
  refine .bind .ctxOf fun {_} => ?_
  split
  · exact .pure _
  · exact .bind (.forM (.bind .feedSig .feedCls)) .updB

theorem Keeps.wrPiece {k u key : Nat} {bs : List Byte} : Keeps (wrPiece k u key bs) := by
  refine .ite (.pure _) (.bind .wrPage (.bind .noteSpan (.bind .signWrite (.get fun h => ?_))))
  dsimp only
  exact .bind (.set h.put) (.ite (.pure _) .raise)

theorem Keeps.wr {k u a : Nat} {bs : List Byte} : Keeps (wr k u a bs) := .bind .translate (.forM .wrPiece)

theorem Keeps.rdPiece {k key n : Nat} : Keeps (rdPiece k key n) := .bind .rdKey (.bind .senseEx (.get fun _ => .pure _))

theorem Keeps.rdBytes {k : Nat} {keys : List Nat} : Keeps (rdBytes k keys) := .bind (.mapM .rdKey) (.bind (.forM .senseEx) (.get fun _ => .pure _))

theorem Keeps.wordRmw {k : Nat} {keys : List Nat} {f : Byte → Byte → Byte} {bs : List Byte} : Keeps (wordRmw k keys f bs) :=
  .get fun _ => .bind .need (.bind .wrPage (.bind .senseEx (.get fun _ => .bind (.forM .noteSpan) (.bind (.forM .signWrite)
    (.modify fun h'' => .foldl h'' fun h3 => h3.putRaw)))))

theorem Keeps.rd {k a n : Nat} : Keeps (rd k a n) := .bind .translate (.get fun _ => .ite .raise (.bind (.mapM .rdPiece) (.pure _)))

theorem Keeps.verifyRange {k a n : Nat} : Keeps (verifyRange k a n) := by
  refine .bind .translate (.bind .ctxOf (.forM fun {_} => ?_))
  split
  · exact .pure _
  · exact .bind .senseEx .verify

theorem Keeps.tagKeys {k : Nat} {blks : List Nat} : Keeps (tagKeys k blks) := by
  refine .get fun _ => ?_
  dsimp only
  split
  · exact .pure _
  · exact .modify fun h' => .foldl h' fun h'' => h''.tagBlock

theorem Keeps.keyBlocks {k a n : Nat} : Keeps (keyBlocks k a n) := .bind .translate (.pure _)

theorem Keeps.record {k bytes val : Nat} : Keeps (record k bytes val) := by
  refine .bind .ctxOf fun {_} => ?_
  split
  · exact .pure _
  · exact .ite .raise (.bind .senseEx (.bind (.modify fun h => h.dropErrs) (.bind .updB (.modify fun h => h.updEng))))

theorem Keeps.replay {k : Nat} : Keeps (replay k) := by
  refine .bind .ctxOf fun {_} => ?_
  split
  · exact .pure _
  · refine .bind .updB fun {_} => ?_
    split
    · exact .pure _
    · exact .ite (.bind (.modify fun h => h.bump.sendErr) .raise) (.ite (.bind (.modify fun h => h.bump.bump.sendErr) (.pure _)) (.pure _))

theorem Keeps.recorded {k bytes : Nat} {act : Ex Nat} (h : Keeps act) : Keeps (recorded k bytes act) := by
  refine .bind .ctxOf fun {_} => ?_
  split
  · exact h
  · exact .ite (.bind h (.bind .record (.pure _))) .replay

theorem Keeps.hold {k opc sub : Nat} {ops : List W64} : Keeps (hold k opc sub ops) := .updB

theorem Keeps.inChk {k : Nat} : Keeps (inChk k) := .bind .ctxOf (.pure _)

/-! ## Operands -/

theorem Keeps.getS {k i : Nat} : Keeps (getS k i) := .bind .ctxOf (.pure _)

theorem Keeps.setS {k i : Nat} {v : W64} : Keeps (setS k i v) := .updC

theorem Keeps.setP {k i : Nat} {b : Bool} : Keeps (setP k i b) := .updC

/-! ## Issue -/

theorem Chip.Canon.activate {c : Chip} {k : Nat} (h : c.Canon) : (c.activate k).Canon := h.with_core.updCtx

theorem Chip.Canon.applyMove {c : Chip} {k : Nat} (h : c.Canon) : (c.applyMove k).Canon := by
  unfold Chip.applyMove
  split
  · exact h.updCtx.frameDone
  · exact h

/-- A trap leaves the stores as they were, or as they are where its memory is kept. -/
theorem Trap.canon_rollback {t : Trap} {c : Chip} (ht : t.chip.Canon) (h : c.Canon) : (t.rollback c).Canon := by
  by_cases hkeep : t.keep = true
  · exact ht.of_cells (by simp [Trap.rollback, hkeep])
  · rw [Chip.Canon, show (t.rollback c).mem.cells = c.mem.cells by simp [Trap.rollback, hkeep]]
    exact h

theorem Trap.canon_take {t : Trap} {c : Chip} {k opc : Nat} (ht : t.chip.Canon) (h : c.Canon) : (t.take c k opc).Canon :=
  (Trap.canon_rollback ht h).takeFault

theorem Chip.Canon.runEx {c : Chip} {k opc : Nat} {body : Ex Unit} (h : c.Canon) (hb : Keeps body) : (c.runEx k opc body).Canon := by
  unfold Chip.runEx
  split
  · next heq => exact hb.ok h heq
  · next heq => exact Trap.canon_take (hb.error h heq) h

theorem Keeps.countInsn {k : Nat} {executes : Bool} : Keeps (countInsn k executes) := by
  refine .bind .flushSig (.bind .ctxOf fun {_} => ?_)
  split
  · exact .pure _
  · exact .bind .need .updB

theorem Keeps.lockStep {k : Nat} {l : Lock} : Keeps (lockStep k l) := by
  unfold Machine.lockStep
  split
  · exact .pure _
  · exact .modify fun h => .updEng_retireUnit h.bump.sendErr
  · exact .bind (.modify fun h => h.bump.sendErr) .raise

theorem Keeps.prologue {k : Nat} {d : IDesc} {e : Enc} : Keeps (prologue k d e) :=
  .bind .ctxOf (.get fun _ => .bind .checks (.bind .checks (.bind .updC (.bind .countInsn (.get fun _ => .ite (.bind .need (.ite (.bind .lockStep
    (.pure _)) (.pure _))) (.pure _))))))

theorem Chip.Canon.lockFail {c : Chip} {k : Nat} {t : Trap} (h : c.Canon) : (c.lockFail k t).Canon := .ite h.quarantine h

theorem Chip.Canon.instr {c : Chip} {r : CtxRef} {d : IDesc} {e : Enc} {body : Nat → Ex Unit} (h : c.Canon) (hb : ∀ {k}, Keeps (body k)) :
    (c.instr r d e body).Canon := by
  unfold Chip.instr
  extract_lets k c1
  have h1 : c1.Canon := h.activate.applyMove
  have hp : Keeps (prologue k d e) := .prologue
  refine .ite ?_ h
  split
  · next heq =>
    have h2 := hp.ok h1 heq
    split
    · next heq' => exact hb.ok h2 heq'
    · next heq' => exact (Trap.canon_take (hb.error h2 heq') h1).lockFail
  · next heq => exact hp.ok h1 heq
  · next heq =>
    have ht := hp.error h1 heq
    refine (Trap.canon_take ?_ h1).lockFail
    split
    · exact Trap.canon_join ht
    · exact ht

/-! ## Flags -/

theorem Chip.Canon.countFlags {c : Chip} {k : Nat} {f : NumFlags} (h : c.Canon) : (c.countFlags k f).Canon := by
  unfold Chip.countFlags
  extract_lets s c1 c2 c3
  have h1 : c1.Canon := .ite h.bump h
  have h2 : c2.Canon := .ite h1.bump h1
  have h3 : c3.Canon := .ite h2.bump h2
  exact .ite (.ite h3.bump h3) h

theorem Chip.Canon.noteFlags {c : Chip} {k sp : Nat} {f : NumFlags} (h : c.Canon) : (c.noteFlags k sp f).Canon := h.countFlags.updCtx

theorem Keeps.finishFlags {k sp : Nat} {f : NumFlags} : Keeps (finishFlags k sp f) := .modify fun h => h.noteFlags

/-! ## Scalar -/

theorem Keeps.scalarLoad {k a n : Nat} : Keeps (scalarLoad k a n) := by
  unfold Machine.scalarLoad
  split
  · exact .ite (.bind (.modify fun h => h.bump) (.pure _)) (.bind .rdBytes (.pure _))
  · exact .bind .rd (.pure _)

theorem Keeps.scalarStore {k a : Nat} {bs : List Byte} : Keeps (scalarStore k a bs) := by
  unfold Machine.scalarStore
  split
  · exact .ite (.modify fun h => h.bump) .wordRmw
  · exact .wr

theorem Keeps.branchTo {k a : Nat} : Keeps (branchTo k a) := .bind .ctxOf (.bind .checks .updC)

theorem Keeps.nopBody {x : Nat} : Keeps (nopBody x) := .pure _

theorem Keeps.aluBody {sub : Nat} {e : Enc} {k : Nat} : Keeps (aluBody sub e k) := .bind .getS (.bind .getS .setS)

theorem Keeps.aluiBody {sub : Nat} {e : Enc} {k : Nat} : Keeps (aluiBody sub e k) := .bind .getS .setS

theorem Keeps.liBody {e : Enc} {k : Nat} : Keeps (liBody e k) := .setS

theorem Keeps.ldBody {sub : Nat} {e : Enc} {k : Nat} : Keeps (ldBody sub e k) :=
  .bind .getS (.get fun _ => .ite (.bind (.recorded (.bind .translate (.bind (.mapM .rdPiece) (.pure _)))) .setS) (.bind .scalarLoad .setS))

theorem Keeps.stBody {sub : Nat} {e : Enc} {k : Nat} : Keeps (stBody sub e k) := .bind .getS (.bind .getS .scalarStore)

theorem Keeps.cmpBody {sub : Nat} {e : Enc} {k : Nat} : Keeps (cmpBody sub e k) := .bind .getS (.bind .getS .setP)

theorem Keeps.cmpiBody {sub : Nat} {e : Enc} {k : Nat} : Keeps (cmpiBody sub e k) := .bind .getS .setP

theorem Keeps.plogBody {sub : Nat} {e : Enc} {k : Nat} : Keeps (plogBody sub e k) := .bind .ctxOf .setP

theorem Keeps.brBody {e : Enc} {k : Nat} : Keeps (brBody e k) := .bind .ctxOf .branchTo

theorem Keeps.callBody {e : Enc} {k : Nat} : Keeps (callBody e k) := .bind .ctxOf (.bind .setS .branchTo)

theorem Keeps.jrBody {e : Enc} {k : Nat} : Keeps (jrBody e k) := .bind .getS .branchTo

theorem Keeps.jrlBody {e : Enc} {k : Nat} : Keeps (jrlBody e k) := .bind .getS (.bind .ctxOf (.bind .setS .branchTo))

theorem Keeps.mfsCswBody {e : Enc} {k : Nat} : Keeps (mfsCswBody e k) := .get fun _ => .setS

theorem Keeps.mfsLfcBody {e : Enc} {k : Nat} : Keeps (mfsLfcBody e k) := .bind .ctxOf .setS

theorem Keeps.mfsDevtimeBody {e : Enc} {k : Nat} : Keeps (mfsDevtimeBody e k) := .bind (.recorded (.get fun _ => .pure _)) .setS

theorem Keeps.mfsIaddrBody {e : Enc} {k : Nat} : Keeps (mfsIaddrBody e k) := .bind .ctxOf .setS

theorem Keeps.mfsPlaceBody {e : Enc} {k : Nat} : Keeps (mfsPlaceBody e k) := .get fun _ => .setS

theorem Keeps.endBody {k : Nat} : Keeps (endBody k) :=
  .bind .ctxOf (.bind .need (.bind .ctxOf (.bind .updC (.modify fun h => h.frameDone.reconsider))))

theorem Keeps.setTD {k i : Nat} {w : BitVec 256} : Keeps (setTD k i w) := .updC

theorem Keeps.getTD {k i : Nat} : Keeps (getTD k i) := .bind .ctxOf (.pure _)

theorem Keeps.tdldBody {e : Enc} {k : Nat} : Keeps (tdldBody e k) :=
  .bind .getS (.get fun _ => .ite (.bind .scalarLoad (.bind .checks .setTD)) (.ite (.bind (.recorded (.bind .translate (.bind (.mapM .rdPiece)
    (.pure _)))) (.bind .checks .setTD)) (.bind (.bind .rd (.pure _)) (.bind .checks .setTD))))

theorem Keeps.tdstBody {e : Enc} {k : Nat} : Keeps (tdstBody e k) := .bind .getS (.bind .getTD (.joined .need .scalarStore))

theorem Keeps.tdbaseBody {e : Enc} {k : Nat} : Keeps (tdbaseBody e k) := .bind .getS (.bind .getTD (.bind .checks .setTD))

/-! ## TensorMem -/

theorem Keeps.descAt {k i : Nat} : Keeps (descAt k i) := .bind .getTD (.pure _)

theorem Keeps.checksAt {l : List (Bool × Nat)} {at' : Option Nat} : Keeps (checksAt l at') := by
  intro c hc
  have hl : Keeps (Machine.checks l) := .checks
  unfold Machine.checksAt
  split
  · next heq => exact hl.ok hc heq
  · next heq =>
    have ht := hl.error hc heq
    split
    · split
      · exact ht.countMiss
      · exact ht
    · exact ht

theorem Keeps.rdPol {k : Nat} {tagged : Bool} {a n : Nat} : Keeps (rdPol k tagged a n) := .ite (.bind .verifyRange .rd) .rd

theorem Keeps.readRawOn {on : Nat → Bool} {k : Nat} {d : Desc} : Keeps (readRawOn on k d) :=
  .bind (.mapM (.ite (.bind .rdPol (.pure _)) (.bind (.pure _) (.pure _)))) (.pure _)

theorem Keeps.readRaw {k : Nat} {d : Desc} : Keeps (readRaw k d) := .readRawOn

theorem Keeps.readScales {on : Nat → Bool} {k : Nat} {d : Desc} : Keeps (readScales on k d) :=
  .bind (.mapM (.ite (.bind .rdPol (.pure _)) (.bind (.pure _) (.pure _)))) (.pure _)

theorem Keeps.readTensorOn {on : Nat → Bool} {k : Nat} {d : Desc} : Keeps (readTensorOn on k d) :=
  .bind .readRawOn (.ite (.bind .readScales (.pure _)) (.pure _))

theorem Keeps.readTensor {k : Nat} {d : Desc} : Keeps (readTensor k d) := .readTensorOn

theorem Keeps.readF32On {on : Nat → Bool} {k : Nat} {d : Desc} : Keeps (readF32On on k d) := .bind .readTensorOn (.pure _)

theorem Keeps.readF32 {k : Nat} {d : Desc} : Keeps (readF32 k d) := .readF32On

theorem Keeps.wrRuns {k : Nat} {qs : List (Nat × Nat × List Byte)} {done : List Nat} : Keeps (wrRuns k qs done) := by
  induction qs generalizing done with
  | nil => exact .pure _
  | cons q qs ih =>
    intro c hc
    unfold Machine.wrRuns
    split
    · next heq => exact ih _ (Keeps.wr.ok hc heq)
    · next heq =>
      have ht := Keeps.wr.error hc heq
      exact ht

/-- What a stopped phase leaves in memory has to be canonical. -/
theorem Keeps.moveStop {α : Type} {k : Nat} {act : Ex α} {left : Trap → Chip → MemSt × List Nat} (h : Keeps act)
    (hleft : ∀ {t : Trap} {c : Chip}, t.chip.Canon → c.Canon → (left t c).1.cells.wf = true) : Keeps (moveStop k act left) := by
  intro c hc
  unfold Machine.moveStop
  split
  · next heq => exact h.ok hc heq
  · next t heq =>
    have ht := h.error hc heq
    change Chip.Canon (Trap.chip _)
    split
    · exact .foldl (hleft ht hc) fun h' => h'.poison
    · exact ht

theorem Keeps.emit {k : Nat} {tagged : Bool} {cells : List (Nat × Nat × Byte)} : Keeps (emit k tagged cells) :=
  .bind .wrRuns (.ite (.bind (.mapM .keyBlocks) .tagKeys) (.pure _))

theorem Keeps.oldByte {k a : Nat} : Keeps (oldByte k a) := .bind .translate (.bind (.mapM .rdPiece) (.pure _))

theorem Keeps.elemCells {k : Nat} {d : Desc} {els : List (Option Nat)} {unit : Nat → Nat} : Keeps (elemCells k d els unit) :=
  .bind (.mapM (.bind (.mapM (.ite .oldByte (.pure _))) (.pure _))) (.pure _)

theorem Keeps.writeTensor {k : Nat} {d : Desc} {vals : List (Option FV)} {sr : Bool} {seed : Nat} {unit : Nat → Nat} :
    Keeps (writeTensor k d vals sr seed unit) :=
  .ite (.bind .elemCells (.bind .emit (.pure _))) (.bind .elemCells (.bind .emit (.pure _)))

/-! ## Device -/

theorem Chip.Canon.devSense {c : Chip} {a n : Nat} (h : c.Canon) : (c.devSense a n).Canon := by
  refine .foldl h fun h' => ?_
  split
  · exact h'.sense
  · exact h'

theorem Chip.Canon.devWrite {c : Chip} {a : Nat} {bs : List Byte} (h : c.Canon) : (c.devWrite a bs).Canon := by
  refine .foldl h fun h' => ?_
  split
  · exact h'.putBus
  · exact h'

theorem Chip.Canon.devTag {c : Chip} {a n : Nat} (h : c.Canon) : (c.devTag a n).Canon := by
  refine .foldl h fun h' => ?_
  split
  · exact h'.tagBlock
  · exact h'

/-! ## SaveArea -/

theorem Chip.Canon.saveTo {c : Chip} {stb : Nat} {x : Ctx} {d : CtxDesc} {ps : List Nat} (h : c.Canon) : (c.saveTo stb x d ps).Canon :=
  .devWrite (.foldl h fun h' => h'.sense)

theorem Chip.Canon.reimage {c : Chip} {stb : Nat} {x : Ctx} (h : c.Canon) : (c.reimage stb x).Canon := by
  unfold Chip.reimage
  split
  · exact h.devWrite
  · exact h

theorem Chip.Canon.pagesBack {c : Chip} {stb : Nat} {ps : List (Nat × List Byte × Tag)} (h : c.Canon) : (c.pagesBack stb ps).Canon :=
  .foldl (.foldl h fun h' => h'.putRaw) fun h' => h'.setTag

theorem Chip.Canon.loadFrom {c : Chip} {stb : Nat} {x : Ctx} {d : CtxDesc} {ps : List Nat} (h : c.Canon) : (c.loadFrom stb x d ps).1.Canon :=
  h.devSense.pagesBack

/-! ## Waits -/

theorem Chip.Canon.yieldTo {c : Chip} {k : Nat} (h : c.Canon) : (c.yieldTo k).Canon := by
  unfold Chip.yieldTo
  split
  · exact .ite h.with_core.updCtx h
  · exact h

theorem Chip.Canon.block {c : Chip} {k : Nat} {w : Wait} (h : c.Canon) : (c.block k w).Canon := h.updCtx.yieldTo.reconsider

theorem Chip.Canon.resumeWith {c : Chip} {k opc : Nat} {act : Ex Unit} (h : c.Canon) (h' : Keeps act) : (c.resumeWith k opc act).Canon :=
  h.resume.runEx h'

theorem Chip.Canon.updSaved {c : Chip} {key : Nat × Nat} {f : Ctx → Ctx} (h : c.Canon) : (c.updSaved key f).Canon := by
  unfold Chip.updSaved
  split
  · exact h
  · dsimp only
    split
    · exact h.with_core.reimage.reconsider
    · exact h.with_core

/-! ## Movement -/

theorem Keeps.moveRead {k : Nat} {tagged : Bool} {seen : List Nat} {a n : Nat} : Keeps (moveRead k tagged seen a n) := by
  refine .bind .translate (.bind .ctxOf fun {_} => ?_)
  split
  · exact .ite (.bind .rdPiece (.pure _)) (.ite (.get fun _ => .pure _) (.bind .senseEx (.bind .verify (.get fun _ => .pure _))))
  · exact .raise

theorem Keeps.moveChunks {k first : Nat} {src : Nat → List Nat → Nat → Nat → Ex (List Byte × List Nat)} {qs : List Chunk} {seen written : List Nat}
    (h : ∀ {a a1 a2 a3}, Keeps (src a a1 a2 a3)) : Keeps (moveChunks k first src qs seen written) := by
  induction qs generalizing seen written with
  | nil => exact .pure _
  | cons q qs ih =>
    unfold Machine.moveChunks
    extract_lets step
    have hstep : Keeps step := .bind h (.bind .keyBlocks (.bind .wr (.pure _)))
    refine .get fun hc => ?_
    split
    · next heq => exact .bind (.set (hstep.ok hc heq)) ih
    · next heq =>
      have ht := hstep.error hc heq
      exact .ite (fun _ _ => Chip.Canon.foldl ht fun h' => h'.poison) fun _ _ => ht

theorem Keeps.copySrc {k : Nat} {s d : Desc} {dst : Nat} {seen : List Nat} {a n : Nat} : Keeps (copySrc k s d dst seen a n) := by
  refine .bind .moveRead fun {_} => ?_
  dsimp only
  exact .ite (.bind .rd (.pure _)) (.pure _)

theorem Keeps.keyBlocksR {k a n : Nat} : Keeps (keyBlocksR k a n) := .bind .translate (.pure _)

theorem Keeps.copyTags {k : Nat} {s d : Desc} {written : List Nat} : Keeps (copyTags k s d written) :=
  .bind .inChk (.ite (.pure _) (.ite (.bind .keyBlocksR (.bind .keyBlocks (.modify fun h => .foldl h fun h' => h'.setTag))) .tagKeys))

theorem Keeps.copyBody {e : Enc} {k : Nat} : Keeps (copyBody e k) :=
  .bind .descAt (.bind .descAt (.get fun _ => .bind .checks (.bind (.moveChunks .copySrc) .copyTags)))

theorem Keeps.fillSrc {k : Nat} {d : Desc} {p dst : Nat} {seen : List Nat} {a n : Nat} : Keeps (fillSrc k d p dst seen a n) :=
  .ite (.bind .rd (.pure _)) (.pure _)

theorem Keeps.fillBody {e : Enc} {k : Nat} : Keeps (fillBody e k) :=
  .bind .descAt (.bind .getS (.get fun _ => .bind .checks (.bind (.moveChunks .fillSrc) (.ite .tagKeys (.pure _)))))

theorem Keeps.rmw {keys : List Nat} {clr : Bool} {data : List Byte} : Keeps (rmw keys clr data) :=
  .bind (.forM .senseEx) (.get fun h => .bind (.set (.foldl h fun h' => h'.putRaw)) (.pure _))

theorem Keeps.atomAt {k sub a : Nat} {data : W64} : Keeps (atomAt k sub a data) := by
  refine .get fun _ => ?_
  split
  · exact .raise
  · exact .rmw

theorem Keeps.atomBody {sub : Nat} {e : Enc} {k : Nat} : Keeps (atomBody sub e k) := by
  refine .bind .getS (.bind .getS (.bind .inChk fun {_} => ?_))
  split
  · exact .bind .atomAt .setS
  · refine .get fun _ => .bind .need (.bind (.recorded (.get fun _ => ?_)) (.bind .hold .setS))
    split
    · exact .raise
    · exact .bind .rdBytes (.pure _)

/-! ## Collective -/

theorem Keeps.readMap {k smap : Nat} : Keeps (readMap k smap) := by
  refine .ite (.pure _) (.get fun _ => ?_)
  dsimp only
  split
  · exact .bind .senseEx (.get fun _ => .pure _)
  · exact .raise

theorem Keeps.collCheck {sub : Nat} {e : Enc} {k : Nat} : Keeps (collCheck sub e k) :=
  .bind .descAt (.bind .descAt (.bind .readMap (.bind .readMap (.get fun _ => .bind .checks (.pure _)))))

theorem Chip.Canon.enterColl {c : Chip} {me p : Nat} {q : CollReq} (h : c.Canon) : (c.enterColl me p q).1.Canon := by
  unfold Chip.enterColl
  split <;> exact h.with_core

theorem Chip.Canon.joinAt {c : Chip} {me p : Nat} {q : CollReq} (h : c.Canon) : (c.joinAt me p q).1.Canon := by
  unfold Chip.joinAt
  split
  · exact h
  · exact h.enterColl

theorem Chip.Canon.joinColl {c : Chip} {k : Nat} {q : CollReq} (h : c.Canon) : (c.joinColl k q).Canon := by
  unfold Chip.joinColl
  dsimp only
  split
  · exact h.joinAt.updCtx
  · exact h.updCtx

theorem Chip.Canon.joinFreed {c : Chip} {p i seq : Nat} (h : c.Canon) : (c.joinFreed p i seq).Canon := by
  unfold Chip.joinFreed
  dsimp only
  split
  · exact .setCtx (.foldl_fst h fun h' => h'.joinAt)
  · split
    · exact .updSaved (.foldl_fst h fun h' => h'.joinAt)
    · exact h

theorem Chip.Canon.waitColl {c : Chip} {k : Nat} (h : c.Canon) : (c.waitColl k).Canon := by
  unfold Chip.waitColl
  split
  · exact h
  · exact h.block

theorem Chip.Canon.fillShard {c : Chip} {p sub : Nat} {d : Desc} {ss : List Shard} {vals : List (Array Nat)} {first : Nat} {s : Shard}
    (h : c.Canon) : (c.fillShard p sub d ss vals first s).1.Canon :=
  .foldl (.foldl_fst h fun h' => .foldl h' fun h'' => h''.putRaw) fun h' => h'.tagBlock

theorem Chip.Canon.countShards {c : Chip} {es : List (Nat × Bool × Bool)} (h : c.Canon) : (c.countShards es).Canon :=
  .foldl (.foldl h fun h' => h'.bump) fun h' => h'.bump

theorem Keeps.verifyShard {p : Nat} {d : Desc} {stb : Nat} {s : Shard} : Keeps (verifyShard p d stb s) := .get fun _ => .forM (.bind .senseEx .verify)

theorem Chip.Canon.verifySources {c : Chip} {i : Coll} {ss : List Shard} (h : c.Canon) : (c.verifySources i ss).1.Canon := by
  induction ss generalizing c with
  | nil => exact h
  | cons s ss ih =>
    unfold Chip.verifySources
    extract_lets stb
    split
    · next heq => exact ih (Keeps.verifyShard.ok h heq)
    · next heq =>
      split
      · exact Trap.canon_take (Keeps.verifyShard.error h heq) h
      · exact h.dueReset

theorem Chip.Canon.sumDiffers {c : Chip} {i : Coll} {stb a : Nat} {l : SumCmp} (h : c.Canon) : (c.sumDiffers i stb a l).1.Canon := by
  unfold Chip.sumDiffers
  dsimp only
  split
  · exact h.bump.bump.post.sendErr.updEng_retireUnit
  · dsimp only
    split
    · exact h.bump.bump.bump.sendErr.quarantine.takeFault
    · exact h.bump.bump.bump.sendErr.quarantine.dueReset

theorem Chip.Canon.sumsAgree {c : Chip} {i : Coll} {ls : List (Nat × SumCmp)} (h : c.Canon) : (c.sumsAgree i ls).1.Canon := by
  induction ls generalizing c with
  | nil => exact h
  | cons l ls ih =>
    unfold Chip.sumsAgree
    refine .ite_fst ?_ (ih h)
    split
    · exact h
    · exact .ite_fst (ih h.sumDiffers) h.sumDiffers

theorem Chip.Canon.runColl {c : Chip} {i : Coll} {cmps : List (Nat × SumCmp)} (h : c.Canon) : (c.runColl i cmps).1.Canon :=
  .ite_fst h.verifySources (.ite_fst h.verifySources.sumsAgree (.countShards (.foldl_fst h.verifySources.sumsAgree fun h' => h'.fillShard)))

theorem Chip.Canon.nextColl {c : Chip} {i : Coll} {stb me : Nat} (h : c.Canon) : (c.nextColl i stb me).Canon := by
  unfold Chip.nextColl
  dsimp only
  split
  · split
    · exact h.enterColl.updCtx.updCtx.with_core
    · exact h
  · split
    · split
      · exact h.enterColl.with_core
      · exact h
    · exact h

theorem Chip.Canon.collSettle {c : Chip} {inst k : Nat} (h : c.Canon) : (c.collSettle inst k).Canon := .ite h.updCtx.resume h.updCtx

theorem Chip.Canon.collComplete {c : Chip} {inst stb : Nat} {cmps : List (Nat × SumCmp)} (h : c.Canon) : (c.collComplete inst stb cmps).Canon := by
  unfold Chip.collComplete
  split
  · exact .ite h (.ite (.ite_fst h.runColl h) (.foldl (.foldl (.nextColl (.with_core
      (.ite_fst h.runColl h))) fun h' => h'.collSettle) fun h' => h'.updSaved))
  · exact h

theorem Keeps.outCells {k : Nat} {d : Desc} {mine : List (Nat × List Nat)} {ss ds : List Shard} {repl : Bool} :
    Keeps (outCells k d mine ss ds repl) :=
  .get fun _ => .pure _

theorem Keeps.collHeld {sub id k : Nat} {tdd tds : BitVec 256} {s d : Desc} {sm dm : List Byte} : Keeps (collHeld sub id k tdd tds s d sm dm) :=
  .get fun _ => .bind (.mapM (.bind (.mapM (.bind (.mapM .rdPiece) (.pure _))) (.pure _))) (.bind .outCells (.bind (.forM .signWrite) .hold))

theorem Keeps.collBody {sub : Nat} {e : Enc} {k : Nat} : Keeps (collBody sub e k) := by
  refine .bind .getTD (.bind .getTD (.bind .getS (.bind .collCheck fun {_} => ?_)))
  dsimp only
  refine .get fun _ => ?_
  split
  · exact .pure _
  · refine .ite (.pure _) (.bind .inChk fun {_} => ?_)
    split
    · exact .collHeld
    · exact .modify fun h' => h'.joinColl.waitColl

theorem Chip.Canon.launchHeld {c : Chip} {k : Nat} {q : Held} (h : c.Canon) : (c.launchHeld k q).Canon := h.joinColl

/-! ## Sync -/

theorem Chip.Canon.evtSet {c : Chip} {p f : Nat} (h : c.Canon) : (c.evtSet p f).Canon := h.updPart.with_core

theorem Chip.Canon.evtClr {c : Chip} {p f : Nat} (h : c.Canon) : (c.evtClr p f).Canon := h.updPart

theorem Chip.Canon.userRecord {c : Chip} {k p lfc : Nat} {a b : W64} (h : c.Canon) : (c.userRecord k p lfc a b).Canon := h.route

theorem Chip.Canon.evtPost {c : Chip} {k : Nat} {a b : W64} (h : c.Canon) : (c.evtPost k a b).Canon := h.userRecord

theorem Keeps.recordDone {k : Nat} : Keeps (recordDone k) := .bind (.recorded (.pure _)) (.pure _)

theorem Keeps.evtSetBody {clr : Bool} {e : Enc} {k : Nat} : Keeps (evtSetBody clr e k) := by
  refine .bind .getS (.bind .inChk fun {_} => ?_)
  split
  · exact .hold
  · exact .modify fun h => h.owe fun h' => .ite h'.evtClr h'.evtSet

theorem Keeps.evtPostBody {e : Enc} {k : Nat} : Keeps (evtPostBody e k) := by
  refine .bind .getS (.bind .getS (.bind .inChk fun {_} => ?_))
  split
  · exact .hold
  · exact .modify fun h => h.owe fun h' => h'.evtPost

theorem Keeps.evtWaitBody {e : Enc} {k : Nat} : Keeps (evtWaitBody e k) :=
  .bind .getS (.bind .inChk (.get fun _ => .ite .recordDone (.modify fun h' => h'.block)))

theorem Chip.Canon.evtWake {c : Chip} {p f : Nat} (h : c.Canon) : (c.evtWake p f).Canon :=
  .foldl (.foldl h fun h' => h'.resumeWith .recordDone) fun h' => .ite h'.updSaved h'

theorem Chip.Canon.hallEvtWrite {c : Chip} {site p k v : Nat} {clr : Bool} (h : c.Canon) : (c.hallEvtWrite site p k v clr).Canon :=
  .ite (.foldl h fun h' => .ite h'.evtClr h'.evtSet) h.bump

theorem Chip.Canon.barArrive {c : Chip} {p b : Nat} (h : c.Canon) : (c.barArrive p b).Canon := .ite h (.ite h.updPart h.updPart)

theorem Keeps.barArriveBody {e : Enc} {k : Nat} : Keeps (barArriveBody e k) := by
  refine .bind .getS (.bind .ctxOf (.bind (.recorded (.get fun _ => .pure _)) (.bind .inChk fun {_} => ?_)))
  dsimp only
  split
  · exact .bind .hold .setS
  · exact .bind (.modify fun h => h.owe fun h' => h'.barArrive) .setS

theorem Keeps.barWaitBody {e : Enc} {k : Nat} : Keeps (barWaitBody e k) :=
  .bind .getS (.bind .getS (.bind .inChk (.get fun _ => .ite .recordDone (.modify fun h' => h'.block))))

theorem Chip.Canon.barResume {c : Chip} {p b : Nat} (h : c.Canon) : (c.barResume p b).Canon :=
  .foldl (.foldl h fun h' => h'.resumeWith .recordDone) fun h' => .ite h'.updSaved h'

theorem Chip.Canon.barCountWrite {c : Chip} {site p b v : Nat} (h : c.Canon) : (c.barCountWrite site p b v).Canon := .ite h.updPart h.bump

theorem Keeps.fenceBody {x : Nat} : Keeps (fenceBody x) := .pure _

theorem Keeps.waittBody {e : Enc} {k : Nat} : Keeps (waittBody e k) :=
  .bind .getS (.get fun _ => .bind .inChk (.ite (.bind (.recorded (.pure _)) .setS) (.modify fun h' => h'.block)))

theorem Chip.Canon.waittResume {c : Chip} {k : Nat} (h : c.Canon) : (c.waittResume k).Canon := by
  unfold Chip.waittResume
  split
  · exact .ite (h.resumeWith (.bind (.recorded (.get fun _ => .pure _)) .setS)) h
  · exact h

theorem Keeps.landWaitBody {e : Enc} {k : Nat} : Keeps (landWaitBody e k) :=
  .bind .ctxOf (.bind .need (.get fun _ => .ite (.bind .updC (.modify fun h' => h'.frameDone)) (.modify fun h' => h'.block)))

theorem Chip.Canon.releaseNow {c : Chip} {o : Owed} (h : c.Canon) : (c.releaseNow o).Canon := by
  unfold Chip.releaseNow
  dsimp only
  split
  · exact .ite h.evtSet (.ite h.evtClr h.userRecord)
  · exact h.barArrive
  · exact h.onCtx.frameDone

theorem Keeps.landSignalBody {k : Nat} : Keeps (landSignalBody k) := .bind .ctxOf (.bind .need (.modify fun h => h.owe fun h' => h'.updCtx.frameDone))

theorem Chip.Canon.landResume {c : Chip} {n : Nat} (h : c.Canon) : (c.landResume n).Canon :=
  .foldl (.foldl h fun h' => h'.updCtx.resume.frameDone) fun h' => h'.updSaved.frameDone

/-! ## Checked -/

theorem Chip.Canon.openBlock {c : Chip} {k cbid : Nat} (h : c.Canon) : (c.openBlock k cbid).Canon := .updCtx (.ite h.updEng h)

theorem Keeps.chkbBody {e : Enc} {k : Nat} : Keeps (chkbBody e k) :=
  .bind .ctxOf (.get fun _ => .bind .need (.ite .updC (.modify fun h' => h'.openBlock)))

theorem Keeps.finishPass {k : Nat} : Keeps (finishPass k) := by
  refine .bind .ctxOf fun {_} => ?_
  split
  · exact .pure _
  · exact .bind .flushSig (.bind .feedSig (.bind .feedSig (.bind (.mapM (.bind .pageKey (.get fun _ => .pure _))) .updB)))

theorem Keeps.chkeBody {k : Nat} : Keeps (chkeBody k) := by
  refine .bind .ctxOf (.bind .need fun {_} => ?_)
  split
  · exact .pure _
  · refine .ite (.bind .updC (.modify fun h => h.applyMove)) (.bind .finishPass (.ite (.bind .updC .updB) (.ite (.bind .ctxOf fun {_} => ?_) .updB)))
    split
    · exact .pure _
    · exact .ite .updB (.bind .updB (.modify fun h => h.bump))

theorem Chip.Canon.arbStart {c : Chip} {k : Nat} (h : c.Canon) : (c.arbStart k).Canon := by
  unfold Chip.arbStart
  dsimp only
  split
  · exact h
  · refine .ite h ?_
    split
    · exact h
    · exact .ite h.updEng.updCtx h

theorem Chip.Canon.arbWin {c : Chip} {k a : Nat} {x : Ctx} {b : Block} {set diff sigma : Nat} {fin : RegImg} (h : c.Canon) :
    (c.arbWin k a x b set diff sigma fin).Canon :=
  h.updEng.bump.post.sendErr.updEng_retireUnit.updCtx

theorem Chip.Canon.arbEnd {c : Chip} {k : Nat} (h : c.Canon) : (c.arbEnd k).Canon := by
  unfold Chip.arbEnd
  dsimp only
  split
  · exact h
  · split
    · exact h
    · exact .ite h (.ite h.arbWin (.ite h.arbWin (.takeFault (.quarantine (.foldl h.bump.bump fun h' => h'.poison)))))

theorem Chip.Canon.hbDue {c : Chip} {stb : Nat} {changed : Bool} (h : c.Canon) : (c.hbDue stb changed).Canon := .ite h.updEng h

theorem Chip.Canon.hbRun {c : Chip} {stb : Nat} (h : c.Canon) : (c.hbRun stb).Canon := .ite h.updEng h

theorem Chip.Canon.chkbGo {c : Chip} {stb : Nat} (h : c.Canon) : (c.chkbGo stb).Canon := by
  refine .foldl h fun h' => ?_
  split
  · exact h'.openBlock
  · exact h'

theorem Chip.Canon.hbOff {c : Chip} {stb : Nat} (h : c.Canon) : (c.hbOff stb).Canon := .ite h.updEng.chkbGo h

theorem Chip.Canon.savedFails {c : Chip} {e : (Nat × Nat) × Ctx} (h : c.Canon) : (c.savedFails e).Canon := h.with_core.sendErr

theorem Chip.Canon.hbEnd {c : Chip} {stb : Nat} {flagged : Bool} (h : c.Canon) : (c.hbEnd stb flagged).Canon := by
  refine .ite h (.ite h.updEng.bump.chkbGo ?_)
  dsimp only
  split
  · exact h.updEng.sendErr.post
  · exact .dueReset (.foldl (.foldl h.updEng.sendErr.post fun h' => h'.recordFault) fun h' => h'.savedFails)

theorem Chip.Canon.injectionDone {c : Chip} {stb : Nat} {missed : Option Nat} (h : c.Canon) : (c.injectionDone stb missed).Canon := by
  unfold Chip.injectionDone
  split
  · exact h
  · exact h.updEng.sendErr.post

/-! ## Kv -/

theorem Keeps.kvHeader {k : Nat} : Keeps (kvHeader k) := .get fun _ => .bind .senseEx (.get fun _ => .need)

theorem Keeps.kvReady {k : Nat} : Keeps (kvReady k) := .get fun _ => .bind .need .kvHeader

theorem Keeps.kvLook {k p : Nat} : Keeps (kvLook k p) :=
  .get fun _ => .bind .need (.get fun _ => .bind .senseEx (.get fun _ => .bind .need (.pure _)))

theorem Keeps.kvTake {k : Nat} {f : KvForm} {fill : Nat} : Keeps (kvTake k f fill) := by
  refine .get fun _ => .ite (.bind (.modify fun h' => h'.bump) (.pure _)) (.get fun _ => .bind .need (.get fun _ => .bind .senseEx
      (.get fun _ => .get fun _ => .bind .need (.bind .inChk (.bind (.modify fun h5 => h5.kvFld.kvFld.kvFld.kvPut) fun {_} => ?_)))))
  dsimp only
  split
  · exact .bind .updB (.pure _)
  · exact .pure _

theorem Keeps.allocNow {k d a : Nat} : Keeps (allocNow k d a) := .bind (.recorded .kvTake) .setS

theorem Keeps.kvAllocBody {e : Enc} {k : Nat} : Keeps (kvAllocBody e k) :=
  .bind .kvReady (.bind .getS (.bind .need (.bind .inChk (.get fun _ => .ite (.modify fun h' => h'.block) .allocNow))))

theorem Chip.Canon.kvRefApply {c : Chip} {stb p : Nat} {up : Bool} (h : c.Canon) : (c.kvRefApply stb p up).Canon :=
  .ite h.kvFld (.ite h.kvPend h.kvFld)

theorem Keeps.kvTail {k : Nat} : Keeps (kvTail k) := .get fun _ => .ite (.pure _) (.bind .kvLook .need)

theorem Keeps.kvRefNow {k p : Nat} {up : Bool} : Keeps (kvRefNow k p up) :=
  .get fun _ => .ite (.modify fun h' => h'.kvRefApply) (.bind .kvTail (.modify fun h' => h'.kvRefApply))

theorem Keeps.kvRefBody {up : Bool} {e : Enc} {k : Nat} : Keeps (kvRefBody up e k) := by
  refine .bind .kvReady (.bind .getS (.bind .need (.bind .kvLook (.bind .ctxOf (.bind .need (.bind .inChk fun {_} => ?_))))))
  split
  · exact .bind .kvRefNow .setS
  · exact .bind (.recorded (.pure _)) (.bind .hold .setS)

theorem Keeps.frameKey {k frm n : Nat} : Keeps (frameKey k frm n) := by
  refine .get fun _ => ?_
  split
  · exact .ite (.pure _) .raise
  · exact .raise

theorem Keeps.wrReserved {k u key : Nat} {bs : List Byte} : Keeps (wrReserved k u key bs) := by
  refine .bind .signWrite (.get fun h => ?_)
  dsimp only
  exact .bind (.set h.put) (.bind .updB (.ite (.pure _) .raise))

theorem Keeps.copyFrame {k src dst : Nat} {f : KvForm} {fill : Nat} {reserved : Bool} : Keeps (copyFrame k src dst f fill reserved) :=
  .bind .frameKey (.bind .frameKey (.bind .ctxOf (.forM (.bind .ctxOf (.bind .rdKey (.bind .senseEx (.ite (.bind .verify
    (.get fun _ => .ite .wrReserved (.bind .wrPiece .tagKeys))) (.get fun _ => .ite .wrReserved (.bind .wrPiece .tagKeys)))))))))

theorem Keeps.cowNow {k d a : Nat} : Keeps (cowNow k d a) :=
  .bind .rd (.bind .kvLook (.bind .ctxOf (.bind .need (.bind (.recorded (.ite (.pure _) .kvTake)) (.ite .setS (.get fun _ => .bind .copyFrame
    (.bind .wr (.ite (.bind .hold .setS) (.bind (.modify fun h' => h'.kvRefApply) .setS)))))))))

theorem Keeps.kvCowBody {e : Enc} {k : Nat} : Keeps (kvCowBody e k) :=
  .bind .kvReady (.bind .getS (.bind .need (.bind .inChk (.get fun _ => .ite (.bind .rd (.bind .kvLook (.bind .ctxOf (.ite .cowNow
    (.modify fun h' => h'.block))))) .cowNow))))

theorem Chip.Canon.kvSaved {c was : Chip} {stb : Nat} (h : c.Canon) : (c.kvSaved was stb).Canon := h.with_core.reconsider

theorem Chip.Canon.kvReclaim {c : Chip} {stb : Nat} (h : c.Canon) : (c.kvReclaim stb).Canon := by
  refine .ite (.foldl h.kvSplice.kvSaved fun h' => .ite h' ?_) h
  split
  · exact h'.resumeWith .allocNow
  · exact h'.resumeWith .cowNow
  · exact h'

theorem Chip.Canon.kvptWrite {c : Chip} {stb v : Nat} (h : c.Canon) : (c.kvptWrite stb v).Canon :=
  .ite h.bump (.ite h.setReg (.ite h.setReg h.setReg.bump))

/-! ## Attention -/

theorem Keeps.lenTable {k : Nat} {d : Desc} : Keeps (lenTable k d) := .bind (.mapM (.bind .rd (.pure _))) (.pure _)

theorem Keeps.pageList {k : Nat} {e : LenEnt} : Keeps (pageList k e) := .bind .rd (.pure _)

theorem Keeps.kvappRead {e : Enc} {k : Nat} : Keeps (kvappRead e k) := by
  refine .bind .descAt (.bind .descAt (.bind .descAt (.bind .descAt (.get fun _ => .bind .checks (.bind .kvHeader (.bind .lenTable (.bind .need
      (.bind .ctxOf (.bind (.foldlM (.ite (.pure _) (.bind .pageList (.bind (.foldlM (.bind .kvLook (.bind .need
      (.pure _)))) fun {_} => ?_)))) fun {_} => ?_)))))))))
  · split
    · exact .raise
    · exact .pure _
  · dsimp only
    exact .bind .readF32 (.bind .readF32 (.pure _))

theorem Keeps.kvappCells {k : Nat} {a : KvAppIn} : Keeps (kvappCells k a) := .bind (.mapM (.get fun _ => .bind .frameKey (.pure _))) (.pure _)

theorem Keeps.kvWrites {k : Nat} {held : Nat → Bool} {ws : List KvWrite} {done : List Nat} : Keeps (kvWrites k held ws done) := by
  induction ws generalizing done with
  | nil => exact .pure _
  | cons w ws ih =>
    have hw : Keeps (if held w.2.2.2 then Machine.wrReserved k w.1 w.2.1 w.2.2.1 else Machine.wrPiece k w.1 w.2.1 w.2.2.1) :=
      .ite .wrReserved .wrPiece
    intro c hc
    unfold Machine.kvWrites
    split
    · next heq => exact ih _ (hw.ok hc heq)
    · next heq =>
      have ht := hw.error hc heq
      exact ht

theorem Keeps.kvappStore {k : Nat} {a : KvAppIn} {writes : List KvWrite} : Keeps (kvappStore k a writes) :=
  .bind .ctxOf (.bind (.moveStop .kvWrites fun ht _ => ht) (.bind .tagKeys (.forM (.ite .hold (.modify fun h => h.kvFld)))))

theorem Keeps.kvappBody {e : Enc} {k : Nat} : Keeps (kvappBody e k) := .bind .kvappRead (.bind .kvappCells (.bind .kvappStore .finishFlags))

theorem Keeps.kvBytes {k : Nat} {g : KvPage} {off n : Nat} : Keeps (kvBytes k g off n) :=
  .ite (.bind .senseEx (.get fun _ => .pure _)) (.bind .rdKey (.get fun _ => .pure _))

theorem Keeps.kvVec {k : Nat} {f : KvForm} {g : KvPage} {hall m : Nat} : Keeps (kvVec k f g hall m) :=
  .bind .kvBytes (.bind .kvBytes (.bind .kvBytes (.bind .kvBytes (.pure _))))

theorem Keeps.kvVerify {k : Nat} {f : KvForm} {uses : List (KvPage × Nat)} : Keeps (kvVerify k f uses) := by
  refine .bind .ctxOf (.forM fun {_} => ?_)
  split
  · exact .pure _
  · exact .bind .senseEx .verify

theorem Keeps.globList {k : Nat} {sparse : Bool} {e : Enc} : Keeps (globList k sparse e) := .ite (.bind .rd (.pure _)) (.pure _)

theorem Keeps.attnRead {sub : Nat} {e : Enc} {k : Nat} : Keeps (attnRead sub e k) :=
  .bind .descAt (.bind .descAt (.bind .descAt (.bind .descAt (.bind .getS (.get fun _ => .bind .checks (.bind .kvHeader (.bind .lenTable
    (.bind .need (.bind .globList (.bind .ctxOf (.bind (.mapM (.bind .pageList (.bind .need (.bind (.mapM (.bind .kvLook (.bind .need
    (.bind .frameKey (.bind .need (.pure _)))))) (.pure _))))) (.pure _))))))))))))

theorem Keeps.attnRows {sub : Nat} {e : Enc} {k : Nat} {a : AttnIn} : Keeps (attnRows sub e k a) :=
  .bind .readF32 (.bind (.mapM (.bind .kvVerify (.bind (.mapM (.bind (.mapM .kvVec) (.pure _))) (.pure _)))) (.pure _))

theorem Chip.Canon.attnFlags {c : Chip} {k sp : Nat} {sat : Bool} {rs : List AttnRow} {flagged : Bool} (h : c.Canon) :
    (c.attnFlags k sp sat rs flagged).Canon :=
  .updCtx (.ite h.countFlags.bump h.countFlags)

/-- What an ATTN that stops leaves of its output is what writing it leaves. -/
theorem canon_attnLeft {sub : Nat} {e : Enc} {k : Nat} {a : AttnIn} {c : Chip} (h : c.Canon) : (attnLeft sub e k a c).1.cells.wf = true := by
  unfold attnLeft
  extract_lets rs
  split
  · next heq => exact Keeps.writeTensor.ok h heq
  · next heq => exact Keeps.writeTensor.error h heq

theorem Keeps.attnBody {sub : Nat} {e : Enc} {k : Nat} : Keeps (attnBody sub e k) :=
  .bind .attnRead (.bind (.moveStop .attnRows fun _ hc => canon_attnLeft hc) (.bind (.moveStop .writeTensor fun ht _ => ht)
    (.bind (.moveStop (.ite (.pure _) (.forM .wr)) fun ht _ => ht) (.modify fun h => h.attnFlags))))

/-! ## Geometry -/

theorem Keeps.sceneSlot {k slot : Nat} : Keeps (sceneSlot k slot) := by
  refine .get fun _ => ?_
  dsimp only
  exact .bind .need (.pure _)

theorem Keeps.readPrim {k base i : Nat} : Keeps (readPrim k base i) := by
  refine .bind .rdPol fun {_} => ?_
  split
  · exact .pure _
  · exact .raise

theorem Keeps.traverse {k : Nat} {t : Tree} {s : Search} {b : List (Option Ball)} {word : Nat → Nat} {depth ref : Nat} {f : Found} :
    Keeps (traverse k t s b word depth ref f) := by
  induction depth generalizing ref f with
  | zero => exact .raise
  | succ n ih =>
    unfold Machine.traverse
    exact .ite (.pure _) (.ite (.bind .need (.foldlM (.ite (.pure _) (.bind .readPrim (.pure _)))))
      (.bind .need (.bind .rdPol (.ite (.bind ih (.ite ih (.pure _))) (.ite ih (.pure _))))))

theorem Keeps.searchStatic {k : Nat} {hall : SceneHdr} {s : Search} {b : List (Option Ball)} {f : Found} : Keeps (searchStatic k hall s b f) :=
  .traverse

theorem Keeps.readDyn {k a : Nat} : Keeps (readDyn k a) := .bind .rdPol (.pure _)

theorem Keeps.searchSlice {k : Nat} {d : DynSet} {s : Search} {b : List (Option Ball)} {i : Nat} {f : Found} : Keeps (searchSlice k d s b i f) :=
  .ite (.pure _) (.bind .rdPol (.bind .need .traverse))

theorem Keeps.storeRows {k : Nat} {d : Desc} {rows : List (Option Row)} {unit : Nat → Nat} : Keeps (storeRows k d rows unit) := .bind .elemCells .emit

theorem Chip.Canon.geoCount {c : Chip} {k off : Nat} {b : Bool} (h : c.Canon) : (c.geoCount k off b).Canon := .ite h.bump h

theorem Chip.Canon.rowSp {c : Chip} {k sp : Nat} {rows : List Row} (h : c.Canon) : (c.rowSp k sp rows).Canon := h.updCtx

theorem Chip.Canon.rowFlags {c : Chip} {k sp : Nat} {rows : List Row} (h : c.Canon) : (c.rowFlags k sp rows).Canon := h.geoCount.geoCount.rowSp

theorem Keeps.readQueries {k : Nat} {d : Desc} : Keeps (readQueries k d) := .bind .readTensor (.pure _)

theorem Keeps.gtestRead {sub : Nat} {e : Enc} {k : Nat} : Keeps (gtestRead sub e k) := by
  refine .bind .descAt (.bind .descAt (.bind .descAt (.get fun _ => .bind .checks (.bind (.mapM (.bind .rdPol fun {_} => ?_)) (.bind .readQueries
      (.pure _))))))
  dsimp only
  split
  · exact .bind (.pure _) (.bind .need (.pure _))
  · exact .bind .raise (.bind .need (.pure _))

theorem Keeps.gtestBody {sub : Nat} {e : Enc} {k : Nat} : Keeps (gtestBody sub e k) := by
  refine .bind .gtestRead fun {_} => ?_
  dsimp only
  exact .bind .storeRows (.modify fun h => h.rowFlags)

theorem Keeps.geoSel {k : Nat} {e : Enc} : Keeps (geoSel k e) := by
  refine .bind .getS (.bind .need (.bind .sceneSlot fun {_} => ?_))
  dsimp only
  exact .bind .rdPol (.ite (.pure _) (.bind .readDyn (.bind .need (.pure _))))

theorem Keeps.dynOld {k : Nat} {d : Option DynSet} : Keeps (dynOld k d) := .bind .ctxOf (.pure _)

theorem Keeps.gtravRows {sub : Nat} {e : Enc} {k : Nat} : Keeps (gtravRows sub e k) := by
  refine .bind .descAt (.bind .descAt (.get fun _ => .bind .checks (.bind .geoSel fun {_} => ?_)))
  dsimp only
  refine .bind .dynOld (.bind .readQueries (.bind (.mapM (.ite (.bind (.pure _) fun {_} => ?_) (.bind .searchStatic fun {_} => ?_))) (.pure _)))
  · split
    · exact .bind (.pure _) (.pure _)
    · exact .bind (.foldlM .searchSlice) (.pure _)
  · split
    · exact .bind (.pure _) (.pure _)
    · exact .bind (.foldlM .searchSlice) (.pure _)

theorem Keeps.gtravBody {sub : Nat} {e : Enc} {k : Nat} : Keeps (gtravBody sub e k) := by
  refine .bind .gtravRows fun {_} => ?_
  dsimp only
  exact .bind .storeRows (.modify fun h => h.rowFlags)

theorem Keeps.sweepEdge {m : Model} {edge : Bool} {poses : List Pose} {margin : Nat} {test : List
    (Option Ball) →   Pose →     Pose → Found → Ex Found} {hzn : Pose → Pose → Bool} (h :
    ∀ {a a1 a2 a3}, Keeps (test a a1 a2 a3)) : Keeps (sweepEdge m edge poses margin test hzn) :=
  .foldlM (.ite (.pure _) (.bind (.foldlM h) (.pure _)))

theorem Keeps.readModel {k : Nat} {d : Desc} : Keeps (readModel k d) := .bind .need (.bind .readRaw (.bind .need (.pure _)))

theorem Keeps.readDeltas {k : Nat} {hall : SceneHdr} : Keeps (readDeltas k hall) := .mapM (.bind .rdPol (.bind .need (.pure _)))

theorem Keeps.searchDeltas {k : Nat} {hall : SceneHdr} {ds : List DeltaEnt} {b : List (Option Ball)} {f : Found} :
    Keeps (searchDeltas k hall ds b f) :=
  .foldlM (.ite (.foldlM (.bind .readPrim (.pure _))) (.pure _))

theorem Keeps.gsweepRead {e : Enc} {k : Nat} : Keeps (gsweepRead e k) := by
  refine .bind .descAt (.bind .descAt (.bind .descAt (.get fun _ => .bind .checks (.bind .readModel (.bind .geoSel fun {_} => ?_)))))
  dsimp only
  exact .bind .dynOld (.bind .readRaw (.pure _))

theorem Keeps.sweepRows {sub : Nat} {e : Enc} {k : Nat} {a : SweepIn} : Keeps (sweepRows sub e k a) := by
  refine .mapM (.bind (.sweepEdge (.ite (.bind (.pure _) fun {_} => ?_) (.bind .searchStatic fun {_} => ?_))) (.pure _))
  · split
    · exact .pure _
    · exact .foldlM .searchSlice
  · split
    · exact .pure _
    · exact .foldlM .searchSlice

theorem Keeps.revalRows {sub k : Nat} {a : SweepIn} : Keeps (revalRows sub k a) :=
  .bind .readRaw (.ite (.bind .readDeltas (.mapM (.ite (.pure _) (.ite (.pure _) (.bind (.sweepEdge .searchDeltas) (.pure _)))))) (.bind (.pure _)
    (.mapM (.ite (.pure _) (.ite (.pure _) (.bind (.sweepEdge .searchDeltas) (.pure _)))))))

theorem Chip.Canon.revalFlags {c : Chip} {k sp : Nat} {rows : List (Option Row × Row × Bool)} (h : c.Canon) : (c.revalFlags k sp rows).Canon :=
  h.geoCount.geoCount.rowSp

theorem Keeps.gsweepBody {sub : Nat} {reval : Bool} {e : Enc} {k : Nat} : Keeps (gsweepBody sub reval e k) :=
  .bind .gsweepRead (.ite (.bind .sweepRows (.bind .storeRows (.modify fun h => h.rowFlags))) (.bind .revalRows (.bind .storeRows
    (.modify fun h => h.revalFlags))))

/-! ## Scenes -/

theorem Keeps.wrTagged {k a : Nat} {bs : List Byte} : Keeps (wrTagged k a bs) := .bind .wr (.bind .keyBlocks .tagKeys)

theorem Keeps.buildable {p : Prim} : Keeps (buildable p) := by
  unfold Machine.buildable
  split
  · exact .bind .need (.pure _)
  · exact .raise

theorem Keeps.gbuildRead {e : Enc} {k : Nat} : Keeps (gbuildRead e k) := by
  refine .bind .descAt (.bind .descAt (.bind .descAt (.bind .getS (.get fun _ => .bind .checks (.bind (.mapM (.bind .rdPol fun {_} => ?_))
      (.pure _))))))
  split
  · exact .buildable
  · exact .raise

theorem Keeps.gbuildWrite {k : Nat} {nd op : Desc} {ha : Nat} {sorted : List Prim} {bb : Option Box} {t : Built} :
    Keeps (gbuildWrite k nd op ha sorted bb t) := by
  unfold Machine.gbuildWrite
  refine .bind (.forM .wr) fun {_} => ?_
  extract_lets nb header sizes nodes
  have hheader (u : Unit) : Keeps (header u) := .bind .keyBlocks .tagKeys
  have hsizes (u : Unit) : Keeps (sizes u) := by
    refine .bind .wr fun {_} => ?_
    split
    · exact .bind .wr fun {u} => hheader u
    · exact hheader ()
  have hnodes (u : Unit) : Keeps (nodes u) :=
    .ite (hsizes ()) (.bind .wr (.ite (.bind .keyBlocks (.bind .tagKeys fun {u} => hsizes u)) (hsizes ())))
  exact .ite (.bind .keyBlocks (.bind .tagKeys fun {u} => hnodes u)) (hnodes ())

theorem Keeps.gbuildBody {e : Enc} {k : Nat} : Keeps (gbuildBody e k) := by
  refine .bind .gbuildRead fun {_} => ?_
  dsimp only
  exact .gbuildWrite

theorem Keeps.refBox {k : Nat} {t : Tree} {depth ref : Nat} : Keeps (refBox k t depth ref) := by
  induction depth generalizing ref with
  | zero => exact .raise
  | succ n ih =>
    unfold Machine.refBox
    exact .ite (.pure _) (.ite (.bind .need (.bind (.mapM (.bind .readPrim (.bind .buildable (.pure _)))) (.pure _)))
      (.bind .need (.bind .rdPol (.bind ih (.bind ih (.pure _))))))

theorem Keeps.refitBoxes {k : Nat} {hall : SceneHdr} : Keeps (refitBoxes k hall) :=
  .bind (.mapM (.bind .rdPol (.bind .refBox (.bind .refBox (.pure _))))) (.bind .refBox (.pure _))

theorem Keeps.refitWrite {k ha : Nat} {hall : SceneHdr} {boxes : List (Option Box × Option Box)} {all : Option Box} :
    Keeps (refitWrite k ha hall boxes all) := by
  refine .bind (.forM fun {_} => ?_) (.ite ?_ (.bind .keyBlocks (.bind .tagKeys fun {_} => ?_)))
  · dsimp only
    split
    · refine .bind .wr fun {_} => ?_
      split
      · exact .wr
      · exact .pure _
    · split
      · exact .wr
      · exact .pure _
  · split
    · exact .wrTagged
    · exact .pure _
  · split
    · exact .wrTagged
    · exact .pure _

theorem Keeps.grefitBody {e : Enc} {k : Nat} : Keeps (grefitBody e k) := by
  refine .bind .getS (.bind .need (.bind .rdPol (.bind .refitBoxes fun {_} => ?_)))
  dsimp only
  exact .refitWrite

theorem Keeps.idsDesc {k i : Nat} : Keeps (idsDesc k i) := .ite (.pure _) (.bind .descAt (.pure _))

theorem Keeps.idWords {k : Nat} {a : Option Desc} : Keeps (idWords k a) := by
  unfold Machine.idWords
  split
  · exact .pure _
  · exact .bind .readRaw (.pure _)

theorem Keeps.gdynRead {e : Enc} {k : Nat} : Keeps (gdynRead e k) :=
  .bind .descAt (.bind .descAt (.bind .getS (.bind .idsDesc (.get fun _ => .bind .checks (.bind .readTensor (.bind .idWords (.bind .ctxOf
    (.pure _))))))))

theorem Keeps.wrDesc {k : Nat} {od : Desc} {all : List Byte} : Keeps (wrDesc k od all) := .bind .wr (.ite (.bind .keyBlocks .tagKeys) (.pure _))

theorem Keeps.gdynBody {e : Enc} {k : Nat} : Keeps (gdynBody e k) := by
  refine .bind .gdynRead fun {_} => ?_
  dsimp only
  exact .wrDesc

theorem Chip.Canon.updScene {c : Chip} {p slot : Nat} {f : Scene → Scene} (h : c.Canon) : (c.updScene p slot f).Canon := h.updPart

theorem Chip.Canon.homePost {c : Chip} {e : Ev} {p v : Nat} (h : c.Canon) : (c.homePost e p v).Canon := h.post

theorem Chip.Canon.sceneRetired {c : Chip} {p slot : Nat} (h : c.Canon) : (c.sceneRetired p slot).Canon := .ite h.updScene.homePost h

theorem Chip.Canon.sceneCheck {c : Chip} {p slot : Nat} (h : c.Canon) : (c.sceneCheck p slot).1.Canon := by
  refine .ite_fst h ?_
  split
  · exact .ite_fst h.sense (.ite_fst h.sense.tagFail (.ite_fst h.sense (.ite_fst h.sense (.ite_fst h.sense (.ite_fst h.sense h.sense)))))
  · exact h

theorem Chip.Canon.sceneLand {c : Chip} {p slot : Nat} (h : c.Canon) : (c.sceneLand p slot).Canon :=
  .ite h (.ite h.homePost (.ite h.sceneCheck.updScene.homePost h.sceneCheck.updScene.homePost.sceneRetired))

theorem Chip.Canon.scenesLand {c : Chip} (h : c.Canon) : (c.scenesLand).Canon := .foldl h fun h' => .ite (.foldl h' fun h'' => h''.sceneLand) h'

theorem Chip.Canon.sceneWrite {c : Chip} {site p slot v : Nat} (h : c.Canon) : (c.sceneWrite site p slot v).Canon := .ite h.updScene h.bump

/-! ## SearchUnit -/

theorem Chip.Canon.suQcfgWrite {c : Chip} {site v : Nat} (h : c.Canon) : (c.suQcfgWrite site v).Canon := .ite h.bump h.setReg

theorem Keeps.laterPass {k : Nat} : Keeps (laterPass k) := .bind .ctxOf (.pure _)

theorem Keeps.once {k : Nat} {act : Ex Unit} (h : Keeps act) : Keeps (once k act) := .bind .laterPass (.ite (.pure _) h)

theorem Keeps.suqSound {site q : Nat} {upset : BitVec 288} : Keeps (suqSound site q upset) := by
  intro c hc
  unfold Machine.suqSound
  dsimp only
  split
  · exact hc
  · split
    · exact hc
    · exact hc.bump.sendErr
    · exact hc.bump.sendErr.updSu

theorem Keeps.suqInsertBody {upset : BitVec 288} {e : Enc} {k : Nat} : Keeps (suqInsertBody upset e k) :=
  .bind .getS (.bind .getS (.get fun _ => .bind .checks (.bind (.recorded (.bind .suqSound (.get fun _ => .ite (.bind (.modify fun h'' => h''.updSu)
    (.pure _)) (.bind (.modify fun h'' => h''.bump) (.pure _))))) .setS)))

theorem Keeps.suqTakeBody {peek : Bool} {upset : BitVec 288} {e : Enc} {k : Nat} : Keeps (suqTakeBody peek upset e k) := by
  refine .bind .getS (.get fun _ => .bind .checks (.bind (.recorded (.bind .suqSound (.get fun _ => ?_))) (.bind .setS .setS)))
  split
  · exact .pure _
  · exact .ite (.pure _) (.bind (.modify fun h'' => h''.updSu) (.pure _))

theorem Keeps.suqCountBody {e : Enc} {k : Nat} : Keeps (suqCountBody e k) :=
  .bind .getS (.get fun _ => .bind .checks (.bind (.recorded (.get fun _ => .pure _)) .setS))

theorem Keeps.suqClearBody {e : Enc} {k : Nat} : Keeps (suqClearBody e k) :=
  .bind .getS (.get fun _ => .bind .checks (.once (.modify fun h' => h'.updSu)))

theorem Keeps.rdNode {site n : Nat} : Keeps (rdNode site n) := .bind .senseEx (.get fun _ => .pure _)

theorem Keeps.wrNode {k n : Nat} {bs : List Byte} : Keeps (wrNode k n bs) := .get fun _ => .bind .need (.modify fun h' => h'.putRaw)

theorem Keeps.sunodeNewBody {e : Enc} {k : Nat} : Keeps (sunodeNewBody e k) :=
  .bind .getS (.get fun _ => .bind .checks (.bind (.recorded (.get fun _ => .ite (.bind (.modify fun h'' => h''.bump) (.pure _)) (.bind .rd
    (.bind .wrNode (.bind (.modify fun h'' => h''.updSu) (.pure _)))))) .setS))

theorem Keeps.nodeChecks {k a b : Nat} : Keeps (nodeChecks k a b) := .bind .laterPass (.get fun _ => .checks)

theorem Keeps.sunodeRdBody {e : Enc} {k : Nat} : Keeps (sunodeRdBody e k) :=
  .bind .getS (.bind .getS (.bind .nodeChecks (.bind (.recorded (.bind .rdNode (.pure _))) .wr)))

theorem Keeps.sunodeWrBody {e : Enc} {k : Nat} : Keeps (sunodeWrBody e k) := .bind .getS (.bind .getS (.bind .nodeChecks (.once (.bind .rd .wrNode))))

theorem Keeps.sunodeNearestBody {e : Enc} {k : Nat} : Keeps (sunodeNearestBody e k) := by
  refine .bind .getS (.get fun _ => .bind .checks (.bind (.recorded (.bind .rd (.get fun _ => .bind .senseEx (.get fun _ => ?_)))) .setS))
  dsimp only
  split <;> exact .pure _

/-! ## Paths -/

theorem Keeps.limitsOf {k : Nat} : Keeps (limitsOf k) := .bind .ctxOf (.get fun _ => .pure _)

theorem Keeps.jobRecord {e : Enc} {k : Nat} : Keeps (jobRecord e k) := .bind .getS (.get fun _ => .bind .checks .rd)

theorem Keeps.smoothRead {e : Enc} {k : Nat} : Keeps (smoothRead e k) := .bind .jobRecord (.bind .checks (.bind .limitsOf (.bind .rd (.pure _))))

theorem Keeps.smoothBody {e : Enc} {k : Nat} : Keeps (smoothBody e k) := by
  refine .bind .smoothRead fun {_} => ?_
  dsimp only
  exact .ite .setS (.bind .wr .setS)

theorem Keeps.tscaleRead {e : Enc} {k : Nat} : Keeps (tscaleRead e k) := .bind .jobRecord (.bind .checks (.bind .limitsOf (.bind .rd (.pure _))))

theorem Keeps.tscaleWrite {k : Nat} {a : ScaleIn} : Keeps (tscaleWrite k a) := by
  unfold Machine.tscaleWrite
  dsimp only
  exact .bind .wr (.ite .wr (.pure _))

theorem Keeps.tscaleBody {e : Enc} {k : Nat} : Keeps (tscaleBody e k) := .bind .tscaleRead (.ite .setS (.bind .tscaleWrite .setS))

/-! ## Plan -/

theorem Chip.Canon.updIsl {c : Chip} {i : Isl} {f : IslSt → IslSt} (h : c.Canon) : (c.updIsl i f).Canon := by
  unfold Chip.updIsl
  split
  · exact h.with_islA
  · exact h.with_islB

theorem Chip.Canon.mailRecord {c : Chip} {i : Isl} {hall : Nat} {r : List Byte} (h : c.Canon) : (c.mailRecord i hall r).Canon :=
  .ite h.updIsl (.ite h (.ite h.putRaw h.bump))

theorem Chip.Canon.mailFlush {c : Chip} {i : Isl} (h : c.Canon) : (c.mailFlush i).Canon := .foldl h.updIsl fun h' => h'.mailRecord

theorem Chip.Canon.sendRecord {c : Chip} {site p frame reason idx : Nat} {own : Bool} {r : List Byte} (h : c.Canon) :
    (c.sendRecord site p frame reason idx own r).Canon :=
  .ite h.mailRecord.mailRecord.updSu.onCtx h.mailRecord.mailRecord.updSu

theorem Chip.Canon.planRefuse {c : Chip} {site p code : Nat} (h : c.Canon) : (c.planRefuse site p code).1.Canon := h.bump.post

theorem Chip.Canon.planPort {c : Chip} {site p idx frame kind : Nat} {keys : List (Nat × Nat)} {misread : Bool} (h : c.Canon) :
    (c.planPort site p idx frame kind keys misread).1.Canon := by
  have hread {b : Bool} : (keys.foldl (fun (q : Chip × Bool) k => ((q.1.sense k.1 k.2).1, q.2 || (q.1.sense k.1 k.2).2)) (c, b)).1.Canon :=
    .foldl_fst h fun h' => h'.sense
  refine .ite_fst h ?_
  split
  · exact .ite_fst h.planRefuse (.ite_fst h.planRefuse (.ite_fst h.planRefuse (.ite_fst h.planRefuse (.ite_fst h.planRefuse
      (.ite_fst hread.sendErr.planRefuse (.ite_fst hread.updSu (.ite_fst hread.sendRecord hread.sendRecord)))))))
  · exact h.planRefuse

theorem Chip.Canon.planDone {c : Chip} {site p i status : Nat} (h : c.Canon) : (c.planDone site p i status).Canon := h.updSu.onCtx

theorem Keeps.draftAt {a k : Nat} : Keeps (draftAt a k) := .bind .checks .translate

theorem Keeps.suplanBody {stop misread : Bool} {e : Enc} {k : Nat} : Keeps (suplanBody stop misread e k) := by
  refine .bind .getS (.bind .getS (.get fun _ => .bind .checks (.bind .ctxOf fun {_} => ?_)))
  split
  · exact .bind .draftAt (.bind .hold (.bind .setS .updC))
  · refine .bind .draftAt (.get fun h' => ?_)
    dsimp only
    split
    · exact .raise
    · exact .bind (.set h'.planPort.planDone) .setS
    · exact .set h'.planPort.block

theorem Chip.Canon.suplanHeld {c : Chip} {k : Nat} {q : Held} {misread : Bool} (h : c.Canon) : (c.suplanHeld k q misread).Canon := by
  unfold Chip.suplanHeld
  dsimp only
  split
  · exact h.planPort.planRefuse.planDone
  · exact h.planPort.planDone
  · exact h.planPort.onCtx

theorem Keeps.susyncBody {e : Enc} {k : Nat} : Keeps (susyncBody e k) :=
  .get fun _ => .bind .need (.bind .ctxOf (.get fun _ => .bind .laterPass (.ite (.modify fun h'' => h''.block) (.bind (.recorded (.bind .ctxOf
    (.pure _))) .setS))))

theorem Chip.Canon.exchStatus {c : Chip} {site : Nat} {x : Exch} (h : c.Canon) : (c.exchStatus site x).Canon := h.updSu.onCtx

theorem Chip.Canon.planResume {c : Chip} {p i : Nat} (h : c.Canon) : (c.planResume p i).Canon :=
  .foldl (.foldl h fun h' => h'.resumeWith (.bind (.recorded (.pure _)) .setS)) fun h' => .ite h'.updSaved h'

theorem Chip.Canon.exchEnd {c : Chip} {site : Nat} {x : Exch} (h : c.Canon) : (c.exchEnd site x).Canon :=
  .ite h.updSu (.ite (.planResume (.joinFreed (.foldl h.updSu.exchStatus.updSu fun h' => h'.releaseNow))) (.joinFreed
    (.foldl h.updSu.exchStatus.updSu fun h' => h'.releaseNow)))

theorem Chip.Canon.suClear {c : Chip} {site : Nat} (h : c.Canon) : (c.suClear site).Canon := .foldl h.updSu fun h' => h'.exchEnd

theorem Chip.Canon.suAssign {c : Chip} {site p : Nat} {en : Bool} (h : c.Canon) : (c.suAssign site p en).Canon := h.suClear.setReg

theorem Chip.Canon.suOwnerWrite {c : Chip} {site v : Nat} {dcu : Bool} (h : c.Canon) : (c.suOwnerWrite site v dcu).Canon :=
  .ite h.bump (.setReg (.ite h.suClear h))

theorem Chip.Canon.planAck {c : Chip} {site : Nat} {i : Isl} {seq : Nat} (h : c.Canon) : (c.planAck site i seq).Canon := by
  refine .ite h ?_
  dsimp only
  split
  · exact h.updIsl
  · exact .ite h.updIsl.updSu.exchEnd h.updIsl.updSu

theorem Chip.Canon.planAckTimeout {c : Chip} {site seq : Nat} (h : c.Canon) : (c.planAckTimeout site seq).Canon := by
  unfold Chip.planAckTimeout
  split
  · exact h
  · exact .ite h.exchEnd h

theorem Chip.Canon.planningDeadline {c : Chip} {site f : Nat} (h : c.Canon) : (c.planningDeadline site f).Canon := by
  unfold Chip.planningDeadline
  dsimp only
  split
  · exact h
  · refine .ite h (.ite (.updSu (.ite ?_ h.updSu)) (.ite ?_ h.updSu))
    · split
      · exact h.updSu.sendRecord.bump.post
      · exact h.updSu.bump.post
    · split
      · exact h.updSu.sendRecord.bump.post
      · exact h.updSu.bump.post

theorem Chip.Canon.disarmStale {c : Chip} (h : c.Canon) : (c.disarmStale).Canon := by
  refine .foldl h fun h' => ?_
  split
  · exact h'
  · exact .ite h'.updSu.post h'

theorem Chip.Canon.scheduleTo {c : Chip} {site : Nat} (h : c.Canon) : (c.scheduleTo site).Canon := by
  unfold Chip.scheduleTo
  split
  · exact h.updSu
  · exact h

theorem Chip.Canon.keepGuards {c : Chip} {f : Nat} (h : c.Canon) : (c.keepGuards f).Canon := .foldl h fun h' => .ite h'.updSu h'

theorem Chip.Canon.fixGuards {c : Chip} {site : Nat} (h : c.Canon) : (c.fixGuards site).Canon := h.updSu

theorem Chip.Canon.planCtlWrite {c : Chip} {site v : Nat} (h : c.Canon) : (c.planCtlWrite site v).Canon :=
  .ite h.bump (.setReg (.ite h.fixGuards.updSu h.fixGuards))

/-! ## Commit -/

theorem Chip.Canon.publish {c : Chip} {k key : Nat} {p : Page} (h : c.Canon) : (c.publish k key p).Canon := by
  unfold Chip.publish
  split
  · exact h.putRaw.tagBlock
  · exact .foldl h fun h' => h'.putRaw

theorem Keeps.publishPage {k set : Nat} {p : Page} : Keeps (publishPage k set p) :=
  .bind .pageKey (.get fun h => .bind (fun _ _ => h.sense) (.ite .raise (.modify fun h => h.publish)))

theorem Keeps.publishPages {k set : Nat} {ps : List Page} {done : List Nat} : Keeps (publishPages k set ps done) := by
  induction ps generalizing done with
  | nil => exact .pure _
  | cons p ps ih =>
    intro c hc
    unfold Machine.publishPages
    split
    · next heq => exact ih _ (Keeps.publishPage.ok hc heq)
    · next heq => exact Chip.Canon.foldl (Keeps.publishPage.error hc heq) fun h' => h'.poison

theorem Chip.Canon.applyHeld {c : Chip} {k : Nat} {misread : Bool} {q : Held} (h : c.Canon) : (c.applyHeld k misread q).Canon := by
  unfold Chip.applyHeld
  dsimp only
  split
  · exact h.runEx (.bind .atomAt (.pure _))
  · exact h.launchHeld
  · exact h.kvFld
  · exact h.runEx .kvRefNow
  · exact h.owe fun h' => .ite h'.evtSet (.ite h'.evtClr h'.evtPost)
  · exact h.owe fun h' => h'.barArrive
  · exact h.suplanHeld

theorem Chip.Canon.applyHelds {c : Chip} {k : Nat} {misread : Bool} {hs : List Held} (h : c.Canon) : (c.applyHelds k misread hs).Canon := by
  induction hs generalizing c with
  | nil => exact h
  | cons q hs ih => exact .ite h (ih h.applyHeld)

theorem Chip.Canon.liveReserved {c : Chip} {k : Nat} {b : Block} (h : c.Canon) : (c.liveReserved k b).Canon :=
  .updCtx (.foldl (.foldl h fun h' => h'.tagBlock) fun h' => h'.kvFld)

theorem Chip.Canon.endBlock {c : Chip} {k : Nat} (h : c.Canon) : (c.endBlock k).Canon := by
  unfold Chip.endBlock
  split
  · exact h
  · exact .ite h.updCtx.bump.abandonNow h.updCtx.bump.waitColl.applyMove

theorem Chip.Canon.blockCommit {c : Chip} {k : Nat} {misread : Bool} (h : c.Canon) : (c.blockCommit k misread).Canon := by
  unfold Chip.blockCommit
  split
  · exact h
  · refine .ite ?_ h
    split
    · next heq => exact Trap.canon_take (Keeps.publishPages.error h heq) h
    · next heq => exact (Keeps.publishPages.ok h heq).liveReserved.applyHelds.endBlock

/-! ## Records -/

theorem Chip.Canon.ringPut {c : Chip} {i : Isl} {r : RingRec} (h : c.Canon) : (c.ringPut i r).Canon := h.putRaw.updIsl

theorem Chip.Canon.islEvent {c : Chip} {i : Isl} {e : Ev} {v1 v2 : Nat} (h : c.Canon) : (c.islEvent i e v1 v2).Canon := h.ringPut

theorem Chip.Canon.islErr {c : Chip} {i : Isl} {sub cls synd addr : Nat} (h : c.Canon) : (c.islErr i sub cls synd addr).Canon := h.ringPut

theorem Chip.Canon.ringCopy {c : Chip} {i : Isl} {up : Bool} (h : c.Canon) : (c.ringCopy i up).Canon := by
  unfold Chip.ringCopy
  split
  · exact h
  · refine .ite ?_ h
    dsimp only
    split
    · exact h.updIsl.postTo
    · exact h.updIsl.with_log

/-! ## Islands -/

theorem Chip.Canon.islFlag {c : Chip} {i : Isl} {f : Nat} (h : c.Canon) : (c.islFlag i f).Canon := h.updIsl

theorem Chip.Canon.islTrap {c : Chip} {i : Isl} {code : Nat} (h : c.Canon) : (c.islTrap i code).Canon := .ite h h.updIsl.islErr

theorem Chip.Canon.updCh {c : Chip} {i : Isl} {n : Nat} {f : LeCh → LeCh} (h : c.Canon) : (c.updCh i n f).Canon := h.updIsl

theorem Chip.Canon.safeOutputs {c : Chip} {i : Isl} (h : c.Canon) : (c.safeOutputs i).Canon := h.updIsl

theorem Chip.Canon.planDoorbell {c : Chip} {i : Isl} {site buf : Nat} (h : c.Canon) : (c.planDoorbell i site buf).Canon := by
  refine .ite h (.ite h.bump ?_)
  dsimp only
  split
  · exact h.updIsl
  · exact h.bump.setReg.islEvent

theorem Chip.Canon.acceptReceive {c : Chip} {i : Isl} (h : c.Canon) : (c.acceptReceive i).Canon := by
  unfold Chip.acceptReceive
  split
  · exact h
  · exact .ite h.updIsl.updIsl h.updIsl

theorem Chip.Canon.frameOutcome {c : Chip} {i : Isl} {f : Nat} (h : c.Canon) : (c.frameOutcome i f).Canon :=
  .ite h (.islFlag (.updIsl (.ite h h.bump)))

theorem Chip.Canon.activate' {c : Chip} {i : Isl} {t fuel : Nat} (h : c.Canon) : (c.activate' i t fuel).Canon := by
  induction fuel generalizing c with
  | zero => exact h
  | succ n ih =>
    unfold Chip.activate'
    dsimp only
    split
    · exact .ite (ih h.updIsl.islFlag) h
    · exact h

theorem Chip.Canon.enterStop {c : Chip} {i : Isl} {t cause : Nat} (h : c.Canon) : (c.enterStop i t cause).Canon := h.updIsl.islEvent

theorem Chip.Canon.sampleMode {c : Chip} {i : Isl} {t : Nat} (h : c.Canon) : (c.sampleMode i t).Canon := by
  refine .ite (.ite h.updIsl.updIsl h.updIsl) ?_
  split
  · exact h.updIsl.updIsl
  · exact h.updIsl.enterStop

theorem Chip.Canon.sampleAt {c : Chip} {i : Isl} {t : Nat} (h : c.Canon) : (c.sampleAt i t).Canon :=
  .ite h (.ite (.ite h.updIsl h.updIsl.safeOutputs) (.islFlag (.updIsl (.updIsl
    (.ite h.updIsl.activate'.sampleMode.islFlag h.updIsl.activate'.sampleMode)))))

theorem Chip.Canon.controlSample {c : Chip} {i : Isl} (h : c.Canon) : (c.controlSample i).Canon := by
  unfold Chip.controlSample
  split
  · exact h.sampleAt
  · exact h

theorem Chip.Canon.compareReceive {c : Chip} {i : Isl} {crcOk : Bool} (h : c.Canon) : (c.compareReceive i crcOk).Canon := by
  unfold Chip.compareReceive
  split
  · exact h
  · exact .ite h.updIsl (.ite h.updIsl.updIsl.setOffset h.updIsl.updIsl)

theorem Chip.Canon.comparePoint {c : Chip} {i : Isl} (h : c.Canon) : (c.comparePoint i).Canon := by
  unfold Chip.comparePoint
  dsimp only
  split
  · exact h
  · refine .ite h ?_
    split
    · exact h.updIsl.bump.updIsl
    · exact .ite h.updIsl.updIsl.bump.updIsl h.updIsl.updIsl

theorem Chip.Canon.siResume {c : Chip} {i : Isl} (h : c.Canon) : (c.siResume i).Canon := .ite h.setReg.updIsl h

theorem Chip.Canon.stopReq {c : Chip} {i : Isl} {b : Nat} (h : c.Canon) : (c.stopReq i b).Canon := h.setReg

theorem Chip.Canon.watchdogKey {c : Chip} {i : Isl} {v : Nat} (h : c.Canon) : (c.watchdogKey i v).Canon := .ite h.updIsl (.ite h.updIsl h.islTrap)

theorem Chip.Canon.watchdogExpiry {c : Chip} {i : Isl} (h : c.Canon) : (c.watchdogExpiry i).Canon := .ite h.islTrap h

theorem Chip.Canon.dtholdEnter {c : Chip} {i : Isl} (h : c.Canon) : (c.dtholdEnter i).Canon := .ite h.updIsl h

theorem Chip.Canon.dtholdClear {c : Chip} {i : Isl} (h : c.Canon) : (c.dtholdClear i).Canon := by
  unfold Chip.dtholdClear
  split
  · exact .ite h.updIsl h
  · exact h

theorem Chip.Canon.timeToIsl {c : Chip} {i : Isl} (h : c.Canon) : (c.timeToIsl i).Canon := h.updIsl

theorem Chip.Canon.encoderPulse {c : Chip} {i : Isl} {q : Nat} {up : Bool} {period : Nat} (h : c.Canon) : (c.encoderPulse i q up period).Canon :=
  h.updIsl

theorem Chip.Canon.adcDone {c : Chip} {i : Isl} {a v : Nat} (h : c.Canon) : (c.adcDone i a v).Canon := .ite h.updIsl h

/-! ## Can -/

theorem Chip.Canon.canSend {c : Chip} {r : CanRef} {s : Nat} (h : c.Canon) : (c.canSend r s).Canon := .ite h.bump h

theorem Chip.Canon.canTxWrite {c : Chip} {r : CanRef} {s v : Nat} (h : c.Canon) : (c.canTxWrite r s v).Canon := .ite h.setReg.canSend h.setReg

theorem Chip.Canon.canPeriodic {c : Chip} {r : CanRef} {s : Nat} (h : c.Canon) : (c.canPeriodic r s).Canon := .ite h h.canSend

theorem Chip.Canon.canLatch {c : Chip} {r : CanRef} {id : Nat} {ide : Bool} {data : List Byte} (h : c.Canon) : (c.canLatch r id ide data).1.Canon :=
  .foldl h fun h' => h'.setReg.setReg

/-! ## Image -/

theorem Chip.Canon.loadSect {c : Chip} {img : List Byte} {s : Sect} (h : c.Canon) : (c.loadSect img s).Canon := .ite h.devWrite.devTag h.devWrite

/-! ## Margin -/

theorem Chip.Canon.replan {c : Chip} {site : Nat} {f : SiteRec → SiteRec} (h : c.Canon) : (c.replan site f).Canon := h.with_pm

theorem Chip.Canon.planLand {c : Chip} (h : c.Canon) : (c.planLand).Canon := by
  unfold Chip.planLand
  split
  · exact h
  · exact .foldl h.with_pm fun h' => .ite (.foldl h' fun h'' => h''.post) h'

theorem Chip.Canon.cluster {c : Chip} {hall i b : Nat} (h : c.Canon) : (c.cluster hall i b).Canon := by
  unfold Chip.cluster
  split
  · exact h
  · exact .ite h.replan.with_log h

theorem Chip.Canon.planWritten {c : Chip} {ok : Bool} (h : c.Canon) : (c.planWritten ok).Canon := by
  unfold Chip.planWritten
  split
  · extract_lets m m' _ c' _ pm
    have hc' : c'.Canon := h.with_writeBytes
    exact hc'.with_pm
  · exact h.post

theorem Chip.Canon.marginWriteDone {c : Chip} {ok : Bool} (h : c.Canon) : (c.marginWriteDone ok).Canon := .ite h.planWritten h

/-! ## Partition -/

theorem Chip.Canon.senseDraft {c : Chip} {base v : Nat} (h : c.Canon) : (c.senseDraft base v).Canon := h.devSense.devSense.devSense

theorem Chip.Canon.clearStable {c : Chip} {key : Nat} (h : c.Canon) : (c.clearStable key).Canon := h.of_filter rfl

theorem Chip.Canon.domainsOn {c : Chip} {keys : List Nat} (h : c.Canon) : (c.domainsOn keys).1.Canon := .foldl h.with_core fun h' => h'.clearStable

theorem Chip.Canon.domainsOff {c : Chip} {keys : List Nat} (h : c.Canon) : (c.domainsOff keys).Canon := h.with_core

theorem Chip.Canon.loadSects {c : Chip} {ss : List Sect} (h : c.Canon) : (c.loadSects ss).Canon := .foldl h fun h' => h'.loadSect

theorem Chip.Canon.dropWaiting {c : Chip} {p : Nat} (h : c.Canon) : (c.dropWaiting p).Canon := h.with_rq

theorem Chip.Canon.scenesDone {c : Chip} {p : Nat} (h : c.Canon) : (c.scenesDone p).Canon := .foldl h fun h' => .ite h'.post h'

theorem Chip.Canon.clearPart {c : Chip} {p : Nat} (h : c.Canon) : (c.clearPart p).Canon :=
  .of_cells (.foldl (.updPart (.foldl h.dropWaiting.scenesDone fun h' => .ite h'.suClear h')) fun h' => h'.setReg) rfl

theorem Chip.Canon.suRelease {c : Chip} {p : Nat} {keep : Nat → Bool} (h : c.Canon) : (c.suRelease p keep).Canon :=
  .foldl h fun h' => .ite h'.suClear.setReg h'

theorem Chip.Canon.suTake {c : Chip} {p suhalls : Nat} (h : c.Canon) : (c.suTake p suhalls).Canon := .foldl h.suRelease fun h' => h'.suAssign

theorem Chip.Canon.dropCtxs {c : Chip} {p : Nat} (h : c.Canon) : (c.dropCtxs p).Canon := h.with_core

theorem Chip.Canon.createNow {c : Chip} {p : Nat} {boot : Bool} (h : c.Canon) : (c.createNow p boot).Canon :=
  .ite h.senseDraft.updPart.post (.foldl h.senseDraft.with_parts.clearPart.domainsOn.loadSects.suTake fun h' => h'.setReg)

theorem Chip.Canon.partCreate {c : Chip} {p : Nat} (h : c.Canon) : (c.partCreate p).Canon := .ite h.createNow h.countErr

theorem Chip.Canon.partRestart {c : Chip} {p : Nat} (h : c.Canon) : (c.partRestart p).Canon := .ite h.dueResetAt h.countErr

theorem Chip.Canon.partStop {c : Chip} {p : Nat} (h : c.Canon) : (c.partStop p).Canon := by
  unfold Chip.partStop
  refine .ite ?_ h.countErr
  extract_lets keys c1 c2 r c3 _ c4
  have h3 : c3.Canon := .postTo (.postTo (.suRelease (.dropCtxs (.scenesDone h.stopPart))))
  have h4 : c4.Canon := h3.of_cells rfl
  exact h4.domainsOff

theorem Chip.Canon.endService {c : Chip} {p key : Nat} (h : c.Canon) : (c.endService p key).Canon := .ite h.setReg.hbOff.post h

theorem Chip.Canon.partFail {c : Chip} {p : Nat} (h : c.Canon) : (c.partFail p).Canon := h.dropCtxs.suRelease.updPart.post

theorem Chip.Canon.resetClear {c : Chip} {p cls : Nat} (h : c.Canon) : (c.resetClear p cls).Canon :=
  .updPart (.foldl h.clearPart fun h' => .ite h'.endService h')

theorem Chip.Canon.resetInto {c : Chip} {p : Nat} {n : Part} {keys : List Nat} (h : c.Canon) : (c.resetInto p n keys).Canon :=
  .suTake (.domainsOff (.updPart (.domainsOn (.ite (.foldl h.updPart fun h' => h'.endService) h.updPart))))

theorem Chip.Canon.partReset {c : Chip} {p : Nat} (h : c.Canon) : (c.partReset p).Canon := by
  unfold Chip.partReset
  dsimp only
  split
  · exact h
  · refine .ite h ?_
    split
    · exact .partFail (.updPart (.foldl h.resetClear fun h' => h'.senseDraft))
    · exact .ite (.partFail (.foldl h.resetClear fun h' => h'.senseDraft)) (.resetInto (.foldl h.resetClear fun h' => h'.senseDraft))

theorem Chip.Canon.reloadDone {c : Chip} {p : Nat} (h : c.Canon) : (c.reloadDone p).Canon :=
  .ite (.foldl h.loadSects.dropCtxs.updPart fun h' => h'.post) h

/-! ## Regulation -/

theorem Chip.Canon.updRqo {c : Chip} {die : Nat} {f : RqO → RqO} (h : c.Canon) : (c.updRqo die f).Canon := h.with_rq

theorem Chip.Canon.updRqm {c : Chip} {die m : Nat} {f : RqM → RqM} (h : c.Canon) : (c.updRqm die m f).Canon := h.with_rq

theorem Chip.Canon.updBase {c : Chip} {s : Nat} {f : BaseQ → BaseQ} (h : c.Canon) : (c.updBase s f).Canon := h.with_rq

theorem Chip.Canon.issueReq {c : Chip} {r : Req} (h : c.Canon) : (c.issueReq r).Canon := h.updRqm.with_rq

theorem Chip.Canon.newRequest {c : Chip} {die m by' addr : Nat} {wr : Bool} {bytes t : Nat} (h : c.Canon) :
    (c.newRequest die m by' addr wr bytes t).Canon :=
  .ite (.ite h.at.issueReq h.at.updRqm) h

theorem Chip.Canon.issueHeld {c : Chip} {die m stack waited t : Nat} (h : c.Canon) : (c.issueHeld die m stack waited t).Canon := by
  unfold Chip.issueHeld
  dsimp only
  split
  · exact h.at
  · exact .ite (.issueReq (.updRqm (.ite h.at h.at.bump))) (.ite h.at h.at.bump)

theorem Chip.Canon.tdmSlot {c : Chip} {die t : Nat} (h : c.Canon) : (c.tdmSlot die t).Canon :=
  .foldl h.at fun h' => .foldl h' fun h'' => .ite h''.updRqm.issueReq h''

theorem Chip.Canon.windowEnd {c : Chip} {die m t : Nat} (h : c.Canon) : (c.windowEnd die m t).Canon := .ite h.at.updRqm h.at

theorem Chip.Canon.reqArrives {c : Chip} {id t : Nat} (h : c.Canon) : (c.reqArrives id t).Canon := by
  unfold Chip.reqArrives
  dsimp only
  split
  · exact h.at
  · split
    · exact h.at.with_rq.updBase
    · exact h.at.with_rq.with_rq.bump

theorem Chip.Canon.cacheServe {c : Chip} {r : Req} (h : c.Canon) : (c.cacheServe r).Canon := by
  unfold Chip.cacheServe
  dsimp only
  split
  · exact h.updBase.bump
  · split
    · exact h.bump.updBase
    · exact h.bump

theorem Chip.Canon.queueService {c : Chip} {s t : Nat} (h : c.Canon) : (c.queueService s t).Canon := by
  unfold Chip.queueService
  extract_lets c1
  have h1 : c1.Canon := h.at
  split
  · exact h1
  · extract_lets late aged c2 c3 c4 c5 c6 _
    have h2 : c2.Canon := h1.updBase
    have h3 : c3.Canon := .ite h2.bump.bump h2
    have h4 : c4.Canon := .ite h3.bump h3
    have h5 : c5.Canon := h4.cacheServe
    have h6 : c6.Canon := by
      unfold c6
      split
      · exact h5.charged
      · exact h5
    exact h6.with_rq

theorem Chip.Canon.reqComplete {c : Chip} {id t : Nat} (h : c.Canon) : (c.reqComplete id t).Canon := by
  unfold Chip.reqComplete
  dsimp only
  split
  · exact h.at
  · exact .ite h.at.with_rq h.at.with_rq.updRqm.updRqo

theorem Chip.Canon.rqForget {c : Chip} {site : Nat} (h : c.Canon) : (c.rqForget site).Canon := h.with_rq

theorem Chip.Canon.levelSend {c : Chip} {s t : Nat} (h : c.Canon) : (c.levelSend s t).Canon := .ite h.at.updBase h.at

theorem Chip.Canon.levelReceive {c : Chip} {die s t : Nat} (h : c.Canon) : (c.levelReceive die s t).Canon :=
  .ite h.at (.ite h.at.updRqo.with_rq h.at.updRqo)

theorem Chip.Canon.fbLost {c : Chip} {die s t : Nat} (h : c.Canon) : (c.fbLost die s t).Canon := .ite h.at.updRqo.bump.post h.at

theorem Chip.Canon.fbRestored {c : Chip} {die s : Nat} (h : c.Canon) : (c.fbRestored die s).Canon := .ite h.updRqo.bump.post h

/-! ## Links -/

theorem Chip.Canon.updPort {c : Chip} {die p : Nat} {f : Port → Port} (h : c.Canon) : (c.updPort die p f).Canon := h.with_yard

theorem Chip.Canon.lnkBump {c : Chip} {die p off : Nat} (h : c.Canon) : (c.lnkBump die p off).Canon := by
  unfold Chip.lnkBump
  split
  · exact h.bump
  · exact h

theorem Chip.Canon.siteDark {c : Chip} {site : Nat} (h : c.Canon) : (c.siteDark site).Canon := by
  refine .foldl h fun h' => .updPort ?_
  split
  · exact h'.updPort
  · exact h'

theorem Chip.Canon.mailAt {c : Chip} {die p : Nat} (h : c.Canon) : (c.mailAt die p).Canon := .ite (.ite h.mailFlush (.ite h.mailFlush h)) h

theorem Chip.Canon.fencePort {c : Chip} {die p : Nat} (h : c.Canon) : (c.fencePort die p).Canon := .ite h h.updPort.with_yard.mailAt.post

theorem Chip.Canon.countsChanged {c : Chip} (h : c.Canon) : (c.countsChanged).Canon := h.post

theorem Chip.Canon.hallLost {c : Chip} {hall site : Nat} (h : c.Canon) : (c.hallLost hall site).Canon :=
  .foldl h fun h' => .dueResetAt (.ite h'.sendErr (.foldl h' fun h'' => h''.recordFault))

theorem Chip.Canon.fenceStaged {c : Chip} {site : Nat} (h : c.Canon) : (c.fenceStaged site).Canon := h.with_cfg

theorem Chip.Canon.fenceSite {c : Chip} {site : Nat} (h : c.Canon) : (c.fenceSite site).Canon := by
  unfold Chip.fenceSite
  refine .ite h ?_
  extract_lets _ c1 hall c2 c3 _ c4 _ c5 _ c6 c7
  have h1 : c1.Canon := h.with_log
  have h2 : c2.Canon := by
    unfold c2
    cases hall with
    | none => exact h1
    | some x => exact .errForget h1.hallLost
  have h3 : c3.Canon := .foldl h2 fun h' => h'.updPort
  have h6 : c6.Canon := .with_core (.with_site h3.with_yard)
  have h7 : c7.Canon := .setReg h6.suClear
  exact .countsChanged (.post (.rqForget h7.fenceStaged))

theorem Chip.Canon.stackLost {c : Chip} {m : Nat} (h : c.Canon) : (c.stackLost m).Canon :=
  .ite h (.stopReq (.stopReq (.foldl h.with_yard.post fun h' => h'.stopPart.partFail)))

theorem Chip.Canon.yardLosses {c : Chip} (h : c.Canon) : (c.yardLosses).Canon :=
  .foldl (.foldl h fun h' => .ite h'.stackLost h') fun h' => .ite h' h'.fenceSite

theorem Chip.Canon.portFence {c : Chip} {die p t : Nat} (h : c.Canon) : (c.portFence die p t).Canon := .ite h.at.fencePort.yardLosses h.at

theorem Chip.Canon.hallProbe {c : Chip} {site : Nat} {answers : Bool} (h : c.Canon) : (c.hallProbe site answers).Canon :=
  .ite h (.ite (.foldl h fun h' => h'.post) h.fenceSite)

theorem Chip.Canon.sendOn {c : Chip} {die p : Nat} {k : Packet} (h : c.Canon) : (c.sendOn die p k).Canon := .ite h.lnkBump (.ite h.updPort h.updPort)

theorem Chip.Canon.outstanding {c : Chip} {src : Nat} {k : Packet} (h : c.Canon) : (c.outstanding src k).Canon := .ite h.with_yard h

theorem Chip.Canon.answered {c : Chip} {die : Nat} {k : Packet} (h : c.Canon) : (c.answered die k).Canon := .ite h.with_yard h

theorem Chip.Canon.deliver {c : Chip} {die : Nat} {k : Packet} (h : c.Canon) : (c.deliver die k).Canon :=
  .ite h (.with_yard (.answered (.ite h.with_yard h)))

theorem Chip.Canon.forward {c : Chip} {die : Nat} {k : Packet} (h : c.Canon) : (c.forward die k).Canon := by
  refine .ite h.deliver ?_
  split
  · exact h
  · dsimp only
    split
    · exact h
    · split
      · exact h.sendOn
      · exact h

theorem Chip.Canon.sendAgain {old c : Chip} {src : Nat} {k : Packet} (h : c.Canon) : (old.sendAgain c src k).Canon := by
  refine .ite h ?_
  split
  · exact h
  · split
    · exact h.sendOn
    · exact h

theorem Chip.Canon.resend {old c : Chip} (h : c.Canon) : (old.resend c).Canon := .with_yard (.foldl h fun h' => .foldl h' fun h'' => h''.sendAgain)

theorem Chip.Canon.routeSwitch {c : Chip} {t : Nat} (h : c.Canon) : (c.routeSwitch t).Canon := by
  unfold Chip.routeSwitch
  dsimp only
  split
  · exact h.at
  · exact h.at.yardLosses.with_yard.resend

theorem Chip.Canon.firstHop {c : Chip} {die p : Nat} {k : Packet} (h : c.Canon) : (c.firstHop die p k).Canon := .ite h.outstanding h

theorem Chip.Canon.wasSent {c d : Chip} {die p : Nat} {k : Packet} (h : c.Canon) (hsent : c.wasSent die p k = some d) : d.Canon := by
  unfold Chip.wasSent at hsent
  split at hsent
  · cases hsent; exact h
  · dsimp only at hsent
    split at hsent
    · cases hsent; exact h
    · split at hsent
      · cases hsent; exact h.updPort
      · cases hsent

theorem Chip.Canon.packetIn {c : Chip} {die p grp : Nat} {k : Packet} {errs : List Nat} {t : Nat} (h : c.Canon) :
    (c.packetIn die p grp k errs t).Canon := by
  unfold Chip.packetIn
  extract_lets c x
  have hc : c.Canon := h.at
  refine .ite (.ite hc.lnkBump hc) ?_
  split
  · split
    · exact hc.sendOn
    · exact hc
  · next heq =>
    have hsent := hc.wasSent heq
    dsimp only
    have hseen {d : Chip} (hd : d.Canon) (e : WordRead × Nat) :
        (match e.1 with
          | .corrected s _ => (d.lnkBump die p 0x60).updPort die p fun x => x.corrected e.2 s t
          | _ => d).Canon := by
      split
      · exact hd.lnkBump.updPort
      · exact hd
    have hrep := hsent.updPort (die := die) (p := p) (f := fun x => { x with rxAt := t, told := false })
    exact .ite (.updPort (.lnkBump (.foldl hrep fun h' => hseen h' _))) (.ite (.foldl hrep fun h' => hseen h' _)
      (.forward (.firstHop (.updPort (.charged (.foldl hrep fun h' => hseen h' _))))))

theorem Chip.Canon.refill {c : Chip} {die p : Nat} (h : c.Canon) : (c.refill die p).Canon := .updPort (.foldl h.updPort fun h' => h'.sendOn)

theorem Chip.Canon.heardAt {c : Chip} {die p : Nat} (h : c.Canon) : (c.heardAt die p).Canon := h.updPort

theorem Chip.Canon.peerLeft {c : Chip} {die p : Nat} {nak : Bool} {seq : Nat} (h : c.Canon) : (c.peerLeft die p nak seq).Canon := by
  unfold Chip.peerLeft
  split
  · exact h.updPort
  · exact h

theorem Chip.Canon.linkAck {c : Chip} {die p seq : Nat} (h : c.Canon) : (c.linkAck die p seq).Canon :=
  .ite (.ite h.heardAt.peerLeft.updPort.refill h.heardAt.peerLeft) h

theorem Chip.Canon.retrain {c : Chip} {die p : Nat} (h : c.Canon) : (c.retrain die p).Canon := by
  unfold Chip.retrain
  dsimp only
  split
  · exact h.updPort.lnkBump.updPort
  · exact h.updPort.lnkBump

theorem Chip.Canon.nakIn {c : Chip} {die p seq t : Nat} (h : c.Canon) : (c.nakIn die p seq t).Canon :=
  .ite (.ite (.ite h.at.heardAt.peerLeft.updPort.lnkBump.retrain h.at.heardAt.peerLeft.updPort.lnkBump) h.at.heardAt.peerLeft) h.at

theorem Chip.Canon.idleFlit {c : Chip} {die p t : Nat} (h : c.Canon) : (c.idleFlit die p t).Canon := by
  refine .ite ?_ h.at
  split
  · exact .ite h.at.updPort.updPort h.at.updPort
  · exact h.at.updPort

theorem Chip.Canon.laneFailing {c : Chip} {die p lane t : Nat} (h : c.Canon) : (c.laneFailing die p lane t).Canon := by
  refine .ite ?_ h.at
  split
  · dsimp only
    split
    · exact h.at.updPort.lnkBump.sendErr.updPort
    · exact h.at.updPort.lnkBump.sendErr
  · exact .ite h.at.updPort.sendErr h.at.updPort.sendErr.post

theorem Chip.Canon.retrainDone {c : Chip} {die p : Nat} {good : Nat → Bool} {t : Nat} (h : c.Canon) : (c.retrainDone die p good t).Canon := by
  refine .ite h.at ?_
  dsimp only
  split
  · exact h.at
  · exact .ite h.at.fencePort.fencePort.yardLosses h.at.updPort.updPort.mailAt

theorem Chip.Canon.trainPort {c : Chip} {die p : Nat} {good : Nat → Bool} (h : c.Canon) : (c.trainPort die p good).Canon := by
  unfold Chip.trainPort
  dsimp only
  split
  · exact .updPort (.ite h.updPort.updPort.fencePort h.updPort)
  · exact .ite h.updPort.updPort.fencePort h.updPort

/-! ## Power -/

theorem Chip.Canon.updPwr {c : Chip} {site : Nat} {f : HallPwr → HallPwr} (h : c.Canon) : (c.updPwr site f).Canon := h.with_pwr

theorem Chip.Canon.updPm {c : Chip} {f : PwrSt → PwrSt} (h : c.Canon) : (c.updPm f).Canon := h.with_pm

theorem Chip.Canon.settlePoint {c : Chip} {site : Nat} (h : c.Canon) : (c.settlePoint site).Canon := h.updPwr

theorem Chip.Canon.coolStop {c : Chip} (h : c.Canon) : (c.coolStop).Canon :=
  .bump (.post (.updPm (.stopReq (.stopReq (.foldl h fun h' => h'.updPwr)))))

theorem Chip.Canon.budgetPeriod {c : Chip} {t p : Nat} (h : c.Canon) : (c.budgetPeriod t p).Canon :=
  .ite (.coolStop (.foldl (.updPm (.foldl h.at fun h' => h'.updPwr)) fun h' => h'.settlePoint)) (.foldl (.updPm
    (.foldl h.at fun h' => h'.updPwr)) fun h' => h'.settlePoint)

theorem Chip.Canon.reported {c : Chip} {d : PwrDie} {rep : List Activity} (h : c.Canon) : (c.reported d rep).Canon := by
  refine .foldl h fun h' => ?_
  dsimp only
  split
  · exact .foldl h'.charged fun h'' => h''.bump
  · exact h'.charged

theorem Chip.Canon.hallDemand {c : Chip} {d : PwrDie} {idle : Nat} {want drew : List Nat} {rep : List Activity} {t : Nat} (h : c.Canon) :
    (c.hallDemand d idle want drew rep t).Canon := by
  unfold Chip.hallDemand
  dsimp only
  split
  · exact h.at.reported.updPwr
  · exact h.at.reported.updPm
  · exact h.at.reported.updPm

theorem Chip.Canon.budgetMessage {c : Chip} {d : PwrDie} {t : Nat} (h : c.Canon) : (c.budgetMessage d t).Canon := by
  unfold Chip.budgetMessage
  dsimp only
  split
  · exact h.at.updPwr.settlePoint
  · exact h.at.updPm

theorem Chip.Canon.budgetLost {c : Chip} {d : PwrDie} {t : Nat} (h : c.Canon) : (c.budgetLost d t).Canon := by
  unfold Chip.budgetLost
  dsimp only
  split
  · exact .ite h.at.updPwr.settlePoint.post h.at
  · exact .ite h.at.updPm.post h.at

theorem Chip.Canon.zoneSettled {c : Chip} {row : Nat} (h : c.Canon) : (c.zoneSettled row).Canon := by
  unfold Chip.zoneSettled
  split
  · exact h
  · exact .foldl h fun h' => h'.updPwr.settlePoint

theorem Chip.Canon.energyCheck {c : Chip} {site e t : Nat} (h : c.Canon) : (c.energyCheck site e t).Canon := by
  refine .ite (.ite h.at.updPwr h.at.updPwr.updPwr.bump) (.ite ?_ h.at.updPwr)
  split
  · exact h.at.updPwr.updPwr
  · exact h.at.updPwr

theorem Chip.Canon.refit {c : Chip} {d : PwrDie} {coefs : List Nat} (h : c.Canon) : (c.refit d coefs).Canon := by
  unfold Chip.refit
  dsimp only
  split
  · exact h.updPwr
  · exact h.updPm

theorem Chip.Canon.hallHeat {c : Chip} {site t : Nat} (h : c.Canon) : (c.hallHeat site t).Canon := by
  unfold Chip.hallHeat
  dsimp only
  split
  · exact h.settlePoint
  · exact .ite h.fenceSite (.ite h.updPwr.settlePoint.post h.updPwr.settlePoint)

theorem Chip.Canon.sensorErr {c : Chip} {unit : Nat} {v : Int} (h : c.Canon) : (c.sensorErr unit v).Canon := h.sendErr

theorem Chip.Canon.hallSensors {c : Chip} {site : Nat} {rs : List (Int × Bool)} {t : Nat} (h : c.Canon) : (c.hallSensors site rs t).Canon :=
  .hallHeat (.updPwr (.foldl h fun h' => .ite h'.updPwr h'.updPwr.sensorErr))

theorem Chip.Canon.updSens {c : Chip} {n : Nat} {f : Sens → Sens} (h : c.Canon) : (c.updSens n f).Canon := h.updPm

theorem Chip.Canon.dieSensors {c : Chip} {n unit : Nat} {rs : List (Int × Bool)} {t : Nat} (h : c.Canon) : (c.dieSensors n unit rs t).Canon := by
  unfold Chip.dieSensors
  extract_lets read c1 top was
  have h1 : c1.Canon := .foldl h fun h' => .ite h'.updSens h'.updSens.sensorErr
  clear_value top
  split
  · exact h1
  · extract_lets now c2 c3
    have h2 : c2.Canon := h1.updPm
    have h3 : c3.Canon := .ite h2.post h2
    exact .ite h3.stackLost h3

theorem Chip.Canon.temperature {c : Chip} {d : PwrDie} {rs : List (Int × Bool)} {t : Nat} (h : c.Canon) : (c.temperature d rs t).Canon := by
  unfold Chip.temperature
  dsimp only
  split
  · exact h.at.hallSensors
  · exact h.at.dieSensors

theorem Chip.Canon.showTemp {c : Chip} {i : Isl} (h : c.Canon) : (c.showTemp i).Canon := h.setReg

theorem Chip.Canon.islTemperature {c : Chip} {i : Isl} {rs : List (Int × Bool)} {t : Nat} (h : c.Canon) : (c.islTemperature i rs t).Canon :=
  .ite (.islTrap (.showTemp (.foldl h.at fun h' => h'.updSens))) (.showTemp (.foldl h.at fun h' => h'.updSens))

theorem Chip.Canon.sensorSuspect {c : Chip} {d : HeatDie} {n t : Nat} (h : c.Canon) : (c.sensorSuspect d n t).Canon := by
  unfold Chip.sensorSuspect
  dsimp only
  split
  · exact .ite h.at.updPwr h.at
  · exact .ite h.at.updSens h.at
  · exact .ite h.at.updSens.showTemp h.at

theorem Chip.Canon.pairFlag {c : Chip} {site t : Nat} (h : c.Canon) : (c.pairFlag site t).Canon := .ite h.at.updPwr.post h.at

theorem Chip.Canon.flowEstimate {c : Chip} {mflow mp : Nat} {mdt : Int} {t : Nat} (h : c.Canon) : (c.flowEstimate mflow mp mdt t).Canon := h.at.updPm

theorem Chip.Canon.coolDegraded {c : Chip} {t : Nat} (h : c.Canon) : (c.coolDegraded t).Canon :=
  .ite h.at.updPm.bump.updPm.post (.ite h.at.updPm.post h.at)

theorem Chip.Canon.coolRestored {c : Chip} {t : Nat} (h : c.Canon) : (c.coolRestored t).Canon := by
  unfold Chip.coolRestored
  dsimp only
  split
  · exact .ite h.at.updPm.post h.at
  · exact h.at

theorem Chip.Canon.coolResume {c : Chip} (h : c.Canon) : (c.coolResume).Canon :=
  .ite (.bump (.post (.updPm (.foldl (.foldl h fun h' => h'.updPwr.settlePoint) fun h' => h'.partRestart)))) h.bump

theorem Chip.Canon.ageing {c : Chip} {site : Nat} {slack ro : List Nat} (h : c.Canon) : (c.ageing site slack ro).Canon :=
  .ite h.updPwr.post h.updPwr.replan

theorem Chip.Canon.ageingDue {c : Chip} {site : Nat} {slack ro : List Nat} {t : Nat} (h : c.Canon) : (c.ageingDue site slack ro t).Canon :=
  .ite h.at.ageing h.at

theorem Chip.Canon.effRun {c : Chip} {t : Nat} (h : c.Canon) : (c.effRun t).Canon := .ite h.at.updPm h.at.bump

theorem Chip.Canon.effDone {c : Chip} {fs : List Nat} {t : Nat} (h : c.Canon) : (c.effDone fs t).Canon := by
  unfold Chip.effDone
  dsimp only
  split
  · exact .ite h.at.updPm h.at
  · exact h.at

/-! ## Scheduler -/

theorem Chip.Canon.cancelServing {c : Chip} {stb : Nat} (h : c.Canon) : (c.cancelServing stb).Canon := by
  unfold Chip.cancelServing
  split
  · exact h
  · exact h.updEng.updCtx

theorem Chip.Canon.rewind {c : Chip} {k : Nat} (h : c.Canon) : (c.rewind k).Canon := by
  unfold Chip.rewind
  dsimp only
  split
  · refine .updCtx (.discard ?_)
    split
    · exact h.updCtx
    · exact h
  · split
    · exact h.updCtx
    · exact h

theorem Chip.Canon.takeOut {c : Chip} {k : Nat} {all : Bool} (h : c.Canon) : (c.takeOut k all).Canon := by
  unfold Chip.takeOut
  extract_lets stb c1 x d ps x' c2 x'' _ c3
  have h1 : c1.Canon := .applyMove (.rewind h.cancelServing)
  have h2 : c2.Canon := h1.saveTo
  have h3 : c3.Canon := h2.with_core
  exact .reconsider h3.yieldTo

theorem Chip.Canon.saveSlot {c : Chip} {k dur : Nat} {all : Bool} (h : c.Canon) : (c.saveSlot k dur all).Canon := h.takeOut.bump.setReg.charged

theorem Chip.Canon.saveDone {c : Chip} {k dur : Nat} (h : c.Canon) : (c.saveDone k dur).Canon := .ite h.saveSlot h

theorem Chip.Canon.putIn {c : Chip} {k : Nat} {key : Nat × Nat} {x : Ctx} (h : c.Canon) : (c.putIn k key x).Canon := by
  unfold Chip.putIn
  extract_lets stb d
  split
  next c1 x1 heq =>
    have h1 : c1.Canon := by
      split at heq
      · next ps _ =>
        have hload := h.loadFrom (stb := stb) (x := x) (d := d) (ps := ps)
        rwa [heq] at hload
      · cases heq
        exact h
    extract_lets _ c2 ts _ c3 c4
    have h4 : c4.Canon := .setCtx (.with_core (.with_core h1))
    split
    · exact h4.resumeWith .allocNow
    · exact h4.resumeWith .cowNow
    · exact h4.resume
    · exact h4

theorem Chip.Canon.restoreDone {c : Chip} {k : Nat} (h : c.Canon) : (c.restoreDone k).Canon := by
  unfold Chip.restoreDone
  split
  · exact .ite h h.putIn
  · exact h

theorem Chip.Canon.fillStable {c : Chip} {stb : Nat} (h : c.Canon) : (c.fillStable stb).Canon := by
  have once {c : Chip} (h : c.Canon) : (match c.chosen stb, c.freeSlot stb with
      | some (key, x, []), some k => c.putIn k key x
      | _, _ => c).Canon := by
    split
    · exact h.putIn
    · exact h
  exact once (once h)

theorem Chip.Canon.startContexts {c : Chip} {frame : Nat} (h : c.Canon) : (c.startContexts frame).Canon :=
  .foldl h fun h' => .ite (.post (.foldl h'.with_core.updPart fun h'' => h''.fillStable)) (.foldl h'.with_core.updPart fun h'' => h''.fillStable)

theorem Chip.Canon.budgetExceeded {c : Chip} {k n : Nat} (h : c.Canon) : (c.budgetExceeded k n).Canon := by
  unfold Chip.budgetExceeded
  split
  · exact h
  · exact .ite h.updCtx.takeFault (.ite h.updCtx h)

theorem Chip.Canon.timeReached {c : Chip} {p i : Nat} (h : c.Canon) : (c.timeReached p i).Canon := by
  unfold Chip.timeReached
  split
  · exact h.waittResume
  · split
    · split
      · exact .ite h.updSaved h
      · exact h
    · exact h

theorem Chip.Canon.charge {c : Chip} {row off n : Nat} (h : c.Canon) : (c.charge row off n).Canon := h.bump

theorem Chip.Canon.account {c : Chip} {r : Charge} (h : c.Canon) : (c.account r).Canon := h.charge.charge.charge.charge.charge

theorem Chip.Canon.accountingUpdate {c : Chip} {t uj : Nat} (h : c.Canon) : (c.accountingUpdate t uj).Canon :=
  .setReg (.with_acct (.charge (.foldl h.at fun h' => h'.account)))

/-! ## Capacity -/

theorem Chip.Canon.clearSite {c : Chip} {site : Nat} (h : c.Canon) : (c.clearSite site).Canon := h.of_filter rfl

theorem Chip.Canon.setPers {c : Chip} {img : List Byte} {site : Nat} (h : c.Canon) : (c.setPers img site).Canon := h.with_core

theorem Chip.Canon.takeService {c : Chip} {site : Nat} {r : SiteRec} (h : c.Canon) : (c.takeService site r).Canon := .foldl h fun h' => h'.updEng

theorem Chip.Canon.sparePrepare {c : Chip} {site : Nat} (h : c.Canon) : (c.sparePrepare site).Canon := .ite h h.with_spare

theorem Chip.Canon.spareDone {c : Chip} {ok : Bool} {bars : List (Nat × Nat)} {bad : List (Nat × Nat × Nat)} (h : c.Canon) :
    (c.spareDone ok bars bad).Canon := by
  unfold Chip.spareDone
  refine .ite h ?_
  extract_lets site old state down c1 _ c2 c3 c4 _ _ c5 c6 _ _ c7
  have h1 : c1.Canon := .foldl h fun h' => by
    split
    · exact h'.trainPort.trainPort
    · exact h'
  have h2 : c2.Canon := .ite h1 h1.with_yard
  have h4 : c4.Canon := .foldl h2.clearSite.setPers.takeService fun h' => h'.injectionDone
  have h5 : c5.Canon := .with_spare h4.with_site
  have h6 : c6.Canon := h5.post
  have h7 : c7.Canon := .with_spare h.with_site
  exact .ite (.ite h6 h6.countsChanged) h7.siteDark.countsChanged

theorem Chip.Canon.powerHeld {c : Chip} {site : Nat} (h : c.Canon) : (c.powerHeld site).Canon := h.domainsOn

theorem Chip.Canon.mapHall {c : Chip} {id site : Nat} (h : c.Canon) : (c.mapHall id site).Canon := (h.errForget (hall := id)).of_cells rfl

theorem Chip.Canon.promote {c : Chip} {id site : Nat} (h : c.Canon) : (c.promote id site).Canon := h.mapHall.powerHeld.countsChanged

theorem Chip.Canon.suMigrate {c : Chip} {old new : Nat} (h : c.Canon) : (c.suMigrate old new).Canon :=
  .setReg (.suClear (.ite (.post (.foldl h.suClear fun h' => h'.setReg)) (.foldl h.suClear fun h' => h'.setReg)))

theorem Chip.Canon.retireSite {c : Chip} {id site : Nat} {off : Bool} (h : c.Canon) : (c.retireSite id site off).Canon :=
  .countsChanged (.post (.ite (.foldl (.fenceStaged (h.of_cells rfl)) fun h' => h'.fencePort) (h.of_cells rfl)))

theorem Chip.Canon.migrate {c : Chip} {id old new : Nat} {off : Bool} (h : c.Canon) : (c.migrate id old new off).Canon := by
  refine .retireSite (.suMigrate (.foldl (.powerHeld (.mapHall (.with_core (.foldl
      (.foldl h fun h' => h'.blockCommit) fun h' => h'.saveSlot)))) fun h' => ?_))
  split
  · exact h'.putIn
  · exact h'

theorem Chip.Canon.hallAssign {c : Chip} {v : Nat} (h : c.Canon) : (c.hallAssign v).Canon := by
  unfold Chip.hallAssign
  dsimp only
  split
  · exact .ite h.promote h
  · split
    · exact h
    · exact .ite h.migrate h.errForget.with_site.retireSite
  · exact h

/-! ## LoopEngine -/

theorem Chip.Canon.leDrive {c : Chip} {i : Isl} {route u : Nat} (h : c.Canon) : (c.leDrive i route u).Canon := by
  unfold Chip.leDrive
  dsimp only
  split
  · exact h.setReg.updIsl
  · exact h.canTxWrite
  · exact h.setReg
  · exact h

theorem Chip.Canon.leTrip {c : Chip} {i : Isl} {n cause : Nat} (h : c.Canon) : (c.leTrip i n cause).Canon :=
  .ite h.updCh.leDrive.islEvent.islFlag.updIsl h.updCh.leDrive.islEvent.islFlag

theorem Chip.Canon.leOff {c : Chip} {i : Isl} {n : Nat} (h : c.Canon) : (c.leOff i n).Canon := h.updCh.leDrive

theorem Chip.Canon.leCommand {c : Chip} {i : Isl} {n y : Nat} {held : Bool} (h : c.Canon) : (c.leCommand i n y held).Canon := by
  unfold Chip.leCommand
  dsimp only
  split
  · exact h
  · split
    · exact .ite h.updCh.updCh h.updCh.bump
    · exact h.updCh.leOff
    · exact .ite h.updCh.updCh h.updCh.bump
    · exact .ite h.updCh.updCh h.updCh.bump

theorem Chip.Canon.leApply {c : Chip} {i : Isl} {n : Nat} {q : LeDue} (h : c.Canon) : (c.leApply i n q).Canon :=
  .ite (.ite h.bump.updCh.leTrip h.bump.updCh) h.updCh.leDrive

theorem Chip.Canon.leSettle {c : Chip} {i : Isl} (h : c.Canon) : (c.leSettle i).Canon := by
  refine .foldl h fun h' => ?_
  split
  · exact .ite h'.leApply h'
  · exact h'

theorem Chip.Canon.leEval {c : Chip} {i : Isl} {n t y : Nat} {ev : LeEval} {late : Bool} (h : c.Canon) : (c.leEval i n t y ev late).Canon :=
  .ite h.updCh.leTrip (.ite h.updCh (.ite h.updCh.islErr.leTrip.islTrap (.updCh (.ite h.updCh.bump.islErr h.updCh))))

theorem Chip.Canon.chSampleAt {c : Chip} {i : Isl} {n t : Nat} {ev : LeEval} {late held : Bool} (h : c.Canon) :
    (c.chSampleAt i n t ev late held).Canon :=
  .ite h (.ite h.updCh.updCh.leCommand (.ite h.updCh.updCh.leCommand.leTrip (.ite h.updCh.updCh.leCommand.leTrip
    (.ite h.updCh.updCh.leCommand.leTrip h.updCh.updCh.leCommand.leEval))))

theorem Chip.Canon.channelSample {c : Chip} {i : Isl} {n : Nat} {ev : LeEval} {late held : Bool} (h : c.Canon) :
    (c.channelSample i n ev late held).Canon := by
  unfold Chip.channelSample
  split
  · exact h.chSampleAt
  · exact h

theorem Chip.Canon.leCmd {c : Chip} {i : Isl} {n k : Nat} (h : c.Canon) : (c.leCmd i n k).Canon := h.updCh

theorem Chip.Canon.leCtl {c : Chip} {i : Isl} {en : Bool} (h : c.Canon) : (c.leCtl i en).Canon :=
  .ite h.setReg (.foldl h.setReg fun h' => .ite h' h'.leOff)

theorem Chip.Canon.coefWrite {c : Chip} {i : Isl} {n bank w : Nat} {vs : List Nat} (h : c.Canon) : (c.coefWrite i n bank w vs).Canon := h.updCh

/-! ## Staging -/

theorem Chip.Canon.updCtl {c : Chip} {x : Ctl} {f : CfgSt → CfgSt} (h : c.Canon) : (c.updCtl x f).Canon := h.with_cfg

theorem Chip.Canon.ctlBad {c : Chip} {x : Ctl} (h : c.Canon) : (c.ctlBad x).Canon := h.bump

theorem Chip.Canon.ctlPost {c : Chip} {x : Ctl} {e : Ev} {part : Option Nat} {v1 v2 : Nat} (h : c.Canon) : (c.ctlPost x e part v1 v2).Canon := by
  unfold Chip.ctlPost
  split
  · exact h.post
  · exact h.islEvent

theorem Chip.Canon.cfgClaim {c : Chip} {x : Ctl} {m : Master} {owner : Nat} (h : c.Canon) : (c.cfgClaim x m owner).Canon := .ite h.updCtl h.ctlBad

theorem Chip.Canon.cfgFree {c : Chip} {x : Ctl} (h : c.Canon) : (c.cfgFree x).Canon := by
  unfold Chip.cfgFree
  split
  · exact h
  · exact .ite h.updCtl h.updCtl.ctlPost

theorem Chip.Canon.cfgRelease {c : Chip} {x : Ctl} {m : Master} (h : c.Canon) : (c.cfgRelease x m).Canon := .ite h.cfgFree h.ctlBad

theorem Chip.Canon.freeLocksOf {c : Chip} {f : Nat} (h : c.Canon) : (c.freeLocksOf f).Canon := .foldl h fun h' => .ite h'.cfgFree h'

theorem Chip.Canon.wsWrite {c : Chip} {m : Master} {k : RegKey} {row : RegRow} {v : Nat} (h : c.Canon) : (c.wsWrite m k row v).Canon :=
  .ite h.ctlBad (.ite h.countErr h.updCtl)

theorem Chip.Canon.cfgDiscard {c : Chip} {x : Ctl} {m : Master} (h : c.Canon) : (c.cfgDiscard x m).Canon := .ite h.updCtl h.ctlBad

theorem Chip.Canon.cfgCheck {c : Chip} {x : Ctl} {m : Master} (h : c.Canon) : (c.cfgCheck x m).Canon := .ite h.updCtl h.ctlBad

theorem Chip.Canon.cfgCheckDone {c : Chip} {x : Ctl} (h : c.Canon) : (c.cfgCheckDone x).Canon := .ite h.updCtl h

theorem Chip.Canon.cfgTick {c : Chip} {x : Ctl} {m : Master} (h : c.Canon) : (c.cfgTick x m).Canon := .ite h.ctlBad (.ite h.updCtl h.updCtl)

theorem Chip.Canon.cfgLanding {c : Chip} {x : Ctl} {m : Master} (h : c.Canon) : (c.cfgLanding x m).Canon := .ite h.updCtl h.ctlBad

theorem Chip.Canon.cfgCancel {c : Chip} {x : Ctl} {m : Master} (h : c.Canon) : (c.cfgCancel x m).Canon := .ite h.updCtl h.ctlBad

theorem Chip.Canon.prepareAck {c : Chip} {u : CfgUnit} (h : c.Canon) : (c.prepareAck u).Canon := .ite h.updCtl h

theorem Chip.Canon.cfgAgain {c : Chip} {x : Ctl} (h : c.Canon) : (c.cfgAgain x).Canon := by
  unfold Chip.cfgAgain
  split
  · exact .ite h.updCtl h
  · exact h

theorem Chip.Canon.cfgAbort {c : Chip} {x : Ctl} {bad : List Nat × Nat} (h : c.Canon) : (c.cfgAbort x bad).Canon := h.updCtl.ctlPost

theorem Chip.Canon.cfgCommit {c : Chip} {x : Ctl} (h : c.Canon) : (c.cfgCommit x).Canon := by
  unfold Chip.cfgCommit
  split
  · exact h
  · refine .ite h ?_
    dsimp only
    split
    · exact h.updCtl
    · exact h.cfgAbort
    · exact h.cfgAbort

theorem Chip.Canon.prepareDrop {c : Chip} {u : CfgUnit} (h : c.Canon) : (c.prepareDrop u).Canon := h.updCtl

theorem Chip.Canon.applyReg {c : Chip} {e : RegKey × Nat} (h : c.Canon) : (c.applyReg e).Canon := by
  unfold Chip.applyReg
  extract_lets gone c1 was c2 c3 c4
  have h1 : c1.Canon := by
    unfold c1
    split
    · exact .ite h.updEng h
    · exact h
  have h2 : c2.Canon := h1.setReg
  have h3 : c3.Canon := by
    unfold c3
    split
    · exact .ite h2 h2.hbOff
    · exact h2
  have h4 : c4.Canon := by
    unfold c4
    split
    · exact .ite h3 h3.updIsl
    · exact h3
  refine .ite h ?_
  split
  · exact h.updPart
  · exact .ite h4.hallAssign h4

theorem Chip.Canon.cfgApply {c : Chip} {x : Ctl} {t : Nat} (h : c.Canon) : (c.cfgApply x t).Canon := .ctlPost (.foldl h.updCtl fun h' => h'.applyReg)

theorem Chip.Canon.cfgTickApply {c : Chip} {x : Ctl} (h : c.Canon) : (c.cfgTickApply x).Canon := by
  unfold Chip.cfgTickApply
  split
  · exact .ite h.cfgApply h
  · exact h

theorem Chip.Canon.cfgLand {c : Chip} {start : Nat} (h : c.Canon) : (c.cfgLand start).Canon := by
  unfold Chip.cfgLand
  split
  · exact .ite h.cfgApply h
  · exact h

theorem Chip.Canon.leReset {c : Chip} {i : Isl} {en : Bool} (h : c.Canon) : (c.leReset i en).Canon := .leCtl (.ite h h.updCtl)

/-! ## StartUp -/

theorem Chip.Canon.mainReset {c : Chip} (h : c.Canon) : c.mainReset.Canon := h.of_filter rfl

theorem Chip.Canon.nreset {c : Chip} {dur : Nat} (h : c.Canon) : (c.nreset dur).Canon := .ite h.mainReset h

theorem Chip.Canon.rebase {c : Chip} {t : Nat} (h : c.Canon) : (c.rebase t).Canon := h.with_time

theorem Chip.Canon.nresetRelease {c : Chip} (h : c.Canon) : (c.nresetRelease).Canon := .ite h.rebase.with_boot h

theorem Chip.Canon.stepEnd {c : Chip} {n : Nat} (h : c.Canon) : (c.stepEnd n).Canon := h.with_boot

theorem Chip.Canon.bootErr {c : Chip} {err step : Nat} {stop : Bool} (h : c.Canon) : (c.bootErr err step stop).Canon := h.with_boot

theorem Chip.Canon.rejects {c : Chip} {codes : List Nat} (h : c.Canon) : (c.rejects codes).Canon := .foldl h fun h' => h'.post

theorem Chip.Canon.firmware {c : Chip} {t : Nat} {rom flash : Bool} (h : c.Canon) : (c.firmware t rom flash).Canon := by
  refine .ite h (.ite h.at.bootErr (.ite h.at.bootErr ?_))
  split
  · exact h.at.bootErr
  · dsimp only
    split
    · exact h.at.rejects.bootErr
    · exact h.at.rejects.frameCfg.with_boot.stepEnd

theorem Chip.Canon.linkTraining {c : Chip} {t : Nat} {bad : List (Nat × Nat × Nat)} (h : c.Canon) : (c.linkTraining t bad).Canon := by
  unfold Chip.linkTraining
  refine .ite h ?_
  extract_lets c1 c2 _ c3 c4 old
  have h2 : c2.Canon := .foldl h.at fun h' => h'.trainPort
  have h3 : c3.Canon := .ite h2.with_boot h2
  have h4 : c4.Canon := h3.stepEnd
  split
  · exact h4
  · exact .foldl (.with_boot h4.rebase) fun h' => .ite h'.setOffset.updIsl h'

theorem Chip.Canon.standbyVerify {c : Chip} {ok : Bool} (h : c.Canon) : (c.standbyVerify ok).Canon := .ite h (.ite h.with_boot h.post)

theorem Chip.Canon.siteFails {c : Chip} {site code : Nat} (h : c.Canon) : (c.siteFails site code).Canon := .siteDark (h.of_cells rfl)

theorem Chip.Canon.stairRow {c : Chip} {g : Nat} {codes : List Nat} (h : c.Canon) : (c.stairRow g codes).Canon :=
  .ite h (.with_boot (.foldl h fun h' => .ite h'.clearSite h'.siteFails))

theorem Chip.Canon.stairDone {c : Chip} {t : Nat} (h : c.Canon) : (c.stairDone t).Canon :=
  .ite h (.ite h.at.bootErr h.at.with_site.with_yard.post.countsChanged.stepEnd)

theorem Chip.Canon.clearDram {c : Chip} (h : c.Canon) : c.clearDram.Canon := h.of_filter rfl

theorem Chip.Canon.memoryTraining {c : Chip} {t : Nat} {failed : List Nat} (h : c.Canon) : (c.memoryTraining t failed).Canon := by
  refine .ite h ?_
  dsimp only
  split
  · exact h.at.clearDram.stepEnd
  · exact .bootErr (.foldl h.at fun h' => h'.stackLost)

theorem Chip.Canon.injection {c : Chip} {t : Nat} {bad : List (Nat × Nat)} (h : c.Canon) : (c.injection t bad).Canon :=
  .ite h (.stepEnd (.foldl h.at fun h' => h'.injectionDone))

theorem Chip.Canon.zonesOn {c : Chip} (h : c.Canon) : (c.zonesOn).Canon := h.updPm

theorem Chip.Canon.marginPlan {c : Chip} {t : Nat} {meas : List (Nat × List Nat × List Nat)} {ok : Bool} (h : c.Canon) :
    (c.marginPlan t meas ok).Canon := by
  refine .ite h (.stepEnd (.post (.planWritten (.zonesOn (.foldl (.planLand (.foldl
      (.foldl ?_ fun h' => h'.ageing) fun h' => h'.replan)) fun h' => h'.settlePoint)))))
  split
  · exact .foldl h.at.with_pm fun h' => h'.takeService
  · exact h.at.post

theorem Chip.Canon.bootMode {c : Chip} {key : Nat} (h : c.Canon) : (c.bootMode key).Canon := h.updEng.setReg

theorem Chip.Canon.bootImage {c : Chip} {t : Nat} (h : c.Canon) : (c.bootImage t).Canon := by
  refine .ite h (.stepEnd (.foldl (.foldl ?_ fun h' => h'.setPers) fun h' => h'.bootMode))
  split
  · exact h.at.rejects.with_boot
  · exact h.at.rejects.bootErr

theorem Chip.Canon.fensan {c : Chip} {t : Nat} (h : c.Canon) : (c.fensan t).Canon := by
  refine .ite h (.ite h.at.stepEnd (.ite h.at.with_boot.post.bootErr.stepEnd (.stepEnd (.foldl h.at.loadSects fun h' => ?_))))
  split
  · exact h'.setReg.createNow
  · exact h'

theorem Chip.Canon.frameZero {c : Chip} {t : Nat} (h : c.Canon) : (c.frameZero t).Canon :=
  .ite h (.foldl h.at.with_time.with_core fun h' => .ite h'.updIsl h')

theorem Chip.Canon.restartNotice {c : Chip} {i : Isl} (h : c.Canon) : (c.restartNotice i).Canon := .ite h.updIsl h

theorem Chip.Canon.islReset {c : Chip} {i : Isl} {dur : Nat} (h : c.Canon) : (c.islReset i dur).Canon := .ite h (.updIsl (h.of_cells rfl))

theorem Chip.Canon.islLoad {c : Chip} {i : Isl} {img : List Byte} (h : c.Canon) : (c.islLoad i img).Canon := .foldl h fun h' => h'.putRaw

theorem Chip.Canon.islRelease {c : Chip} {i : Isl} {silent : Bool} {a b : List Byte} (h : c.Canon) : (c.islRelease i silent a b).Canon :=
  .ite h (.ite h.updIsl.updIsl.islEvent (.ite h.updIsl.islLoad.updIsl (.ite h.updIsl.islLoad.updIsl h.updIsl.updIsl.islEvent)))

theorem Chip.Canon.islTimeFirst {c : Chip} {i : Isl} (h : c.Canon) : (c.islTimeFirst i).Canon :=
  .ite h (.ite h.with_time.updIsl.with_boot h.with_time.updIsl)

theorem Chip.Canon.stateSend {c : Chip} {t : Nat} (h : c.Canon) : (c.stateSend t).Canon := .ite h.at.with_boot h.at

theorem Chip.Canon.stateReceive {c : Chip} (h : c.Canon) : (c.stateReceive).Canon := .ite h.with_boot h

theorem Chip.Canon.standbyFail {c : Chip} {t : Nat} (h : c.Canon) : (c.standbyFail t).Canon := .ite h.at.with_boot.post h.at

theorem Chip.Canon.takeover {c : Chip} {cause : Nat} (h : c.Canon) : (c.takeover cause).Canon := by
  unfold Chip.takeover
  extract_lets last c1 _ _ _ c2 lost c3 g c4 c5
  have h1 : c1.Canon := h.rebase
  have h2 : c2.Canon := h1.of_cells rfl
  have h3 : c3.Canon := .foldl h2 fun h' => h'.postTo
  have h4 : c4.Canon := .ite h3.cfgAbort h3
  have h5 : c5.Canon := .ite h4.cfgFree h4
  exact h5.post

theorem Chip.Canon.failover {c : Chip} {t : Nat} {report : Bool} (h : c.Canon) : (c.failover t report).Canon := .ite h.at.takeover h.at

theorem Chip.Canon.keyRevoke {c : Chip} {v : Nat} (h : c.Canon) : (c.keyRevoke v).Canon := .ite h.countErr h.with_boot

/-! ## Fleet -/

theorem Chip.Canon.pkgStore {c : Chip} {ps : List Pkg} (h : c.Canon) : (c.pkgStore ps).Canon :=
  .foldl h fun h' => Memory.wf_writeBytes (Memory.wf_filter h' _) _ _

theorem Chip.Canon.pkgRefuse {c : Chip} {code id : Nat} (h : c.Canon) : (c.pkgRefuse code id).Canon := h.with_fleet.post

theorem Chip.Canon.pkgLoad {c : Chip} (h : c.Canon) : (c.pkgLoad).Canon := .ite h.countErr h.with_fleet

theorem Chip.Canon.pkgChecked {c : Chip} {flash : Bool} (h : c.Canon) : (c.pkgChecked flash).Canon :=
  .ite h (.ite h.devSense.pkgRefuse (.ite h.devSense.pkgRefuse (.ite h.devSense.pkgRefuse
    (.ite h.devSense.pkgRefuse h.devSense.pkgStore.with_fleet))))

theorem Chip.Canon.pkgDrop {c : Chip} {id : Nat} (h : c.Canon) : (c.pkgDrop id).Canon := h.pkgStore.with_fleet

theorem Chip.Canon.pkgRemove {c : Chip} {id : Nat} (h : c.Canon) : (c.pkgRemove id).Canon := .ite h.countErr h.pkgDrop.with_fleet

theorem Chip.Canon.pkgBoot {c : Chip} (h : c.Canon) : (c.pkgBoot).Canon := .foldl h.with_fleet fun h' => h'.post

theorem Chip.Canon.fensanStart {c : Chip} {t : Nat} (h : c.Canon) : (c.fensanStart t).Canon := .ite h.pkgBoot.fensan h

/-! ## EventQueues -/

theorem Chip.Canon.evqRaise {c : Chip} {q : Nat} (h : c.Canon) : (c.evqRaise q).Canon := .ite h h.with_log

theorem Chip.Canon.evqThresh {c : Chip} {q : Nat} (h : c.Canon) : (c.evqThresh q).Canon := .ite h.evqRaise h

/-- Records written one after another. -/
theorem canon_foldl_writeBytes {α : Type} {addr : α → Nat} {bytes : α → List Byte} {l : List α} {m : Memory} (h : m.wf = true) :
    (l.foldl (fun (m : Memory) a => m.writeBytes (addr a) (bytes a)) m).wf = true := by
  induction l generalizing m with
  | nil => exact h
  | cons a l ih => exact ih (Memory.wf_writeBytes h _ _)

theorem Chip.Canon.evqPut {c : Chip} {q : Nat} {slots : List (List Byte)} (h : c.Canon) : (c.evqPut q slots).Canon := by
  unfold Chip.evqPut
  extract_lets base p m p' at' m' ts
  have hm : m.wf = true := canon_foldl_writeBytes h
  have hm' : m'.wf = true := by
    unfold m'
    split
    · exact hm
    · exact Memory.wf_writeBytes hm _ _
  exact .evqThresh hm'

theorem Chip.Canon.evqRefuse {c : Chip} {q : Nat} (h : c.Canon) : (c.evqRefuse q).Canon := h.bump.with_log

theorem Chip.Canon.gallery {c : Chip} {q : Nat} {r : EvtRec} (h : c.Canon) : (c.gallery q r).Canon := .ite h.bump h

theorem Chip.Canon.evqRecord {c : Chip} {q : Nat} {r : EvtRec} (h : c.Canon) : (c.evqRecord q r).Canon :=
  .ite h.gallery.evqRefuse (.ite (.evqPut (.ite h.gallery.with_log.evqPut h.gallery)) (.evqRefuse (.ite h.gallery.with_log.evqPut h.gallery)))

theorem Chip.Canon.evqWrite {c : Chip} {q : Nat} (h : c.Canon) : (c.evqWrite q).Canon := by
  unfold Chip.evqWrite
  split
  · exact h
  · exact h.with_log.evqRecord

theorem Chip.Canon.evqCidx {c : Chip} {q v : Nat} (h : c.Canon) : (c.evqCidx q v).Canon := .ite h.countErr (.ite h.with_log.evqThresh h.with_log)

theorem Chip.Canon.evqTimer {c : Chip} {q t : Nat} (h : c.Canon) : (c.evqTimer q t).Canon := by
  unfold Chip.evqTimer
  dsimp only
  split
  · exact h.at
  · exact .ite h.at.evqRaise h.at

theorem Chip.Canon.evqCfg {c : Chip} {q v : Nat} (h : c.Canon) : (c.evqCfg q v).Canon := .ite h.countErr (.ite h.setReg.with_log h.setReg)

/-! ## Ingest -/

theorem Chip.Canon.updChan {c : Chip} {i ch : Nat} {f : Chan → Chan} (h : c.Canon) : (c.updChan i ch f).Canon := h.with_io

theorem Chip.Canon.ingestEvent {c : Chip} {i ch : Nat} {e : Ev} (h : c.Canon) : (c.ingestEvent i ch e).Canon := h.route

theorem Chip.Canon.ingestLost {c : Chip} {i ch : Nat} (h : c.Canon) : (c.ingestLost i ch).Canon :=
  .ite h.updChan (.ite h.bump.updChan.devWrite h.bump.updChan.devWrite.ingestEvent)

theorem Chip.Canon.ingestPut {c : Chip} {i ch n t : Nat} {bs : List Byte} (h : c.Canon) : (c.ingestPut i ch n t bs).Canon := by
  unfold Chip.ingestPut
  extract_lets x ring a c1 c2 c3 c4 y
  have h1 : c1.Canon := by
    refine .ite (.foldl h.devWrite fun h' => ?_) (.foldl h fun h' => h'.devWrite)
    split
    · exact h'.tagBlock
    · exact h'
  have h4 : c4.Canon := .devWrite (.devWrite (.devWrite h1.updChan))
  exact .ite h4.updChan.ingestEvent h4

theorem Chip.Canon.ingest {c : Chip} {i ch kind t flags : Nat} {spec : List (Nat × Nat × Nat)} {payload : List Byte} (h : c.Canon) :
    (c.ingest i ch kind t flags spec payload).Canon :=
  .ite h (.ite h.bump.updChan (.ite h.ingestLost h.ingestPut))

theorem Chip.Canon.ingestPoll {c : Chip} {i ch : Nat} (h : c.Canon) : (c.ingestPoll i ch).Canon := .ite h (.ite h.devSense.updChan h.devSense)

theorem Chip.Canon.ingestEnable {c : Chip} {i ch v : Nat} (h : c.Canon) : (c.ingestEnable i ch v).Canon :=
  .ite h.devSense.setReg.updChan h.devSense.countErr

theorem Chip.Canon.camClose {c : Chip} {i ch : Nat} (h : c.Canon) : (c.camClose i ch).Canon := by
  unfold Chip.camClose
  dsimp only
  split
  · exact h
  · exact h.updChan.ingest

theorem Chip.Canon.csiPacket {c : Chip} {i p v t : Nat} {k : CsiPkt} (h : c.Canon) : (c.csiPacket i p v t k).Canon := by
  refine .ite h.at ?_
  split
  · exact h.at.camClose.updChan
  · exact h.at.camClose
  · exact .ite h.at.updChan.camClose h.at.updChan

theorem Chip.Canon.ethFrame {c : Chip} {r : EthRef} {t : Nat} {f : List Byte} {good : Bool} (h : c.Canon) : (c.ethFrame r t f good).Canon := by
  unfold Chip.ethFrame
  dsimp only
  split
  · exact .ite h.at.islFlag h.at
  · refine .ite h.at ?_
    split
    · exact h.at.bump
    · exact h.at.ingest

theorem Chip.Canon.ethLink {c : Chip} {r : EthRef} {up : Bool} {speed : Nat} (h : c.Canon) : (c.ethLink r up speed).Canon := by
  unfold Chip.ethLink
  dsimp only
  split <;> exact h.setReg

theorem Chip.Canon.canFrame {c : Chip} {r : CanRef} {t : Nat} {f : CanFrame} (h : c.Canon) : (c.canFrame r t f).Canon := by
  refine .ite h.at ?_
  split
  · exact .ite (.ingest (.ite h.at h.at.canLatch)) (.ite h.at h.at.canLatch)
  · exact .islFlag (.ite h.at h.at.canLatch)

theorem Chip.Canon.gnss {c : Chip} {t : Nat} {bs : List Byte} (h : c.Canon) : (c.gnss t bs).Canon := h.at.ingest

theorem Chip.Canon.sent {c : Chip} {t : Nat} {m : SentMsg} (h : c.Canon) : (c.sent t m).Canon := by
  unfold Chip.sent
  extract_lets c1 cfg now _ c2 temp inlet outlet _ c3 _ c4
  have h1 : c1.Canon := h.at
  have h2 : c2.Canon := by
    unfold c2
    split
    · exact .ite h1.with_pm h1.with_pm
    · exact h1.with_pm
  have h3 : c3.Canon := by
    unfold c3
    cases inlet with
    | none => exact h2
    | some v => exact h2.with_pm
  have h4 : c4.Canon := by
    unfold c4
    cases outlet with
    | none => exact h3
    | some v => exact h3.with_pm
  exact .ite h1 (.ite h1.bump h4.ingest)

/-! ## IoDie -/

theorem Chip.Canon.updIo {c : Chip} {f : IoSt → IoSt} (h : c.Canon) : (c.updIo f).Canon := h.with_io

theorem Chip.Canon.flashCmd {c : Chip} {op : Nat} (h : c.Canon) : (c.flashCmd op).Canon := .ite h (.ite h.countErr (.ite h.updIo h.updIo))

theorem Chip.Canon.flashDone {c : Chip} {ok : Bool} (h : c.Canon) : (c.flashDone ok).Canon := by
  unfold Chip.flashDone
  split
  · exact h
  · exact .ite h.updIo (.ite h.updIo.updIo (h.updIo.of_writeBytes rfl))

theorem Chip.Canon.pmbusPoll {c : Chip} {k t : Nat} {mv : Option Nat} (h : c.Canon) : (c.pmbusPoll k t mv).Canon := by
  unfold Chip.pmbusPoll
  extract_lets c1
  have h1 : c1.Canon := h.at
  refine .ite h1 ?_
  split
  · exact h1
  · extract_lets c2
    have h2 : c2.Canon := h1.of_cells rfl
    exact .ite (.foldl h2 fun h' => h'.updPwr) h2

theorem Chip.Canon.freezeZone {c : Chip} {k : Nat} (h : c.Canon) : (c.freezeZone k).Canon := .foldl h fun h' => h'.updPwr

theorem Chip.Canon.pmbusLost {c : Chip} {k t : Nat} (h : c.Canon) : (c.pmbusLost k t).Canon :=
  .ite h.at (.post (.ite h.at.updIo.freezeZone h.at.updIo))

theorem Chip.Canon.timeRef {c : Chip} {off corr : Int} (h : c.Canon) : (c.timeRef off corr).Canon := h.updIo

theorem Chip.Canon.ppsEdge {c : Chip} {t : Nat} {off corr : Int} (h : c.Canon) : (c.ppsEdge t off corr).Canon :=
  .ite h.at (.ite h.at.bump.post h.at.timeRef)

theorem Chip.Canon.ptp {c : Chip} {port t : Nat} {off corr : Int} (h : c.Canon) : (c.ptp port t off corr).Canon := .ite h.at.timeRef h.at

theorem Chip.Canon.timeLost {c : Chip} {t : Nat} (h : c.Canon) : (c.timeLost t).Canon := .ite h.at.updIo.post h.at

theorem Chip.Canon.flr {c : Chip} {f : Nat} (h : c.Canon) : (c.flr f).Canon := h.freeLocksOf.with_regs.updIo

theorem Chip.Canon.linkDown {c : Chip} (h : c.Canon) : (c.linkDown).Canon := .updIo (.foldl h fun h' => h'.flr)

theorem Chip.Canon.linkUp {c : Chip} {gen width : Nat} (h : c.Canon) : (c.linkUp gen width).Canon := .ite h h.updIo

theorem Chip.Canon.zoneLow {c : Chip} {r : Nat} (h : c.Canon) : (c.zoneLow r).Canon := .foldl h fun h' => h'.updPwr.settlePoint

theorem Chip.Canon.zoneCollapse {c : Chip} {r : Nat} (h : c.Canon) : (c.zoneCollapse r).Canon := .foldl h fun h' => h'.fenceSite

theorem Chip.Canon.memRailFault {c : Chip} (h : c.Canon) : (c.memRailFault).Canon := .foldl h fun h' => h'.stackLost

theorem Chip.Canon.ioRailFault {c : Chip} (h : c.Canon) : (c.ioRailFault).Canon := h.mainReset.with_boot

theorem Chip.Canon.islRailFault {c : Chip} {i : Isl} (h : c.Canon) : (c.islRailFault i).Canon := h.islReset

theorem Chip.Canon.supplyBack {c : Chip} {zone : Option Nat} {t : Nat} (h : c.Canon) : (c.supplyBack zone t).Canon := by
  unfold Chip.supplyBack
  dsimp only
  split
  · exact .foldl h.at fun h' => h'.updPwr
  · exact .ite h.at.with_boot.nresetRelease h.at

theorem Chip.Canon.loseDie0 {c : Chip} (h : c.Canon) : c.loseDie0.Canon := by
  unfold Chip.loseDie0
  extract_lets c1 c2 c3 _ _ _ c4 c5
  have h2 : c2.Canon := .foldl h.linkDown fun h' => by
    dsimp only
    split
    · exact .fencePort h'.updPort
    · exact h'.updPort
  have h3 : c3.Canon := .foldl h2 fun h' => h'.freezeZone
  clear_value c3
  have h4 : c4.Canon := h3.of_cells rfl
  have h5 : c5.Canon := h4.updIo
  exact h5.post

theorem Chip.Canon.failoverRow {c : Chip} {t : Nat} {report die0 : Bool} (h : c.Canon) : (c.failoverRow t report die0).Canon :=
  .ite h.failover.loseDie0 h.failover

/-! ## SelfTest -/

theorem Chip.Canon.updRot {c : Chip} {row : Nat} {f : StRot → StRot} (h : c.Canon) : (c.updRot row f).Canon := h.with_rots

theorem Chip.Canon.rotAssign {c : Chip} {row : Nat} (h : c.Canon) : (c.rotAssign row).Canon := .ite h.updRot h.updRot

theorem Chip.Canon.stLanding {c : Chip} (h : c.Canon) : (c.stLanding).Canon := .ite (.foldl h fun h' => h'.rotAssign) h.post

theorem Chip.Canon.stSet {c : Chip} {key hi lo v : Nat} (h : c.Canon) : (c.stSet key hi lo v).Canon := h.setReg

theorem Chip.Canon.slotStart {c : Chip} {row t : Nat} (h : c.Canon) : (c.slotStart row t).Canon := by
  unfold Chip.slotStart
  dsimp only
  split
  · exact h.at
  · exact .ite h.at (.ite h.at.domainsOn.updRot.with_core.stSet.bump h.at.domainsOn.updRot.with_core.stSet)

theorem Chip.Canon.stRecord {c : Chip} {key : Nat} {r : StRun} {prob : Bool} (h : c.Canon) : (c.stRecord key r prob).Canon := h.sendErr

theorem Chip.Canon.probFail {c : Chip} {key : Nat} {r : StRun} {p : Pkg} (h : c.Canon) : (c.probFail key r p).Canon :=
  .ite h.bump.stRecord.pkgDrop.post h.bump.stRecord.with_fleet

theorem Chip.Canon.stOutcome {c : Chip} {key : Nat} {r : StRun} (h : c.Canon) : (c.stOutcome key r).Canon := by
  unfold Chip.stOutcome
  dsimp only
  split
  · exact h
  · exact h.probFail
  · exact h.bump.stRecord
  · split
    · exact .ite h.bump.updEng.stRecord.post.bump.dueResetAt (.ite h.bump.updEng.stRecord.post.bump.partRestart h.bump.updEng.stRecord.post.bump)
    · exact h.bump.updEng.stRecord.post.bump

theorem Chip.Canon.rotDone {c : Chip} {row : Nat} (h : c.Canon) : (c.rotDone row).Canon := h.updRot.with_fleet

theorem Chip.Canon.slotEnd {c : Chip} {row t : Nat} {runs : List StRun} {whole : Bool} (h : c.Canon) : (c.slotEnd row t runs whole).Canon := by
  unfold Chip.slotEnd
  extract_lets c1 r c2 _
  have h1 : c1.Canon := h.at
  split
  · exact h1
  · refine .ite h1 ?_
    extract_lets c3 ran good c4 c5 c6 n c7 c8 c9 q
    have h3 : c3.Canon := h1.updRot.with_core
    have h4 : c4.Canon := .ite h3.bump h3
    have h5 : c5.Canon := by
      unfold c5
      split
      · exact h4.stSet
      · exact h4
    have h6 : c6.Canon := h5.stSet
    have h7 : c7.Canon := .ite h6.stSet.stSet h6
    have h9 : c9.Canon := .domainsOff (.foldl h7 fun h' => h'.stOutcome)
    exact .ite h9.rotDone h9

/-! ## RegWrite -/

theorem Chip.Canon.readWhole {c : Chip} {k : RegKey} (h : c.Canon) : (c.readWhole k).1.Canon := by
  unfold Chip.readWhole
  split
  · split
    · exact h
    · exact h.ctlBad
  · exact .ite_fst h.countErr h

theorem Chip.Canon.settleFor {c : Chip} {k : RegKey} (h : c.Canon) : (c.settleFor k).Canon := by
  unfold Chip.settleFor
  split
  · exact h.leSettle
  · exact h

theorem Chip.Canon.regRead {c : Chip} {k : RegKey} {n : Nat} (h : c.Canon) : (c.regRead k n).1.Canon :=
  .ite_fst h.settleFor.countErr (.ite_fst h.settleFor.countErr h.settleFor.readWhole)

theorem Chip.Canon.keepWrite {c : Chip} {k : RegKey} {mask v : Nat} (h : c.Canon) : (c.keepWrite k mask v).Canon := h.setReg

theorem Chip.Canon.partStopAll {c : Chip} {p : Nat} (h : c.Canon) : (c.partStopAll p).Canon := .partStop (.ite h.freeLocksOf.updIo h)

theorem Chip.Canon.pcmdWrite {c : Chip} {p v : Nat} (h : c.Canon) : (c.pcmdWrite p v).Canon := by
  unfold Chip.pcmdWrite
  split
  · exact h.partCreate
  · exact h.partRestart
  · exact h.partStopAll

theorem Chip.Canon.cfgWrite {c : Chip} {x : Ctl} {m : Master} {off v : Nat} (h : c.Canon) : (c.cfgWrite x m off v).Canon := by
  unfold Chip.cfgWrite
  split
  · exact .ite h.cfgClaim h.cfgRelease
  · exact .ite h.cfgCheck h
  · split
    · exact h.cfgTick
    · exact h.cfgLanding
    · exact h.cfgCancel
  · exact .ite h.updCtl h.ctlBad
  · exact h.updCtl
  · exact .ite h.cfgDiscard h
  · exact h

theorem Chip.Canon.evqRegWrite {c : Chip} {m : Master} {q off mask v : Nat} (h : c.Canon) : (c.evqRegWrite m q off mask v).Canon :=
  .ite h.countErr (.ite h.evqCfg (.ite h.evqCidx (.ite h.countErr h.keepWrite)))

theorem Chip.Canon.sqTail {c : Chip} {f q v : Nat} (h : c.Canon) : (c.sqTail f q v).Canon := .ite h.countErr h.setReg

theorem Chip.Canon.fnWrite {c : Chip} {f off mask v : Nat} (h : c.Canon) : (c.fnWrite f off mask v).Canon :=
  .ite (.ite h.keepWrite h.countErr) (.ite (.ite h.keepWrite h.countErr) (.ite h.keepWrite (.ite h.sqTail (.ite h.countErr h.keepWrite))))

theorem Chip.Canon.writeDcu {c : Chip} {m : Master} {off mask v : Nat} (h : c.Canon) : (c.writeDcu m off mask v).Canon := by
  refine .ite h.cfgWrite (.ite h.evqRegWrite (.ite h.fnWrite (.ite (.ite h.pcmdWrite (.ite h.keepWrite h.countErr)) ?_)))
  split
  · exact .ite h.keepWrite.sparePrepare h.keepWrite
  · exact h.keyRevoke
  · exact .ite h.countErr h.frameCfg
  · exact .ite h.coolResume h
  · exact .ite h.effRun h
  · exact h.keepWrite.with_log
  · exact .ite h.pkgLoad h.pkgRemove
  · exact h.keepWrite

theorem Chip.Canon.writeHall {c : Chip} {m : Master} {site off mask v : Nat} (h : c.Canon) : (c.writeHall m site off mask v).Canon := by
  refine .ite (.ite h.kvptWrite (.ite h.countErr h.keepWrite)) (.ite (.ite h.hallEvtWrite (.ite h.barCountWrite h.sceneWrite)) ?_)
  split
  · exact h.suOwnerWrite
  · exact h.suQcfgWrite
  · exact h.planCtlWrite
  · exact h.keepWrite

theorem Chip.Canon.onlyEnable {c : Chip} {k : RegKey} {fld' mask v : Nat} (h : c.Canon) : (c.onlyEnable k fld' mask v).Canon :=
  .ite h.keepWrite (.ite h.keepWrite h.keepWrite.countErr)

theorem Chip.Canon.canWrite {c : Chip} {r : CanRef} {off mask v : Nat} (h : c.Canon) : (c.canWrite r off mask v).Canon :=
  .ite h.onlyEnable (.ite h.canTxWrite h.keepWrite)

theorem Chip.Canon.writeIod {c : Chip} {i : Nat} {m : Master} {off mask v : Nat} (h : c.Canon) : (c.writeIod i m off mask v).Canon :=
  .ite (.ite h.keepWrite (.ite h.countErr (.ite h.ingestEnable (.ite h.countErr h.keepWrite)))) (.ite h.canWrite (.ite h.onlyEnable (.ite
    (.ite h.flashCmd h.countErr) h.keepWrite)))

theorem Chip.Canon.writeIsl {c : Chip} {i : Isl} {m : Master} {off mask v : Nat} (h : c.Canon) : (c.writeIsl i m off mask v).Canon := by
  refine .ite h.cfgWrite (.ite h.canWrite (.ite h.onlyEnable (.ite h.leCmd (.ite (.ite h.keepWrite.updIsl h.keepWrite) ?_))))
  split
  · exact .ite h.keepWrite.siResume h.keepWrite
  · exact h.setReg
  · exact h.watchdogKey
  · exact h.leReset
  · exact .ite h.keepWrite.updIsl h.keepWrite
  · exact h.keepWrite

theorem Chip.Canon.regWrite {c : Chip} {m : Master} {k : RegKey} {n v : Nat} (h : c.Canon) : (c.regWrite m k n v).Canon := by
  refine .ite h.settleFor.countErr ?_
  split
  · exact h.settleFor.countErr
  · refine .ite ?_ ?_
    · split
      · exact h.settleFor.bump
      · exact h.settleFor
    · split
      · exact h.settleFor.countErr
      · exact h.settleFor.wsWrite
      · refine .ite h.settleFor.countErr ?_
        split
        · exact h.settleFor.writeDcu
        · exact h.settleFor.writeHall
        · exact h.settleFor.writeIod
        · exact h.settleFor.keepWrite
        · split
          · exact h.settleFor.coefWrite
          · exact h.settleFor.writeIsl

/-! ## Bus -/

theorem Chip.Canon.setAccWord {c : Chip} {site w : Nat} {v : W32} (h : c.Canon) : (c.setAccWord site w v).Canon := by
  unfold Chip.setAccWord
  dsimp only
  split
  · exact h.updCtx
  · exact h.with_core

theorem Chip.Canon.accWrite {c : Chip} {site o : Nat} {bs : List Byte} (h : c.Canon) : (c.accWrite site o bs).Canon :=
  .foldl h fun h' => h'.setAccWord

theorem Chip.Canon.accLoad {c : Chip} {site off n : Nat} (h : c.Canon) : (c.accLoad site off n).1.Canon := .ite_fst h.sense h.bump

theorem Chip.Canon.accStore {c : Chip} {site off : Nat} {bs : List Byte} (h : c.Canon) : (c.accStore site off bs).1.Canon :=
  .ite_fst (.ite_fst h.senseParts.accWrite.dropErrs h.senseParts.bump) h.bump

theorem Chip.Canon.islSense {c : Chip} {i : Isl} {a n : Nat} (h : c.Canon) : (c.islSense i a n).1.Canon :=
  .foldl h fun h' => .ite h'.islErr h'.settleWord.islErr

theorem Chip.Canon.busReadPage {c : Chip} {a n : Nat} (h : c.Canon) : (c.busReadPage a n).1.Canon := by
  unfold Chip.busReadPage
  dsimp only
  split
  · exact h.sense
  · exact h.accLoad
  · exact h.aliasRead
  · exact .ite_fst h (.ite_fst h.countErr h.regRead)
  · exact h
  · exact .ite_fst h.islSense (.ite_fst h.regRead h.countErr)
  · exact h.countErr
  · exact h.bump

theorem Chip.Canon.flashBufWrite {c : Chip} {o : Nat} {bs : List Byte} (h : c.Canon) : (c.flashBufWrite o bs).Canon := h.updIo

theorem Chip.Canon.busWritePage {c : Chip} {m : Master} {a : Nat} {bs : List Byte} (h : c.Canon) : (c.busWritePage m a bs).1.Canon := by
  unfold Chip.busWritePage
  dsimp only
  split
  · exact h.putBus
  · exact h.accStore
  · exact .ite_fst h.aliasWrite.bump h.aliasWrite
  · exact .ite_fst h.flashBufWrite (.ite_fst h.countErr h.regWrite)
  · exact h.countErr
  · exact .ite_fst (.ite_fst (.ite_fst h.putBus h.putBus.bump) h.bump) (.ite_fst h.regWrite h.bump)
  · exact h.countErr
  · exact h.bump

theorem Chip.Canon.busRead {c : Chip} {a n : Nat} (h : c.Canon) : (c.busRead a n).1.Canon := .foldl_fst h fun h' => h'.busReadPage

theorem Chip.Canon.busWrite {c : Chip} {m : Master} {a : Nat} {bs : List Byte} (h : c.Canon) : (c.busWrite m a bs).1.Canon :=
  .foldl_fst h fun h' => h'.busWritePage

theorem Chip.Canon.missed {c : Chip} {a : Nat} (h : c.Canon) : (c.missed a).Canon := by
  unfold Chip.missed
  split
  · exact h.countErr
  · exact h.countErr
  · exact h.bump
  · exact .ite h h.bump
  · exact h

theorem Chip.Canon.registerWrite {c : Chip} {m : Master} {a : Nat} {wide : Bool} {v : Nat} (h : c.Canon) : (c.registerWrite m a wide v).Canon := by
  unfold Chip.registerWrite
  dsimp only
  split
  · exact h.bump
  · split
    · exact .ite h.regWrite h
    · split
      · exact .ite h.countErr h.regWrite
      · exact .ite h.regWrite h.missed
      · exact h.missed

theorem Chip.Canon.badAccess {c : Chip} {m : Master} {a n : Nat} (h : c.Canon) : (c.badAccess m a n).Canon := by
  unfold Chip.badAccess
  dsimp only
  split
  · exact h.bump
  · split
    · exact .ite (.ite h.countErr h) h
    · split
      · exact .ite h.countErr (.ite h.countErr h)
      · exact .ite (.ite h.countErr h) h.missed
      · exact h
      · exact h.missed

theorem Chip.Canon.smbusRead {c : Chip} {a : Nat} (h : c.Canon) : (c.smbusRead a).Canon := by
  unfold Chip.smbusRead
  split
  · split
    · exact .ite h.countErr h.regRead
    · exact .ite h.countErr h.regRead
    · exact h
  · exact h.countErr
  · exact h.bump
  · exact h

/-! ## Host -/

theorem Chip.Canon.fnErr {c : Chip} {f : Nat} (h : c.Canon) : (c.fnErr f).Canon := h.bump

theorem Chip.Canon.hostTag {c : Chip} {f a n : Nat} (h : c.Canon) : (c.hostTag f a n).Canon := by
  refine .foldl h fun h' => ?_
  split
  · exact h'.tagBlock
  · exact .ite h' h'.tagBlock
  · exact h'

theorem Chip.Canon.bar2Read {c : Chip} {f x n : Nat} (h : c.Canon) : (c.bar2Read f x n).Canon := by
  unfold Chip.bar2Read
  extract_lets a
  refine .ite h.fnErr ?_
  have hread := h.busRead (a := a) (n := n)
  split
  next c1 _ st heq =>
    rw [heq] at hread
    exact .ite hread.fnErr hread

theorem Chip.Canon.hostWrite {c : Chip} {f : Fin 16} {a : Nat} {bs : List Byte} (h : c.Canon) : (c.hostWrite f a bs).1.Canon :=
  .ite_fst h (.foldl_fst h fun h' => .ite h'.busWritePage.hostTag h'.busWritePage)

theorem Chip.Canon.bar2Write {c : Chip} {f : Fin 16} {x : Nat} {bs : List Byte} (h : c.Canon) : (c.bar2Write f x bs).Canon :=
  .ite h.hostWrite.fnErr h.hostWrite

theorem Chip.Canon.windowAccess {c : Chip} {f : Fin 16} {w x n : Nat} {wr : Option Nat} (h : c.Canon) : (c.windowAccess f w x n wr).Canon := by
  refine .ite h.fnErr ?_
  split
  · split
    · exact h.busWrite
    · exact h.busRead
  · split
    · exact h.busWrite
    · exact h.busRead
  · refine .ite h.fnErr ?_
    split
    · exact h.busWrite
    · exact h.busRead

theorem Chip.Canon.commandFetch {c : Chip} {f q : Nat} {e : List Byte} (h : c.Canon) : (c.commandFetch f q e).Canon := .ite h h.updIo

theorem Chip.Canon.hostRun {c : Chip} {f q opc cid : Nat} {act : Chip → HostCmd → Chip × Nat × Nat × Nat} (h : c.Canon) (h' : ∀ {c' a1}, c'.Canon →
    (act c' a1).1.Canon) : (c.hostRun f q opc cid act).Canon := by
  unfold Chip.hostRun
  dsimp only
  split
  · exact h
  · exact .updIo (.ite_fst h (.ite_fst h (h' h)))

theorem Chip.Canon.hostNop {c : Chip} {f q cid : Nat} (h : c.Canon) : (c.hostNop f q cid).Canon := h.hostRun fun h' => h'

theorem Chip.Canon.hostStore {c : Chip} {f : Fin 16} {a : Nat} {bs : List Byte} (h : c.Canon) : (c.hostStore f a bs).1.Canon :=
  .ite_fst h (.foldl_fst h fun h' => .ite_fst (.ite_fst h'.busWrite.hostTag h'.busWrite) h')

theorem Chip.Canon.copyH2D {c : Chip} {f : Fin 16} {q cid : Nat} {data : List Byte} (h : c.Canon) : (c.copyH2D f q cid data).Canon :=
  .ite h (h.hostRun fun h' => h'.hostStore)

theorem Chip.Canon.hostFill {c : Chip} {f : Fin 16} {q cid : Nat} (h : c.Canon) : (c.hostFill f q cid).Canon := h.hostRun fun h' => h'.hostStore

theorem Chip.Canon.copyD2H {c : Chip} {f : Fin 16} {q cid : Nat} (h : c.Canon) : (c.copyD2H f q cid).Canon :=
  .hostRun h fun h => .ite_fst h (.foldl_fst h fun h => .ite_fst (.ite_fst (h.busRead.of_writeBytes rfl) h.busRead) h)

theorem Chip.Canon.hostRegWr {c : Chip} {f : Fin 16} {q cid : Nat} (h : c.Canon) : (c.hostRegWr f q cid).Canon :=
  h.hostRun fun h' => .ite_fst h'.busWritePage h'

theorem Chip.Canon.hostRegRd {c : Chip} {f : Fin 16} {q cid : Nat} (h : c.Canon) : (c.hostRegRd f q cid).Canon :=
  h.hostRun fun h' => .ite_fst h'.busReadPage h'

theorem Chip.Canon.hostEvtSet {c : Chip} {f : Fin 16} {q cid : Nat} (h : c.Canon) : (c.hostEvtSet f q cid).Canon := by
  refine h.hostRun fun h' => ?_
  split
  · exact h'.evtSet
  · exact h'

theorem Chip.Canon.cmdDone {c : Chip} {f q cid : Nat} (h : c.Canon) : (c.cmdDone f q cid).Canon := by
  unfold Chip.cmdDone
  dsimp only
  split
  · exact h
  · exact .ite h.updIo h.updIo.postTo

/-! ## IslandCore -/

theorem IKeeps.ineed {b : Bool} {code : Nat} : IKeeps (ineed b code) := .ite (.pure _) .itrap

theorem IKeeps.ichecks {l : List (Bool × Nat)} : IKeeps (ichecks l) := by
  unfold Machine.ichecks
  split
  · exact .pure _
  · exact .itrap

theorem IKeeps.iget {i : Isl} : IKeeps (iget i) := .get fun _ => .pure _

theorem IKeeps.iset {i : Isl} {f : IslSt → IslSt} : IKeeps (iset i f) := .modify fun h => h.updIsl

theorem IKeeps.igetS {i : Isl} {n : Nat} : IKeeps (igetS i n) := .bind .iget (.pure _)

theorem IKeeps.isetS {i : Isl} {n : Nat} {v : W64} : IKeeps (isetS i n v) := .ite (.pure _) .iset

theorem IKeeps.isetP {i : Isl} {n : Nat} {b : Bool} : IKeeps (isetP i n b) := .iset

theorem IKeeps.iblk {i : Isl} {f : IBlock → IBlock} : IKeeps (iblk i f) := .iset

theorem IKeeps.iprologue {i : Isl} {d : IDesc} {e : Enc} : IKeeps (iprologue i d e) := by
  refine .bind .iget (.bind .ichecks (.bind .ichecks fun {_} => ?_))
  dsimp only
  split
  · exact .bind .ineed (.bind .iblk (.bind .iset (.pure _)))
  · exact .bind .iset (.pure _)

theorem Chip.Canon.islInstr {c : Chip} {i : Isl} {d : IDesc} {e : Enc} {body : Isl → IEx Unit} (h : c.Canon) (hb : ∀ {i}, IKeeps (body i)) :
    (c.islInstr i d e body).Canon := by
  have hrun : IKeeps (do if ← iprologue i d e then body i else Pure.pure () : IEx Unit) := .bind .iprologue (.ite hb (.pure _))
  unfold Chip.islInstr
  refine .ite ?_ h
  split
  · next heq => exact hrun.ok h heq
  · next heq => exact (hrun.error h heq).islTrap

theorem Chip.Canon.islIllegal {c : Chip} {i : Isl} (h : c.Canon) : (c.islIllegal i).Canon := .ite h.islTrap h

theorem IKeeps.irecord {i : Isl} {val : Nat} : IKeeps (irecord i val) := by
  refine .bind .iget fun {_} => ?_
  split
  · exact .pure _
  · exact .bind .ineed .iset

theorem IKeeps.irecorded {i : Isl} {act : IEx Nat} (h : IKeeps act) : IKeeps (irecorded i act) := by
  refine .bind .iget fun {_} => ?_
  split
  · exact h
  · exact .ite (.bind h (.bind .irecord (.pure _))) (.bind .iblk (.pure _))

theorem IKeeps.islBytes {i : Isl} {a n : Nat} : IKeeps (islBytes i a n) := by
  refine .get fun h => .ite ?_ ?_
  · dsimp only
    exact .bind (.set h.islSense) (.ite .itrap (.pure _))
  · dsimp only
    exact .bind (.set h.regRead) (.pure _)

theorem IKeeps.iload {i : Isl} {a n : Nat} : IKeeps (iload i a n) := by
  refine .bind .ineed (.bind .iget (.ite (.irecorded (.bind .islBytes (.bind .iget fun {_} => ?_))) (.bind .islBytes (.bind .iget fun {_} => ?_))))
  · split <;> exact .pure _
  · split <;> exact .pure _

theorem Chip.Canon.islStoreNow {c : Chip} {i : Isl} {a : Nat} {bs : List Byte} (h : c.Canon) : (c.islStoreNow i a bs).Canon :=
  .ite h.putRaw h.regWrite

theorem IKeeps.ifeed {i : Isl} {bs : List Byte} : IKeeps (ifeed i bs) := .iblk

theorem IKeeps.islMerge {i : Isl} {a n : Nat} : IKeeps (islMerge i a n) := by
  refine .ite (.get fun h => ?_) (.pure _)
  dsimp only
  exact .bind (.set h.islSense) .ineed

theorem IKeeps.istore {i : Isl} {a : Nat} {bs : List Byte} : IKeeps (istore i a bs) := by
  refine .bind .ineed (.bind .islMerge (.bind .iget fun {_} => ?_))
  split
  · exact .modify fun h => h.islStoreNow
  · exact .bind .ineed (.bind .iblk .ifeed)

theorem IKeeps.ialu {sub : Nat} {e : Enc} {i : Isl} : IKeeps (ialu sub e i) := .bind .igetS (.bind .igetS .isetS)

theorem IKeeps.ialui {sub : Nat} {e : Enc} {i : Isl} : IKeeps (ialui sub e i) := .bind .igetS .isetS

theorem IKeeps.ili {e : Enc} {i : Isl} : IKeeps (ili e i) := .isetS

theorem IKeeps.ild {sub : Nat} {e : Enc} {i : Isl} : IKeeps (ild sub e i) := .bind .igetS (.bind .iload .isetS)

theorem IKeeps.ist {sub : Nat} {e : Enc} {i : Isl} : IKeeps (ist sub e i) := .bind .igetS (.bind .igetS .istore)

theorem IKeeps.icmp {sub : Nat} {e : Enc} {i : Isl} : IKeeps (icmp sub e i) := .bind .igetS (.bind .igetS .isetP)

theorem IKeeps.icmpi {sub : Nat} {e : Enc} {i : Isl} : IKeeps (icmpi sub e i) := .bind .igetS .isetP

theorem IKeeps.iplog {sub : Nat} {e : Enc} {i : Isl} : IKeeps (iplog sub e i) := .bind .iget .isetP

theorem IKeeps.ibranch {i : Isl} {a : Nat} : IKeeps (ibranch i a) := .bind .iget (.bind .ineed (.bind .ineed .iset))

theorem IKeeps.ibr {e : Enc} {i : Isl} : IKeeps (ibr e i) := .bind .iget .ibranch

theorem IKeeps.icall {e : Enc} {i : Isl} : IKeeps (icall e i) := .bind .iget (.bind .isetS .ibranch)

theorem IKeeps.ijr {e : Enc} {i : Isl} : IKeeps (ijr e i) := .bind .igetS .ibranch

theorem IKeeps.ijrl {e : Enc} {i : Isl} : IKeeps (ijrl e i) := .bind .igetS (.bind .iget (.bind .isetS .ibranch))

theorem IKeeps.imfsCsw {e : Enc} {i : Isl} : IKeeps (imfsCsw e i) := .bind .iget .isetS

theorem IKeeps.imfsDevtime {e : Enc} {i : Isl} : IKeeps (imfsDevtime e i) := .bind (.irecorded (.get fun _ => .pure _)) .isetS

theorem IKeeps.imfsIaddr {e : Enc} {i : Isl} : IKeeps (imfsIaddr e i) := .bind .iget .isetS

theorem IKeeps.iend {i : Isl} : IKeeps (iend i) := .bind .iget (.bind .ineed .iset)

theorem IKeeps.iflag {i : Isl} {e : Enc} : IKeeps (iflag i e) := .bind .igetS (.bind .ineed (.pure _))

theorem IKeeps.ihold {i : Isl} {sub : Nat} {ops : List W64} : IKeeps (ihold i sub ops) := .bind .iblk .ifeed

theorem Chip.Canon.islHeld {c : Chip} {i : Isl} {q : Held} (h : c.Canon) : (c.islHeld i q).Canon := by
  unfold Chip.islHeld
  dsimp only
  split
  · exact h.islFlag
  · exact h.updIsl
  · exact h.ringPut

theorem IKeeps.ievtDo {i : Isl} {sub : Nat} {ops : List W64} : IKeeps (ievtDo i sub ops) := .bind .iget (.ite .ihold (.modify fun h => h.islHeld))

theorem IKeeps.ievtSet {clr : Bool} {e : Enc} {i : Isl} : IKeeps (ievtSet clr e i) := .bind .iflag .ievtDo

theorem IKeeps.ievtPost {e : Enc} {i : Isl} : IKeeps (ievtPost e i) := .bind .igetS (.bind .igetS .ievtDo)

theorem IKeeps.ievtWait {e : Enc} {i : Isl} : IKeeps (ievtWait e i) :=
  .bind .iflag (.bind .iget (.ite (.bind (.irecorded (.pure _)) (.pure _)) (.bind .ineed .iset)))

theorem IKeeps.iwaitt {e : Enc} {i : Isl} : IKeeps (iwaitt e i) :=
  .bind .igetS (.get fun _ => .ite (.bind (.irecorded (.pure _)) .isetS) (.bind .ineed .iset))

theorem Chip.Canon.islWaittResume {c : Chip} {i : Isl} (h : c.Canon) : (c.islWaittResume i).Canon := by
  unfold Chip.islWaittResume
  dsimp only
  split
  · exact .ite h.updIsl h
  · exact h

theorem IKeeps.ichkb {e : Enc} {i : Isl} : IKeeps (ichkb e i) := .bind .iget (.bind .ineed .iset)

theorem Chip.Canon.islCommit {c : Chip} {i : Isl} {b : IBlock} {p : IPass} (h : c.Canon) : (c.islCommit i b p).Canon :=
  .foldl (.foldl h.updIsl fun h' => h'.islStoreNow) fun h' => h'.islHeld

theorem IKeeps.ichke {i : Isl} : IKeeps (ichke i) := by
  refine .bind .iget (.bind .ineed (.bind .ifeed (.bind .iblk (.bind .iget fun {_} => ?_))))
  split
  · exact .pure _
  · dsimp only
    split
    · exact .iset
    · exact .ite (.modify fun h => h.islCommit) .iset
    · exact .ite (.modify fun h => h.bump.islCommit) .itrap
    · exact .pure _

theorem Chip.Canon.either {c : Chip} {x : Exr} {d : IDesc} {e : Enc} {body : Nat → Ex Unit} (h : c.Canon) (hb : ∀ {k}, Keeps (body k)) :
    (c.either x d e body none).Canon := by
  cases x with
  | ctx r => exact h.instr hb
  | isl i => exact h.islIllegal

/-- The same where Eflia-S has the instruction too. -/
theorem Chip.Canon.eitherIsl {c : Chip} {x : Exr} {d : IDesc} {e : Enc} {body : Nat → Ex Unit} {isl : Isl → IEx Unit} (h : c.Canon)
    (hb : ∀ {k}, Keeps (body k)) (hi : ∀ {i}, IKeeps (isl i)) : (c.either x d e body (some isl)).Canon := by
  cases x with
  | ctx r => exact h.instr hb
  | isl i => exact h.islInstr hi

/-! ## Landing -/

theorem Chip.Canon.moveContexts {c : Chip} {n : Nat} (h : c.Canon) : (c.moveContexts n).Canon := by
  refine .foldl (.foldl h fun h' => .ite (.ite h'.updCtx h'.updCtx.applyMove) h') fun h' => ?_
  split
  · exact .ite h'.updSaved.frameDone h'
  · exact h'

theorem Chip.Canon.frameStarts {c : Chip} {n : Nat} (h : c.Canon) : (c.frameStarts n).Canon := .with_time (.ite h.at h.at.with_boot)

theorem Chip.Canon.scheduleIsl {c : Chip} {i : Isl} (h : c.Canon) : (c.scheduleIsl i).Canon := .ite h.updIsl h

theorem Chip.Canon.detachAll {c : Chip} {n : Nat} (h : c.Canon) : (c.detachAll n).Canon := .foldl h fun h' => h'.kvDetach

theorem Chip.Canon.landingStart {c : Chip} (h : c.Canon) : (c.landingStart).Canon :=
  .ite h.frameStarts.cfgLand.planLand.scenesLand.disarmStale.detachAll.moveContexts.landResume.startContexts.stLanding.keepGuards.scheduleIsl.scheduleIsl h

theorem Chip.Canon.landingMove {c : Chip} {k : Nat} (h : c.Canon) : (c.landingMove k).Canon := .ite h.applyMove h

theorem Chip.Canon.overrunSaved {c : Chip} {key : Nat × Nat} (h : c.Canon) : (c.overrunSaved key).Canon := by
  unfold Chip.overrunSaved
  split
  · exact h
  · exact h.sendErr.post.updSaved.frameDone

theorem Chip.Canon.commitDeadline {c : Chip} {n : Nat} (h : c.Canon) : (c.commitDeadline n).Canon :=
  .ite (.foldl (.foldl h.at fun h' => h'.frameOverrun) fun h' => h'.overrunSaved) h

theorem Chip.Canon.scheduleDelivery {c : Chip} {site : Nat} (h : c.Canon) : (c.scheduleDelivery site).Canon := .ite h.scheduleTo h

theorem Chip.Canon.devtimeTo {c : Chip} {die : Nat} {off : Int} (h : c.Canon) : (c.devtimeTo die off).Canon :=
  .ite h (.ite (.ite h (.timeToIsl (.ite h h.setOffset))) h.setOffset)

/-! ## Scrub -/

theorem Chip.Canon.markDly {c : Chip} {w : Nat} (h : c.Canon) : (c.markDly w).Canon := by
  refine .ite ?_ h
  dsimp only
  split
  · exact h.setCtx
  · exact h

theorem Chip.Canon.writeBack {c : Chip} {w : Nat} (h : c.Canon) : (c.writeBack w).Canon := .ite h.settleWord.markDly h

theorem Chip.Canon.patrolScrub {c : Chip} {who upset : Nat} (h : c.Canon) : (c.patrolScrub who upset).Canon := by
  refine .ite h (.ite (.setReg ?_) ?_)
  · split
    · exact h.with_mem rfl
    · exact .markDly (.senseWord (.with_mem (.writeBack (h.with_mem rfl)) rfl))
  · split
    · exact h.with_mem rfl
    · exact .markDly (.senseWord (.with_mem (.writeBack (h.with_mem rfl)) rfl))

/-! ## Commands -/

theorem Chip.Canon.timeFor {c : Chip} {w : Waiter} {t : Nat} (h : c.Canon) : (c.timeFor w t).Canon := by
  unfold Chip.timeFor
  split
  · exact h.at.timeReached
  · exact h.at.islWaittResume

theorem Chip.Canon.requestIssue {c : Chip} {die : Nat} {q : ReqIssue} {t : Nat} (h : c.Canon) : (c.requestIssue die q t).Canon := by
  unfold Chip.requestIssue
  split
  · exact h.newRequest
  · exact h.issueHeld

theorem Chip.Canon.heatSample {c : Chip} {d : HeatDie} {rs : List (Int × Bool)} {t : Nat} (h : c.Canon) : (c.heatSample d rs t).Canon := by
  unfold Chip.heatSample
  split
  · exact h.temperature
  · exact h.islTemperature

theorem Chip.Canon.clockTrap {c : Chip} {i : Isl} (h : c.Canon) : (c.clockTrap i).Canon := .ite h.islTrap h

theorem Chip.Canon.wsRow {c : Chip} {m : Master} {a : Nat} {wide : Bool} {v : Nat} (h : c.Canon) : (c.wsRow m a wide v).Canon := by
  unfold Chip.wsRow
  split
  · exact .ite h.registerWrite h
  · exact h

/-! ## State -/

/-! ## ErrorLog -/

theorem Chip.Canon.errCount {c : Chip} {r : ErrRec} (h : c.Canon) : (c.errCount r).Canon := by
  unfold Chip.errCount
  split
  · exact h
  · exact h.with_log.cluster

theorem Chip.Canon.errDeliver {c : Chip} {r : ErrRec} (h : c.Canon) : (c.errDeliver r).Canon :=
  .ite h.with_log.errCount (.ite h.with_log.errCount.bump h.with_log.errCount.postTo)

theorem Chip.Canon.errIntake {c : Chip} (h : c.Canon) : (c.errIntake).Canon := by
  unfold Chip.errIntake
  split
  · exact h
  · exact .ite (.ite h.with_log.with_log (.ite h.with_log.with_log h.with_log.bump)) (.ite h.with_log.with_log.errDeliver h.with_log.with_log)

theorem Chip.Canon.errPeriod {c : Chip} (h : c.Canon) : (c.errPeriod).Canon :=
  .foldl (.with_log (.foldl h.with_log fun h' => h'.errDeliver)) fun h' => h'.errDeliver

/-! ## Tensor -/

theorem Keeps.readC {k : Nat} {e : Enc} {od : Desc} : Keeps (readC k e od) := .ite (.pure _) (.bind .descAt (.bind .readF32 (.pure _)))

theorem Keeps.readMeta {k : Nat} {b : Desc} : Keeps (readMeta k b) := .bind (.mapM .rdPol) (.pure _)

theorem Keeps.matRead {k : Nat} {sparse : Bool} {e : Enc} {a b : Desc} : Keeps (matRead k sparse e a b) :=
  .bind .readTensor (.ite (.bind .readRaw (.bind .readMeta (.pure _))) (.bind .readTensor (.pure _)))

theorem Keeps.convRead {k : Nat} {sparse dw : Bool} {e : Enc} {a b : Desc} : Keeps (convRead k sparse dw e a b) :=
  .bind .readTensor (.ite (.bind .readRaw (.bind .readMeta (.pure _))) (.bind .readTensor (.pure _)))

theorem Keeps.read {o : MacOp} {k : Nat} {e : Enc} {a b : Desc} : Keeps (MacOp.read o k e a b) := by
  unfold Machine.MacOp.read
  split
  · exact .matRead
  · exact .matRead
  · exact .convRead
  · exact .convRead
  · exact .convRead

theorem Keeps.prodWrite {o : MacOp} {e : Enc} {k : Nat} : Keeps (prodWrite o e k) :=
  .bind .descAt (.bind .descAt (.bind .descAt (.get fun _ => .get fun _ => .bind .checksAt (.bind .read (.bind .readC (.bind .ctxOf
    (.bind .writeTensor (.bind .updC .finishFlags))))))))

theorem Keeps.senseTiles {k : Nat} {keys : List Nat} : Keeps (senseTiles k keys) := by
  intro c hc
  unfold Machine.senseTiles
  split
  · exact hc
  · exact Keeps.forM .senseEx c hc

theorem Chip.Canon.cleanTiles {c : Chip} {k : Nat} {keys : List Nat} (h : c.Canon) : (c.cleanTiles k keys).Canon :=
  .ite h (.foldl h fun h' => h'.dropErrs)

theorem Keeps.prodAcc {o : MacOp} {e : Enc} {k : Nat} : Keeps (prodAcc o e k) :=
  .bind .descAt (.bind .descAt (.bind .descAt (.get fun _ => .get fun _ => .bind .checksAt (.bind .read (.bind .ctxOf (.bind .senseTiles
    (.bind .updC (.bind (.modify fun h'' => h''.cleanTiles) .finishFlags))))))))

theorem Keeps.accstBody {e : Enc} {k : Nat} : Keeps (accstBody e k) :=
  .bind .descAt (.get fun _ => .get fun _ => .bind .checksAt (.bind .readC (.bind .ctxOf (.bind .senseTiles (.ite (.bind .elemCells
    (.bind .emit .finishFlags)) (.bind .writeTensor .finishFlags))))))

theorem Keeps.accldBody {e : Enc} {k : Nat} : Keeps (accldBody e k) :=
  .bind .descAt (.get fun _ => .get fun _ => .bind .checksAt (.bind .readRaw (.bind .ctxOf (.bind .senseTiles (.bind .updC (.bind
    (.modify fun h'' => h''.cleanTiles) .finishFlags))))))

/-! ## TensorOps -/

theorem Keeps.twoOps {k : Nat} {e : Enc} {okShape : Desc → Desc → Bool} {inplaceOk : Bool} {more : List Desc} {all : Bool × Bool} {masked : Bool} :
    Keeps (twoOps k e okShape inplaceOk more all masked) :=
  .bind .descAt (.bind .descAt (.get fun _ => .bind .checksAt (.pure _)))

theorem Keeps.storeT {k : Nat} {e : Enc} {d : Desc} {vals : List (Option FV)} {f : NumFlags} : Keeps (storeT k e d vals f) :=
  .bind .ctxOf (.bind .writeTensor .finishFlags)

theorem Keeps.reduceOps {sub : Nat} {e : Enc} {k : Nat} : Keeps (reduceOps sub e k) := .twoOps

theorem Keeps.reduceBody {sub : Nat} {e : Enc} {k : Nat} : Keeps (reduceBody sub e k) := by
  refine .bind .reduceOps fun {_} => ?_
  dsimp only
  exact .bind .readF32 (.ite (.bind .ctxOf (.bind .elemCells (.bind .emit .finishFlags))) .storeT)

theorem Keeps.sameOps {e : Enc} {k : Nat} {inplaceOk masked : Bool} : Keeps (sameOps e k inplaceOk masked) := .twoOps

theorem Keeps.softmaxBody {log : Bool} {e : Enc} {k : Nat} : Keeps (softmaxBody log e k) := by
  refine .bind .sameOps fun {_} => ?_
  dsimp only
  exact .bind .readF32 (.bind .ctxOf (.bind .writeTensor .finishFlags))

theorem Keeps.normOps {layer : Bool} {e : Enc} {k : Nat} : Keeps (normOps layer e k) := by
  refine .bind .descAt (.bind .twoOps fun {_} => ?_)
  dsimp only
  exact .pure _

theorem Keeps.normBody {layer : Bool} {e : Enc} {k : Nat} : Keeps (normBody layer e k) := by
  refine .bind .normOps fun {_} => ?_
  dsimp only
  exact .bind .readF32 (.bind .readF32 .storeT)

theorem Keeps.readIdx {k : Nat} {b : Desc} : Keeps (readIdx k b) := .readRaw

theorem Keeps.gatherOps {e : Enc} {k : Nat} : Keeps (gatherOps e k) := by
  refine .bind .descAt (.bind .twoOps fun {_} => ?_)
  dsimp only
  exact .pure _

theorem Keeps.gatherBody {e : Enc} {k : Nat} : Keeps (gatherBody e k) := by
  refine .bind .gatherOps fun {_} => ?_
  dsimp only
  exact .bind .readIdx (.bind .readF32On .storeT)

theorem Keeps.scatterOps {e : Enc} {k : Nat} : Keeps (scatterOps e k) := by
  refine .bind .descAt (.bind .twoOps fun {_} => ?_)
  dsimp only
  exact .pure _

theorem Keeps.scatterBody {add : Bool} {e : Enc} {k : Nat} : Keeps (scatterBody add e k) := by
  refine .bind .scatterOps fun {_} => ?_
  dsimp only
  exact .bind .readF32 (.bind .readIdx (.ite (.bind .readF32On .storeT) (.bind (.pure _) .storeT)))

theorem Keeps.transposeOps {e : Enc} {k : Nat} : Keeps (transposeOps e k) := .twoOps

theorem Keeps.transposeBody {e : Enc} {k : Nat} : Keeps (transposeBody e k) := by
  refine .bind .transposeOps fun {_} => ?_
  dsimp only
  exact .bind .readF32 .storeT

theorem Keeps.convertBody {e : Enc} {k : Nat} : Keeps (convertBody e k) := by
  refine .bind .sameOps fun {_} => ?_
  dsimp only
  exact .bind .readF32 .storeT

theorem Keeps.ewBody {sub : Nat} {e : Enc} {k : Nat} : Keeps (ewBody sub e k) :=
  .bind .descAt (.bind .descAt (.bind .descAt (.get fun _ => .get fun _ => .bind .checksAt (.bind .readF32 (.ite (.bind (.pure _) (.bind .ctxOf
    (.bind .writeTensor .finishFlags))) (.bind .readF32 (.bind .ctxOf (.bind .writeTensor .finishFlags))))))))

/-! ## Vector -/

theorem Keeps.setV {k : Nat} {e : Enc} {f : Nat → W32} : Keeps (setV k e f) := .updC

theorem Keeps.vldBody {e : Enc} {k : Nat} : Keeps (vldBody e k) := .bind .getS (.bind .need (.bind .rd .setV))

theorem Keeps.vldBcBody {e : Enc} {k : Nat} : Keeps (vldBcBody e k) := .bind .getS (.bind .need (.bind .rd .setV))

theorem Keeps.vstBody {e : Enc} {k : Nat} : Keeps (vstBody e k) := .bind .getS (.bind .need (.bind .ctxOf .emit))

theorem Keeps.varithBody {sub : Nat} {e : Enc} {k : Nat} : Keeps (varithBody sub e k) := .bind .ctxOf .setV

theorem Keeps.vabsBody {e : Enc} {k : Nat} : Keeps (vabsBody e k) := .bind .ctxOf .setV

theorem Keeps.vnegBody {e : Enc} {k : Nat} : Keeps (vnegBody e k) := .bind .ctxOf .setV

theorem Keeps.vactBody {sub : Nat} {e : Enc} {k : Nat} : Keeps (vactBody sub e k) := .bind .ctxOf .setV

theorem Keeps.vcmpBody {sub : Nat} {e : Enc} {k : Nat} : Keeps (vcmpBody sub e k) := .bind .ctxOf .setV

theorem Keeps.vselBody {e : Enc} {k : Nat} : Keeps (vselBody e k) := .bind .ctxOf .setV

theorem Keeps.vcvtFIBody {e : Enc} {k : Nat} : Keeps (vcvtFIBody e k) := .bind .ctxOf .setV

theorem Keeps.vcvtIFBody {e : Enc} {k : Nat} : Keeps (vcvtIFBody e k) := .bind .ctxOf .setV

theorem Keeps.vredBody {sub : Nat} {e : Enc} {k : Nat} : Keeps (vredBody sub e k) := .bind .ctxOf .updC

theorem Keeps.vbcastBody {e : Enc} {k : Nat} : Keeps (vbcastBody e k) := .bind .getS .setV

/-! ## Dispatch and step -/

/-- Every command leaves a block in canonical form. -/
theorem exec_canon {s : State} (h : s.toChip.Canon) : ∀ i, ∃ c, exec i s = .next (s.withChip c) ∧ c.Canon
  | .registerWrite .. => ⟨_, rfl, h.registerWrite⟩
  | .badRegisterAccess .. => ⟨_, rfl, h.badAccess⟩
  | .landingStart .. => ⟨_, rfl, h.landingStart⟩
  | .kvReclaimSplice .. => ⟨_, rfl, h.kvReclaim⟩
  | .contextLandingMove .. => ⟨_, rfl, h.landingMove⟩
  | .commitDeadline .. => ⟨_, rfl, h.commitDeadline⟩
  | .nop .. => ⟨_, rfl, h.eitherIsl .nopBody (.pure _)⟩
  | .alu .. => ⟨_, rfl, h.eitherIsl .aluBody .ialu⟩
  | .alui .. => ⟨_, rfl, h.eitherIsl .aluiBody .ialui⟩
  | .li .. => ⟨_, rfl, h.eitherIsl .liBody .ili⟩
  | .ld .. => ⟨_, rfl, h.eitherIsl .ldBody .ild⟩
  | .st .. => ⟨_, rfl, h.eitherIsl .stBody .ist⟩
  | .cmp .. => ⟨_, rfl, h.eitherIsl .cmpBody .icmp⟩
  | .cmpi .. => ⟨_, rfl, h.eitherIsl .cmpiBody .icmpi⟩
  | .plog .. => ⟨_, rfl, h.eitherIsl .plogBody .iplog⟩
  | .br .. => ⟨_, rfl, h.eitherIsl .brBody .ibr⟩
  | .call .. => ⟨_, rfl, h.eitherIsl .callBody .icall⟩
  | .jr .. => ⟨_, rfl, h.eitherIsl .jrBody .ijr⟩
  | .jrl .. => ⟨_, rfl, h.eitherIsl .jrlBody .ijrl⟩
  | .mfsCsw .. => ⟨_, rfl, h.eitherIsl .mfsCswBody .imfsCsw⟩
  | .mfsLfc .. => ⟨_, rfl, h.either .mfsLfcBody⟩
  | .mfsDevtime .. => ⟨_, rfl, h.eitherIsl .mfsDevtimeBody .imfsDevtime⟩
  | .mfsIaddr .. => ⟨_, rfl, h.eitherIsl .mfsIaddrBody .imfsIaddr⟩
  | .mfsPlace .. => ⟨_, rfl, h.either .mfsPlaceBody⟩
  | .endContext .. => ⟨_, rfl, h.eitherIsl .endBody .iend⟩
  | .movCopy .. => ⟨_, rfl, h.either .copyBody⟩
  | .movFill .. => ⟨_, rfl, h.either .fillBody⟩
  | .reshard .. => ⟨_, rfl, h.either .collBody⟩
  | .broadcast .. => ⟨_, rfl, h.either .collBody⟩
  | .allgather .. => ⟨_, rfl, h.either .collBody⟩
  | .reduceAdd .. => ⟨_, rfl, h.either .collBody⟩
  | .collectiveComplete .. => ⟨_, rfl, h.collComplete⟩
  | .atomSet64 .. => ⟨_, rfl, h.either .atomBody⟩
  | .atomClr64 .. => ⟨_, rfl, h.either .atomBody⟩
  | .atomSet32 .. => ⟨_, rfl, h.either .atomBody⟩
  | .atomClr32 .. => ⟨_, rfl, h.either .atomBody⟩
  | .tdld .. => ⟨_, rfl, h.either .tdldBody⟩
  | .tdst .. => ⟨_, rfl, h.either .tdstBody⟩
  | .tdbase .. => ⟨_, rfl, h.either .tdbaseBody⟩
  | .mm .. => ⟨_, rfl, h.either .prodWrite⟩
  | .mma .. => ⟨_, rfl, h.either .prodAcc⟩
  | .mmSp .. => ⟨_, rfl, h.either .prodWrite⟩
  | .mmaSp .. => ⟨_, rfl, h.either .prodAcc⟩
  | .conv2d .. => ⟨_, rfl, h.either .prodWrite⟩
  | .conv2dAcc .. => ⟨_, rfl, h.either .prodAcc⟩
  | .dwconv .. => ⟨_, rfl, h.either .prodWrite⟩
  | .conv2dSp .. => ⟨_, rfl, h.either .prodWrite⟩
  | .accst .. => ⟨_, rfl, h.either .accstBody⟩
  | .accld .. => ⟨_, rfl, h.either .accldBody⟩
  | .reduceSum .. => ⟨_, rfl, h.either .reduceBody⟩
  | .reduceMax .. => ⟨_, rfl, h.either .reduceBody⟩
  | .reduceMin .. => ⟨_, rfl, h.either .reduceBody⟩
  | .reduceArgmax .. => ⟨_, rfl, h.either .reduceBody⟩
  | .softmax .. => ⟨_, rfl, h.either .softmaxBody⟩
  | .logsoftmax .. => ⟨_, rfl, h.either .softmaxBody⟩
  | .gather .. => ⟨_, rfl, h.either .gatherBody⟩
  | .scatter .. => ⟨_, rfl, h.either .scatterBody⟩
  | .scatterAdd .. => ⟨_, rfl, h.either .scatterBody⟩
  | .reshapeTranspose .. => ⟨_, rfl, h.either .transposeBody⟩
  | .reshapeConvert .. => ⟨_, rfl, h.either .convertBody⟩
  | .layernorm .. => ⟨_, rfl, h.either .normBody⟩
  | .rmsnorm .. => ⟨_, rfl, h.either .normBody⟩
  | .ewAdd .. => ⟨_, rfl, h.either .ewBody⟩
  | .ewMul .. => ⟨_, rfl, h.either .ewBody⟩
  | .ewMax .. => ⟨_, rfl, h.either .ewBody⟩
  | .ewAct .. => ⟨_, rfl, h.either .ewBody⟩
  | .vld .. => ⟨_, rfl, h.either .vldBody⟩
  | .vst .. => ⟨_, rfl, h.either .vstBody⟩
  | .vldBc .. => ⟨_, rfl, h.either .vldBcBody⟩
  | .varithAdd .. => ⟨_, rfl, h.either .varithBody⟩
  | .varithSub .. => ⟨_, rfl, h.either .varithBody⟩
  | .varithMul .. => ⟨_, rfl, h.either .varithBody⟩
  | .varithFma .. => ⟨_, rfl, h.either .varithBody⟩
  | .varithMin .. => ⟨_, rfl, h.either .varithBody⟩
  | .varithMax .. => ⟨_, rfl, h.either .varithBody⟩
  | .varithAbs .. => ⟨_, rfl, h.either .vabsBody⟩
  | .varithNeg .. => ⟨_, rfl, h.either .vnegBody⟩
  | .vactRelu .. => ⟨_, rfl, h.either .vactBody⟩
  | .vactGelu .. => ⟨_, rfl, h.either .vactBody⟩
  | .vactSilu .. => ⟨_, rfl, h.either .vactBody⟩
  | .vactSigmoid .. => ⟨_, rfl, h.either .vactBody⟩
  | .vactTanh .. => ⟨_, rfl, h.either .vactBody⟩
  | .vactExp .. => ⟨_, rfl, h.either .vactBody⟩
  | .vactRecip .. => ⟨_, rfl, h.either .vactBody⟩
  | .vactRsqrt .. => ⟨_, rfl, h.either .vactBody⟩
  | .vcmpEq .. => ⟨_, rfl, h.either .vcmpBody⟩
  | .vcmpLt .. => ⟨_, rfl, h.either .vcmpBody⟩
  | .vcmpLe .. => ⟨_, rfl, h.either .vcmpBody⟩
  | .vsel .. => ⟨_, rfl, h.either .vselBody⟩
  | .vcvtF32I32 .. => ⟨_, rfl, h.either .vcvtFIBody⟩
  | .vcvtI32F32 .. => ⟨_, rfl, h.either .vcvtIFBody⟩
  | .vredSum .. => ⟨_, rfl, h.either .vredBody⟩
  | .vredMax .. => ⟨_, rfl, h.either .vredBody⟩
  | .vredMin .. => ⟨_, rfl, h.either .vredBody⟩
  | .vbcast .. => ⟨_, rfl, h.either .vbcastBody⟩
  | .attn .. => ⟨_, rfl, h.either .attnBody⟩
  | .attnRing .. => ⟨_, rfl, h.either .attnBody⟩
  | .attnSparse .. => ⟨_, rfl, h.either .attnBody⟩
  | .kvapp .. => ⟨_, rfl, h.either .kvappBody⟩
  | .kvpageAlloc .. => ⟨_, rfl, h.either .kvAllocBody⟩
  | .kvpageRef .. => ⟨_, rfl, h.either .kvRefBody⟩
  | .kvpageUnref .. => ⟨_, rfl, h.either .kvRefBody⟩
  | .kvpageCow .. => ⟨_, rfl, h.either .kvCowBody⟩
  | .gtestSphObb .. => ⟨_, rfl, h.either .gtestBody⟩
  | .gtestSphAabb .. => ⟨_, rfl, h.either .gtestBody⟩
  | .gtestSphSph .. => ⟨_, rfl, h.either .gtestBody⟩
  | .gtestSphTri .. => ⟨_, rfl, h.either .gtestBody⟩
  | .gtravAny .. => ⟨_, rfl, h.either .gtravBody⟩
  | .gtravCount .. => ⟨_, rfl, h.either .gtravBody⟩
  | .gtravNearest .. => ⟨_, rfl, h.either .gtravBody⟩
  | .gsweepEdge .. => ⟨_, rfl, h.either .gsweepBody⟩
  | .gsweepArtic .. => ⟨_, rfl, h.either .gsweepBody⟩
  | .gsweepReval .. => ⟨_, rfl, h.either .gsweepBody⟩
  | .gbuildBuild .. => ⟨_, rfl, h.either .gbuildBody⟩
  | .gbuildRefit .. => ⟨_, rfl, h.either .grefitBody⟩
  | .gbuildDyn .. => ⟨_, rfl, h.either .gdynBody⟩
  | .suqInsert .. => ⟨_, rfl, h.either .suqInsertBody⟩
  | .suqExtract .. => ⟨_, rfl, h.either .suqTakeBody⟩
  | .suqPeek .. => ⟨_, rfl, h.either .suqTakeBody⟩
  | .suqCount .. => ⟨_, rfl, h.either .suqCountBody⟩
  | .suqClear .. => ⟨_, rfl, h.either .suqClearBody⟩
  | .sunodeNew .. => ⟨_, rfl, h.either .sunodeNewBody⟩
  | .sunodeRd .. => ⟨_, rfl, h.either .sunodeRdBody⟩
  | .sunodeWr .. => ⟨_, rfl, h.either .sunodeWrBody⟩
  | .sunodeNearest .. => ⟨_, rfl, h.either .sunodeNearestBody⟩
  | .supathSmooth .. => ⟨_, rfl, h.either .smoothBody⟩
  | .supathTscale .. => ⟨_, rfl, h.either .tscaleBody⟩
  | .suplanCommit .. => ⟨_, rfl, h.either .suplanBody⟩
  | .suplanStopArm .. => ⟨_, rfl, h.either .suplanBody⟩
  | .suplanStopNoPath .. => ⟨_, rfl, h.either .suplanBody⟩
  | .planAckReceive .. => ⟨_, rfl, h.planAck⟩
  | .planAckTimeout .. => ⟨_, rfl, h.at.planAckTimeout⟩
  | .susync .. => ⟨_, rfl, h.either .susyncBody⟩
  | .planningDeadline .. => ⟨_, rfl, h.at.planningDeadline⟩
  | .frameScheduleDelivery .. => ⟨_, rfl, h.scheduleDelivery⟩
  | .suOwnerWrite .. => ⟨_, rfl, h.suOwnerWrite⟩
  | .suQcfgWrite .. => ⟨_, rfl, h.suQcfgWrite⟩
  | .chkb .. => ⟨_, rfl, h.eitherIsl .chkbBody .ichkb⟩
  | .chke .. => ⟨_, rfl, h.eitherIsl .chkeBody .ichke⟩
  | .blockCommit .. => ⟨_, rfl, h.blockCommit⟩
  | .arbiterPassStart .. => ⟨_, rfl, h.arbStart⟩
  | .arbiterPassEnd .. => ⟨_, rfl, h.arbEnd⟩
  | .heartbeatDue .. => ⟨_, rfl, h.at.hbDue⟩
  | .heartbeatRun .. => ⟨_, rfl, h.hbRun⟩
  | .heartbeatEnd .. => ⟨_, rfl, h.hbEnd⟩
  | .evtSet .. => ⟨_, rfl, h.eitherIsl .evtSetBody .ievtSet⟩
  | .evtClr .. => ⟨_, rfl, h.eitherIsl .evtSetBody .ievtSet⟩
  | .evtWait .. => ⟨_, rfl, h.eitherIsl .evtWaitBody .ievtWait⟩
  | .evtPost .. => ⟨_, rfl, h.eitherIsl .evtPostBody .ievtPost⟩
  | .evtWake .. => ⟨_, rfl, h.evtWake⟩
  | .barArrive .. => ⟨_, rfl, h.either .barArriveBody⟩
  | .barWait .. => ⟨_, rfl, h.either .barWaitBody⟩
  | .barWaitResume .. => ⟨_, rfl, h.barResume⟩
  | .fence .. => ⟨_, rfl, h.eitherIsl .fenceBody (.pure _)⟩
  | .waitt .. => ⟨_, rfl, h.eitherIsl .waittBody .iwaitt⟩
  | .waittResume .. => ⟨_, rfl, h.timeFor⟩
  | .landWait .. => ⟨_, rfl, h.either .landWaitBody⟩
  | .landSignal .. => ⟨_, rfl, h.either .landSignalBody⟩
  | .hallEvtsWrite .. => ⟨_, rfl, h.hallEvtWrite⟩
  | .hallEvtcWrite .. => ⟨_, rfl, h.hallEvtWrite⟩
  | .sceneStage .. => ⟨_, rfl, h.sceneWrite⟩
  | .sceneWithdraw .. => ⟨_, rfl, h.sceneWrite⟩
  | .sceneRetired .. => ⟨_, rfl, h.sceneRetired⟩
  | .stbKvptWrite .. => ⟨_, rfl, h.kvptWrite⟩
  | .correctedWordWriteback .. => ⟨_, rfl, h.writeBack⟩
  | .patrolScrub .. => ⟨_, rfl, h.patrolScrub⟩
  | .partitionCreate .. => ⟨_, rfl, h.partCreate⟩
  | .partitionRestart .. => ⟨_, rfl, h.partRestart⟩
  | .partitionStop .. => ⟨_, rfl, h.partStopAll⟩
  | .partitionReset .. => ⟨_, rfl, h.partReset⟩
  | .sectionReloadDone .. => ⟨_, rfl, h.reloadDone⟩
  | .contextSaveDone .. => ⟨_, rfl, h.saveDone⟩
  | .contextRestoreDone .. => ⟨_, rfl, h.restoreDone⟩
  | .budgetExceeded .. => ⟨_, rfl, h.budgetExceeded⟩
  | .sparePrepare .. => ⟨_, rfl, h.sparePrepare⟩
  | .sparePreparationEnd .. => ⟨_, rfl, h.spareDone⟩
  | .accountingUpdate .. => ⟨_, rfl, h.accountingUpdate⟩
  | .baseDieRequest .. => ⟨_, rfl, h.reqArrives⟩
  | .queueService .. => ⟨_, rfl, h.queueService⟩
  | .requestCompletion .. => ⟨_, rfl, h.reqComplete⟩
  | .requestIssue .. => ⟨_, rfl, h.requestIssue⟩
  | .levelMessageSend .. => ⟨_, rfl, h.levelSend⟩
  | .levelMessageReceive .. => ⟨_, rfl, h.levelReceive⟩
  | .regFbLost .. => ⟨_, rfl, h.fbLost⟩
  | .regFbRestored .. => ⟨_, rfl, h.fbRestored⟩
  | .tdmSlot .. => ⟨_, rfl, h.tdmSlot⟩
  | .ch16WindowEnd .. => ⟨_, rfl, h.windowEnd⟩
  | .controlSample .. => ⟨_, rfl, h.at.leSettle.controlSample⟩
  | .compareMessageReceive .. => ⟨_, rfl, h.compareReceive⟩
  | .comparePoint .. => ⟨_, rfl, h.at.comparePoint⟩
  | .planDoorbell .. => ⟨_, rfl, h.planDoorbell⟩
  | .acceptanceMessageReceive .. => ⟨_, rfl, h.acceptReceive⟩
  | .frameOutcome .. => ⟨_, rfl, h.at.frameOutcome⟩
  | .dtholdEnter .. => ⟨_, rfl, h.at.dtholdEnter⟩
  | .dtholdClear .. => ⟨_, rfl, h.at.dtholdClear⟩
  | .devtimeDistribution .. => ⟨_, rfl, h.devtimeTo⟩
  | .siResume .. => ⟨_, rfl, h.siResume⟩
  | .stopreqSet .. => ⟨_, rfl, h.regWrite⟩
  | .watchdogKey .. => ⟨_, rfl, h.watchdogKey⟩
  | .watchdogExpiry .. => ⟨_, rfl, h.at.watchdogExpiry⟩
  | .clockMonitorTrap .. => ⟨_, rfl, h.clockTrap⟩
  | .islandRecordCopy .. => ⟨_, rfl, h.ringCopy⟩
  | .channelSample .. => ⟨_, rfl, h.at.leSettle.channelSample⟩
  | .leStart .. => ⟨_, rfl, h.leCmd⟩
  | .leStop .. => ⟨_, rfl, h.leCmd⟩
  | .leHold .. => ⟨_, rfl, h.leCmd⟩
  | .leRelease .. => ⟨_, rfl, h.leCmd⟩
  | .coefficientWrite .. => ⟨_, rfl, h.regWrite⟩
  | .leCtlDisable .. => ⟨_, rfl, h.leSettle.leReset⟩
  | .cfgLockClaim .. => ⟨_, rfl, h.cfgClaim⟩
  | .cfgLockRelease .. => ⟨_, rfl, h.cfgRelease⟩
  | .wsRegisterWrite .. => ⟨_, rfl, h.wsRow⟩
  | .cfgDiscard .. => ⟨_, rfl, h.cfgDiscard⟩
  | .cfgCheck .. => ⟨_, rfl, h.cfgCheck⟩
  | .cfgCheckDone .. => ⟨_, rfl, h.cfgCheckDone⟩
  | .cfgApplyTick .. => ⟨_, rfl, h.cfgTick⟩
  | .cfgApplyLanding .. => ⟨_, rfl, h.cfgLanding⟩
  | .cfgApplyCancel .. => ⟨_, rfl, h.cfgCancel⟩
  | .cfgPrepareAck .. => ⟨_, rfl, h.prepareAck⟩
  | .cfgReevaluation .. => ⟨_, rfl, h.at.cfgAgain⟩
  | .cfgCommitSend .. => ⟨_, rfl, h.at.cfgCommit⟩
  | .cfgTickApply .. => ⟨_, rfl, h.at.cfgTickApply⟩
  | .prepareDiscard .. => ⟨_, rfl, h.prepareDrop⟩
  | .nresetAssert .. => ⟨_, rfl, h.nreset⟩
  | .nresetRelease .. => ⟨_, rfl, h.nresetRelease⟩
  | .islandResetAssert .. => ⟨_, rfl, h.islReset⟩
  | .islandResetRelease .. => ⟨_, rfl, h.islRelease⟩
  | .islandTimeFirst .. => ⟨_, rfl, h.islTimeFirst⟩
  | .firmwareVerifyDone .. => ⟨_, rfl, h.firmware⟩
  | .linkTrainingDone .. => ⟨_, rfl, h.linkTraining⟩
  | .stairRowTestDone .. => ⟨_, rfl, h.stairRow⟩
  | .stairDone .. => ⟨_, rfl, h.stairDone⟩
  | .memoryTrainingDone .. => ⟨_, rfl, h.memoryTraining⟩
  | .comparatorInjectionDone .. => ⟨_, rfl, h.injection⟩
  | .marginPlanDone .. => ⟨_, rfl, h.marginPlan⟩
  | .bootImageVerifyDone .. => ⟨_, rfl, h.bootImage⟩
  | .fensanStart .. => ⟨_, rfl, h.fensanStart⟩
  | .frameZeroSchedule .. => ⟨_, rfl, h.frameZero⟩
  | .restartNotice .. => ⟨_, rfl, h.restartNotice⟩
  | .stateMessageSend .. => ⟨_, rfl, h.stateSend⟩
  | .stateMessageReceive .. => ⟨_, rfl, h.stateReceive⟩
  | .dcuFailover .. => ⟨_, rfl, h.failoverRow⟩
  | .standbyFail .. => ⟨_, rfl, h.standbyFail⟩
  | .keyRevoke .. => ⟨_, rfl, h.keyRevoke⟩
  | .budgetPeriod .. => ⟨_, rfl, h.budgetPeriod⟩
  | .hallDemand .. => ⟨_, rfl, h.hallDemand⟩
  | .budgetMessage .. => ⟨_, rfl, h.budgetMessage⟩
  | .pwrBudgetLost .. => ⟨_, rfl, h.budgetLost⟩
  | .zoneSettled .. => ⟨_, rfl, h.zoneSettled⟩
  | .energyCheck .. => ⟨_, rfl, h.energyCheck⟩
  | .coefficientRefit .. => ⟨_, rfl, h.refit⟩
  | .temperatureSample .. => ⟨_, rfl, h.heatSample⟩
  | .sensorSuspect .. => ⟨_, rfl, h.sensorSuspect⟩
  | .thmSensor .. => ⟨_, rfl, h.pairFlag⟩
  | .flowEstimate .. => ⟨_, rfl, h.flowEstimate⟩
  | .coolingDegraded .. => ⟨_, rfl, h.coolDegraded⟩
  | .coolingRestored .. => ⟨_, rfl, h.coolRestored⟩
  | .coolantResume .. => ⟨_, rfl, h.coolResume⟩
  | .ageingMeasurement .. => ⟨_, rfl, h.ageingDue⟩
  | .marginPlanWriteDone .. => ⟨_, rfl, h.marginWriteDone⟩
  | .efficiencyRun .. => ⟨_, rfl, h.effRun⟩
  | .efficiencyRunEnd .. => ⟨_, rfl, h.effDone⟩
  | .errorRecordIntake .. => ⟨_, rfl, h.errIntake⟩
  | .errorPeriodRelease .. => ⟨_, rfl, h.errPeriod⟩
  | .packageLoad .. => ⟨_, rfl, h.pkgLoad⟩
  | .packageRemove .. => ⟨_, rfl, h.pkgRemove⟩
  | .packageCheckDone .. => ⟨_, rfl, h.pkgChecked⟩
  | .selftestSlotStart .. => ⟨_, rfl, h.slotStart⟩
  | .selftestSlotEnd .. => ⟨_, rfl, h.slotEnd⟩
  | .linkAck .. => ⟨_, rfl, h.linkAck⟩
  | .idleFlit .. => ⟨_, rfl, h.idleFlit⟩
  | .packetReceive .. => ⟨_, rfl, h.packetIn⟩
  | .nakReceive .. => ⟨_, rfl, h.nakIn⟩
  | .portFence .. => ⟨_, rfl, h.portFence⟩
  | .laneFailing .. => ⟨_, rfl, h.laneFailing⟩
  | .retrainDone .. => ⟨_, rfl, h.retrainDone⟩
  | .hallProbeResult .. => ⟨_, rfl, h.hallProbe⟩
  | .routeTableSwitch .. => ⟨_, rfl, h.routeSwitch⟩
  | .bar2Read .. => ⟨_, rfl, h.bar2Read⟩
  | .bar2Write .. => ⟨_, rfl, h.bar2Write⟩
  | .registerWindowAccess .. => ⟨_, rfl, h.windowAccess⟩
  | .functionLevelReset .. => ⟨_, rfl, h.flr⟩
  | .pcieLinkDown .. => ⟨_, rfl, h.linkDown⟩
  | .sqTailWrite .. => ⟨_, rfl, h.sqTail⟩
  | .commandFetch .. => ⟨_, rfl, h.commandFetch⟩
  | .hostNop .. => ⟨_, rfl, h.hostNop⟩
  | .copyH2d .. => ⟨_, rfl, h.copyH2D⟩
  | .copyD2h .. => ⟨_, rfl, h.copyD2H⟩
  | .hostFill .. => ⟨_, rfl, h.hostFill⟩
  | .regWr .. => ⟨_, rfl, h.hostRegWr⟩
  | .regRd .. => ⟨_, rfl, h.hostRegRd⟩
  | .hostEvtSet .. => ⟨_, rfl, h.hostEvtSet⟩
  | .cmdDone .. => ⟨_, rfl, h.cmdDone⟩
  | .eventRecordWrite .. => ⟨_, rfl, h.evqWrite⟩
  | .evqCidxWrite .. => ⟨_, rfl, h.regWrite⟩
  | .evqTimer .. => ⟨_, rfl, h.evqTimer⟩
  | .evqEnable .. => ⟨_, rfl, h.regWrite⟩
  | .csi2PacketReceive .. => ⟨_, rfl, h.csiPacket⟩
  | .ethernetFrameReceive .. => ⟨_, rfl, h.ethFrame⟩
  | .canFrameReceive .. => ⟨_, rfl, h.canFrame⟩
  | .gnssUartReceive .. => ⟨_, rfl, h.gnss⟩
  | .sentMessageReceive .. => ⟨_, rfl, h.sent⟩
  | .ingestCidxPoll .. => ⟨_, rfl, h.ingestPoll⟩
  | .ingestChannelEnable .. => ⟨_, rfl, h.ingestEnable⟩
  | .canPeriodicTx .. => ⟨_, rfl, h.settleFor.canPeriodic⟩
  | .canTxdataWrite .. => ⟨_, rfl, h.settleFor.canTxWrite⟩
  | .ppsEdge .. => ⟨_, rfl, h.ppsEdge⟩
  | .ptpMessage .. => ⟨_, rfl, h.ptp⟩
  | .timeLost .. => ⟨_, rfl, h.timeLost⟩
  | .flashRead .. => ⟨_, rfl, h.flashCmd⟩
  | .flashErase .. => ⟨_, rfl, h.flashCmd⟩
  | .flashProgram .. => ⟨_, rfl, h.flashCmd⟩
  | .flashCommandDone .. => ⟨_, rfl, h.flashDone⟩
  | .smbusRead .. => ⟨_, rfl, h.smbusRead⟩
  | .pmbusPoll .. => ⟨_, rfl, h.pmbusPoll⟩
  | .pmbusLost .. => ⟨_, rfl, h.pmbusLost⟩
  | .hallZoneUndervoltage .. => ⟨_, rfl, h.zoneLow⟩
  | .hallZoneCollapse .. => ⟨_, rfl, h.zoneCollapse⟩
  | .memoryRailFault .. => ⟨_, rfl, h.memRailFault⟩
  | .ioRailFault .. => ⟨_, rfl, h.ioRailFault⟩
  | .islandRailFault .. => ⟨_, rfl, h.islRailFault⟩
  | .encoderPulse .. => ⟨_, rfl, h.encoderPulse⟩
  | .adcConversionDone .. => ⟨_, rfl, h.adcDone⟩
  | .pcieLinkUp .. => ⟨_, rfl, h.linkUp⟩
  | .standbyFirmwareVerifyDone .. => ⟨_, rfl, h.standbyVerify⟩
  | .supplyRecovery .. => ⟨_, rfl, h.supplyBack⟩
  | .ethernetLinkChange .. => ⟨_, rfl, h.ethLink⟩

/-- Settles O36: idling only moves the time on, and what any command does to the stores is to write or to clear bytes of them. -/
theorem memoryCanonical : Obligations.MemoryCanonical := by
  unfold Obligations.MemoryCanonical
  intro s t h hst
  unfold step at hst
  split at hst
  · cases hst
    exact Chip.Canon.at h
  · next i rest _ =>
    obtain ⟨c, hexec, hc⟩ := exec_canon (s := { s with pending := rest }) h i
    rw [hexec] at hst
    cases hst
    exact hc

end Sys2Proof.Machine
